-- ==== Sys2Proof/Word.lean ====
section
/-! DEFINITION. The word types of the K8 (R2, R24) and the plain records that travel between its parts. -/

namespace Sys2Proof

/-- A byte of memory (R3). -/
abbrev Byte := BitVec 8
/-- A 32-bit lane or word. -/
abbrev Word := BitVec 32
/-- A token's 256-bit payload (R24). -/
abbrev Payload := BitVec 256

/-- The two kinds of marker tokens (R25). -/
inductive Marker where
  | drain
  | preempt
deriving DecidableEq, Repr, Inhabited

/-- The KIND field of a token (R24): 0 data, 1 scale, 2 control, 3 marker. -/
inductive TokKind where
  | data
  | scale
  | control
  | marker (m : Marker)
deriving DecidableEq, Repr, Inhabited

/-- A token (R24). The parity bit is never visible to a program; a parity failure is an argument
of the event that meets it (R27). -/
structure Token where
  tag : BitVec 3
  kind : TokKind
  last : Bool
  poison : Bool
  coord : BitVec 16
  payload : Payload
deriving DecidableEq, Repr, Inhabited

/-- An exact sum record XS (R44): FIX and the three contribution counts. -/
structure XS where
  fix : BitVec 320
  pinf : BitVec 16
  ninf : BitVec 16
  nnan : BitVec 16
deriving DecidableEq, Repr, Inhabited

/-- The cleared XS record (R44). -/
def XS.clear : XS := ⟨0, 0, 0, 0⟩

/-- The kinds of element (R14). -/
inductive ElemKind where
  | C | M | L | S | X | E
deriving DecidableEq, Repr, Inhabited

end Sys2Proof
end

