-- ==== Sys2Proof/Syntax.lean ====
section
/-! DEFINITION. The instructions of the K8 as data: one constructor per row of the opcode table. The
first 202 constructors are the opcodes of R100 to R107 with the fields of their action form (R89);
the other 63 are the machine's own events, with the arguments that say which element, access or
outside input the event concerns. -/

namespace Sys2Proof

/-- A source operand code (R90). -/
inductive Src where
  | reg (n : Fin 8)
  | head (n : Fin 4)
  | const
  | zero
deriving DecidableEq, Repr, Inhabited

/-- A destination operand code (R90). -/
inductive Dst where
  | reg (n : Fin 8)
  | out (n : Fin 4)
  | discard
deriving DecidableEq, Repr, Inhabited

/-- The R form of an action word (R89). -/
structure RForm where
  dst : Dst
  sa : Src
  sb : Src
  pop : BitVec 4
  pw : BitVec 4
  md : BitVec 4
deriving DecidableEq, Repr, Inhabited

/-- The I form (R89). -/
structure IForm where
  dst : Dst
  sa : Src
  imm : BitVec 8
  pop : BitVec 4
  pw : BitVec 4
deriving DecidableEq, Repr, Inhabited

/-- The P form (R89); bits [3:0] are zero. -/
structure PForm where
  set : BitVec 8
  clr : BitVec 8
  pop : BitVec 4
deriving DecidableEq, Repr, Inhabited

/-- The X form (R89). -/
structure XForm where
  dst : Dst
  sa : Src
  sb : Src
  pop : BitVec 4
  cnt : BitVec 8
deriving DecidableEq, Repr, Inhabited

/-- The shapes of the integer families (R101, R174). -/
inductive Shape where
  | w | h | b | s
deriving DecidableEq, Repr, Inhabited

/-- The A widths of MROW and MROWS (R104, R224). -/
inductive AWidth where
  | a2 | a4 | a8 | a16
deriving DecidableEq, Repr, Inhabited

/-- The load engines of one element (R214). -/
inductive EngKind where
  | weights | scales | table | wiring
deriving DecidableEq, Repr, Inhabited

/-- Who takes the next token of a stream input: the element's incomplete firing (R213), or the link
send engine with this number (R291). -/
inductive Taker where
  | firing
  | send (id : Nat)
deriving DecidableEq, Repr, Inhabited

/-- A token of a link packet (R293). -/
structure RxTok where
  payload : Payload
  tag : BitVec 3
  coord : BitVec 16
deriving DecidableEq, Repr, Inhabited

/-- What the outside home of a delivered access or packet answers (R291, R295). `done` carries the
32-byte payloads read there, with their poison. -/
inductive RemoteRes where
  | done (read : List (Payload × Bool))
  | fail (code : Nat)
deriving DecidableEq, Repr, Inhabited

/-- A child's or the parent's contribution to a reduction round (R423 to R425). -/
inductive Contrib where
  | toks (l : List Payload)
  | recs (l : List (List XS))
deriving DecidableEq, Repr, Inhabited

/-- A Lunuold packet from another package (R291 to R293, R423), and a switch's word that a round is void there (R426).
`flow` numbers the flow among those of its source (R419); `bad` names the words of a GET's data that fail their ECC
check (R26). -/
inductive Packet where
  | put (src flow ctx va : Nat) (data : List Payload) (signal : Option (Bool × Nat))
  | get (src flow ctx va count : Nat) (bad : List Nat)
  | send (src flow region elem queue : Nat) (toks : List RxTok)
  | contrib (group port : Nat) (c : Contrib)
  | result (group : Nat) (data : List Payload)
  | voided (group : Nat)
deriving DecidableEq, Repr, Inhabited

/-- A request of a line-granular MOESI agent for one line (R303, R308, R309, R311, R312); `bad` names the words that fail
their ECC check when the line is read (R26). -/
inductive LineReq where
  | share
  | exclusive
  | store (off : Nat) (bytes : List Byte)
  | read (off n : Nat) (bad : List Nat)
  | writeback
  | dropClean
deriving DecidableEq, Repr, Inhabited

/-- A host access to one of the regions of R413: device memory (R414), whose `bad` names the words that fail their ECC
check (R26), BAR0, and configuration space. -/
inductive HostAcc where
  | memRead (pa n : Nat) (bad : List Nat)
  | memWrite (pa : Nat) (bytes : List Byte)
  | cache (line : Nat) (req : LineReq)
  | barRead (off n : Nat)
  | barWrite (off : Nat) (bytes : List Byte)
  | cfgRead (off n : Nat)
  | cfgWrite (off : Nat) (bytes : List Byte)
deriving DecidableEq, Repr, Inhabited

/-- What the device operating system gives a context when it creates it (R282, R369, R384, R396). -/
structure ContextCfg where
  ctx : Nat
  counters : List Nat
  barriers : List Nat
  hostGroups : List Nat
  linkGroups : List Nat
  maxPrio : Nat
  root : Nat
  spillFrames : Nat
  ringBase : Nat
  ringSlots : Nat
deriving DecidableEq, Repr, Inhabited

/-- An entry of a home slice's frame table (R322). `swept` says that Badger has visited the frame, and `leaf`
is the address of the page-table entry that maps it, from the table's own write or from the last translation (R405). -/
structure FrameEnt where
  owner : Option Nat
  ro : Bool
  derived : Bool
  accessed : Bool
  swept : Bool
  leaf : Option Nat
deriving DecidableEq, Repr, Inhabited

/-- An entry of the host range table (R416). -/
structure HostRange where
  base : Nat
  limit : Nat
  ctx : Nat
  ro : Bool
deriving DecidableEq, Repr, Inhabited

/-- A reduction group record (R421). -/
structure GroupRec where
  fmt : Word
  exact : Bool
  op : Nat
  length : Nat
  vlane : Nat
  children : BitVec 24
  parent : Option Nat
  localMember : Bool
  linkGroup : Nat
  endpoint : Nat
  ctx : Nat
deriving DecidableEq, Repr, Inhabited

/-- The launch record (R369), with its fields taken out of its 64 bytes. -/
structure LaunchRec where
  imageVa : BitVec 64
  ctl : Byte
  level7 : Byte
  signal : BitVec 16
  hostGroup : BitVec 16
  linkGroup : BitVec 16
  seed : BitVec 64
  tensor0 : Word
  tensor1 : Word
  waits : List (BitVec 64)
deriving DecidableEq, Repr, Inhabited

/-- An entry of the time-triggered table (R373). -/
structure TimeEnt where
  ctx : Nat
  record : LaunchRec
  period : Nat
  offset : Nat
  rule : Nat
deriving DecidableEq, Repr, Inhabited

/-- The mapper's decisions for one placement (R78, R83, R118, R250, R282; DEDUCED, log 100): for each parking channel the S
element that holds it and the tokens its storage takes; the same for each input of a cut edge, by element and input; for
each reorder buffer, by X element and number, the S element that holds it; the sites of the S elements, which order windows
(R309), and of the X elements, counted within the rectangle, cluster by cluster; and the X element it reports when reorder
space is lacking (R250). -/
structure Placement where
  chans : List (Nat × Nat × Nat)
  cuts : List (Nat × Fin 4 × Nat × Nat)
  reord : List (Nat × Nat × Nat)
  sites : List (Nat × Nat)
  lacking : Option Nat
deriving DecidableEq, Repr, Inhabited

/-- What service can undo of the actions of R432. -/
inductive Service where
  | timings
  | cluster (n : Nat)
deriving DecidableEq, Repr, Inhabited

/-- A write by the device operating system to one of the tables and records that only it writes, the load of a page-walk
graph into a walker region (R16), and what service undoes (R432). `leaf` is the address of the page-table entry that maps
a frame. -/
inductive ConfigWrite where
  | createContext (c : ContextCfg)
  | destroyContext (ctx : Nat)
  | frame (frame : Nat) (owner : Option Nat) (ro derived : Bool) (leaf : Option Nat)
  | hostRange (idx : Nat) (r : Option HostRange)
  | groupRecord (group : Nat) (r : Option (List Byte))
  | bucket (die ctx rate burst : Nat) (borrower : Bool)
  | timeEntry (idx : Nat) (e : Option (Nat × List Byte))
  | ageLimit (die ns : Nat)
  | externalWaitLimit (ns : Nat)
  | badgerWatermark (n : Nat)
  | exportSize (gib : Nat)
  | walkerGraph (die image : Nat) (pl : Placement)
  | service (x : Service)
deriving DecidableEq, Repr, Inhabited

/-- A step of stage 2 that failed: its number, whether it is marked optional, and the action of R432
that can absorb it, with the cluster that action names (R432, R433). -/
structure BootFail where
  step : Nat
  isOptional : Bool
  action : Option Nat
  cluster : Nat
deriving DecidableEq, Repr, Inhabited

/-- Where in a step of a boot stage a reset or a loss of power falls (R431): before it, in the write of its intent entry, in the
step, or in the write of its outcome entry. -/
inductive CutAt where
  | clean
  | inIntent (step : Nat)
  | inStep (step : Nat)
  | inOutcome (step : Nat)
deriving DecidableEq, Repr, Inhabited

/-- How the journalled steps of a boot stage end (R431 to R433): all pass, one fails, or a reset or a loss of power cuts the
stage short. -/
inductive StageEnd where
  | done
  | failed (f : BootFail)
  | cut (x : CutAt)
deriving DecidableEq, Repr, Inhabited

/-- What a boot stage does (R430, R431, R438): the journalled steps that pass, in order, the graph-independent firmware parts
that stage 3 loads, and the voltage margins that stage 2 plans. -/
structure StageRun where
  steps : List Nat
  parts : List (List Byte)
  margins : List (Nat × Nat)
deriving DecidableEq, Repr, Inhabited

/-- The voltage margin planned for a cluster (R438). -/
structure MarginPlan where
  cluster : Nat
  margin : Nat
deriving DecidableEq, Repr, Inhabited

/-- An access that reads its words, and those of them that fail their check code (R26, R441). -/
structure WordRead where
  id : Nat
  bad : List Nat
deriving DecidableEq, Repr, Inhabited

/-- Where a held update is applied (R314, R337): the line, the group, and the words that fail their check code. -/
structure HeldAt where
  line : Nat
  ctx : Nat
  group : Nat
  bad : List Nat
deriving DecidableEq, Repr, Inhabited

/-- A package of a link group (R417). -/
structure LinkDest where
  linkGroup : Nat
  pkg : Nat
deriving DecidableEq, Repr, Inhabited

/-- The outcome of the ageing monitor of one cluster (R438). -/
inductive Slack where
  | ok | slow | failed
deriving DecidableEq, Repr, Inhabited

/-- The instructions: one constructor per row of the opcode table. -/
inductive Instr where
  | nop (f : PForm)
  | mov (f : RForm)
  | movk (f : IForm)
  | movi (f : IForm)
  | sel (f : RForm)
  | pset (f : PForm)
  | pget (f : RForm)
  | pput (f : IForm)
  | fwd (f : RForm)
  | emitc (f : RForm)
  | retag (f : IForm)
  | sendl (f : RForm)
  | crdget (f : RForm)
  | crdset (f : RForm)
  | cnti (f : IForm)
  | bcast (f : XForm)
  | shuf (f : RForm)
  | pack (f : RForm)
  | unpkl (f : RForm)
  | unpkh (f : RForm)
  | halt (f : PForm)
  | trap (f : IForm)
  | done (f : IForm)
  | drain (f : PForm)
  | join (f : XForm)
  | joinf (f : XForm)
  | time (f : RForm)
  | stat (f : RForm)
  | perf (f : XForm)
  | addx (f : RForm)
  | ltok (f : RForm)
  | mulx (f : RForm)
  | add (sh : Shape) (f : RForm)
  | sub (sh : Shape) (f : RForm)
  | mul (sh : Shape) (f : RForm)
  | mulh (sh : Shape) (f : RForm)
  | and (sh : Shape) (f : RForm)
  | or (sh : Shape) (f : RForm)
  | xor (sh : Shape) (f : RForm)
  | shl (sh : Shape) (f : RForm)
  | shr (sh : Shape) (f : RForm)
  | sra (sh : Shape) (f : RForm)
  | min (sh : Shape) (f : RForm)
  | max (sh : Shape) (f : RForm)
  | ceq (sh : Shape) (f : RForm)
  | clt (sh : Shape) (f : RForm)
  | cltu (sh : Shape) (f : RForm)
  | addi (sh : Shape) (f : IForm)
  | faddF32 (f : RForm)
  | faddF16 (f : RForm)
  | faddBF16 (f : RForm)
  | fsubF32 (f : RForm)
  | fsubF16 (f : RForm)
  | fsubBF16 (f : RForm)
  | fmulF32 (f : RForm)
  | fmulF16 (f : RForm)
  | fmulBF16 (f : RForm)
  | ffmaF32 (f : RForm)
  | ffmaF16 (f : RForm)
  | ffmaBF16 (f : RForm)
  | fminF32 (f : RForm)
  | fminF16 (f : RForm)
  | fminBF16 (f : RForm)
  | fmaxF32 (f : RForm)
  | fmaxF16 (f : RForm)
  | fmaxBF16 (f : RForm)
  | fceqF32 (f : RForm)
  | fceqF16 (f : RForm)
  | fceqBF16 (f : RForm)
  | fcltF32 (f : RForm)
  | fcltF16 (f : RForm)
  | fcltBF16 (f : RForm)
  | fcleF32 (f : RForm)
  | fcleF16 (f : RForm)
  | fcleBF16 (f : RForm)
  | fabsF32 (f : RForm)
  | fabsF16 (f : RForm)
  | fabsBF16 (f : RForm)
  | fnegF32 (f : RForm)
  | fnegF16 (f : RForm)
  | fnegBF16 (f : RForm)
  | fcvtF32 (f : RForm)
  | fcvtF16 (f : RForm)
  | fcvtBF16 (f : RForm)
  | ftoiF32 (f : RForm)
  | ftoiF16 (f : RForm)
  | ftoiBF16 (f : RForm)
  | itofF32 (f : RForm)
  | itofF16 (f : RForm)
  | itofBF16 (f : RForm)
  | fnarrowF32 (f : XForm)
  | fnarrowF16 (f : XForm)
  | fnarrowBF16 (f : XForm)
  | fwidenF32 (f : RForm)
  | fwidenF16 (f : RForm)
  | fwidenBF16 (f : RForm)
  | exp2 (f : RForm)
  | log2 (f : RForm)
  | rcp (f : RForm)
  | sqrt (f : RForm)
  | rsqrt (f : RForm)
  | exp (f : RForm)
  | tanh (f : RForm)
  | sigm (f : RForm)
  | gelu (f : RForm)
  | rand (f : RForm)
  | xclr (f : IForm)
  | xadd (f : XForm)
  | xsq (f : XForm)
  | xrd (f : XForm)
  | xvar (f : XForm)
  | smax (f : RForm)
  | mldb (f : XForm)
  | mlds (f : XForm)
  | mswap (f : PForm)
  | mzero (f : IForm)
  | mrow (q : AWidth) (f : XForm)
  | mrows (q : AWidth) (f : XForm)
  | mchain (f : XForm)
  | mout (f : XForm)
  | moutq (f : XForm)
  | mgrp (f : XForm)
  | maccr (f : XForm)
  | maccw (f : XForm)
  | msplit (f : IForm)
  | mbias (f : XForm)
  | mstat (f : RForm)
  | swcfg (f : RForm)
  | swpush (f : RForm)
  | swemit (f : XForm)
  | swflush (f : PForm)
  | isect (f : IForm)
  | icnt (f : RForm)
  | cmpr (f : RForm)
  | expnd (f : RForm)
  | wsplit (f : XForm)
  | wjoin (f : XForm)
  | argmx (f : RForm)
  | xpose (f : XForm)
  | xthr (f : RForm)
  | ltab (f : XForm)
  | lwire (f : XForm)
  | leval (f : XForm)
  | lemit (f : XForm)
  | lpop (f : XForm)
  | lunx (f : XForm)
  | lctx (f : IForm)
  | lin (f : XForm)
  | steer (f : RForm)
  | slots (f : RForm)
  | reord (f : XForm)
  | rels (f : XForm)
  | merge (f : RForm)
  | seqno (f : IForm)
  | ld (f : XForm)
  | st (f : XForm)
  | ldw (f : XForm)
  | stw (f : XForm)
  | wmap (f : XForm)
  | wsync (f : XForm)
  | winv (f : XForm)
  | wclose (f : XForm)
  | aadd (f : XForm)
  | amax (f : XForm)
  | amin (f : XForm)
  | axchg (f : XForm)
  | acas (f : XForm)
  | aor (f : XForm)
  | aand (f : XForm)
  | adet (f : RForm)
  | aclose (f : XForm)
  | drv (f : RForm)
  | drvx (f : RForm)
  | drvq (f : RForm)
  | agen (f : RForm)
  | agstr (f : XForm)
  | park (f : XForm)
  | unpark (f : XForm)
  | xlat (f : RForm)
  | xinv (f : RForm)
  | fence (f : IForm)
  | cwait (f : RForm)
  | csig (f : RForm)
  | bara (f : RForm)
  | barw (f : RForm)
  | bari (f : RForm)
  | put (f : XForm)
  | puts (f : XForm)
  | get (f : XForm)
  | red (f : XForm)
  | redr (f : XForm)
  | lsend (f : XForm)
  | lrecv (f : XForm)
  | lq (f : RForm)
  | lnch (f : RForm)
  | sysc (f : IForm)
  | flth (f : RForm)
  | preq (f : PForm)
  | ckpt (f : PForm)
  | tbkt (f : RForm)
  | walk (f : RForm)
  | walkl (f : RForm)
  | tokenArrive (r e : Nat) (i : Fin 4) (parityBad : Bool)
  | pairStep (r e : Nat)
  | streamTokenTake (r e : Nat) (t : Taker)
  | loadEngineToken (r e : Nat) (k : EngKind)
  | furtherTokenPush (r e : Nat)
  | incompleteFiringResume (r e : Nat)
  | streamEnginePush (r e : Nat) (stream : Nat)
  | send (r e k : Nat)
  | perform (k : Nat) (bad : List Nat)
  | egress (k : Nat)
  | deliver (k : Nat) (res : RemoteRes)
  | push (r e : Nat) (which : Option Nat)
  | memoryReply (k : Nat)
  | fill (x : WordRead)
  | apply (x : HeldAt)
  | updateReplay (k : Nat)
  | joinfRelease (r e : Nat)
  | fenceComplete (r e : Nat)
  | counterRaise (k : Nat)
  | barrierArrival (k : Nat)
  | scanEnd (decl row : Nat) (bad : List Nat)
  | declarationAccept (r e : Nat)
  | declarationWithdraw (decl row : Nat)
  | putsSignal (k : Nat)
  | switchReduce (group : Nat)
  | destinationUnreachable (dest : LinkDest)
  | drainMarkerPass (r e : Nat)
  | owlQuiescence (r : Nat)
  | externalWaitExpiry (r : Nat)
  | signalCounterAdvance (l : Nat)
  | launchWindowWrite (ctx off : Nat) (bytes : List Byte)
  | timeTriggerStart (idx : Nat)
  | launchWaitMet (l : Nat)
  | admission (die : Nat) (pl : Placement)
  | agePromotion (l : Nat)
  | regionArm (r : Nat)
  | resumeFromRetention (r : Nat)
  | gateRegion (r : Nat)
  | regionRelease (r : Nat)
  | preemptionStart (r : Nat)
  | elementSave (r e : Nat)
  | freeze (r : Nat)
  | freezeScan (r : Nat)
  | scanOut (r : Nat)
  | faultService (r : Nat) (decline : Bool)
  | flthReply (r e id : Nat) (decline : Bool)
  | restore (l die : Nat) (pl : Placement)
  | shootdown (ctx va : Nat)
  | badgerVisit (frame : Nat)
  | bucketRefill (die : Nat)
  | configRegisterWrite (w : ConfigWrite)
  | reset
  | bootStage (fin : StageEnd) (run : StageRun)
  | mailboxUpdate (power coolant hottest : Nat)
  | attestationRequest (nonce : List Byte)
  | marginReplan (plan : MarginPlan) (slack : Slack)
  | thermalThreshold (deciC : Nat)
  | supplyFault
  | hostCxlAccess (a : HostAcc)
  | controlCoreAccess (core line : Nat) (req : LineReq)
  | invalidationAcknowledge (agent line : Nat)
  | linkPacketArrival (p : Packet)
  | deviceClockDiscipline (ns : Nat)
deriving DecidableEq, Repr, Inhabited

/-- What one element or one agent does in a cycle. -/
inductive Act where
  | fire (r e : Nat)
  | event (i : Instr)
deriving DecidableEq, Repr, Inhabited

/-- What the machine takes up next: a firing of one element (R64), an event of the table, what several elements do in one
cycle (R399), time passing in cycles of 1 ns (R7, R13), an uncorrectable error that a dirty eviction reveals in the given
words, or one in the given words of an S element's SRAM (R411). The choice is the outside world's and the ordering
machine's (R326). -/
inductive Choice where
  | fire (r e : Nat)
  | event (i : Instr)
  | cycle (l : List Act)
  | tick (n : Nat)
  | evictError (words : List Nat)
  | sramError (r e : Nat) (words : List Nat)
deriving DecidableEq, Repr, Inhabited

end Sys2Proof
end

