-- ==== Sys2Proof/Config.lean ====
section
/-! DEFINITION. What the manual leaves to the implementation or to the outside world, as constants with no
body: nothing in Lean can evaluate one or prove a value of it. Each is named in the assumption log. -/

namespace Sys2Proof.Config

/-- Which step the machine takes next when no choice stands in the agenda (R326: it may take any step
that is enabled and is never required to take a particular one). -/
opaque choice : Nat → Choice

/-- Which of several parts that may come next in any order comes next (R335). (DESIGN CHOICE, log 114.) -/
opaque pick : Nat → Nat

/-- A 64-bit value the manual leaves open, fresh for every count: the squash counter that PERF index 2
reads (R66, R171). -/
opaque freeWord64 : Nat → BitVec 64

/-- A 256-bit value the manual leaves open, fresh for every count: the reply of a device operating
system service that the manual does not describe (R296). -/
opaque freePayload : Nat → Payload

/-- A rounded result for an argument at which the model's bounds of an irrational function did not
separate the two nearest codes (R196, R205). -/
opaque undecided : Nat → Nat

/-- SHA-384 (R78, R118, R428, R430), as a number of 384 bits. (DESIGN CHOICE, log 10.) -/
opaque sha384 : List Byte → BitVec 384

/-- Whether an RSA-3072 signature verifies under the key of the given SHA-384 digest (R428). -/
opaque rsaVerify : (key : BitVec 384) → (message signature : List Byte) → Bool

/-- Whether an SLH-DSA signature verifies under the key of the given SHA-384 digest (R428). -/
opaque slhVerify : (key : BitVec 384) → (message signature : List Byte) → Bool

/-- The signature of the RSA identity key of the fused secret (R436). -/
opaque rsaSign : (secret : BitVec 384) → (message : List Byte) → List Byte

/-- The signature of the SLH-DSA identity key of the fused secret (R436). -/
opaque slhSign : (secret : BitVec 384) → (message : List Byte) → List Byte

/-- CRC-32 of a boot journal entry (R431). -/
opaque crc32 : List Byte → Word

/-- The image of the boot ROM, which stage 0 measures (R427, R430). (DESIGN CHOICE, log 101.) -/
opaque bootRom : List Byte

/-- How many entries of the boot journal's ring there are beyond the two of one step (R431). (DESIGN CHOICE, log 101.) -/
opaque journalSpare : Nat

/-- The home slice of a line of an interleaved page, one of 256 on each of 16 cache dies (R8, R302). (DESIGN
CHOICE, log 9.) -/
opaque homeSlice : (line : Nat) → Fin 4096

/-- The home slice of a row of a row-homed page, by the page's base, its pitch and the row's number there (R302, R319).
(DESIGN CHOICE, log 9.) -/
opaque rowHome : (base pitch row : Nat) → Fin 4096

/-- A configuration space register of the PCIe and CXL capability structures (R413). (DESIGN CHOICE, log 102.) -/
opaque cfgByte : (off : Nat) → Byte

end Sys2Proof.Config
end

