-- ==== Sys2Proof/Decode.lean ====
section
/-! DEFINITION. The encoding of action words: the four forms (R89), the operand codes (R90), the opcode
map (R99 to R107) as data, the decoder and the encoder. The loader's further checks of a slot stand in
Machine/Check.lean. -/

namespace Sys2Proof

/-- Why a word is no action word (R91, R96). -/
inductive DecodeErr where
  /-- a DST code that R90 marks rejected -/
  | dstCode
  /-- an SA or SB code that R90 marks rejected -/
  | srcCode
  /-- bits [3:0] of a P form are not zero (R96) -/
  | formPZero
  /-- an operand field that the instruction does not name holds another code than 12 or 13 (R91) -/
  | unnamedOperand
deriving DecidableEq, Repr, Inhabited

/-- How an instruction uses its DST field (R145, R182, R219, R263). -/
inductive DstUse where
  | any | none | output | outNil
deriving DecidableEq, Repr, Inhabited

/-- How an instruction uses an SA or SB field. -/
inductive SrcUse where
  | any | none | head | constOnly | steerB | optHead
deriving DecidableEq, Repr, Inhabited

/-- The meaning of the MOD, IMM, CNT, SET and CLR fields (R97, R98 and the opcode tables). -/
inductive Fld where
  | nopPreds | preds
  | k | rnd | isat | sgn | pidx | oidx | shp | sel (max : Nat)
  | simm | uimm | kidx | tag | ctx | lvl | rowx | bit | seqc | xclr
  | row | mem | memSt | atom | lnk | lnkRed | lnkRedr | cvt | cvt4 | win | winMap | bshp | acc
  | cnt (lo hi : Nat) | piece | idx | joinf | split | zero
deriving DecidableEq, Repr, Inhabited

/-- The kinds in whose slots an opcode is legal (R100 to R108). -/
inductive KindSet where
  | all
  | only (ks : List ElemKind)
  | walker
deriving DecidableEq, Repr, Inhabited

/-- One row of the opcode map with the operand columns of the instruction chapters. `sStream` and
`bStream` say that SA, or SB, is a stream input (R213, R264). -/
structure OpInfo where
  opc : Nat
  kinds : KindSet
  dst : DstUse
  sa : SrcUse
  sb : SrcUse
  fld : Fld
  sStream : Bool := false
  bStream : Bool := false
deriving DecidableEq, Repr, Inhabited

/-- The action form of an instruction with its fields; events have none. -/
inductive Form where
  | R (f : RForm)
  | I (f : IForm)
  | P (f : PForm)
  | X (f : XForm)
  | event
deriving DecidableEq, Repr, Inhabited

/-- The shape number of R101. -/
def Shape.num : Shape → Nat
  | .w => 0 | .h => 1 | .b => 2 | .s => 3

/-- The variant number of MROW and MROWS (R104). -/
def AWidth.num : AWidth → Nat
  | .a2 => 0 | .a4 => 1 | .a8 => 2 | .a16 => 3

/-- Kinds of an integer family (R101): every kind for .s, C only for the other shapes. -/
def intKinds : Shape → KindSet
  | .s => .all
  | _ => .only [.C]


/-- The opcode map (R100 to R107). -/
def Instr.info : Instr → OpInfo
  | .nop _ => .mk 0x00 .all .none .none .none .nopPreds false false
  | .mov _ => .mk 0x01 .all .any .any .none .k false false
  | .movk _ => .mk 0x02 .all .any .constOnly .none .kidx false false
  | .movi _ => .mk 0x03 .all .any .none .none .simm false false
  | .sel _ => .mk 0x04 .all .any .any .any .pidx false false
  | .pset _ => .mk 0x05 .all .none .none .none .preds false false
  | .pget _ => .mk 0x06 .all .any .none .none .k false false
  | .pput _ => .mk 0x07 .all .none .any .none .uimm false false
  | .fwd _ => .mk 0x08 .all .any .any .none .k false false
  | .emitc _ => .mk 0x09 .all .any .any .any .k false false
  | .retag _ => .mk 0x0A .all .any .any .none .tag false false
  | .sendl _ => .mk 0x0B .all .any .any .none .k false false
  | .crdget _ => .mk 0x0C .all .any .none .none .oidx false false
  | .crdset _ => .mk 0x0D .all .none .any .none .oidx false false
  | .cnti _ => .mk 0x0E .all .any .any .none .uimm false false
  | .bcast _ => .mk 0x0F .all .any .any .none .bshp false false
  | .shuf _ => .mk 0x10 .all .any .any .any .k false false
  | .pack _ => .mk 0x11 .all .any .any .any .shp false false
  | .unpkl _ => .mk 0x12 .all .any .any .none .shp false false
  | .unpkh _ => .mk 0x13 .all .any .any .none .shp false false
  | .halt _ => .mk 0x14 .all .none .none .none .preds false false
  | .trap _ => .mk 0x15 .all .none .none .none .uimm false false
  | .done _ => .mk 0x16 .all .none .none .none .uimm false false
  | .drain _ => .mk 0x17 .all .none .none .none .preds false false
  | .join _ => .mk 0x18 .all .any .none .none (.cnt 1 255) false false
  | .joinf _ => .mk 0x19 .all .any .none .none .joinf false false
  | .time _ => .mk 0x1A .all .any .none .none .k false false
  | .stat _ => .mk 0x1B .all .any .none .none (.sel 2) false false
  | .perf _ => .mk 0x1C .all .any .none .none .idx false false
  | .addx _ => .mk 0x1D .all .any .any .any .k false false
  | .ltok _ => .mk 0x1E .all .any .any .none .k false false
  | .mulx _ => .mk 0x1F .all .any .any .any .k false false
  | .add sh _ => .mk (0x20 + sh.num) (intKinds sh) .any .any .any .isat false false
  | .sub sh _ => .mk (0x24 + sh.num) (intKinds sh) .any .any .any .isat false false
  | .mul sh _ => .mk (0x28 + sh.num) (.only [.C]) .any .any .any .isat false false
  | .mulh sh _ => .mk (0x2C + sh.num) (.only [.C]) .any .any .any .sgn false false
  | .and sh _ => .mk (0x30 + sh.num) (intKinds sh) .any .any .any .k false false
  | .or sh _ => .mk (0x34 + sh.num) (intKinds sh) .any .any .any .k false false
  | .xor sh _ => .mk (0x38 + sh.num) (intKinds sh) .any .any .any .k false false
  | .shl sh _ => .mk (0x3C + sh.num) (intKinds sh) .any .any .any .k false false
  | .shr sh _ => .mk (0x40 + sh.num) (intKinds sh) .any .any .any .k false false
  | .sra sh _ => .mk (0x44 + sh.num) (intKinds sh) .any .any .any .k false false
  | .min sh _ => .mk (0x48 + sh.num) (intKinds sh) .any .any .any .sgn false false
  | .max sh _ => .mk (0x4C + sh.num) (intKinds sh) .any .any .any .sgn false false
  | .ceq sh _ => .mk (0x50 + sh.num) (intKinds sh) .any .any .any .k false false
  | .clt sh _ => .mk (0x54 + sh.num) (intKinds sh) .any .any .any .k false false
  | .cltu sh _ => .mk (0x58 + sh.num) (intKinds sh) .any .any .any .k false false
  | .addi sh _ => .mk (0x5C + sh.num) (intKinds sh) .any .any .none .simm false false
  | .faddF32 _ => .mk 0x60 (.only [.C]) .any .any .any .rnd false false
  | .faddF16 _ => .mk 0x61 (.only [.C]) .any .any .any .rnd false false
  | .faddBF16 _ => .mk 0x62 (.only [.C]) .any .any .any .rnd false false
  | .fsubF32 _ => .mk 0x63 (.only [.C]) .any .any .any .rnd false false
  | .fsubF16 _ => .mk 0x64 (.only [.C]) .any .any .any .rnd false false
  | .fsubBF16 _ => .mk 0x65 (.only [.C]) .any .any .any .rnd false false
  | .fmulF32 _ => .mk 0x66 (.only [.C]) .any .any .any .rnd false false
  | .fmulF16 _ => .mk 0x67 (.only [.C]) .any .any .any .rnd false false
  | .fmulBF16 _ => .mk 0x68 (.only [.C]) .any .any .any .rnd false false
  | .ffmaF32 _ => .mk 0x69 (.only [.C]) .any .any .any .rnd false false
  | .ffmaF16 _ => .mk 0x6A (.only [.C]) .any .any .any .rnd false false
  | .ffmaBF16 _ => .mk 0x6B (.only [.C]) .any .any .any .rnd false false
  | .fminF32 _ => .mk 0x6C (.only [.C]) .any .any .any .k false false
  | .fminF16 _ => .mk 0x6D (.only [.C]) .any .any .any .k false false
  | .fminBF16 _ => .mk 0x6E (.only [.C]) .any .any .any .k false false
  | .fmaxF32 _ => .mk 0x6F (.only [.C]) .any .any .any .k false false
  | .fmaxF16 _ => .mk 0x70 (.only [.C]) .any .any .any .k false false
  | .fmaxBF16 _ => .mk 0x71 (.only [.C]) .any .any .any .k false false
  | .fceqF32 _ => .mk 0x72 (.only [.C]) .any .any .any .k false false
  | .fceqF16 _ => .mk 0x73 (.only [.C]) .any .any .any .k false false
  | .fceqBF16 _ => .mk 0x74 (.only [.C]) .any .any .any .k false false
  | .fcltF32 _ => .mk 0x75 (.only [.C]) .any .any .any .k false false
  | .fcltF16 _ => .mk 0x76 (.only [.C]) .any .any .any .k false false
  | .fcltBF16 _ => .mk 0x77 (.only [.C]) .any .any .any .k false false
  | .fcleF32 _ => .mk 0x78 (.only [.C]) .any .any .any .k false false
  | .fcleF16 _ => .mk 0x79 (.only [.C]) .any .any .any .k false false
  | .fcleBF16 _ => .mk 0x7A (.only [.C]) .any .any .any .k false false
  | .fabsF32 _ => .mk 0x7B (.only [.C]) .any .any .none .k false false
  | .fabsF16 _ => .mk 0x7C (.only [.C]) .any .any .none .k false false
  | .fabsBF16 _ => .mk 0x7D (.only [.C]) .any .any .none .k false false
  | .fnegF32 _ => .mk 0x7E (.only [.C]) .any .any .none .k false false
  | .fnegF16 _ => .mk 0x7F (.only [.C]) .any .any .none .k false false
  | .fnegBF16 _ => .mk 0x80 (.only [.C]) .any .any .none .k false false
  | .fcvtF32 _ => .mk 0x81 (.only [.C]) .any .any .none .rnd false false
  | .fcvtF16 _ => .mk 0x82 (.only [.C]) .any .any .any .rnd false false
  | .fcvtBF16 _ => .mk 0x83 (.only [.C]) .any .any .any .rnd false false
  | .ftoiF32 _ => .mk 0x84 (.only [.C]) .any .any .none .rnd false false
  | .ftoiF16 _ => .mk 0x85 (.only [.C]) .any .any .none .rnd false false
  | .ftoiBF16 _ => .mk 0x86 (.only [.C]) .any .any .none .rnd false false
  | .itofF32 _ => .mk 0x87 (.only [.C]) .any .any .none .rnd false false
  | .itofF16 _ => .mk 0x88 (.only [.C]) .any .any .any .rnd false false
  | .itofBF16 _ => .mk 0x89 (.only [.C]) .any .any .any .rnd false false
  | .fnarrowF32 _ => .mk 0x8A (.only [.C]) .any .any .any .cvt4 false false
  | .fnarrowF16 _ => .mk 0x8B (.only [.C]) .any .any .any .cvt4 false false
  | .fnarrowBF16 _ => .mk 0x8C (.only [.C]) .any .any .any .cvt4 false false
  | .fwidenF32 _ => .mk 0x8D (.only [.C]) .any .any .none .k false false
  | .fwidenF16 _ => .mk 0x8E (.only [.C]) .any .any .none .k false false
  | .fwidenBF16 _ => .mk 0x8F (.only [.C]) .any .any .none .k false false
  | .exp2 _ => .mk 0x90 (.only [.C]) .any .any .none .k false false
  | .log2 _ => .mk 0x91 (.only [.C]) .any .any .none .k false false
  | .rcp _ => .mk 0x92 (.only [.C]) .any .any .none .k false false
  | .sqrt _ => .mk 0x93 (.only [.C]) .any .any .none .k false false
  | .rsqrt _ => .mk 0x94 (.only [.C]) .any .any .none .k false false
  | .exp _ => .mk 0x95 (.only [.C]) .any .any .none .k false false
  | .tanh _ => .mk 0x96 (.only [.C]) .any .any .none .k false false
  | .sigm _ => .mk 0x97 (.only [.C]) .any .any .none .k false false
  | .gelu _ => .mk 0x98 (.only [.C]) .any .any .none .k false false
  | .rand _ => .mk 0x99 (.only [.C]) .any .any .any .k false false
  | .xclr _ => .mk 0x9A (.only [.C]) .none .none .none .xclr false false
  | .xadd _ => .mk 0x9B (.only [.C]) .none .any .none .acc false false
  | .xsq _ => .mk 0x9C (.only [.C]) .none .any .any .acc false false
  | .xrd _ => .mk 0x9D (.only [.C]) .any .none .none .cvt false false
  | .xvar _ => .mk 0x9E (.only [.C]) .any .any .none .cvt4 false false
  | .smax _ => .mk 0x9F (.only [.C]) .any .any .any (.sel 2) false false
  | .mldb _ => .mk 0xA0 (.only [.M]) .none .head .none .split true false
  | .mlds _ => .mk 0xA1 (.only [.M]) .none .head .none .zero true false
  | .mswap _ => .mk 0xA2 (.only [.M]) .none .none .none .preds false false
  | .mzero _ => .mk 0xA3 (.only [.M]) .none .none .none .rowx false false
  | .mrow q _ => .mk (0xA4 + q.num) (.only [.M]) .none .head .none .row true false
  | .mrows q _ => .mk (0xA8 + q.num) (.only [.M]) .none .head .none .row true false
  | .mchain _ => .mk 0xAC (.only [.M]) .none .head .none .row true false
  | .mout _ => .mk 0xAD (.only [.M]) .output .none .none .row false false
  | .moutq _ => .mk 0xAE (.only [.M]) .output .any .none .row false false
  | .mgrp _ => .mk 0xAF (.only [.M]) .output .head .head (.cnt 1 64) true true
  | .maccr _ => .mk 0xB0 (.only [.M]) .any .any .none .row false false
  | .maccw _ => .mk 0xB1 (.only [.M]) .none .any .any .row false false
  | .msplit _ => .mk 0xB2 (.only [.M]) .none .none .none .bit false false
  | .mbias _ => .mk 0xB3 (.only [.M]) .none .head .none .row true false
  | .mstat _ => .mk 0xB4 (.only [.M]) .any .none .none (.sel 1) false false
  | .swcfg _ => .mk 0xB5 (.only [.S]) .none .any .none .k false false
  | .swpush _ => .mk 0xB6 (.only [.S]) .none .any .none .k false false
  | .swemit _ => .mk 0xB7 (.only [.S]) .output .none .none (.cnt 1 255) false false
  | .swflush _ => .mk 0xB8 (.only [.S]) .none .none .none .preds false false
  | .isect _ => .mk 0xB9 (.only [.C, .M]) .none .none .none .bit false false
  | .icnt _ => .mk 0xBA (.only [.C, .M]) .any .none .none (.sel 1) false false
  | .cmpr _ => .mk 0xBB (.only [.C, .X]) .any .any .any .shp false false
  | .expnd _ => .mk 0xBC (.only [.C, .X]) .any .any .any .shp false false
  | .wsplit _ => .mk 0xBD (.only [.S, .E]) .output .any .none .piece false false
  | .wjoin _ => .mk 0xBE (.only [.S, .E]) .any .head .none .piece true false
  | .argmx _ => .mk 0xBF (.only [.C]) .any .any .any .k false false
  | .xpose _ => .mk 0xC0 (.only [.L]) .output .head .none .zero true false
  | .xthr _ => .mk 0xC1 (.only [.L]) .any .any .none .k false false
  | .ltab _ => .mk 0xC2 (.only [.L]) .none .head .none .ctx true false
  | .lwire _ => .mk 0xC3 (.only [.L]) .none .head .none .ctx true false
  | .leval _ => .mk 0xC4 (.only [.L]) .none .none .none .ctx false false
  | .lemit _ => .mk 0xC5 (.only [.L]) .output .any .none (.cnt 1 255) false false
  | .lpop _ => .mk 0xC6 (.only [.L]) .output .any .none .zero false false
  | .lunx _ => .mk 0xC7 (.only [.L]) .output .any .none .zero false false
  | .lctx _ => .mk 0xC8 (.only [.L]) .any .none .none .ctx false false
  | .lin _ => .mk 0xC9 (.only [.L]) .none .head .none .idx true false
  | .steer _ => .mk 0xCA (.only [.X]) .none .head .steerB (.sel 3) false false
  | .slots _ => .mk 0xCB (.only [.X]) .any .none .none .oidx false false
  | .reord _ => .mk 0xCC (.only [.X]) .none .head .none (.cnt 0 7) false false
  | .rels _ => .mk 0xCD (.only [.X]) .output .none .none (.cnt 0 7) false false
  | .merge _ => .mk 0xCE (.only [.X]) .output .none .none .k false false
  | .seqno _ => .mk 0xCF (.only [.X]) .any .any .none .seqc false false
  | .ld _ => .mk 0xD0 (.only [.S, .E]) .output .any .none .mem false false
  | .st _ => .mk 0xD1 (.only [.S, .E]) .none .any .any .memSt false false
  | .ldw _ => .mk 0xD2 (.only [.S]) .output .any .none .mem false false
  | .stw _ => .mk 0xD3 (.only [.S]) .none .any .any .memSt false false
  | .wmap _ => .mk 0xD4 (.only [.S]) .none .any .head .winMap false true
  | .wsync _ => .mk 0xD5 (.only [.S]) .outNil .none .none .win false false
  | .winv _ => .mk 0xD6 (.only [.S]) .outNil .none .none .win false false
  | .wclose _ => .mk 0xD7 (.only [.S]) .outNil .none .none .win false false
  | .aadd _ => .mk 0xD8 (.only [.S, .E]) .outNil .any .any .atom false false
  | .amax _ => .mk 0xD9 (.only [.S, .E]) .outNil .any .any .atom false false
  | .amin _ => .mk 0xDA (.only [.S, .E]) .outNil .any .any .atom false false
  | .axchg _ => .mk 0xDB (.only [.S, .E]) .outNil .any .any .atom false false
  | .acas _ => .mk 0xDC (.only [.S, .E]) .outNil .any .any .atom false false
  | .aor _ => .mk 0xDD (.only [.S, .E]) .outNil .any .any .atom false false
  | .aand _ => .mk 0xDE (.only [.S, .E]) .outNil .any .any .atom false false
  | .adet _ => .mk 0xDF (.only [.S, .E]) .none .any .none .k false false
  | .aclose _ => .mk 0xE0 (.only [.S, .E]) .none .none .none .memSt false false
  | .drv _ => .mk 0xE1 (.only [.S, .E]) .any .any .any .k false false
  | .drvx _ => .mk 0xE2 (.only [.S, .E]) .any .any .none .k false false
  | .drvq _ => .mk 0xE3 (.only [.S, .E]) .any .any .none .k false false
  | .agen _ => .mk 0xE4 (.only [.E]) .none .any .any .k false false
  | .agstr _ => .mk 0xE5 (.only [.E]) .output .optHead .none (.cnt 0 7) false false
  | .park _ => .mk 0xE6 (.only [.S]) .none .any .none .idx false false
  | .unpark _ => .mk 0xE7 (.only [.S]) .output .none .none .idx false false
  | .xlat _ => .mk 0xE8 (.only [.E]) .output .any .none .k false false
  | .xinv _ => .mk 0xE9 (.only [.E]) .none .any .none .k false false
  | .fence _ => .mk 0xEA .all .none .none .none .lvl false false
  | .cwait _ => .mk 0xEB .all .outNil .any .none .k false false
  | .csig _ => .mk 0xEC .all .none .any .none .k false false
  | .bara _ => .mk 0xED .all .outNil .any .none .k false false
  | .barw _ => .mk 0xEE .all .outNil .any .none .k false false
  | .bari _ => .mk 0xEF .all .none .any .none .k false false
  | .put _ => .mk 0xF0 (.only [.E]) .none .any .head .lnk false true
  | .puts _ => .mk 0xF1 (.only [.E]) .none .any .head .lnk false true
  | .get _ => .mk 0xF2 (.only [.E]) .output .any .none .lnk false false
  | .red _ => .mk 0xF3 (.only [.E]) .none .any .head .lnkRed false true
  | .redr _ => .mk 0xF4 (.only [.E]) .output .any .none .lnkRedr false false
  | .lsend _ => .mk 0xF5 (.only [.E]) .none .any .head .lnk false true
  | .lrecv _ => .mk 0xF6 (.only [.E]) .output .any .none .zero false false
  | .lq _ => .mk 0xF7 (.only [.E]) .any .none .none (.sel 1) false false
  | .lnch _ => .mk 0xF8 (.only [.C, .X, .E]) .outNil .any .any .k false false
  | .sysc _ => .mk 0xF9 .all .outNil .any .none .uimm false false
  | .flth _ => .mk 0xFA .all .outNil .head .none .k false false
  | .preq _ => .mk 0xFB .all .none .none .none .preds false false
  | .ckpt _ => .mk 0xFC .all .none .none .none .preds false false
  | .tbkt _ => .mk 0xFD (.only [.S, .E]) .any .none .none .k false false
  | .walk _ => .mk 0xFE .walker .output .any .none .k false false
  | .walkl _ => .mk 0xFF .walker .none .any .none .k false false
  | _ => .mk 0 .walker .none .none .none .zero false false

/-- The form of an instruction. -/
def Instr.form : Instr → Form
  | .nop f => .P f
  | .mov f => .R f
  | .movk f => .I f
  | .movi f => .I f
  | .sel f => .R f
  | .pset f => .P f
  | .pget f => .R f
  | .pput f => .I f
  | .fwd f => .R f
  | .emitc f => .R f
  | .retag f => .I f
  | .sendl f => .R f
  | .crdget f => .R f
  | .crdset f => .R f
  | .cnti f => .I f
  | .bcast f => .X f
  | .shuf f => .R f
  | .pack f => .R f
  | .unpkl f => .R f
  | .unpkh f => .R f
  | .halt f => .P f
  | .trap f => .I f
  | .done f => .I f
  | .drain f => .P f
  | .join f => .X f
  | .joinf f => .X f
  | .time f => .R f
  | .stat f => .R f
  | .perf f => .X f
  | .addx f => .R f
  | .ltok f => .R f
  | .mulx f => .R f
  | .add _ f => .R f
  | .sub _ f => .R f
  | .mul _ f => .R f
  | .mulh _ f => .R f
  | .and _ f => .R f
  | .or _ f => .R f
  | .xor _ f => .R f
  | .shl _ f => .R f
  | .shr _ f => .R f
  | .sra _ f => .R f
  | .min _ f => .R f
  | .max _ f => .R f
  | .ceq _ f => .R f
  | .clt _ f => .R f
  | .cltu _ f => .R f
  | .addi _ f => .I f
  | .faddF32 f => .R f
  | .faddF16 f => .R f
  | .faddBF16 f => .R f
  | .fsubF32 f => .R f
  | .fsubF16 f => .R f
  | .fsubBF16 f => .R f
  | .fmulF32 f => .R f
  | .fmulF16 f => .R f
  | .fmulBF16 f => .R f
  | .ffmaF32 f => .R f
  | .ffmaF16 f => .R f
  | .ffmaBF16 f => .R f
  | .fminF32 f => .R f
  | .fminF16 f => .R f
  | .fminBF16 f => .R f
  | .fmaxF32 f => .R f
  | .fmaxF16 f => .R f
  | .fmaxBF16 f => .R f
  | .fceqF32 f => .R f
  | .fceqF16 f => .R f
  | .fceqBF16 f => .R f
  | .fcltF32 f => .R f
  | .fcltF16 f => .R f
  | .fcltBF16 f => .R f
  | .fcleF32 f => .R f
  | .fcleF16 f => .R f
  | .fcleBF16 f => .R f
  | .fabsF32 f => .R f
  | .fabsF16 f => .R f
  | .fabsBF16 f => .R f
  | .fnegF32 f => .R f
  | .fnegF16 f => .R f
  | .fnegBF16 f => .R f
  | .fcvtF32 f => .R f
  | .fcvtF16 f => .R f
  | .fcvtBF16 f => .R f
  | .ftoiF32 f => .R f
  | .ftoiF16 f => .R f
  | .ftoiBF16 f => .R f
  | .itofF32 f => .R f
  | .itofF16 f => .R f
  | .itofBF16 f => .R f
  | .fnarrowF32 f => .X f
  | .fnarrowF16 f => .X f
  | .fnarrowBF16 f => .X f
  | .fwidenF32 f => .R f
  | .fwidenF16 f => .R f
  | .fwidenBF16 f => .R f
  | .exp2 f => .R f
  | .log2 f => .R f
  | .rcp f => .R f
  | .sqrt f => .R f
  | .rsqrt f => .R f
  | .exp f => .R f
  | .tanh f => .R f
  | .sigm f => .R f
  | .gelu f => .R f
  | .rand f => .R f
  | .xclr f => .I f
  | .xadd f => .X f
  | .xsq f => .X f
  | .xrd f => .X f
  | .xvar f => .X f
  | .smax f => .R f
  | .mldb f => .X f
  | .mlds f => .X f
  | .mswap f => .P f
  | .mzero f => .I f
  | .mrow _ f => .X f
  | .mrows _ f => .X f
  | .mchain f => .X f
  | .mout f => .X f
  | .moutq f => .X f
  | .mgrp f => .X f
  | .maccr f => .X f
  | .maccw f => .X f
  | .msplit f => .I f
  | .mbias f => .X f
  | .mstat f => .R f
  | .swcfg f => .R f
  | .swpush f => .R f
  | .swemit f => .X f
  | .swflush f => .P f
  | .isect f => .I f
  | .icnt f => .R f
  | .cmpr f => .R f
  | .expnd f => .R f
  | .wsplit f => .X f
  | .wjoin f => .X f
  | .argmx f => .R f
  | .xpose f => .X f
  | .xthr f => .R f
  | .ltab f => .X f
  | .lwire f => .X f
  | .leval f => .X f
  | .lemit f => .X f
  | .lpop f => .X f
  | .lunx f => .X f
  | .lctx f => .I f
  | .lin f => .X f
  | .steer f => .R f
  | .slots f => .R f
  | .reord f => .X f
  | .rels f => .X f
  | .merge f => .R f
  | .seqno f => .I f
  | .ld f => .X f
  | .st f => .X f
  | .ldw f => .X f
  | .stw f => .X f
  | .wmap f => .X f
  | .wsync f => .X f
  | .winv f => .X f
  | .wclose f => .X f
  | .aadd f => .X f
  | .amax f => .X f
  | .amin f => .X f
  | .axchg f => .X f
  | .acas f => .X f
  | .aor f => .X f
  | .aand f => .X f
  | .adet f => .R f
  | .aclose f => .X f
  | .drv f => .R f
  | .drvx f => .R f
  | .drvq f => .R f
  | .agen f => .R f
  | .agstr f => .X f
  | .park f => .X f
  | .unpark f => .X f
  | .xlat f => .R f
  | .xinv f => .R f
  | .fence f => .I f
  | .cwait f => .R f
  | .csig f => .R f
  | .bara f => .R f
  | .barw f => .R f
  | .bari f => .R f
  | .put f => .X f
  | .puts f => .X f
  | .get f => .X f
  | .red f => .X f
  | .redr f => .X f
  | .lsend f => .X f
  | .lrecv f => .X f
  | .lq f => .R f
  | .lnch f => .R f
  | .sysc f => .I f
  | .flth f => .R f
  | .preq f => .P f
  | .ckpt f => .P f
  | .tbkt f => .R f
  | .walk f => .R f
  | .walkl f => .R f
  | _ => .event

/-- The 8-bit opcode (R99). -/
def Instr.opcode (i : Instr) : BitVec 8 := BitVec.ofNat 8 i.info.opc

/-- Whether the constructor is an event of the machine and not an opcode. -/
def Instr.isEvent (i : Instr) : Bool :=
  match i.form with
  | .event => true
  | _ => false

/-- A source code (R90). -/
def Src.ofCode (c : BitVec 4) : Except DecodeErr Src :=
  if c.toNat < 8 then .ok (.reg (Fin.ofNat 8 c.toNat))
  else if c.toNat < 12 then .ok (.head (Fin.ofNat 4 (c.toNat - 8)))
  else if c.toNat = 12 then .ok .const
  else if c.toNat = 13 then .ok .zero
  else .error .srcCode

/-- A destination code (R90). -/
def Dst.ofCode (c : BitVec 4) : Except DecodeErr Dst :=
  if c.toNat < 8 then .ok (.reg (Fin.ofNat 8 c.toNat))
  else if c.toNat < 12 then .ok (.out (Fin.ofNat 4 (c.toNat - 8)))
  else if c.toNat = 12 then .ok .discard
  else .error .dstCode

/-- The code of a source (R90). -/
def Src.code : Src → BitVec 4
  | .reg n => BitVec.ofNat 4 n.val
  | .head n => BitVec.ofNat 4 (8 + n.val)
  | .const => 12
  | .zero => 13

/-- The code of a destination (R90). -/
def Dst.code : Dst → BitVec 4
  | .reg n => BitVec.ofNat 4 n.val
  | .out n => BitVec.ofNat 4 (8 + n.val)
  | .discard => 12

/-- The fields of an R-form word (R89). -/
def RForm.ofWord (w : BitVec 32) : Except DecodeErr RForm := do
  let d ← Dst.ofCode (w.extractLsb' 20 4)
  let a ← Src.ofCode (w.extractLsb' 16 4)
  let b ← Src.ofCode (w.extractLsb' 12 4)
  return ⟨d, a, b, w.extractLsb' 8 4, w.extractLsb' 4 4, w.extractLsb' 0 4⟩

/-- The fields of an I-form word (R89). -/
def IForm.ofWord (w : BitVec 32) : Except DecodeErr IForm := do
  let d ← Dst.ofCode (w.extractLsb' 20 4)
  let a ← Src.ofCode (w.extractLsb' 16 4)
  return ⟨d, a, w.extractLsb' 8 8, w.extractLsb' 4 4, w.extractLsb' 0 4⟩

/-- The fields of a P-form word (R89, R96). -/
def PForm.ofWord (w : BitVec 32) : Except DecodeErr PForm :=
  if w.extractLsb' 0 4 = 0 then .ok ⟨w.extractLsb' 16 8, w.extractLsb' 8 8, w.extractLsb' 4 4⟩
  else .error .formPZero

/-- The fields of an X-form word (R89). -/
def XForm.ofWord (w : BitVec 32) : Except DecodeErr XForm := do
  let d ← Dst.ofCode (w.extractLsb' 20 4)
  let a ← Src.ofCode (w.extractLsb' 16 4)
  let b ← Src.ofCode (w.extractLsb' 12 4)
  return ⟨d, a, b, w.extractLsb' 8 4, w.extractLsb' 0 8⟩

/-- What an opcode builds from the fields of its form. -/
inductive Builder where
  | R (b : RForm → Instr)
  | I (b : IForm → Instr)
  | P (b : PForm → Instr)
  | X (b : XForm → Instr)

/-- Opcodes 0x00 to 0x0F, by their low four bits. -/
def builder0 : Nat → Builder
  | 0 => .P .nop
  | 1 => .R .mov
  | 2 => .I .movk
  | 3 => .I .movi
  | 4 => .R .sel
  | 5 => .P .pset
  | 6 => .R .pget
  | 7 => .I .pput
  | 8 => .R .fwd
  | 9 => .R .emitc
  | 10 => .I .retag
  | 11 => .R .sendl
  | 12 => .R .crdget
  | 13 => .R .crdset
  | 14 => .I .cnti
  | _ => .X .bcast

/-- Opcodes 0x10 to 0x1F, by their low four bits. -/
def builder1 : Nat → Builder
  | 0 => .R .shuf
  | 1 => .R .pack
  | 2 => .R .unpkl
  | 3 => .R .unpkh
  | 4 => .P .halt
  | 5 => .I .trap
  | 6 => .I .done
  | 7 => .P .drain
  | 8 => .X .join
  | 9 => .X .joinf
  | 10 => .R .time
  | 11 => .R .stat
  | 12 => .X .perf
  | 13 => .R .addx
  | 14 => .R .ltok
  | _ => .R .mulx

/-- Opcodes 0x20 to 0x2F, by their low four bits. -/
def builder2 : Nat → Builder
  | 0 => .R (.add .w)
  | 1 => .R (.add .h)
  | 2 => .R (.add .b)
  | 3 => .R (.add .s)
  | 4 => .R (.sub .w)
  | 5 => .R (.sub .h)
  | 6 => .R (.sub .b)
  | 7 => .R (.sub .s)
  | 8 => .R (.mul .w)
  | 9 => .R (.mul .h)
  | 10 => .R (.mul .b)
  | 11 => .R (.mul .s)
  | 12 => .R (.mulh .w)
  | 13 => .R (.mulh .h)
  | 14 => .R (.mulh .b)
  | _ => .R (.mulh .s)

/-- Opcodes 0x30 to 0x3F, by their low four bits. -/
def builder3 : Nat → Builder
  | 0 => .R (.and .w)
  | 1 => .R (.and .h)
  | 2 => .R (.and .b)
  | 3 => .R (.and .s)
  | 4 => .R (.or .w)
  | 5 => .R (.or .h)
  | 6 => .R (.or .b)
  | 7 => .R (.or .s)
  | 8 => .R (.xor .w)
  | 9 => .R (.xor .h)
  | 10 => .R (.xor .b)
  | 11 => .R (.xor .s)
  | 12 => .R (.shl .w)
  | 13 => .R (.shl .h)
  | 14 => .R (.shl .b)
  | _ => .R (.shl .s)

/-- Opcodes 0x40 to 0x4F, by their low four bits. -/
def builder4 : Nat → Builder
  | 0 => .R (.shr .w)
  | 1 => .R (.shr .h)
  | 2 => .R (.shr .b)
  | 3 => .R (.shr .s)
  | 4 => .R (.sra .w)
  | 5 => .R (.sra .h)
  | 6 => .R (.sra .b)
  | 7 => .R (.sra .s)
  | 8 => .R (.min .w)
  | 9 => .R (.min .h)
  | 10 => .R (.min .b)
  | 11 => .R (.min .s)
  | 12 => .R (.max .w)
  | 13 => .R (.max .h)
  | 14 => .R (.max .b)
  | _ => .R (.max .s)

/-- Opcodes 0x50 to 0x5F, by their low four bits. -/
def builder5 : Nat → Builder
  | 0 => .R (.ceq .w)
  | 1 => .R (.ceq .h)
  | 2 => .R (.ceq .b)
  | 3 => .R (.ceq .s)
  | 4 => .R (.clt .w)
  | 5 => .R (.clt .h)
  | 6 => .R (.clt .b)
  | 7 => .R (.clt .s)
  | 8 => .R (.cltu .w)
  | 9 => .R (.cltu .h)
  | 10 => .R (.cltu .b)
  | 11 => .R (.cltu .s)
  | 12 => .I (.addi .w)
  | 13 => .I (.addi .h)
  | 14 => .I (.addi .b)
  | _ => .I (.addi .s)

/-- Opcodes 0x60 to 0x6F, by their low four bits. -/
def builder6 : Nat → Builder
  | 0 => .R .faddF32
  | 1 => .R .faddF16
  | 2 => .R .faddBF16
  | 3 => .R .fsubF32
  | 4 => .R .fsubF16
  | 5 => .R .fsubBF16
  | 6 => .R .fmulF32
  | 7 => .R .fmulF16
  | 8 => .R .fmulBF16
  | 9 => .R .ffmaF32
  | 10 => .R .ffmaF16
  | 11 => .R .ffmaBF16
  | 12 => .R .fminF32
  | 13 => .R .fminF16
  | 14 => .R .fminBF16
  | _ => .R .fmaxF32

/-- Opcodes 0x70 to 0x7F, by their low four bits. -/
def builder7 : Nat → Builder
  | 0 => .R .fmaxF16
  | 1 => .R .fmaxBF16
  | 2 => .R .fceqF32
  | 3 => .R .fceqF16
  | 4 => .R .fceqBF16
  | 5 => .R .fcltF32
  | 6 => .R .fcltF16
  | 7 => .R .fcltBF16
  | 8 => .R .fcleF32
  | 9 => .R .fcleF16
  | 10 => .R .fcleBF16
  | 11 => .R .fabsF32
  | 12 => .R .fabsF16
  | 13 => .R .fabsBF16
  | 14 => .R .fnegF32
  | _ => .R .fnegF16

/-- Opcodes 0x80 to 0x8F, by their low four bits. -/
def builder8 : Nat → Builder
  | 0 => .R .fnegBF16
  | 1 => .R .fcvtF32
  | 2 => .R .fcvtF16
  | 3 => .R .fcvtBF16
  | 4 => .R .ftoiF32
  | 5 => .R .ftoiF16
  | 6 => .R .ftoiBF16
  | 7 => .R .itofF32
  | 8 => .R .itofF16
  | 9 => .R .itofBF16
  | 10 => .X .fnarrowF32
  | 11 => .X .fnarrowF16
  | 12 => .X .fnarrowBF16
  | 13 => .R .fwidenF32
  | 14 => .R .fwidenF16
  | _ => .R .fwidenBF16

/-- Opcodes 0x90 to 0x9F, by their low four bits. -/
def builder9 : Nat → Builder
  | 0 => .R .exp2
  | 1 => .R .log2
  | 2 => .R .rcp
  | 3 => .R .sqrt
  | 4 => .R .rsqrt
  | 5 => .R .exp
  | 6 => .R .tanh
  | 7 => .R .sigm
  | 8 => .R .gelu
  | 9 => .R .rand
  | 10 => .I .xclr
  | 11 => .X .xadd
  | 12 => .X .xsq
  | 13 => .X .xrd
  | 14 => .X .xvar
  | _ => .R .smax

/-- Opcodes 0xA0 to 0xAF, by their low four bits. -/
def builderA : Nat → Builder
  | 0 => .X .mldb
  | 1 => .X .mlds
  | 2 => .P .mswap
  | 3 => .I .mzero
  | 4 => .X (.mrow .a2)
  | 5 => .X (.mrow .a4)
  | 6 => .X (.mrow .a8)
  | 7 => .X (.mrow .a16)
  | 8 => .X (.mrows .a2)
  | 9 => .X (.mrows .a4)
  | 10 => .X (.mrows .a8)
  | 11 => .X (.mrows .a16)
  | 12 => .X .mchain
  | 13 => .X .mout
  | 14 => .X .moutq
  | _ => .X .mgrp

/-- Opcodes 0xB0 to 0xBF, by their low four bits. -/
def builderB : Nat → Builder
  | 0 => .X .maccr
  | 1 => .X .maccw
  | 2 => .I .msplit
  | 3 => .X .mbias
  | 4 => .R .mstat
  | 5 => .R .swcfg
  | 6 => .R .swpush
  | 7 => .X .swemit
  | 8 => .P .swflush
  | 9 => .I .isect
  | 10 => .R .icnt
  | 11 => .R .cmpr
  | 12 => .R .expnd
  | 13 => .X .wsplit
  | 14 => .X .wjoin
  | _ => .R .argmx

/-- Opcodes 0xC0 to 0xCF, by their low four bits. -/
def builderC : Nat → Builder
  | 0 => .X .xpose
  | 1 => .R .xthr
  | 2 => .X .ltab
  | 3 => .X .lwire
  | 4 => .X .leval
  | 5 => .X .lemit
  | 6 => .X .lpop
  | 7 => .X .lunx
  | 8 => .I .lctx
  | 9 => .X .lin
  | 10 => .R .steer
  | 11 => .R .slots
  | 12 => .X .reord
  | 13 => .X .rels
  | 14 => .R .merge
  | _ => .I .seqno

/-- Opcodes 0xD0 to 0xDF, by their low four bits. -/
def builderD : Nat → Builder
  | 0 => .X .ld
  | 1 => .X .st
  | 2 => .X .ldw
  | 3 => .X .stw
  | 4 => .X .wmap
  | 5 => .X .wsync
  | 6 => .X .winv
  | 7 => .X .wclose
  | 8 => .X .aadd
  | 9 => .X .amax
  | 10 => .X .amin
  | 11 => .X .axchg
  | 12 => .X .acas
  | 13 => .X .aor
  | 14 => .X .aand
  | _ => .R .adet

/-- Opcodes 0xE0 to 0xEF, by their low four bits. -/
def builderE : Nat → Builder
  | 0 => .X .aclose
  | 1 => .R .drv
  | 2 => .R .drvx
  | 3 => .R .drvq
  | 4 => .R .agen
  | 5 => .X .agstr
  | 6 => .X .park
  | 7 => .X .unpark
  | 8 => .R .xlat
  | 9 => .R .xinv
  | 10 => .I .fence
  | 11 => .R .cwait
  | 12 => .R .csig
  | 13 => .R .bara
  | 14 => .R .barw
  | _ => .R .bari

/-- Opcodes 0xF0 to 0xFF, by their low four bits. -/
def builderF : Nat → Builder
  | 0 => .X .put
  | 1 => .X .puts
  | 2 => .X .get
  | 3 => .X .red
  | 4 => .X .redr
  | 5 => .X .lsend
  | 6 => .X .lrecv
  | 7 => .R .lq
  | 8 => .R .lnch
  | 9 => .I .sysc
  | 10 => .R .flth
  | 11 => .P .preq
  | 12 => .P .ckpt
  | 13 => .R .tbkt
  | 14 => .R .walk
  | _ => .R .walkl

/-- Every opcode value is assigned (R99). -/
def builder (opc : BitVec 8) : Builder :=
  match opc.toNat / 16 with
  | 0 => builder0 (opc.toNat % 16)
  | 1 => builder1 (opc.toNat % 16)
  | 2 => builder2 (opc.toNat % 16)
  | 3 => builder3 (opc.toNat % 16)
  | 4 => builder4 (opc.toNat % 16)
  | 5 => builder5 (opc.toNat % 16)
  | 6 => builder6 (opc.toNat % 16)
  | 7 => builder7 (opc.toNat % 16)
  | 8 => builder8 (opc.toNat % 16)
  | 9 => builder9 (opc.toNat % 16)
  | 10 => builderA (opc.toNat % 16)
  | 11 => builderB (opc.toNat % 16)
  | 12 => builderC (opc.toNat % 16)
  | 13 => builderD (opc.toNat % 16)
  | 14 => builderE (opc.toNat % 16)
  | _ => builderF (opc.toNat % 16)

/-- An operand field that the instruction does not name holds 12 in DST and 13 in SA and SB (R91). -/
def Instr.unnamedOk (i : Instr) : Bool :=
  let u := i.info
  let d (x : Dst) := u.dst != .none || x == .discard
  let a (x : Src) := u.sa != .none || x == .zero
  let b (x : Src) := u.sb != .none || x == .zero
  match i.form with
  | .R f => d f.dst && a f.sa && b f.sb
  | .I f => d f.dst && a f.sa
  | .X f => d f.dst && a f.sa && b f.sb
  | .P _ => true
  | .event => false

/-- The instruction an opcode and the fields of its form give, before the unnamed operand fields are
looked at. -/
def decodeFields (w : BitVec 32) : Except DecodeErr Instr :=
  match builder (w.extractLsb' 24 8) with
  | .R b => (RForm.ofWord w).map b
  | .I b => (IForm.ofWord w).map b
  | .P b => (PForm.ofWord w).map b
  | .X b => (XForm.ofWord w).map b

/-- The decoder of action words: total, and refusing by name. -/
def decode (w : BitVec 32) : Except DecodeErr Instr := do
  let i ← decodeFields w
  if i.unnamedOk then .ok i else .error .unnamedOperand

/-- The word of a form under an opcode (R89); an event has none and gives 0. -/
def Form.word (opc : BitVec 8) : Form → BitVec 32
  | .R f => opc ++ f.dst.code ++ f.sa.code ++ f.sb.code ++ f.pop ++ f.pw ++ f.md
  | .I f => opc ++ f.dst.code ++ f.sa.code ++ f.imm ++ f.pop ++ f.pw
  | .P f => opc ++ f.set ++ f.clr ++ f.pop ++ (0 : BitVec 4)
  | .X f => opc ++ f.dst.code ++ f.sa.code ++ f.sb.code ++ f.pop ++ f.cnt
  | .event => 0

/-- The encoder of action words. -/
def encode (i : Instr) : BitVec 32 := i.form.word i.opcode

/-- Byte `n` of a word stored little-endian (R3, R86). -/
def wordByte (w : BitVec 32) (n : Nat) : Byte := w.extractLsb' (8 * n) 8

/-- The word that four bytes at ascending addresses hold (R3). -/
def wordOfBytes (b0 b1 b2 b3 : Byte) : BitVec 32 := b3 ++ b2 ++ b1 ++ b0

/-- The action word read from its four bytes, the lowest address first (R86). -/
def decodeBytes (b0 b1 b2 b3 : Byte) : Except DecodeErr Instr := decode (wordOfBytes b0 b1 b2 b3)

/-- The instruction the decoder reads from the bits of an action word, numbered as the opcode table
numbers them: laid out as the slot stores it, then decoded. The table's event rows have no bits. -/
def decodeTableWord (nbits w : Nat) : Option Instr :=
  if nbits = 32 then
    let v := BitVec.ofNat 32 w
    (decodeBytes (wordByte v 0) (wordByte v 1) (wordByte v 2) (wordByte v 3)).toOption
  else none

end Sys2Proof
end

