-- ==== Sys2Proof/Machine/Bits.lean ====
section
/-! DEFINITION. Lanes of a payload (R2, R142), bytes and words (R3), and sparse maps held as sorted lists
of key and value in one canonical form: keys strictly rising, and no entry equal to the default. -/

namespace Sys2Proof.Machine

/-- LANE(v, w, i): bits [w(i+1)-1 : wi] of a payload (R2, R142). -/
def lane (v : Payload) (w i : Nat) : BitVec w := v.extractLsb' (w * i) w

/-- The payload whose lane `i` of width `w` is `f i` for `i < n`, every other bit zero. -/
def ofLanes (w : Nat) (f : Nat → BitVec w) : Nat → Payload
  | 0 => 0
  | n + 1 => ofLanes w f n ||| ((f n).setWidth 256 <<< (w * n))

/-- Every one of the `256 / w` lanes of a payload given by a function. -/
def allLanes (w : Nat) (f : Nat → BitVec w) : Payload := ofLanes w f (256 / w)

/-- The 32-bit lane `i` (LANE with w = 32). -/
def lane32 (v : Payload) (i : Nat) : Word := lane v 32 i

/-- The payload that holds the listed words in its lanes from lane 0 up. -/
def ofWords (ws : List Word) : Payload := ofLanes 32 (fun i => ws.getD i 0) 8

/-- A 64-bit number taken from 32-bit lanes `i` and `i + 1`, the lower lane the low half. -/
def pair64 (v : Payload) (i : Nat) : Nat := (lane32 v i).toNat + (lane32 v (i + 1)).toNat * 2 ^ 32

/-- The low half of a number as a word. -/
def lo32 (n : Nat) : Word := BitVec.ofNat 32 n
/-- Bits [63:32] of a number as a word. -/
def hi32 (n : Nat) : Word := BitVec.ofNat 32 (n / 2 ^ 32)

/-- Byte `i` of a payload. -/
def byteOf (v : Payload) (i : Nat) : Byte := lane v 8 i

/-- The payload of the listed bytes, the first in bits [7:0], the rest zero (R257). -/
def ofBytes (bs : List Byte) : Payload := ofLanes 8 (fun i => bs.getD i 0) (min bs.length 32)

/-- The first `n` bytes of a payload. -/
def toBytes (v : Payload) (n : Nat) : List Byte := (List.range n).map (byteOf v)

/-- The little-endian bytes of a number, `n` of them (R3). -/
def leBytes (n x : Nat) : List Byte := (List.range n).map fun i => BitVec.ofNat 8 (x / 2 ^ (8 * i))

/-- The number little-endian bytes hold (R3). -/
def ofLe : List Byte → Nat
  | [] => 0
  | b :: r => b.toNat + 256 * ofLe r

/-- CLAMP(x, lo, hi) (R142). -/
def clampInt (x lo hi : Int) : Int := if x < lo then lo else if x > hi then hi else x

/-- An unsigned counter of `w` bits that saturates. -/
def satInc {w : Nat} (c : BitVec w) : BitVec w := if c = BitVec.allOnes w then c else c + 1

/-- Reads key `i` of a sparse map with default `d`. -/
def sget {α : Type} (d : α) : List (Nat × α) → Nat → α
  | [], _ => d
  | (k, v) :: r, i => if k = i then v else if i < k then d else sget d r i

/-- Writes key `i` of a sparse map with default `d`; writing the default removes the entry. -/
def sset {α : Type} [DecidableEq α] (d : α) : List (Nat × α) → Nat → α → List (Nat × α)
  | [], i, v => if v = d then [] else [(i, v)]
  | (k, x) :: r, i, v =>
    if i < k then (if v = d then (k, x) :: r else (i, v) :: (k, x) :: r)
    else if i = k then (if v = d then r else (i, v) :: r)
    else (k, x) :: sset d r i v

/-- The canonical form of a sparse map: keys strictly rising, no entry equal to the default. -/
def swf {α : Type} [DecidableEq α] (d : α) : List (Nat × α) → Bool
  | [] => true
  | [(_, v)] => decide (v ≠ d)
  | (k, v) :: (k', v') :: r => decide (v ≠ d) && decide (k < k') && swf d ((k', v') :: r)

/-- Writes the values from key `i` up. -/
def ssetMany {α : Type} [DecidableEq α] (d : α) (m : List (Nat × α)) (i : Nat) : List α → List (Nat × α)
  | [] => m
  | v :: r => ssetMany d (sset d m i v) (i + 1) r

/-- The values of keys `i` to `i + n - 1`. -/
def sgetMany {α : Type} (d : α) (m : List (Nat × α)) (i n : Nat) : List α :=
  (List.range n).map fun j => sget d m (i + j)

end Sys2Proof.Machine
end

