-- ==== Sys2Proof/Machine/Num.lean ====
section
/-! DEFINITION. Number formats and exact arithmetic (R28 to R54): format records, values as exact
rationals, ROUND, the IEEE operations, exact sums XS, PREALIGN and the counter hash KCH. -/

namespace Sys2Proof.Machine

/-! ### Format records -/

/-- The classes of a format record (R29). -/
inductive FCls where
  | float | sint | uint | slice
deriving DecidableEq, Repr, Inhabited

/-- A decoded format record (R29). -/
structure Fmt where
  cls : FCls
  width : Nat
  e : Nat
  bias : Nat
  policy : Nat
  sub : Bool
  ovf : Nat
deriving DecidableEq, Repr, Inhabited

/-- Mantissa bits of a float format (R30). -/
def Fmt.m (f : Fmt) : Nat := f.width - 1 - f.e

/-- The width code of R29. -/
def fmtWidth (c : Nat) : Option Nat :=
  if c = 0 then some 32 else if c = 1 then some 16 else if c ≤ 8 then some c else none

/-- The exponent bits that the E code stands for at a width (R29). -/
def fmtExp (width c : Nat) : Option Nat :=
  if width ≤ 8 then (if c = 0 then none else some c)
  else if c = 0 then some 8 else if c = 5 then some 5 else none

/-- The restrictions of R30 on a float record. -/
def floatOk (f : Fmt) : Bool :=
  if f.width = 32 then f.e == 8 && f.bias == 127 && f.policy == 0 && f.sub && f.ovf == 1
  else if f.width = 16 then
    ((f.e == 5 && f.bias == 15) || (f.e == 8 && f.bias == 127)) && f.policy == 0 && f.sub && f.ovf == 1
  else decide (1 ≤ f.e) && decide (f.e + 1 ≤ f.width) && decide (f.policy ≤ 2) && decide (f.ovf ≤ 2)
    && (f.policy != 0 || decide (f.m ≥ 1)) && (f.policy != 2 || f.ovf == 0)

/-- Decodes a format record (R29, R30): none for an ill-formed one. The unused record 0 decodes, as a
32-bit float of bias 0, to none as well. -/
def Fmt.ofRecord (r : Word) : Option Fmt :=
  let cls := (r.extractLsb' 29 3).toNat
  let wc := (r.extractLsb' 25 4).toNat
  let ec := (r.extractLsb' 22 3).toNat
  let bias := (r.extractLsb' 14 8).toNat
  let pol := (r.extractLsb' 12 2).toNat
  let sub := r.getLsbD 11
  let ovf := (r.extractLsb' 9 2).toNat
  if r.extractLsb' 0 9 ≠ 0 then none
  else if cls = 0 then do
    let w ← fmtWidth wc
    let e ← fmtExp w ec
    let f : Fmt := ⟨.float, w, e, bias, pol, sub, ovf⟩
    if floatOk f then some f else none
  else if cls = 1 || cls = 2 then do
    let w ← fmtWidth wc
    if ec = 0 && bias = 0 && pol = 0 && !sub && decide (ovf ≤ 1) then
      some ⟨if cls = 1 then .sint else .uint, w, 0, 0, 0, false, ovf⟩
    else none
  else if cls = 3 then
    if wc = 0 && ec = 0 && bias = 0 && pol = 0 && !sub && ovf = 0 then some ⟨.slice, 1, 0, 0, 0, false, 0⟩
    else none
  else none

/-- IEEE binary32, entry 0 of every format table (R28, R32). -/
def fp32 : Fmt := ⟨.float, 32, 8, 127, 0, true, 1⟩
/-- FP16 (R32). -/
def fp16 : Fmt := ⟨.float, 16, 5, 15, 0, true, 1⟩
/-- BF16 (R32). -/
def bf16 : Fmt := ⟨.float, 16, 8, 127, 0, true, 1⟩
/-- INT32 with saturation, entry 1 (R28, R32). -/
def int32 : Fmt := ⟨.sint, 32, 0, 0, 0, false, 0⟩
/-- The records of R32. -/
def recFP32 : Word := 0x001FCA00
def recINT32 : Word := 0x20000000
def recFP16 : Word := 0x0343CA00
def recBF16 : Word := 0x021FCA00
def recSlice : Word := 0x60000000
/-- Signed, width 16 (R217). -/
def recINT16 : Word := 0x22000000

/-- The lane width of a format (R33). -/
def Fmt.lane (f : Fmt) : Nat :=
  if f.width = 3 || f.width = 5 || f.width = 6 || f.width = 7 then 8 else f.width

/-- Lanes per token (R33). -/
def Fmt.lanes (f : Fmt) : Nat := 256 / f.lane

/-! ### Exact values -/

/-- An exact value: NaN, an infinity, or the rational (-1)^neg × n / d with d > 0. Zero keeps its sign. -/
inductive Val where
  | nan
  | inf (neg : Bool)
  | fin (neg : Bool) (n d : Nat)
deriving DecidableEq, Repr, Inhabited

/-- +0. -/
def Val.zero : Val := .fin false 0 1

/-- The exact value z × 2^e, with sign +0 for zero. -/
def Val.ofDyadic (z : Int) (e : Int) : Val :=
  if 0 ≤ e then .fin (decide (z < 0)) (z.natAbs * 2 ^ e.toNat) 1
  else .fin (decide (z < 0)) z.natAbs (2 ^ (-e).toNat)

/-- An integer as a value. -/
def Val.ofInt (z : Int) : Val := .ofDyadic z 0

def Val.isNaN : Val → Bool
  | .nan => true
  | _ => false

def Val.isInf : Val → Bool
  | .inf _ => true
  | _ => false

def Val.neg? : Val → Bool
  | .nan => false
  | .inf s => s
  | .fin s _ _ => s

/-- Finite and not zero. -/
def Val.finNonzero : Val → Bool
  | .fin _ n _ => n != 0
  | _ => false

def Val.isZero : Val → Bool
  | .fin _ n _ => n == 0
  | _ => false

/-- The value with its sign inverted. -/
def Val.negate : Val → Val
  | .nan => .nan
  | .inf s => .inf (!s)
  | .fin s n d => .fin (!s) n d

/-- The value with sign +. -/
def Val.abs : Val → Val
  | .nan => .nan
  | .inf _ => .inf false
  | .fin _ n d => .fin false n d

/-- The signed numerator of a finite value (0 otherwise). -/
def Val.num : Val → Int
  | .fin s n _ => if s then -(n : Int) else n
  | _ => 0

/-- The denominator of a finite value (1 otherwise). -/
def Val.den : Val → Nat
  | .fin _ _ d => d
  | _ => 1

/-- floor(log2(n / d)) for n, d > 0. -/
def ilog2 (n d : Nat) : Int :=
  let k : Int := (Nat.log2 n : Int) - (Nat.log2 d : Int)
  let ge : Bool := if 0 ≤ k then decide (d * 2 ^ k.toNat ≤ n) else decide (d ≤ n * 2 ^ (-k).toNat)
  if ge then k else k - 1

/-- n / d in units of 2^q: the integer part, the remainder and the divisor it is over. -/
def inUnits (n d : Nat) (q : Int) : Nat × Nat × Nat :=
  let nn := if 0 ≤ q then n else n * 2 ^ (-q).toNat
  let dd := if 0 ≤ q then d * 2 ^ q.toNat else d
  (nn / dd, nn % dd, dd)

/-- The rounding modes of R40. Stochastic rounding carries the 32 bits drawn for the value (R41). -/
inductive RMode where
  | rne | rz | rd | ru | ra
  | sr (g : Nat)
deriving DecidableEq, Repr, Inhabited

/-- Whether the magnitude t + r / d rounds up to t + 1 (R40, R41). A tie goes to the even significand; with m = 0 every
significand of the normal range is 1, so such a tie rounds up. (DESIGN CHOICE, log 104.) -/
def roundsUp (mode : RMode) (neg : Bool) (t r d : Nat) : Bool :=
  match mode with
  | .rne => decide (2 * r > d) || (decide (2 * r = d) && t % 2 == 1)
  | .rz => false
  | .rd => neg && r != 0
  | .ru => !neg && r != 0
  | .ra => decide (2 * r ≥ d) && r != 0
  | .sr g => decide (r * 2 ^ 32 + g * d ≥ d * 2 ^ 32)

/-- The magnitude n / d rounded to an integer multiple of 2^q. -/
def roundUnits (mode : RMode) (neg : Bool) (n d : Nat) (q : Int) : Nat :=
  let (t, r, dd) := inUnits n d q
  if roundsUp mode neg t r dd then t + 1 else t

/-- RNE_INT of a signed rational times 2^s (R43). -/
def rneInt (neg : Bool) (n d : Nat) (s : Int) : Int :=
  let t := roundUnits .rne neg n d (-s)
  if neg then -(t : Int) else t

/-! ### Codes of a format -/

/-- The code of the largest finite magnitude (R35). -/
def Fmt.maxCode (f : Fmt) : Nat :=
  match f.policy with
  | 0 => (2 ^ f.e - 1) * 2 ^ f.m - 1
  | 1 => if f.m = 0 then 2 ^ f.e - 2 else 2 ^ (f.e + f.m) - 2
  | _ => 2 ^ (f.e + f.m) - 1

/-- The canonical NaN code (R38); under POLICY 10 the code of +0 stands for NaN (R42). -/
def Fmt.nanCode (f : Fmt) : Nat :=
  match f.policy with
  | 0 => (2 ^ f.e - 1) * 2 ^ f.m + 2 ^ (f.m - 1)
  | 1 => 2 ^ (f.e + f.m) - 1
  | _ => 0

/-- The sign bit of a float code. -/
def Fmt.signBit (f : Fmt) (neg : Bool) : Nat := if neg then 2 ^ (f.width - 1) else 0

/-- The code of an infinity under POLICY 00. -/
def Fmt.infCode (f : Fmt) : Nat := (2 ^ f.e - 1) * 2 ^ f.m

/-- The code of a finite magnitude above the largest finite (R42). -/
def Fmt.overflow (f : Fmt) (mode : RMode) (neg : Bool) : Nat :=
  if f.policy = 2 then f.signBit neg + f.maxCode
  else if f.width ≥ 16 then
    let toInf := match mode with
      | .rz => false
      | .rd => neg
      | .ru => !neg
      | _ => true
    f.signBit neg + (if toInf then f.infCode else f.maxCode)
  else if f.ovf = 0 then f.signBit neg + f.maxCode
  else if f.ovf = 1 && f.policy = 0 then f.signBit neg + f.infCode
  else f.nanCode

/-- The magnitude code of n / d in a float format before overflow and SUB are looked at: rounding at
the target's precision with an unbounded exponent and subnormal spacing (R42). -/
def Fmt.magCode (f : Fmt) (mode : RMode) (neg : Bool) (n d : Nat) : Nat :=
  let emin : Int := 1 - (f.bias : Int)
  let k := max (ilog2 n d) emin
  let t := roundUnits mode neg n d (k - f.m)
  if t < 2 ^ f.m then t else ((k + f.bias - 1).toNat) * 2 ^ f.m + t

/-- Whether a finite nonzero value overflows a float format in a mode (R42, R184). -/
def Fmt.overflows (f : Fmt) (mode : RMode) (v : Val) : Bool :=
  match v with
  | .fin s n d => n != 0 && decide (f.magCode mode s n d > f.maxCode)
  | _ => false

/-- The extremes of an integer format (R36). -/
def Fmt.intMin (f : Fmt) : Int := if f.cls = .sint then -(2 ^ (f.width - 1) : Int) else 0
def Fmt.intMax (f : Fmt) : Int := if f.cls = .sint then (2 ^ (f.width - 1) : Int) - 1 else (2 ^ f.width : Int) - 1

/-- The integer nearest a signed rational in a mode. -/
def roundInt (mode : RMode) (neg : Bool) (n d : Nat) : Int :=
  let t := roundUnits mode neg n d 0
  if neg then -(t : Int) else t

/-- The two's-complement code of an integer at a width. -/
def intCode (width : Nat) (z : Int) : Nat := (z % (2 ^ width : Int)).toNat

/-- ROUND(x, F, mode) as a code of F (R42). A zero keeps the sign it is given: an instruction with no
signed-zero rule gives +0. -/
def roundTo (f : Fmt) (mode : RMode) (v : Val) : Nat :=
  match f.cls with
  | .float =>
    match v with
    | .nan => f.nanCode
    | .inf s =>
      if f.policy = 0 then f.signBit s + f.infCode
      else if f.policy = 2 || f.ovf = 0 then f.signBit s + f.maxCode
      else f.nanCode
    | .fin s n d =>
      if n = 0 then f.signBit s
      else
        let c := f.magCode mode s n d
        if c > f.maxCode then f.overflow mode s
        else if c < 2 ^ f.m && !f.sub then f.signBit s
        else f.signBit s + c
  | _ =>
    match v with
    | .nan => 0
    | .inf s => intCode f.width (if s then f.intMin else f.intMax)
    | .fin s n d =>
      let z := roundInt mode s n d
      if f.ovf = 1 && f.cls != .slice then intCode f.width z
      else intCode f.width (clampInt z f.intMin f.intMax)

/-- ROUND of a value whose exact zero converts to +0 (R42). -/
def roundPlus (f : Fmt) (mode : RMode) (v : Val) : Nat :=
  if v.isZero then roundTo f mode .zero else roundTo f mode v

/-- The value of a code (R34, R36, R38). Bits above the width are ignored (R33). -/
def Fmt.value (f : Fmt) (code : Nat) : Val :=
  let c := code % 2 ^ f.width
  match f.cls with
  | .sint => .ofInt (if c < 2 ^ (f.width - 1) then (c : Int) else (c : Int) - 2 ^ f.width)
  | .uint | .slice => .ofInt c
  | .float =>
    let s := decide (2 ^ (f.width - 1) ≤ c)
    let mag := c % 2 ^ (f.width - 1)
    let fe := mag / 2 ^ f.m
    let fm := mag % 2 ^ f.m
    if f.policy = 0 && fe = 2 ^ f.e - 1 then (if fm = 0 then .inf s else .nan)
    else if f.policy = 1 && mag = 2 ^ (f.e + f.m) - 1 then .nan
    else if fe = 0 then
      if f.sub then
        match Val.ofDyadic fm (1 - (f.bias : Int) - f.m) with
        | .fin _ n d => .fin s n d
        | v => v
      else .fin s 0 1
    else
      match Val.ofDyadic (2 ^ f.m + fm) ((fe : Int) - f.bias - f.m) with
      | .fin _ n d => .fin s n d
      | v => v

/-- The largest finite value's code as a value (R35, R36). -/
def Fmt.largest (f : Fmt) : Val :=
  if f.cls = .float then f.value f.maxCode else .ofInt f.intMax

/-- The values of a payload in a format's packing, lane 0 first (R33). -/
def unpack (f : Fmt) (v : Payload) : List Val :=
  (List.range f.lanes).map fun i => f.value (lane v f.lane i).toNat

/-- The raw codes of a payload in a format's packing. -/
def unpackCodes (f : Fmt) (v : Payload) : List Nat :=
  (List.range f.lanes).map fun i => (lane v f.lane i).toNat % 2 ^ f.width

/-- FP32 lane values. -/
def val32 (w : Word) : Val := fp32.value w.toNat
/-- ROUND into FP32 as a word, zero keeping its sign. -/
def word32 (mode : RMode) (v : Val) : Word := BitVec.ofNat 32 (roundTo fp32 mode v)
/-- RNE_FP32 (R43). -/
def rneFP32 (v : Val) : Word := word32 .rne v

/-! ### Exact operations -/

/-- The exact sum; `zneg` is the sign an exact zero of operands of unlike sign takes (R185). -/
def Val.add (zneg : Bool) : Val → Val → Val
  | .nan, _ => .nan
  | _, .nan => .nan
  | .inf s, .inf t => if s = t then .inf s else .nan
  | .inf s, .fin _ _ _ => .inf s
  | .fin _ _ _, .inf t => .inf t
  | .fin s n d, .fin t m e =>
    let x : Int := (if s then -(n : Int) else n) * e + (if t then -(m : Int) else m) * d
    if x = 0 then .fin (if n = 0 && m = 0 && s = t then s else zneg) 0 1
    else .fin (decide (x < 0)) x.natAbs (d * e)

/-- The exact product. -/
def Val.mul : Val → Val → Val
  | .nan, _ => .nan
  | _, .nan => .nan
  | .inf s, .inf t => .inf (s != t)
  | .inf s, .fin t n _ => if n = 0 then .nan else .inf (s != t)
  | .fin s n _, .inf t => if n = 0 then .nan else .inf (s != t)
  | .fin s n d, .fin t m e => .fin (s != t) (n * m) (d * e)

/-- The exact quotient of finite values with a nonzero divisor; NaN otherwise. -/
def Val.div : Val → Val → Val
  | .fin s n d, .fin t m e => if m = 0 then .nan else .fin (s != t) (n * e) (d * m)
  | _, _ => .nan

/-- The sign of an exact zero sum in a mode (R185). -/
def RMode.zneg : RMode → Bool
  | .rd => true
  | _ => false

/-- a < b on values that are not NaN, ±0 being equal (R189). -/
def Val.lt : Val → Val → Bool
  | .nan, _ => false
  | _, .nan => false
  | .inf s, .inf t => s && !t
  | .inf s, .fin _ _ _ => s
  | .fin _ _ _, .inf t => !t
  | .fin s n d, .fin t m e =>
    decide ((if s then -(n : Int) else n) * e < (if t then -(m : Int) else m) * d)

/-- a = b as IEEE quiet equality (R189). -/
def Val.eq (a b : Val) : Bool :=
  !a.isNaN && !b.isNaN && !a.lt b && !b.lt a

/-- IEEE minimum or maximum: NaN spreads and -0 orders below +0 (R39). -/
def Val.minmax (wantMax : Bool) (a b : Val) : Val :=
  if a.isNaN || b.isNaN then .nan
  else
    let aLess := a.lt b || (a.eq b && a.neg? && !b.neg?)
    if aLess = wantMax then b else a

/-- FADD_RNE on FP32 words (R43). -/
def faddRne (a b : Word) : Word := rneFP32 ((val32 a).add false (val32 b))

/-- SAT32 (R43). -/
def sat32 (z : Int) : Int := clampInt z (-(2 ^ 31)) (2 ^ 31 - 1)

/-! ### Exact sums -/

/-- XS_ADD(acc, x, w) with `withdraw` for w = -1 (R45). -/
def xsAdd (acc : XS) (x : Val) (withdraw : Bool) : XS :=
  let bump (c : BitVec 16) : BitVec 16 :=
    if withdraw then (if c = 0 || c = 0xFFFF then c else c - 1) else satInc c
  match x with
  | .nan => { acc with nnan := bump acc.nnan }
  | .inf false => { acc with pinf := bump acc.pinf }
  | .inf true => { acc with ninf := bump acc.ninf }
  | .fin s n d =>
    let y := rneInt (s != withdraw) n d 160
    let z := acc.fix.toInt + y
    if -(2 ^ 319 : Int) ≤ z && z < 2 ^ 319 then { acc with fix := BitVec.ofInt 320 z }
    else if z > 0 then { acc with pinf := bump acc.pinf }
    else { acc with ninf := bump acc.ninf }

/-- Adds every value in order with weight +1. -/
def xsAddAll (acc : XS) (vs : List Val) : XS := vs.foldl (fun a v => xsAdd a v false) acc

/-- XS_ROUND(acc, F, mode) with FIX divided exactly by `n` first (R47, R204). -/
def xsRound (acc : XS) (n : Nat) (f : Fmt) (mode : RMode) : Nat :=
  if acc.nnan ≠ 0 then roundTo f mode .nan
  else if acc.pinf ≠ 0 && acc.ninf ≠ 0 then roundTo f mode .nan
  else if acc.pinf ≠ 0 then roundTo f mode (.inf false)
  else if acc.ninf ≠ 0 then roundTo f mode (.inf true)
  else
    let z := acc.fix.toInt
    roundPlus f mode (.fin (decide (z < 0)) z.natAbs (2 ^ 160 * n))

/-- The sum of two records field by field (R425). -/
def xsMerge (acc y : XS) : XS :=
  let z := acc.fix.toInt + y.fix.toInt
  let sat (a b : BitVec 16) : BitVec 16 := BitVec.ofNat 16 (min (a.toNat + b.toNat) 0xFFFF)
  let a : XS :=
    if -(2 ^ 319 : Int) ≤ z && z < 2 ^ 319 then { acc with fix := BitVec.ofInt 320 z }
    else if z > 0 then { acc with pinf := satInc acc.pinf }
    else { acc with ninf := satInc acc.ninf }
  { a with pinf := sat a.pinf y.pinf, ninf := sat a.ninf y.ninf, nnan := sat a.nnan y.nnan }

/-- Whether the squares of a format are rounded to FP32: BF16 and FP32 (R46). -/
def Fmt.squareRounds (f : Fmt) : Bool := f.cls = .float && (f.width = 32 || (f.width = 16 && f.e = 8))

/-- The square of a value for XS (R46). -/
def squareFor (f : Fmt) (x : Val) : Val :=
  let y := x.mul x
  if f.squareRounds then val32 (rneFP32 y) else y

/-! ### Matrix blocks -/

/-- floor(log2 |x|) of a finite nonzero value. -/
def Val.exponent : Val → Int
  | .fin _ n d => ilog2 n d
  | _ => 0

/-- The largest exponent of the finite nonzero values of a block. -/
def maxExponent (xs : List Val) : Option Int :=
  xs.foldl (fun t x =>
    if x.finNonzero then
      match t with
      | none => some x.exponent
      | some k => some (max k x.exponent)
    else t) none

/-- PREALIGN(x, q): the q-bit integers and the block exponent (R48). -/
def prealign (xs : List Val) (q : Nat) : List Int × Int :=
  match maxExponent xs with
  | none => (xs.map fun _ => 0, 0)
  | some t =>
    let e : Int := t - q + 2
    let lim : Int := 2 ^ (q - 1) - 1
    (xs.map fun x =>
      match x with
      | .fin s n d => if n = 0 then 0 else clampInt (rneInt s n d (-e)) (-lim) lim
      | _ => 0, e)

/-- The exponent an E8 scale byte stands for; none for NaN (R37). -/
def scaleExp (v : Byte) : Option Int := if v = 0xFF then none else some ((v.toNat : Int) - 127)

/-- BLOCK(k, n) of R50 for one column: the A values and integers, the B values and integers, the sum of
the block exponents, and the two scales. -/
def floatBlock (av bv : List Val) (ai bi : List Int) (e : Int) (sa sb : Option Int) (acc : Word) : Word :=
  let prods := av.zip bv
  if av.any Val.isNaN || bv.any Val.isNaN then faddRne acc (BitVec.ofNat 32 fp32.nanCode)
  else
    let infp := prods.filter fun (a, b) => a.isInf || b.isInf
    if infp ≠ [] then
      let signs := infp.map fun (a, b) => a.neg? != b.neg?
      let bad := infp.any (fun (a, b) => a.isZero || b.isZero) || (signs.contains true && signs.contains false)
      let v : Val := if bad then .nan else .inf (signs.headD false)
      faddRne acc (rneFP32 v)
    else
      let b := ((ai.zip bi).map fun (x, y) => x * y).sum
      if b = 0 then acc
      else
        match sa, sb with
        | some x, some y => faddRne acc (rneFP32 (.ofDyadic b (e + x + y)))
        | _, _ => faddRne acc (rneFP32 .nan)

/-- The block rule of R51 for one column: the new accumulator and whether it clamped. -/
def intBlock (ai bi : List Int) (acc : Word) : Word × Bool :=
  let z := acc.toInt + ((ai.zip bi).map fun (x, y) => x * y).sum
  let s := sat32 z
  (BitVec.ofInt 32 s, decide (s ≠ z))

/-! ### The counter hash -/

/-- One of the eight rounds of KCH (R53). -/
def kchRound (x0 x1 x2 x3 a b : Word) : Word × Word × Word × Word :=
  let x0 := x0 + x1 + a
  let x3 := (x3 ^^^ x0).rotateLeft 16
  let x2 := x2 + x3 + b
  let x1 := (x1 ^^^ x2).rotateLeft 12
  let x0 := x0 + x1
  let x3 := (x3 ^^^ x0).rotateLeft 8
  let x2 := x2 + x3
  let x1 := (x1 ^^^ x2).rotateLeft 7
  (x0, x1, x2, x3)

/-- The rounds of KCH. -/
def kchRounds : Nat → Word × Word × Word × Word → Word → Word → Word × Word × Word × Word
  | 0, x, _, _ => x
  | n + 1, (x0, x1, x2, x3), a, b =>
    kchRounds n (kchRound x0 x1 x2 x3 a b) (a + 0x9E3779B9) (b + 0xBB67AE85)

/-- KCH(seed, t, c) (R53). -/
def kch (seed : BitVec 64) (t : Word) (c : BitVec 64) : Word × Word × Word × Word :=
  kchRounds 8 (c.extractLsb' 0 32, c.extractLsb' 32 32, t, 0x5851F42D)
    (seed.extractLsb' 0 32) (seed.extractLsb' 32 32)

end Sys2Proof.Machine
end

