-- ==== Sys2Proof/Machine/State.lean ====
section
/-! DEFINITION. The state of the machine as plain data, the reasons a step can stop, and the machine after
reset. Rules of the manual stand in brackets at each field. -/

namespace Sys2Proof.Machine

/-! ### Elements -/

/-- One of an element's 32 slots: a trigger word and an action word (R59, R86, R87). -/
structure Slot where
  trig : Word
  act : Word
deriving DecidableEq, Repr, Inhabited

/-- An element record of an image (R113), with its constants k0 to k15 (R55). -/
structure ElemRec where
  kind : ElemKind
  predInit : BitVec 8
  isect : Bool
  part : Nat
  declared : BitVec 16
  pword : Word
  slots : Vector Slot 32
  ctags : Vector (BitVec 3) 16
  consts : Vector Payload 16
deriving DecidableEq, Repr

/-- One input of an element. `inflight` holds tokens pushed and still on their route (R70), `fifo` the
tokens of its FIFO with its markers (R69, R25), `recorded` the channel state that a pre-emption records (R407),
`held` how many tokens at the front of the FIFO a restore placed there ahead of new ones (R408), `pres` the token
that the intersection pair presents (R74), `claimed` whether an engine owns the input (R214), and `headAt` the
cycle at which the head reached its place (R249). -/
structure Input where
  inflight : List Token
  fifo : List Token
  recorded : List Token
  held : Nat
  pres : Option Token
  claimed : Bool
  headAt : Nat
deriving DecidableEq, Repr, Inhabited

/-- An input with nothing on it. -/
def Input.empty : Input := ⟨[], [], [], 0, none, false, 0⟩

/-- The state of a row in progress (R224). -/
structure RowSt where
  tag : Option (BitVec 3)
  pos : Nat
  codes : List (Nat × Nat)
  formed : BitVec 8
  begun : Nat
  scales : List (Nat × Byte)
  applied : Nat
deriving DecidableEq, Repr, Inhabited

/-- A row that has taken nothing yet. -/
def RowSt.empty : RowSt := ⟨none, 0, [], 0, 0, [], 0⟩

/-- What an incomplete firing waits for (R67, R213, R214): a condition, its next token, output space, or,
in MGRP, the end of an excess row (R230). -/
inductive Stage where
  | wait | take | push | skip
deriving DecidableEq, Repr, Inhabited

/-- A firing that has issued and not completed (R67): its slot and instruction, the operands read at
issue with the heads they came from, the tokens taken, the tokens still to push, and the counts its
description names. -/
structure Firing where
  slot : Nat
  instr : Instr
  stage : Stage
  a : Payload
  b : Payload
  hd : Option Token
  toks : List Token
  q : List (Fin 4 × Token)
  row : RowSt
  i : Nat
  n : Nat
  g : Nat
deriving DecidableEq, Repr

/-- A load engine (R214): the slot and instruction that started it, the stream input, and the values,
scales or cells taken. -/
structure Engine where
  kind : EngKind
  slot : Nat
  input : Fin 4
  ctx : Nat
  split : Bool
  tag : Option (BitVec 3)
  n : Nat
  bad : Bool
deriving DecidableEq, Repr, Inhabited

/-- A link send engine (R291). -/
structure SendEng where
  id : Nat
  slot : Nat
  opc : Nat
  cnt : BitVec 8
  input : Fin 4
  a : Payload
  toks : List Token
  seq : BitVec 16
deriving DecidableEq, Repr, Inhabited

/-- A running address stream (R279 to R281). `fault` is the code of a walk that found no mapping for its next access. -/
structure Stream where
  id : Nat
  num : Nat
  slot : Nat
  out : Option (Fin 4)
  input : Option (Fin 4)
  idx : Nat
  run : Nat
  ended : Bool
  fault : Option Nat
deriving DecidableEq, Repr, Inhabited

/-- An asynchronous firing that has not pushed everything it owes (R258). `cls` orders data pushes:
1 the loads, window loads and atomics, 2 the translations, 0 the others. `miss` says that it waits for a translation, and
`asked` is the request tag under which the walker region has taken that up (R285, R396). -/
structure OutF where
  id : Nat
  slot : Nat
  opc : Nat
  seq : BitVec 16
  va : BitVec 64
  cls : Nat
  dst : Option (Fin 4)
  data : List Token
  ready : Bool
  cmp : Option (Fin 4)
  cmpDone : Bool
  arg : Payload
  arg2 : Payload
  hd : Option Token
  miss : Bool
  level : Nat
  asked : Option Nat
deriving DecidableEq, Repr, Inhabited

/-- An accumulator bank's weights as they were placed (R220, R221): layout, class, the record of their
format, the raw code at each value number, and the E8 scale at each scale number. Pre-aligned weights
and block exponents are functions of these (R48, R49). -/
structure Bank where
  split : Bool
  int : Bool
  fmt : Word
  codes : List (Nat × Nat)
  scales : List (Nat × Byte)
deriving DecidableEq, Repr, Inhabited

/-- A bank at arm: plain, float, all +0, every scale 127 (R220). -/
def Bank.empty : Bank := ⟨false, false, recFP32, [], []⟩

/-- The state of an M element (R56, R220 to R231). `split` says whether the most recent MLDB split the bank (R222). -/
structure MSt where
  bank0 : Bank
  bank1 : Bank
  active : Bool
  acc : List (Nat × Word)
  sticky : BitVec 64
  primed : BitVec 64
  rowInt : BitVec 64
  aScale : Byte
  half : Bool
  groupDiscard : BitVec 32
  split : Bool
deriving DecidableEq, Repr, Inhabited

/-- The state of an L element (R239): truth tables by cell, wiring by pin, the invalid contexts, the
context of the last pass, the window X, the outputs P, and the cycle at which the last pass started. -/
structure LSt where
  tables : List (Nat × BitVec 64)
  wires : List (Nat × BitVec 11)
  invalid : BitVec 8
  ctx : Fin 8
  x : List (Nat × Payload)
  p : List (Nat × Payload)
  passAt : Option Nat
deriving DecidableEq, Repr, Inhabited

/-- An entry of the window table (R267). `pages` are the address words that map it. -/
structure Window where
  mapped : Bool
  closing : Bool
  off : Nat
  len : Nat
  va : Nat
  writable : Bool
  pages : List Payload
deriving DecidableEq, Repr, Inhabited

/-- An unmapped window. -/
def Window.empty : Window := ⟨false, false, 0, 0, 0, false, []⟩

/-- An entry of the sliding-window ring (R232). -/
structure RingEnt where
  payload : Payload
  tag : BitVec 3
deriving DecidableEq, Repr, Inhabited

/-- A word that a window store has stored and that is not at its home yet, by the firing (R328, R330, R334); `sent` names the
write-back that carries it outside the package. -/
structure WinStore where
  word : Nat
  fid : Nat
  sent : Option Nat
deriving DecidableEq, Repr, Inhabited

/-- The state of an S element: SRAM by 32-bit word, each word's valid, dirty and poison bit, the window
table, the ring (R56, R232, R267, R334), and the window stores that have not propagated (R328, R330). The partition word is
in the element's record. -/
structure SSt where
  sram : List (Nat × Word)
  valid : List Nat
  dirty : List Nat
  poison : List Nat
  windows : Vector Window 8
  ringW : Nat
  ring : List RingEnt
  stores : List WinStore
deriving DecidableEq, Repr

/-- A position of a reorder buffer (R250, R251). -/
inductive RCell where
  | free
  | gap
  | tok (t : Token)
deriving DecidableEq, Repr, Inhabited

/-- A reorder buffer: its next number and its positions by distance (R250). -/
structure RBuf where
  next : BitVec 16
  cells : List (Nat × RCell)
deriving DecidableEq, Repr, Inhabited

/-- The state of an X element (R248, R250). -/
structure XSt where
  bufs : Vector RBuf 8
  seqC : Vector (BitVec 16) 4
deriving DecidableEq, Repr

/-- An entry of a translation node (R283, R319): the page's VA, its size in bytes, its leaf, and the leaf's address. -/
structure TlbEnt where
  va : Nat
  size : Nat
  leaf : BitVec 64
  ctx : Nat
  at_ : Nat
deriving DecidableEq, Repr, Inhabited

/-- The state of an E element: the descriptor words by 8 × stream + word (R279), the running streams,
the translation node, the receive queues (R293), the running send engines, the failure count (R295). -/
structure ESt where
  agen : List (Nat × Payload)
  streams : List Stream
  tlb : List TlbEnt
  rx : Vector (List (List RxTok)) 8
  sends : List SendEng
  failures : BitVec 32
  linkStopped : Bool
deriving DecidableEq, Repr

/-- The kind-specific state (R56): the exact accumulators of a C element, and the states above. -/
inductive KindSt where
  | c (xa0 xa1 : XS)
  | m (s : MSt)
  | l (s : LSt)
  | s (s : SSt)
  | x (s : XSt)
  | e (s : ESt)
deriving DecidableEq, Repr

/-- The kind-specific state at arm (R56). -/
def KindSt.arm : ElemKind → KindSt
  | .C => .c XS.clear XS.clear
  | .M => .m ⟨.empty, .empty, false, [], 0, 0, 0, 127, false, 0, false⟩
  | .L => .l ⟨[], [], 0, 0, [], [], none⟩
  | .S => .s ⟨[], [], [], [], Vector.replicate 8 .empty, 0, [], []⟩
  | .X => .x ⟨Vector.replicate 8 ⟨0, []⟩, Vector.replicate 4 0⟩
  | .E => .e ⟨[], [], [], Vector.replicate 8 [], [], 0, false⟩

/-- The pair of R74: active or bypassed (R234), the side being drained, the last COORD of each side in
its segment, and the four counters of R235. -/
structure Pair where
  active : Bool
  drain : Option (Fin 2)
  last0 : Option (BitVec 16)
  last1 : Option (BitVec 16)
  disc0 : BitVec 32
  disc1 : BitVec 32
  matched : BitVec 32
  drains : BitVec 32
deriving DecidableEq, Repr, Inhabited

/-- The pair at arm (R234). -/
def Pair.arm : Pair := ⟨true, none, none, none, 0, 0, 0, 0⟩

/-- A completion token that is due (R259): the firing, its output, the token, and the place of its access in the order in
which accesses were performed (R258, R327). -/
structure Due where
  id : Nat
  out : Fin 4
  tok : Token
  no : Nat
deriving DecidableEq, Repr, Inhabited

/-- Why an element issues nothing more (R162, R165, R379): halted; stopped by DRAIN or by drain markers with
the markers still to pass on; drained; halted with its drain markers passed on. -/
inductive Stop where
  | none
  | halted
  | draining
  | drained
  | haltedDrained
deriving DecidableEq, Repr, Inhabited

/-- The issuer a deterministic group has on an element (R273): group, issuer, next update number. -/
structure Issuer where
  group : Nat
  issuer : Nat
  useq : Nat
deriving DecidableEq, Repr, Inhabited

/-- Where the write-back of a window word stands (R270, R309, R334): its word is clean once it performs; a later STW has
made the word dirty again; a recall has merged it; it still waits for the STW whose bytes it writes. -/
inductive WbSt where
  | plain | restored | merged | awaiting
deriving DecidableEq, Repr, Inhabited

/-- What a control core, the host or the machine itself asks of a home (R303, R319, R384, R414); `bad` names the words that
fail their ECC check. An amendment keeps some bits of a byte and sets others. -/
inductive PortReq where
  | read (n : Nat) (bad : List Nat)
  | write (bytes : List Byte)
  | amend (keep set : Byte)
  | line (req : LineReq)
deriving DecidableEq, Repr, Inhabited

/-- The memory operation of an access (R255 to R275, R285, R334, R325). A fill names its line by a local offset and the
invalid words it reads; a claim is the first store of window words, which waits at the home for the line's other holders
(R305, R309). -/
inductive AccKind where
  | load
  | store
  | atomic (opc : Nat) (fmt : Word)
  | update (opc : Nat) (fmt : Word) (group issuer useq : Nat)
  | close (group issuer : Nat)
  | fill (window line : Nat) (mask : BitVec 16)
  | wback (window : Nat) (st : WbSt)
  | claim (window : Nat) (mask : BitVec 16)
  | walk
  | link
  | port (agent : Nat) (req : PortReq)
deriving DecidableEq, Repr, Inhabited

/-- How far a load of derived words has performed (R335, R343, R354): the bytes that the base rows or slices done gave, each
with the mark of the row it came from; and of a HIST read in progress the slices done, its partial counts, and whether a
marked row was read. -/
structure DrvProg where
  done : List Nat
  bytes : List Byte
  marks : List Bool
  sums : List Nat
  bad : Bool
deriving DecidableEq, Repr, Inhabited

/-- A derived load that has not begun. -/
def DrvProg.start : DrvProg := ⟨[], [], [], [], false⟩

/-- An access, from its firing to its performance (R325). `fid` is the firing it belongs to; `a` and
`toks` are the operand and the packet of a link operation (R290, R291); `cost` is what it takes of the cache port (R317);
`tva` is the VA that its completion token carries (R259). -/
structure Access where
  id : Nat
  fid : Nat
  r : Nat
  gen : BitVec 12
  e : Nat
  slot : Nat
  ctx : Nat
  launch : Nat
  opc : Nat
  seq : BitVec 16
  kind : AccKind
  pa : Nat
  va : Nat
  size : Nat
  mt : Nat
  data : Payload
  a : Payload
  cnt : BitVec 8
  toks : List Token
  cost : Nat
  tva : BitVec 64
  prog : DrvProg
deriving DecidableEq, Repr, Inhabited

/-- The state of an element (R55, R58, R179, R216, R253, R367), with its record. -/
structure Elem where
  img : ElemRec
  d : Vector Payload 8
  p : BitVec 8
  ins : Vector Input 4
  outLimit : Vector Nat 4
  stop : Stop
  endCt : BitVec 16
  declared : BitVec 16
  joinCt : Vector (BitVec 8) 32
  joinToks : List (Nat × Token)
  emptyPop : BitVec 32
  poisonDiscard : BitVec 32
  perf : List (Nat × BitVec 64)
  ks : KindSt
  pair : Pair
  firing : Option Firing
  engines : List Engine
  seq : BitVec 16
  issueQ : List Access
  outs : List OutF
  dues : List Due
  saved : Bool
  issuer : Option Issuer
  marked : BitVec 4
deriving DecidableEq, Repr

/-! ### Graphs and regions -/

/-- A consumer of an edge (R114). -/
structure Consumer where
  elem : Nat
  input : Fin 4
  tags : BitVec 8
deriving DecidableEq, Repr, Inhabited

/-- An edge (R68, R114), with its initial tokens (R115) and whether it is a feedback edge (R406). -/
structure Edge where
  num : Nat
  cap : Nat
  prod : Nat
  out : Fin 4
  tags : BitVec 8
  cons : List Consumer
  init : List Token
  feedback : Bool
deriving DecidableEq, Repr, Inhabited

/-- A parking channel (R282): the S element that holds it, its capacity there, its tokens, and its
spilled tokens. The tokens of an input of a cut edge wait in a channel of their own, numbered above those of PARK (R83).
(DEDUCED, log 35.) -/
structure Chan where
  num : Nat
  elem : Nat
  cap : Nat
  store : List Token
  spill : List Token
deriving DecidableEq, Repr, Inhabited

/-- What comes back to a firing (R258): a payload with its poison, several tokens, a failure code of a
link operation (R295), or the trap of a refused access (R256). -/
inductive ReplyVal where
  | data (v : Payload) (poison : Bool)
  | toks (l : List (Payload × Bool))
  | done
  | fail (code : Nat)
  | trap (code : Nat)
deriving DecidableEq, Repr, Inhabited

/-- A reply to an asynchronous firing, with its access and the place of its performance in order (R258, R327). -/
structure Reply where
  acc : Access
  val : ReplyVal
  no : Nat
deriving DecidableEq, Repr, Inhabited

/-- The configured state of a region: the format table (R28), the elements and edges of the image, the
partition that runs (R82), the parking channels and the spill pool's size in tokens (R282), and the
exact marks (R116), the sites of its S and X elements (R309), and the replies a freeze collected (R401). -/
structure GraphSt where
  fmts : Vector Word 8
  elems : List Elem
  edges : List Edge
  parts : Nat
  part : Nat
  chans : List Chan
  spillCap : Nat
  exact : List (Nat × Nat)
  sites : List (Nat × Nat)
  collected : List Reply
deriving DecidableEq, Repr

/-- The states of a region (R81). -/
inductive RegionState where
  | free | loading | armed | parked | frozen | gated
deriving DecidableEq, Repr, Inhabited

/-- Where a fault that a freeze found stands (R400): at a head, at WMAP's next page, or in an address stream. -/
inductive FaultAt where
  | head (input : Fin 4)
  | window
  | stream (num : Nat)
deriving DecidableEq, Repr, Inhabited

/-- A fault that a freeze found (R400, R402): the element, where it stands, its code, its VA and its intent. -/
structure FaultRec where
  elem : Nat
  at_ : FaultAt
  code : Nat
  va : Nat
  intent : Bool
deriving DecidableEq, Repr, Inhabited

/-- A pre-emption of a region (R406, R407) and what asked for it (R298, R377). -/
inductive Preempt where
  | none
  | requested
  | running
deriving DecidableEq, Repr, Inhabited

/-- A region slot of a die (R17, R80): its state, the launch that owns it, its generation (R324), its
rectangle of clusters, its configured graph, and the pre-emption and freeze in progress. While it loads, `loadPart` is
the partition that is written and `restoring` says that a saved image is; `switching` says that it is parked between two
partitions (R81, R82). `image` is the physical address of the page-walk graph that a walker region loads (R16). -/
structure Region where
  state : RegionState
  gen : BitVec 12
  launch : Nat
  ctx : Nat
  x : Nat
  y : Nat
  w : Nat
  h : Nat
  g : Option GraphSt
  loadPart : Nat
  restoring : Bool
  switching : Bool
  image : Option Nat
  pl : Placement
  preempt : Preempt
  ckpt : Bool
  freezing : Bool
  faults : List FaultRec
  quietAt : Option Nat
  armedAt : Nat
deriving DecidableEq, Repr

/-- A region slot after reset. -/
def Region.empty : Region :=
  ⟨.free, 0, 0, 0, 0, 0, 0, 0, none, 0, false, false, none, ⟨[], [], [], [], none⟩, .none, false, false, [], none, 0⟩

/-! ### Memory, ordering and derivation -/

/-- MOESI states of a line-granular agent (R303, R308). -/
inductive Moesi where
  | M | O | E | S
deriving DecidableEq, Repr, Inhabited

/-- A line-granular holder of a line: control cores are agents 0 to 7 and the host is agent 8. `stored` names the bytes of
the line that it has stored (R441). -/
structure Holder where
  agent : Nat
  st : Moesi
  dropped : Bool
  data : List Byte
  stored : List Nat
deriving DecidableEq, Repr, Inhabited

/-- A registered window of a line, by launch, element and window, with its read and write masks (R305, R308).
(DESIGN CHOICE, log 80.) -/
structure WinMask where
  l : Nat
  e : Nat
  w : Nat
  readM : BitVec 16
  writeM : BitVec 16
deriving DecidableEq, Repr, Inhabited

/-- A directory entry (R308), with the agents whose acknowledgement is outstanding (R311, R312). -/
structure DirEnt where
  holders : List Holder
  windows : List WinMask
  awaiting : List Nat
deriving DecidableEq, Repr, Inhabited

/-- A directory entry of a line nobody holds. -/
def DirEnt.empty : DirEnt := ⟨[], [], []⟩

/-- A named barrier (R289). -/
structure Barrier where
  expected : Nat
  remaining : Nat
  phase : Word
deriving DecidableEq, Repr, Inhabited

/-- A deterministic atomic group (R273 to R275): its issuers as (issuer, closed). -/
structure DetGroup where
  ctx : Nat
  num : Nat
  m : Nat
  counter : Nat
  opened : List Nat
  closed : List Nat
deriving DecidableEq, Repr, Inhabited

/-- The group state of one line (R314): whether it takes one of its unit's 32 lines, the groups that update it, by
context and number, those of them in the issuer-serial regime there, and the held updates of its holding buffer. -/
structure HeldLine where
  line : Nat
  inUnit : Bool
  groups : List (Nat × Nat)
  serial : List (Nat × Nat)
  held : List Access
deriving DecidableEq, Repr, Inhabited

/-- A token bucket (R317, R318, R299). -/
structure Bucket where
  rate : Nat
  burst : Nat
  level : Nat
  borrowed : Nat
  borrower : Bool
deriving DecidableEq, Repr, Inhabited

/-- What a die's cache port has carried (R317, R318): the tokens of each direction in this interval and in this cycle,
and the cycle they count for. -/
structure PortUse where
  inIn : Nat
  outIn : Nat
  inCyc : Nat
  outCyc : Nat
  cycle : Nat
deriving DecidableEq, Repr, Inhabited

/-- A port that has carried nothing. -/
def PortUse.zero : PortUse := ⟨0, 0, 0, 0, 0⟩

/-- An event of a line's home order (R325): the line, the access that performed there (0 for a write of the machine's own),
and whether it wrote. -/
structure HomeEv where
  line : Nat
  acc : Nat
  write : Bool
deriving DecidableEq, Repr, Inhabited

/-- The memory system (R301 to R324, R325, R441). Memory bytes and poison marks are in one canonical
form; directory, frames, counters and barriers are sparse maps. `order` is the home order of all lines, `performs` counts
performances, `hostReads` holds what the host's and the control cores' reads returned, with their poison, and `taken` by die
the cycle in which its walker region last took a miss (R396). -/
structure MemSt where
  bytes : List Host.Cell
  poison : List Nat
  frames : List (Nat × FrameEnt)
  hostRanges : List (Nat × HostRange)
  dir : List (Nat × DirEnt)
  reqs : List Access
  egress : List Access
  replies : List Reply
  counters : List (Nat × BitVec 64)
  barriers : List (Nat × Barrier)
  groups : List DetGroup
  held : List HeldLine
  replays : List Access
  race : List (Nat × Nat)
  stale : List (Nat × Nat)
  malformed : List (Nat × Nat)
  replaceDiscard : List (Nat × Nat)
  buckets : List (Nat × Option Bucket)
  cold : List (Nat × Nat)
  badgerMark : Nat
  order : List HomeEv
  performs : Nat
  ports : List (Nat × PortUse)
  hostReads : List (Nat × List Byte × Bool)
  taken : List (Nat × Option Nat)
deriving DecidableEq, Repr, Inhabited

/-- The shadow of one block or row extreme (R346): the extreme, its multiplicity, the NaN count. -/
structure ExtSh where
  ext : Val
  cnt : Nat
  nan : Nat
deriving DecidableEq, Repr, Inhabited

/-- An extreme over no elements. -/
def ExtSh.empty : ExtSh := ⟨.zero, 0, 0⟩

/-- The state of a row of a declaration (R350, R354): not yet scanned, ready, in a scan, in an extended
rescan, or withdrawn there (R352). -/
inductive RowScan where
  | initial | ready | scanning | extended | withdrawn
deriving DecidableEq, Repr, Inhabited

/-- The shadows of one row of a declaration at its home slice (R302, R340). -/
structure DrvRow where
  pa : Nat
  slice : Nat
  scan : RowScan
  poison : Bool
  sum : XS
  ext : ExtSh
  blocks : List ExtSh
  hist : List (Nat × Nat)
deriving DecidableEq, Repr, Inhabited

/-- The kinds of derived tensors (R276). -/
inductive DrvKind where
  | rowsum | rowssq | rowmax | rowmin | hist | bscale
deriving DecidableEq, Repr, Inhabited

/-- A declaration (R276, R340). `sat` lists the counts of a HIST, by slice and bin, that have saturated (R348). -/
structure Decl where
  handle : Nat
  ctx : Nat
  launch : Nat
  kind : DrvKind
  baseVa : Nat
  derVa : Nat
  derSize : Nat
  cols : Nat
  pitch : Nat
  baseFmt : Fmt
  derFmt : Fmt
  lo : Word
  wexp : Int
  bins : Nat
  narrow : Fmt
  counter : Option Nat
  pending : Bool
  pin : Nat
  rows : List DrvRow
  withdraw : Option (Option Nat)
  sat : List (Nat × Nat)
deriving DecidableEq, Repr, Inhabited

/-! ### Launches, links and the platform -/

/-- The states of a launch (R375). -/
inductive LaunchState where
  | waiting | ready | loading | running | parked | ended
deriving DecidableEq, Repr, Inhabited

/-- What the mapper's placement cache looks a placement up by (R78, R118): the hash of the image, the hash of the image
without its names section, the rectangle's shape, and which edges of the die it lies on. -/
structure CacheKey where
  image : BitVec 384
  body : BitVec 384
  w : Nat
  h : Nat
  edges : List Bool
deriving DecidableEq, Repr, Inhabited

/-- A launch (R375): `age` is the device-clock time that its age counts from (R373, R376), `readyAt` the clock at which it last became READY or
rose, `prio` its priority with promotions (R377), `key` the hashes of the image it was admitted with (R78). -/
structure Launch where
  id : Nat
  ctx : Nat
  seq : Nat
  record : LaunchRec
  state : LaunchState
  age : Nat
  readyAt : Nat
  prio : Nat
  waited : Bool
  region : Option Nat
  saved : Option GraphSt
  savedPart : Nat
  entry : Option Nat
  races : Nat
  endAt : Nat
  endState : Nat
  sigDue : Bool
  flagged : List (Nat × Nat)
  preempts : Nat
  ckpts : Nat
  key : Option (BitVec 384 × BitVec 384)
deriving DecidableEq, Repr

/-- A context as the device operating system holds it (R369, R371, R372, R384). -/
structure Context where
  cfg : ContextCfg
  nextSeq : Nat
  written : Nat
  dropped : Nat
deriving DecidableEq, Repr, Inhabited

/-- An entry of the time-triggered table with the next start number and its skip count (R373, R374). -/
structure TimeSt where
  ent : TimeEnt
  k : Nat
  skips : Nat
deriving DecidableEq, Repr, Inhabited

/-- The scheduler (R371 to R378), with the age limit of each die (R377), the checkpoints (R298) and the mapper's placement
cache (R78, R118). -/
structure SchedSt where
  contexts : List Context
  launches : List Launch
  nextLaunch : Nat
  table : List (Nat × Option TimeSt)
  ageLimits : List (Nat × Nat)
  extLimit : Nat
  strayWrites : Nat
  checkpoints : List (Nat × GraphSt)
  cache : List (CacheKey × Placement)
deriving DecidableEq, Repr

/-- One round of a reduction group at this package's switch (R423). -/
structure Round where
  own : Option (List Payload)
  ownAcc : Option Access
  kids : List (Nat × Contrib)
  sent : Bool
  result : Option (List Payload)
deriving DecidableEq, Repr, Inhabited

/-- A reduction group: its record and its rounds, the oldest first (R421, R423). -/
structure GroupSt where
  record : GroupRec
  rounds : List Round
deriving DecidableEq, Repr, Inhabited

/-- A packet of another package that waits at this one or is part-way through (R292, R293, R325, R336): what is left of it,
and what a GET has read. -/
structure Inbound where
  id : Nat
  pkt : Packet
  got : List (Payload × Bool)
  prog : DrvProg
deriving DecidableEq, Repr, Inhabited

/-- The link (R417 to R426): the groups, the packets sent to other packages as (group, contribution) or (group,
result), the packets that have arrived and are not answered, the answers sent back as (package, answer) (R291, R295), the packages
that are unreachable, by link group (R417), and the rounds that a change of their group's record has voided and whose REDR has
not met that yet, as group, launch and element of the member (R426). -/
structure LinkSt where
  groups : List (Nat × Option GroupSt)
  sentUp : List (Nat × Contrib)
  sentDown : List (Nat × List Payload)
  inbound : List Inbound
  acks : List (Nat × RemoteRes)
  unreachable : List (Nat × Nat)
  unmet : List (Nat × Nat × Nat)
deriving DecidableEq, Repr, Inhabited

/-- A copy of a stage's image in module flash (R428); stage 4 is the firmware of I/O 1's security block (R11, R427).
(DESIGN CHOICE, log 75.) -/
structure FlashCopy where
  stage : Nat
  copyB : Bool
  version : Nat
  bytes : List Byte
  rsaSig : List Byte
  slhSig : List Byte
deriving DecidableEq, Repr, Inhabited

/-- An entry of the boot journal (R431, R432): an intent or an outcome of a step of a stage. -/
structure JournalEnt where
  seq : Nat
  stage : Nat
  step : Nat
  isIntent : Bool
  failed : Bool
  skipped : Bool
  action : Nat
  cluster : Nat
  crc : Word
deriving DecidableEq, Repr, Inhabited

/-- The stages of the device (R427, R434): off, the next boot stage to run, running, or safe. -/
inductive BootState where
  | stage (n : Nat)
  | running
  | safe
deriving DecidableEq, Repr, Inhabited

/-- An attestation report (R436). -/
structure Report where
  nonce : List Byte
  m : List (BitVec 384)
  versions : List Nat
  clusters : List (Nat × Nat)
  boots : Nat
  rsaSig : List Byte
  slhSig : List Byte
deriving DecidableEq, Repr, Inhabited

/-- The platform (R427 to R440): fuses, flash, journal, measurement registers, the status mailbox's
fields, the cluster marks (bit 0 slow, bit 1 mapped out; DEDUCED, log 77), the attestation reports handed out, and the actions of
R432 in force: the copy named for a stage, conservative timings and whether HBM was trained with them, the clusters to map out,
and the steps to skip at the next boot and at this one. `io1` says that I/O 1's security block runs its verified firmware
(R11), `bootOpen` that a boot has begun, stage 3 does not run yet, and the boot has not been counted as failed. -/
structure PlatSt where
  boot : BootState
  keyRsa : BitVec 384
  keySlh : BitVec 384
  secret : BitVec 384
  minVer : Vector Nat 5
  ver : Vector Nat 4
  flash : List FlashCopy
  journal : List JournalEnt
  meas : Vector (BitVec 384) 4
  bootCount : Nat
  failedBoots : Nat
  highest : Nat
  safeReason : Nat
  failStep : Nat
  clusters : List (Nat × Nat)
  mapOutNext : List Nat
  named : List (Nat × Bool)
  skipNext : List (Nat × Nat)
  skip : List (Nat × Nat)
  flashLimit : Option Nat
  isModule : Bool
  powerLimit : Nat
  power : Nat
  coolant : Nat
  hottest : Nat
  throttled : Bool
  lastUpdate : BitVec 64
  errors : List (Nat × Nat)
  exportGib : Nat
  reports : List Report
  ioUp : Bool
  conservative : Bool
  mailState : Nat
  io1 : Bool
  hbmConservative : Bool
  bootOpen : Bool
deriving DecidableEq, Repr

/-- The voltage margins of the clusters (R438): those in force, and those that come into force when their cluster is next
FREE or GATED. -/
structure VoltSt where
  margins : List (Nat × Nat)
  planned : List (Nat × Nat)
deriving DecidableEq, Repr

/-! ### The machine -/

/-- The firing under way: the region slot, the element and the slot that issues. -/
structure Focus where
  r : Nat
  e : Nat
  slot : Nat
deriving DecidableEq, Repr, Inhabited

/-- The state of the machine. `agenda` lists what the machine takes up next; when it is empty the next
choice is `Config.choice choiceCtr` (R326). `freeCtr` counts the free values drawn. Both counters and
`focus` are the model's own. -/
structure State where
  focus : Focus
  agenda : List Choice
  choiceCtr : Nat
  freeCtr : Nat
  cycle : Nat
  clock : BitVec 64
  nextId : Nat
  regions : List Region
  mem : MemSt
  drv : List Decl
  sched : SchedSt
  link : LinkSt
  plat : PlatSt
  volt : VoltSt
deriving DecidableEq, Repr

/-- The reasons the machine stops with a fault. -/
inductive Fault where
  /-- The slot that qualifies holds a word that is no action word. Raised by `step` for a slot that the
  loader rejects (R91); safe: a checked image never reaches it. -/
  | badSlot (why : DecodeErr)
  /-- A firing names a region slot or an element that the machine does not hold. Raised by the meanings of
  the opcodes for a focus that no step sets; safe. -/
  | noElement
deriving DecidableEq, Repr, Inhabited

/-- The reasons the model refuses an instruction. -/
inductive Refusal where
  /-- The instruction has no meaning yet. Raised by the arms of `exec` only; safe. -/
  | notModelled (mnemonic : String)
  /-- The slot's fields are ones that the loader rejects (R91, R108, R213, R264), so the manual gives the
  firing no effect. Raised by the meanings of the opcodes; safe. -/
  | rejectedAtLoad
deriving DecidableEq, Repr, Inhabited

/-- The number of region slots: 16 on each of 8 dies (R17), and the walker region of each die (R16).
(DESIGN CHOICE, log 79.) -/
def regionSlots : Nat := 136

/-- The memory system after reset. -/
def MemSt.reset : MemSt :=
  ⟨[], [], [], [], [], [], [], [], [], [], [], [], [], [], [], [], [], [], [], 0, [], 0, [], [], []⟩

/-- The platform after reset: the next thing that runs is boot stage 0 (R427). The manual names two ordering codes (R1) and
not the one that resets: the model's is a K8-M, with no flash configuration record. (DESIGN CHOICE, log 4.) -/
def PlatSt.reset : PlatSt :=
  ⟨.stage 0, 0, 0, 0, Vector.replicate 5 0, Vector.replicate 4 0, [], [], Vector.replicate 4 0, 0, 0, 0, 0, 0, [], [], [], [],
    [], none, true, 2400, 0, 0, 0, false, 0, [], 0, [], false, false, 0, false, false, false⟩

/-- The machine after reset (R427): nothing is loaded, memory lists nothing, and the boot chain starts.
(DESIGN CHOICE, log 4.) -/
def State.reset : State :=
  { focus := ⟨0, 0, 0⟩
    agenda := []
    choiceCtr := 0
    freeCtr := 0
    cycle := 0
    clock := 0
    nextId := 1
    regions := List.replicate regionSlots Region.empty
    mem := MemSt.reset
    drv := []
    sched := ⟨[], [], 1, [], [], 0, 0, [], []⟩
    link := ⟨[], [], [], [], [], [], []⟩
    plat := PlatSt.reset
    volt := ⟨[], []⟩ }

end Sys2Proof.Machine
end

