-- ==== Sys2Proof/Machine/Mem.lean ====
section
/-! DEFINITION. Memory as bytes and poison marks by word (R3, R26, R441), the frame table's entries (R322), and the home
order of lines (R325). -/

namespace Sys2Proof.Machine

/-! ### Memory bytes and poison marks -/

/-- What a byte of memory that nothing has written reads as. Stage 2 zeroes memory (R437). (DEDUCED, log 5.) -/
def unlistedByte : Byte := 0

/-- The canonical form of memory: addresses strictly rising, no entry equal to what an unlisted address
reads as. -/
abbrev Memory.wf (m : List Host.Cell) : Bool := swf unlistedByte m

/-- One byte of memory. -/
def readByte (m : List Host.Cell) (a : Nat) : Byte := sget unlistedByte m a

/-- `n` bytes from address `a` up (R3). -/
def readBytes (m : List Host.Cell) (a n : Nat) : List Byte := sgetMany unlistedByte m a n

/-- Writes one byte. -/
def writeByte (m : List Host.Cell) (a : Nat) (b : Byte) : List Host.Cell := sset unlistedByte m a b

/-- Writes bytes from address `a` up (R3). -/
def writeBytes (m : List Host.Cell) (a : Nat) (bs : List Byte) : List Host.Cell := ssetMany unlistedByte m a bs

/-- A little-endian number of `n` bytes in memory. -/
def readLe (m : List Host.Cell) (a n : Nat) : Nat := ofLe (readBytes m a n)

/-- A sorted set of numbers with `x` in it. -/
def setIns (x : Nat) : List Nat → List Nat
  | [] => [x]
  | y :: r => if x < y then x :: y :: r else if x = y then y :: r else y :: setIns x r

/-- A set of numbers without `x`. -/
def setDel (x : Nat) (l : List Nat) : List Nat := l.filter (· != x)

/-- The aligned words that bytes `a` to `a + n - 1` touch. -/
def wordsOf (a n : Nat) : List Nat :=
  if n = 0 then [] else (List.range ((a + n - 1) / 4 - a / 4 + 1)).map (· + a / 4)

/-- Whether an access reads a marked word (R26, R441). -/
def readsPoison (p : List Nat) (a n : Nat) : Bool := (wordsOf a n).any fun w => p.contains w

/-- The marks after a store: a store of all four bytes of a word clears its mark (R441). -/
def clearPoison (p : List Nat) (a n : Nat) : List Nat :=
  (wordsOf a n).foldl (fun q w => if a ≤ 4 * w && 4 * w + 4 ≤ a + n then setDel w q else q) p

/-- The marks with the given words marked (R411, R441). -/
def markWords (p : List Nat) (ws : List Nat) : List Nat := ws.foldl (fun q w => setIns w q) p

/-- A store to memory: bytes and marks. -/
def MemSt.store (m : MemSt) (a : Nat) (bs : List Byte) : MemSt :=
  { m with bytes := writeBytes m.bytes a bs, poison := clearPoison m.poison a bs.length }

/-- Adds to a sparse counter. -/
def bumpBy (m : List (Nat × Nat)) (k n : Nat) : List (Nat × Nat) := sset 0 m k (sget 0 m k + n)

/-! ### Frames and the home order -/

/-- Whether a physical address names host memory (R415). -/
def isHost (pa : Nat) : Bool := decide (2 ^ 51 ≤ pa)

/-- The frame of a physical address (R322). -/
def frameOf (pa : Nat) : Nat := pa / 2 ^ 16

/-- The entry of a frame that the device operating system never wrote. -/
def noFrame : FrameEnt := ⟨none, false, false, false, false, none⟩

/-- The frame-table entry of a physical address; a frame never written has no owner. -/
def MemSt.frame (m : MemSt) (pa : Nat) : FrameEnt := sget noFrame m.frames (frameOf pa)

/-- The directory entry of a line. -/
def MemSt.dirAt (m : MemSt) (line : Nat) : DirEnt := sget DirEnt.empty m.dir line

/-- The mask bits of the words that `n` bytes from `pa` touch in their line. -/
def wordMask (pa n : Nat) : BitVec 16 :=
  (wordsOf pa n).foldl (fun m w => m ||| BitVec.ofNat 16 (2 ^ (w % 16))) 0

/-- Appends an event to the home order of its line (R325). -/
def MemSt.note (m : MemSt) (line acc : Nat) (write : Bool) : MemSt := { m with order := m.order ++ [⟨line, acc, write⟩] }

end Sys2Proof.Machine
end

