-- ==== Sys2Proof/Machine/Shadow.lean ====
section
/-! DEFINITION. What a write of a home copy does to the shadows of derived tensors (R344 to R348, R350 to R354), and the one
operation by which every route writes a home copy (R353). -/

namespace Sys2Proof.Machine

/-! ### Rows -/

/-- The length of a row in bytes (R342). -/
def rowBytes (f : Fmt) (cols : Nat) : Nat := (cols * f.lane + 7) / 8

/-- The raw codes that a number of packed lanes holds (R33, R342). -/
def codesOf (f : Fmt) (cols n : Nat) : List Nat :=
  (List.range cols).map fun i => n / 2 ^ (f.lane * i) % 2 ^ f.lane % 2 ^ f.width

/-- The codes of a row as memory holds them. -/
def Decl.rowCodes (d : Decl) (bytes : List Host.Cell) (row : DrvRow) : List Nat :=
  codesOf d.baseFmt d.cols (readLe bytes row.pa (rowBytes d.baseFmt d.cols))

/-- Whether `n` bytes from `pa` touch a row. -/
def Decl.touches (d : Decl) (row : DrvRow) (pa n : Nat) : Bool :=
  decide (pa < row.pa + rowBytes d.baseFmt d.cols) && decide (row.pa < pa + n)

/-! ### Shadows -/

/-- Whether a value ranks above another for ROWMAX, or for ROWMIN (R346). -/
def ranksAbove (isMax : Bool) (a b : Val) : Bool :=
  let zeros := a.isZero && b.isZero && a.neg? != b.neg?
  if isMax then b.lt a || (zeros && b.neg?) else a.lt b || (zeros && a.neg?)

/-- Equality in rank (R346): the same value and, for zeros, the same sign. -/
def sameRank (a b : Val) : Bool := a.eq b && (!a.isZero || a.neg? == b.neg?)

/-- UPDATE_EXT (R346): the new shadow and whether a rescan starts. -/
def updateExt (isMax : Bool) (sh : ExtSh) (old new : Val) : ExtSh × Bool :=
  let had := sh.cnt
  let sh1 : ExtSh :=
    if old.isNaN then { sh with nan := sh.nan - 1 }
    else if had > 0 && sameRank old sh.ext then { sh with cnt := sh.cnt - 1 }
    else sh
  if new.isNaN then
    let sh2 := { sh1 with nan := sh1.nan + 1 }
    (sh2, decide (had > 0) && sh2.cnt == 0)
  else if had = 0 || ranksAbove isMax new sh.ext then ({ sh1 with ext := new, cnt := 1 }, false)
  else if sameRank new sh.ext then ({ sh1 with cnt := sh1.cnt + 1 }, false)
  else (sh1, decide (had > 0) && sh1.cnt == 0)

/-- Adds one element to an extreme in a scan. -/
def addExt (isMax : Bool) (sh : ExtSh) (x : Val) : ExtSh :=
  if x.isNaN then { sh with nan := sh.nan + 1 }
  else if sh.cnt = 0 || ranksAbove isMax x sh.ext then { sh with ext := x, cnt := 1 }
  else if sameRank x sh.ext then { sh with cnt := sh.cnt + 1 }
  else sh

/-- A value's exponent as BSCALE's blocks hold it (R347): absent values enter as NaN. -/
def blockVal (x : Val) : Val := if x.finNonzero then .ofInt x.exponent else .nan

/-- The contribution of a value to a sum (R345). -/
def Decl.contribution (d : Decl) (x : Val) : Val :=
  match d.kind with
  | .rowssq => squareFor d.baseFmt x
  | _ => x

/-- BIN (R348). -/
def Decl.bin (d : Decl) (x : Val) : Nat :=
  match x with
  | .nan => d.bins + 2
  | .inf s => if s then 0 else d.bins + 1
  | .fin _ _ _ =>
    let lo := val32 d.lo
    if x.lt lo then 0
    else
      match (x.add false lo.negate).mul (.ofDyadic 1 (-d.wexp)) with
      | .fin _ n e => if d.bins ≤ n / e then d.bins + 1 else 1 + n / e
      | _ => d.bins + 1

/-- A histogram count that changes by one element (R348): a saturated count stays. -/
def histMove (h : List (Nat × Nat)) (old new : Nat) : List (Nat × Nat) :=
  if old = new then h
  else
    let c := sget 0 h old
    let h := if c = 0xFFFFFFFF then h else sset 0 h old (c - 1)
    sset 0 h new (min (sget 0 h new + 1) 0xFFFFFFFF)

/-- The shadows of a row set from its elements as they stand (R350). -/
def Decl.scanRow (d : Decl) (bytes : List Host.Cell) (row : DrvRow) : DrvRow :=
  let vals := (d.rowCodes bytes row).map d.baseFmt.value
  match d.kind with
  | .rowsum | .rowssq => { row with sum := xsAddAll XS.clear (vals.map d.contribution) }
  | .rowmax => { row with ext := vals.foldl (addExt true) ExtSh.empty }
  | .rowmin => { row with ext := vals.foldl (addExt false) ExtSh.empty }
  | .hist => { row with hist := vals.foldl (fun h x => sset 0 h (d.bin x) (min (sget 0 h (d.bin x) + 1) 0xFFFFFFFF)) [] }
  | .bscale =>
    { row with
      blocks := (List.range ((d.cols + 31) / 32)).map fun k =>
        (((vals.drop (32 * k)).take 32).map blockVal).foldl (addExt true) ExtSh.empty }

/-- Whether withdrawing a value meets a saturated count (R45, R345). -/
def withdrawSaturated (sh : XS) (x : Val) : Bool :=
  match x with
  | .nan => sh.nnan == 0xFFFF
  | .inf s => if s then sh.ninf == 0xFFFF else sh.pinf == 0xFFFF
  | .fin _ _ _ => false

/-- One element's change in a row's shadows (R344 to R348), and whether a rescan starts. -/
def Decl.change (d : Decl) (row : DrvRow) (col : Nat) (old new : Val) : DrvRow × Bool :=
  match d.kind with
  | .rowsum | .rowssq =>
    let o := d.contribution old
    ({ row with sum := xsAdd (xsAdd row.sum o true) (d.contribution new) false }, withdrawSaturated row.sum o)
  | .rowmax =>
    let (e, r) := updateExt true row.ext old new
    ({ row with ext := e }, r)
  | .rowmin =>
    let (e, r) := updateExt false row.ext old new
    ({ row with ext := e }, r)
  | .hist => ({ row with hist := histMove row.hist (d.bin old) (d.bin new) }, false)
  | .bscale =>
    let k := col / 32
    let (e, r) := updateExt true (row.blocks.getD k ExtSh.empty) (blockVal old) (blockVal new)
    ({ row with blocks := row.blocks.set k e }, r)

/-- The start of a rescan of a row (R350, R351): a running one is extended. -/
def DrvRow.rescan (row : DrvRow) : DrvRow :=
  match row.scan with
  | .ready => { row with scan := .scanning }
  | .scanning => { row with scan := .extended }
  | _ => row

/-- The home slices of a declaration's rows, ascending. -/
def Decl.slices (d : Decl) : List Nat := d.rows.foldl (fun l r => setIns r.slice l) []

/-- The count of a bin over the rows that a slice homes, as it would be without saturation (R348). -/
def Decl.binSum (d : Decl) (slice bin : Nat) : Nat :=
  ((d.rows.filter fun r => r.slice == slice && r.scan != .withdrawn).map fun r => sget 0 r.hist bin).sum

/-- Whether a declaration's rows hold so many elements that a count of 32 bits can saturate (R348). -/
def Decl.canSaturate (d : Decl) : Bool := d.kind == .hist && decide (0xFFFFFFFF ≤ d.rows.length * d.cols)

/-- A count of a slice that has reached 2^32 - 1 stays saturated (R348). -/
def Decl.saturateAt (d : Decl) (slice bin : Nat) : Decl :=
  if d.canSaturate && decide (0xFFFFFFFF ≤ d.binSum slice bin) && !d.sat.contains (slice, bin) then
    { d with sat := d.sat ++ [(slice, bin)] }
  else d

/-- The counts that have reached 2^32 - 1 stay saturated (R348). A slice's rows must hold that many elements. -/
def Decl.saturate (d : Decl) : Decl :=
  if d.canSaturate then
    d.slices.foldl (fun d k => (List.range (d.bins + 3)).foldl (fun d j => d.saturateAt k j) d) d
  else d

/-- A slice's partial count of a bin (R348); a slice that has withdrawn holds none (R352). -/
def Decl.partialCount (d : Decl) (slice bin : Nat) : Nat :=
  if d.rows.all fun r => r.slice != slice || r.scan == .withdrawn then 0
  else if d.sat.contains (slice, bin) then 0xFFFFFFFF
  else min (d.binSum slice bin) 0xFFFFFFFF

/-- A row of a declaration changed. -/
def Decl.setRow (d : Decl) (i : Nat) (row : DrvRow) : Decl := { d with rows := d.rows.set i row }

/-- The change of one element of row `i` (R344 to R348), and whether a rescan starts; a count it raises may saturate. -/
def Decl.changeAt (d : Decl) (i col : Nat) (old new : Val) : Decl × Bool :=
  match d.rows[i]? with
  | none => (d, false)
  | some row =>
    let (row', r) := d.change row col old new
    ((d.setRow i row').saturateAt row.slice (d.bin new), r)

/-- Whether a write of `n` bytes from `pa` reaches a marked word with some byte of a row's elements (R344, R441). -/
def Decl.meetsMark (d : Decl) (row : DrvRow) (marks : List Nat) (pa n : Nat) : Bool :=
  let lo := max pa row.pa
  readsPoison marks lo (min (pa + n) (row.pa + rowBytes d.baseFmt d.cols) - lo)

/-- What a store to a base row does to row `i` of one declaration (R344, R441): the elements whose bits altered,
in ascending column order; a store to a marked word marks the row and starts a rescan. -/
def Decl.storeRow (d : Decl) (old new : List Host.Cell) (marked : Bool) (i : Nat) (row : DrvRow) : Decl :=
  match row.scan with
  | .initial => d
  | .withdrawn => d
  | _ =>
    if marked then d.setRow i { row with poison := true }.rescan
    else
      let cs := ((d.rowCodes old row).zip (d.rowCodes new row)).zipIdx
      let (d, r) := cs.foldl (fun acc x =>
        let ((o, n), col) := x
        if o = n then acc
        else
          let (d, r) := acc.1.changeAt i col (d.baseFmt.value o) (d.baseFmt.value n)
          (d, acc.2 || r)) (d, false)
      if r then
        match d.rows[i]? with
        | some row => d.setRow i row.rescan
        | none => d
      else d

/-- What a write of `n` bytes from `pa` does to one declaration (R344): every row it touches; `marks` are the marked words
before the write. -/
def Decl.stored (d : Decl) (old new : List Host.Cell) (marks : List Nat) (pa n : Nat) : Decl :=
  (List.range d.rows.length).foldl (fun d i =>
    match d.rows[i]? with
    | some row => if d.touches row pa n then d.storeRow old new (d.meetsMark row marks pa n) i row else d
    | none => d) d

/-- A write to the home copy with its derivation (R344, R353): every covering row of every declaration is
updated in the same step. -/
def State.homeWrite (s : State) (pa : Nat) (bs : List Byte) : State :=
  let mem := s.mem.store pa bs
  { s with
    mem := mem.note (pa / 64) s.mem.performs true
    drv := s.drv.map fun d => d.stored s.mem.bytes mem.bytes s.mem.poison pa bs.length }

/-- A write of the home copy that no check at issue stands before (R353): a DERIVED frame is not written. -/
def State.backWrite (s : State) (pa : Nat) (bs : List Byte) : State :=
  if (s.mem.frame pa).derived then s else s.homeWrite pa bs

/-- Whether a scan of a row that the bytes touch holds back a base write (R350); the initial scan of every row runs from
its acceptance on. (DEDUCED, log 27.) -/
def State.scanBlocks (s : State) (pa n : Nat) : Bool :=
  s.drv.any fun d => d.rows.any fun row =>
    (row.scan == .initial || row.scan == .scanning || row.scan == .extended) && d.touches row pa n

/-! ### Writes of the machine's own -/

/-- The number of the machine itself among the agents that have requests at the homes; control cores are 0 to 7 and the host
is 8 (R303). -/
def ownAgent : Nat := 9

/-- The request queue of an agent: behind those of the region slots. -/
def portSlot (agent : Nat) : Nat := regionSlots + 1 + agent

/-- A request of an agent at a home. Those of memory type 2 perform in order (R266). -/
def portReq (id agent pa size mt : Nat) (req : PortReq) : Access :=
  { id := id, fid := 0, r := portSlot agent, gen := 0, e := 0, slot := 0, ctx := 0, launch := 0, opc := 0, seq := 0
    kind := .port agent req, pa := pa, va := 0, size := size, mt := mt, data := 0, a := 0, cnt := 0, toks := [], cost := 0
    tva := 0, prog := .start }

/-- A request joins its agent's queue; PERFORM takes it up (R327). -/
def State.joinReqs (s : State) (agent pa size mt : Nat) (req : PortReq) : State :=
  { s with nextId := s.nextId + 1, mem := { s.mem with reqs := s.mem.reqs ++ [portReq s.nextId agent pa size mt req] } }

/-- Whether an earlier write of the machine's own, to one of the bytes or in order before it, still waits. -/
def MemSt.ownBefore (m : MemSt) (pa n mt : Nat) : Bool :=
  m.reqs.any fun b => b.r == portSlot ownAgent &&
    ((mt == 2 && b.mt == 2) || (decide (pa < b.pa + b.size) && decide (b.pa < pa + n)))

/-- Whether a write of the machine's own to `n` bytes of a line cannot perform at once (R309, R312, R350): an agent holds the
line, a window has a word of it in its write mask, a scan holds it back, or an earlier write waits. -/
def State.ownWaits (s : State) (pa n mt : Nat) : Bool :=
  (!isHost pa && ((s.mem.dirAt (pa / 64)).holders != []
    || (s.mem.dirAt (pa / 64)).windows.any fun x => (x.writeM &&& wordMask pa n) != 0))
    || s.scanBlocks pa n || s.mem.ownBefore pa n mt

/-- A write of the machine's own within one line: at once, or as a request that waits as any home-side write does (R312, R350,
R353). (DEDUCED, log 41.) -/
def State.ownLine (s : State) (pa : Nat) (bs : List Byte) : State :=
  if s.ownWaits pa bs.length 2 then s.joinReqs ownAgent pa bs.length 2 (.write bs) else s.backWrite pa bs

/-- What the machine writes of its own, line by line (R257). (DEDUCED, log 41.) -/
def State.ownWrite (s : State) (pa : Nat) (bs : List Byte) : State :=
  (List.range ((pa % 64 + bs.length + 63) / 64)).foldl (fun s i =>
    let lo := max pa (64 * (pa / 64 + i))
    s.ownLine lo ((bs.drop (lo - pa)).take (64 * (pa / 64 + i + 1) - lo))) s

/-- A byte of which some bits are kept and others set. -/
def amendByte (keep set b : Byte) : Byte := (b &&& keep) ||| set

/-- Whether a byte already is as an amendment would leave it, with no copy or write of it that has still to reach the home. -/
def MemSt.amended (m : MemSt) (a : Nat) (keep set : Byte) : Bool :=
  amendByte keep set (readByte m.bytes a) == readByte m.bytes a
    && !((m.dirAt (a / 64)).holders.any fun h => h.stored.contains (a % 64)) && !m.ownBefore a 1 0

/-- The bits that the machine changes in a byte of a page-table entry (R278, R319, R405), through derivation as any write
(R353): at once, or as a request that waits. (DEDUCED, log 62.) -/
def State.ownAmend (s : State) (a : Nat) (keep set : Byte) : State :=
  if s.mem.amended a keep set then s
  else if s.ownWaits a 1 0 then s.joinReqs ownAgent a 1 0 (.amend keep set)
  else s.backWrite a [amendByte keep set (readByte s.mem.bytes a)]

end Sys2Proof.Machine
end

