-- ==== Sys2Proof/Machine/Ops.lean ====
section
/-! DEFINITION. The named operations of the machine: regions, elements and their inputs,
edges and pushes, the end of a launch, and the element trap (R398, R399) as one shared operation. -/

namespace Sys2Proof.Machine

/-- The outcome of a step. -/
abbrev Res := Host.Outcome State Fault Refusal

/-! ### Regions, graphs and elements -/

/-- The region in a slot. -/
def State.region? (s : State) (r : Nat) : Option Region := s.regions[r]?

/-- Writes a region slot. -/
def State.setRegion (s : State) (r : Nat) (g : Region) : State := { s with regions := s.regions.set r g }

/-- Changes a region slot. -/
def State.modRegion (s : State) (r : Nat) (f : Region → Region) : State :=
  match s.region? r with
  | some g => s.setRegion r (f g)
  | none => s

/-- The die of a region slot: slots 0 to 127 are the dies' sixteen each (R17), slots 128 to 135 the walker
regions (R16). -/
def dieOf (r : Nat) : Nat := if r < 128 then r / 16 else r - 128

/-- Writes the configured graph of a region slot. -/
def State.setGraph (s : State) (r : Nat) (g : GraphSt) : State := s.modRegion r fun x => { x with g := some g }

/-- Writes an element of a graph. -/
def GraphSt.setElem (g : GraphSt) (e : Nat) (el : Elem) : GraphSt := { g with elems := g.elems.set e el }

/-- The firing under way, with what it reads: the region, its graph and the element (R64). -/
structure Ctx where
  r : Nat
  e : Nat
  slot : Nat
  reg : Region
  g : GraphSt
  el : Elem

/-- The context of element `e` of region slot `r` at a slot. -/
def State.at? (s : State) (r e slot : Nat) : Option Ctx :=
  match s.region? r with
  | some reg =>
    match reg.g with
    | some g =>
      match g.elems[e]? with
      | some el => some ⟨r, e, slot, reg, g, el⟩
      | none => none
    | none => none
  | none => none

/-- The context of the firing under way. -/
def State.ctx? (s : State) : Option Ctx := s.at? s.focus.r s.focus.e s.focus.slot

/-- Runs a meaning on the firing under way. (DEDUCED, log 13.) -/
def withCtx (s : State) (f : Ctx → Res) : Res :=
  match s.ctx? with
  | some c => f c
  | none => .fault .noElement

/-- Writes the element of a context back. -/
def Ctx.put (c : Ctx) (s : State) (el : Elem) : State := s.setGraph c.r (c.g.setElem c.e el)

/-- The die of a context. -/
def Ctx.die (c : Ctx) : Nat := dieOf c.r

/-- The format a tag names in the region's table (R28). -/
def GraphSt.fmt? (g : GraphSt) (tag : BitVec 3) : Option Fmt := Fmt.ofRecord (g.fmts.get (Fin.ofNat 8 tag.toNat))

/-- The record a tag names. -/
def GraphSt.record (g : GraphSt) (tag : BitVec 3) : Word := g.fmts.get (Fin.ofNat 8 tag.toNat)

/-- The lowest-numbered entry that holds a record (R183, R217, R422). -/
def GraphSt.tagOf? (g : GraphSt) (rec : Word) : Option (BitVec 3) :=
  ((List.range 8).find? fun t => g.fmts.get (Fin.ofNat 8 t) == rec).map (BitVec.ofNat 3)

/-! ### Tokens and inputs -/

/-- Whether a token is a marker. -/
def isMarker (t : Token) : Bool :=
  match t.kind with
  | .marker _ => true
  | _ => false

/-- A drain marker (R165). -/
def drainMarker : Token := ⟨0, .marker .drain, false, false, 0, 0⟩
/-- A pre-emption marker (R406). -/
def preemptMarker : Token := ⟨0, .marker .preempt, false, false, 0, 0⟩

/-- A control token (R25): TAG, LAST and POISON 0. -/
def controlTok (coord : BitVec 16) (v : Payload) : Token := ⟨0, .control, false, false, coord, v⟩

/-- Whether the pair of R74 stands before an input. -/
def Elem.paired (el : Elem) (i : Fin 4) : Bool := el.img.isect && el.pair.active && decide (i.val < 2)

/-- The token at the head of an input (R55, R74): the pair's presented token, or else the FIFO's front; the
pair lets only a marker through unpresented. -/
def Elem.head? (el : Elem) (i : Fin 4) : Option Token :=
  match (el.ins.get i).pres with
  | some t => some t
  | none =>
    match (el.ins.get i).fifo with
    | [] => none
    | t :: _ => if el.paired i && !isMarker t then none else some t

/-- A head is present when it holds a token of kind 0, 1 or 2 (R60). -/
def Elem.present (el : Elem) (i : Fin 4) : Bool :=
  match el.head? i with
  | some t => !isMarker t
  | none => false

/-- Adds 1 to a performance counter, modulo 2^64 (R171). -/
def Elem.perfInc (el : Elem) (k : Nat) : Elem := { el with perf := sset 0 el.perf k (sget 0 el.perf k + 1) }

/-- Changes one input. -/
def Elem.modInput (el : Elem) (i : Fin 4) (f : Input → Input) : Elem :=
  { el with ins := el.ins.set i (f (el.ins.get i)) }

/-- An input without the front of its FIFO: one recorded token fewer waits behind the head (R408). -/
def Input.dropFront (n : Input) : Input := { n with fifo := n.fifo.tail, held := n.held - 1 }

/-- An input without its head: the token behind it reaches the head in the next cycle (R65, R249; DEDUCED, log 84). -/
def Input.dropHead (n : Input) (cycle : Nat) : Input :=
  let n :=
    match n.pres with
    | some _ => { n with pres := none }
    | none => n.dropFront
  { n with headAt := cycle + 1 }

/-- POP on input `i` (R27, R63, R94, R214): nothing on a claimed input, an empty pop where no token of
kind 0 to 2 stands, else the head goes; a poisoned head that was not read is counted. -/
def Elem.popIn (el : Elem) (cycle : Nat) (read : Bool) (i : Fin 4) : Elem :=
  if (el.ins.get i).claimed then el
  else
    match el.head? i with
    | some t =>
      if isMarker t then { el with emptyPop := satInc el.emptyPop }
      else
        let el := (el.modInput i fun n => n.dropHead cycle).perfInc (64 + i.val)
        if t.poison && !read then { el with poisonDiscard := satInc el.poisonDiscard } else el
    | none => { el with emptyPop := satInc el.emptyPop }

/-- POP of every input a POP field names, in ascending order; `read` holds the inputs whose heads the
firing read. -/
def Elem.popAll (el : Elem) (cycle : Nat) (pop read : BitVec 4) : Elem :=
  ([0, 1, 2, 3] : List (Fin 4)).foldl
    (fun el i => if pop.getLsbD i.val then el.popIn cycle (read.getLsbD i.val) i else el) el

/-- Takes the head of a stream input (R213). (DEDUCED, log 20.) -/
def Elem.takeHead (el : Elem) (cycle : Nat) (i : Fin 4) : Elem :=
  (el.modInput i fun n => n.dropHead cycle).perfInc (64 + i.val)

/-! ### Edges and pushes -/

/-- The edge an output drives (R68). -/
def GraphSt.edge? (g : GraphSt) (e : Nat) (o : Fin 4) : Option Edge :=
  g.edges.find? fun d => d.prod == e && d.out == o

/-- The edge that feeds an input (R68). -/
def GraphSt.feed? (g : GraphSt) (e : Nat) (i : Fin 4) : Option Edge :=
  g.edges.find? fun d => d.cons.any fun k => k.elem == e && k.input == i

/-- Whether an element belongs to the partition that runs (R82). -/
def GraphSt.isActive (g : GraphSt) (el : Elem) : Bool := el.img.part == g.part

/-- The places a consumer's FIFO has in use: markers take none (R25), tokens in flight take one (R156). -/
def Input.used (n : Input) : Nat := ((n.inflight ++ n.fifo).filter fun t => !isMarker t).length

/-- The free places of one consumer's FIFO; none while recorded tokens of a restore wait (R408). A consumer of a later
partition takes its tokens in the parking area (R83). -/
def GraphSt.freeAt (g : GraphSt) (d : Edge) (k : Consumer) : Nat :=
  match g.elems[k.elem]? with
  | none => d.cap
  | some el =>
    if el.img.part ≠ g.part then d.cap - ((el.ins.get k.input).inflight.filter fun t => !isMarker t).length
    else if 0 < (el.ins.get k.input).held then 0
    else d.cap - (el.ins.get k.input).used

/-- The smallest number of free places over the consumers of an output's edge (R156); 0 for an output that
drives no edge. -/
def GraphSt.freePlaces (g : GraphSt) (e : Nat) (o : Fin 4) : Nat :=
  match g.edge? e o with
  | none => 0
  | some d => d.cons.foldl (fun m k => min m (g.freeAt d k)) d.cap

/-- The places an element's outstanding firings reserve on an output (R258): DST's until its last data token is pushed, the
completion's until that is. -/
def Elem.reserved (el : Elem) (o : Fin 4) : Nat :=
  (el.outs.map fun f =>
    (if f.dst = some o && !(f.ready && f.data.isEmpty) then 1 else 0) + (if f.cmp = some o && !f.cmpDone then 1 else 0)).sum

/-- Whether an output has `n` free places beside the reserved ones and under the limit of CRDSET (R64,
R69, R157, R258). An output that drives no edge has no consumer to wait for. (DEDUCED, log 21.) -/
def GraphSt.hasSpace (g : GraphSt) (e : Nat) (el : Elem) (o : Fin 4) (n : Nat) : Bool :=
  match g.edge? e o with
  | none => true
  | some d =>
    let free := g.freePlaces e o
    let lim := el.outLimit.get o
    decide (el.reserved o + n ≤ free) && (lim == 0 || decide (d.cap ≤ lim) || decide (d.cap - free < lim))

/-- Whether a data token may go out on an output (R71). -/
def GraphSt.tagOk (g : GraphSt) (e : Nat) (o : Fin 4) (t : Token) : Bool :=
  match t.kind with
  | .data =>
    match g.edge? e o with
    | some d => d.tags.getLsbD t.tag.toNat
    | none => true
  | _ => true

/-- Changes one input of one element of a graph. -/
def GraphSt.modIn (g : GraphSt) (e : Nat) (i : Fin 4) (f : Input → Input) : GraphSt :=
  match g.elems[e]? with
  | some el => g.setElem e (el.modInput i f)
  | none => g

/-- Places one copy of a token on the way to every consumer of an output's edge (R69, R70). -/
def GraphSt.send (g : GraphSt) (e : Nat) (o : Fin 4) (t : Token) : GraphSt :=
  match g.edge? e o with
  | none => g
  | some d => d.cons.foldl (fun g k => g.modIn k.elem k.input fun n => { n with inflight := n.inflight ++ [t] }) g

/-- Pushes a token: the copies, and the producer's push counter (R171). Markers are not counted; a push to an output that
drives no edge is. (DEDUCED, log 103.) -/
def GraphSt.push (g : GraphSt) (e : Nat) (o : Fin 4) (t : Token) : GraphSt :=
  let g := g.send e o t
  match g.elems[e]? with
  | some el => if isMarker t then g else g.setElem e (el.perfInc (68 + o.val))
  | none => g

/-- Pushes several tokens in order. -/
def GraphSt.pushAll (g : GraphSt) (e : Nat) (l : List (Fin 4 × Token)) : GraphSt :=
  l.foldl (fun g x => g.push e x.1 x.2) g

/-- Marks a firing of a slot complete in the counters of R171. -/
def Elem.completed (el : Elem) (slot : Nat) : Elem := (el.perfInc 1).perfInc (32 + slot)

/-! ### The end of a launch -/

/-- The 64 bytes of a status record (R383). -/
def statusRecord (l : Launch) (byte5 entries : Nat) (detail : List Byte) (skips : Nat) (clock : BitVec 64) : List Byte :=
  leBytes 4 l.seq ++ leBytes 1 l.endState ++ leBytes 1 byte5 ++ leBytes 2 entries ++ detail
    ++ leBytes 4 l.races ++ leBytes 4 skips ++ leBytes 8 clock.toNat ++ List.replicate 32 0

/-- The status ring's header (R384). -/
def ringHeader (c : Context) : List Byte :=
  leBytes 4 c.written ++ leBytes 4 c.cfg.ringSlots ++ leBytes 4 (min c.dropped 0xFFFFFFFF) ++ List.replicate 52 0

/-- The context with a number. -/
def SchedSt.context? (d : SchedSt) (ctx : Nat) : Option Context := d.contexts.find? fun c => c.cfg.ctx == ctx

/-- Changes a context. -/
def SchedSt.modContext (d : SchedSt) (ctx : Nat) (f : Context → Context) : SchedSt :=
  { d with contexts := d.contexts.map fun c => if c.cfg.ctx = ctx then f c else c }

/-- The launch with an identifier. -/
def SchedSt.launch? (d : SchedSt) (l : Nat) : Option Launch := d.launches.find? fun x => x.id == l

/-- Changes a launch. -/
def SchedSt.modLaunch (d : SchedSt) (l : Nat) (f : Launch → Launch) : SchedSt :=
  { d with launches := d.launches.map fun x => if x.id = l then f x else x }

/-- The skip count of the entry that submitted a launch (R374, R383). -/
def SchedSt.skips (d : SchedSt) (l : Launch) : Nat :=
  match l.entry with
  | some i =>
    match sget none d.table i with
    | some t => t.skips
    | none => 0
  | none => 0

/-- Writes a status record with its entries to the context's ring, then the header (R383, R384), as any write of a home copy
(R353). (DEDUCED, log 41.) -/
def State.writeStatus (s : State) (l : Launch) (byte5 : Nat) (detail : List Byte) (entries : List (List Byte)) : State :=
  match s.sched.context? l.ctx with
  | none => s
  | some c =>
    if c.cfg.ringSlots = 0 then s
    else
      let ents := entries.take 4088
      let rec_ := statusRecord l byte5 ents.length detail (s.sched.skips l) s.clock
      let at_ := c.cfg.ringBase + 32768 * (c.written % c.cfg.ringSlots + 1)
      let c' := { c with written := c.written + 1 }
      let s := (s.ownWrite at_ (rec_ ++ ents.flatten)).ownWrite c.cfg.ringBase (ringHeader c')
      { s with sched := s.sched.modContext l.ctx fun _ => c' }

/-- The tokens that an intersection pair holds alone or half-matched (R409): a presented token that is no half of a
match, and a data token that waits for the other side. -/
def Elem.pairHeld (el : Elem) : Nat :=
  let a := (el.ins.get 0).pres
  let b := (el.ins.get 1).pres
  let isData (t : Option Token) : Bool :=
    match t with
    | some t => t.kind == .data
    | none => false
  let waits (t u : Option Token) : Bool := isData t && u.isNone
  if a.isNone && b.isNone then
    let fa := (el.ins.get 0).fifo.head?
    let fb := (el.ins.get 1).fifo.head?
    if el.pair.active && el.pair.drain.isNone && (waits fa fb || waits fb fa) then 1 else 0
  else if isData a && isData b then 0
  else (if a.isSome then 1 else 0) + if b.isSome then 1 else 0

/-- Whether an instruction takes several tokens from a stream input in the course of its firing (R213, R268). -/
def takesStream : Instr → Bool
  | .mrow _ _ => true
  | .mrows _ _ => true
  | .mchain _ => true
  | .mbias _ => true
  | .mgrp _ => true
  | .wjoin _ => true
  | .xpose _ => true
  | .lin _ => true
  | .wmap _ => true
  | _ => false

/-- The firings and engines of an element that stand part-way (R216, R262): a firing of R213 that has its unit, load
engines, address streams that have not ended, and link send engines. -/
def Elem.partWay (el : Elem) : Nat :=
  (match el.firing with
   | some f => if f.stage != .wait && takesStream f.instr then 1 else 0
   | none => 0) + el.engines.length +
    (match el.ks with
     | .e x => (x.streams.filter fun t => !t.ended).length + x.sends.length
     | _ => 0)

/-- What a configuration holds that its replacement discards (R409): pair tokens, drain sides, and what stands part-way
(R216). (DEDUCED, log 23.) -/
def GraphSt.discardCount (g : GraphSt) : Nat :=
  (g.elems.map fun el =>
    (if el.img.isect then el.pairHeld + if el.pair.drain.isSome then 1 else 0 else 0) + el.partWay).sum

/-- The clusters of a region slot, numbered die-major then row-major (R17, R435). -/
def Region.clusters (reg : Region) (r : Nat) : List Nat :=
  (List.range reg.h).flatMap fun j => (List.range reg.w).map fun i => dieOf r * 64 + (reg.y + j) * 8 + reg.x + i

/-- Clusters that are FREE or GATED take the margins planned for them (R438). -/
def VoltSt.settle (v : VoltSt) (l : List Nat) : VoltSt :=
  let due := v.planned.filter fun x => l.contains x.1
  { margins := due.foldl (fun m x => sset 0 m x.1 x.2) v.margins
    planned := v.planned.filter fun x => !l.contains x.1 }

/-- Empties a region slot, which keeps its generation until the next load (R81, R324); its clusters pass through FREE. -/
def State.freeRegion (s : State) (r : Nat) (reg : Region) : State :=
  { s.setRegion r { Region.empty with gen := reg.gen } with volt := s.volt.settle (reg.clusters r) }

/-- Releases a region to FREE: its elements are zeroed and what R409 names is counted (R81, R323). -/
def State.releaseRegion (s : State) (r : Nat) : State :=
  match s.region? r with
  | none => s
  | some reg =>
    let n := match reg.g with
      | some g => g.discardCount
      | none => 0
    let s := s.freeRegion r reg
    { s with mem := { s.mem with replaceDiscard := bumpBy s.mem.replaceDiscard (dieOf r) n } }

/-- Drops every window mask of a launch: its windows, and with them their dirty words, are gone (R81, R305; DEDUCED,
log 88). -/
def State.dropMasks (s : State) (l : Nat) : State :=
  { s with
    mem := { s.mem with
      dir := (s.mem.dir.map fun (k, d) => (k, { d with windows := d.windows.filter fun m => m.l != l })).filter
        fun (_, d) => d != DirEnt.empty } }

/-- The race pairs as status entries (R383). -/
def pairEntries (l : List (Nat × Nat)) : List (List Byte) := l.map fun (a, b) => leBytes 4 a ++ leBytes 4 b

/-- Ends a launch (R375): the status record is written, the region returns to FREE, its declarations are
withdrawn (R340), its checkpoint goes (R298), and its signal counter becomes due. A deadlock report stands before the
race pairs of a launch in flag mode (R339, R382). (DEDUCED, log 94.) -/
def State.endLaunch (s : State) (l endState byte5 : Nat) (detail : List Byte) (entries : List (List Byte)) : State :=
  match s.sched.launch? l with
  | none => s
  | some x =>
    if x.state = .ended then s
    else
      let x := { x with state := .ended, endState := endState, endAt := s.clock.toNat, sigDue := true, saved := none }
      let s := s.writeStatus x byte5 detail ((if endState = 1 then entries else []) ++ pairEntries x.flagged)
      let s :=
        match x.region with
        | some r => s.releaseRegion r
        | none => s
      let s := s.dropMasks l
      { s with
        sched := { s.sched.modLaunch l fun _ => { x with region := none } with
          checkpoints := s.sched.checkpoints.filter fun c => c.1 != l }
        drv := s.drv.map fun d => if d.launch = l && d.withdraw.isNone then { d with withdraw := some none } else d }

/-! ### Element traps -/

/-- The trap codes of R398 (R218). -/
def trapPOISON : Nat := 1
def trapFORMAT : Nat := 2
def trapISECT : Nat := 3
def trapKLEN : Nat := 4
def trapGRPOVER : Nat := 5
def trapPARAM : Nat := 6
def trapSEQ : Nat := 7
def trapALIGN : Nat := 8
def trapADDR : Nat := 9
def trapWRITE : Nat := 10
def trapDERIVED : Nat := 11
def trapSPILL : Nat := 12
def trapLINK : Nat := 13
def trapUSER : Nat := 14

/-- The detail bytes of a trap (R383, R399). -/
def trapDetail (e slot imm : Nat) : List Byte :=
  leBytes 4 e ++ leBytes 1 slot ++ leBytes 1 imm ++ List.replicate 2 0

/-- An element trap of a launch, wherever its image stands (R398, R399): the launch ends with end state 3 and the report that
names the element, the slot and the code. -/
def State.trapLaunch (s : State) (l e slot code imm : Nat) : State := s.endLaunch l 3 code (trapDetail e slot imm) []

/-- Takes an element trap of a region (R398, R399). The firing writes nothing. A region that belongs to no launch
is released. (DEDUCED, log 12.) -/
def State.raiseTrap (s : State) (r e slot code imm : Nat) : State :=
  match s.region? r with
  | none => s
  | some reg =>
    match s.sched.launch? reg.launch with
    | some x => s.trapLaunch x.id e slot code imm
    | none => s.releaseRegion r

/-- The trap of the firing under way, as a next state. -/
def Ctx.trap (c : Ctx) (s : State) (code : Nat) : Res := .next (s.raiseTrap c.r c.e c.slot code 0)

/-! ### Completing a firing -/

/-- Whether every push of a firing is inside its producer's set (R71). -/
def GraphSt.tagsOk (g : GraphSt) (e : Nat) (l : List (Fin 4 × Token)) : Bool := l.all fun x => g.tagOk e x.1 x.2

/-- Steps 3 to 5 of R65 on a graph: the element's new state, its pops, the pushes, and the counters. -/
def GraphSt.finish (g : GraphSt) (e slot cycle : Nat) (el : Elem) (pushes : List (Fin 4 × Token)) (pop read : BitVec 4) :
    GraphSt :=
  (g.setElem e ((el.popAll cycle pop read).completed slot)).pushAll e pushes

/-- Completes a firing (R65): a push outside the producer's set raises FORMAT and nothing is written. -/
def Ctx.finish (c : Ctx) (s : State) (el : Elem) (pushes : List (Fin 4 × Token)) (pop read : BitVec 4) : Res :=
  if c.g.tagsOk c.e pushes then .next (s.setGraph c.r (c.g.finish c.e c.slot s.cycle el pushes pop read))
  else c.trap s trapFORMAT

/-- Draws a free value's number. -/
def State.drawFree (s : State) : Nat × State := (s.freeCtr, { s with freeCtr := s.freeCtr + 1 })

/-- Draws the place of a performance in the order of performances (R258, R327). -/
def State.performNo (s : State) : State × Nat :=
  ({ s with mem := { s.mem with performs := s.mem.performs + 1 } }, s.mem.performs)

/-- A reply to an access, in the order of performances (R327). -/
def State.replied (s : State) (a : Access) (v : ReplyVal) : State :=
  { s with mem := { s.mem with replies := s.mem.replies ++ [⟨a, v, s.mem.performs⟩], performs := s.mem.performs + 1 } }

/-- Draws an identifier for a firing or an access. -/
def State.fresh (s : State) : Nat × State := (s.nextId, { s with nextId := s.nextId + 1 })

end Sys2Proof.Machine
end

