-- ==== Sys2Proof/Machine/Flags.lean ====
section
/-! DEFINITION. Predicates and the conditions that instructions write to them (R95, R96, R178, R184). -/

namespace Sys2Proof.Machine

/-- Writes one predicate. -/
def setPred (p : BitVec 8) (n : Nat) (v : Bool) : BitVec 8 :=
  BitVec.ofNat 8 (((List.range 8).map fun i => if (if i = n then v else p.getLsbD i) then 2 ^ i else 0).sum)

/-- The PW field (R95): bit 3 enables, bits [2:0] name the predicate. -/
def writePw (p : BitVec 8) (pw : BitVec 4) (cond : Bool) : BitVec 8 :=
  if pw.getLsbD 3 then setPred p (pw.extractLsb' 0 3).toNat cond else p

/-- The SET and CLR fields of a P form (R96): 1 0 sets, 0 1 clears, 1 1 inverts. -/
def setClr (p set clr : BitVec 8) : BitVec 8 :=
  (p &&& ~~~(set ||| clr)) ||| (set &&& ~~~clr) ||| (set &&& clr &&& ~~~p)

/-- The default condition (R95): bits [31:0] of the result are not all zero. -/
def defaultCond (res : Payload) : Bool := lane32 res 0 != 0

/-- The condition "a lane is NaN" (R184) over the first `n` lanes of width `w` in a format. -/
def laneNaN (f : Fmt) (w n : Nat) (res : Payload) : Bool :=
  (List.range n).any fun i => (f.value (lane res w i).toNat).isNaN

/-- "A lane was out of range" (R184): the input is NaN or infinite, or rounds outside the INT32 range. -/
def outOfInt32 (mode : RMode) (v : Val) : Bool :=
  match v with
  | .nan => true
  | .inf _ => true
  | .fin s n d =>
    let z := roundInt mode s n d
    decide (z < -(2 ^ 31)) || decide (z > 2 ^ 31 - 1)

/-- Writes the predicates of an element. -/
def Elem.withPw (el : Elem) (pw : BitVec 4) (cond : Bool) : Elem := { el with p := writePw el.p pw cond }

/-- Writes SET and CLR of an element. -/
def Elem.withSetClr (el : Elem) (set clr : BitVec 8) : Elem := { el with p := setClr el.p set clr }

end Sys2Proof.Machine
end

