-- ==== Sys2Proof/Machine/Operands.lean ====
section
/-! DEFINITION. Reading operands and forming results (R90, R92, R141 to R144): one operation for each of
the action forms whose firings read, compute, write, and pop in one step (R65). -/

namespace Sys2Proof.Machine

/-- A source operand's 256 bits (R141); `k` is the constant index of R92 and R93. -/
def Ctx.src (c : Ctx) (k : BitVec 4) : Src → Payload
  | .reg n => c.el.d.get n
  | .head n =>
    match c.el.head? n with
    | some t => t.payload
    | none => 0
  | .const => c.el.img.consts.get (Fin.ofNat 16 k.toNat)
  | .zero => 0

/-- The token at the head a source names. -/
def Ctx.srcTok? (c : Ctx) : Src → Option Token
  | .head n => c.el.head? n
  | _ => none

/-- Whether a source is a poisoned head (R27). -/
def Ctx.poisoned (c : Ctx) (x : Src) : Bool :=
  match c.srcTok? x with
  | some t => t.poison
  | none => false

/-- Whether a source is a head. -/
def isHead : Src → Bool
  | .head _ => true
  | _ => false

/-- Whether a source is a constant. -/
def isConst : Src → Bool
  | .const => true
  | _ => false

/-- The inputs whose heads the sources name. -/
def readMask (l : List Src) : BitVec 4 :=
  l.foldl (fun m x =>
    match x with
    | .head n => m ||| BitVec.ofNat 4 (2 ^ n.val)
    | _ => m) 0

/-- TAG of R143: of the first head or constant, else 1. -/
def Ctx.tagOf (c : Ctx) (k : BitVec 4) : List Src → BitVec 3
  | [] => 1
  | .head n :: _ =>
    match c.el.head? n with
    | some t => t.tag
    | none => 0
  | .const :: _ => c.el.img.ctags.get (Fin.ofNat 16 k.toNat)
  | _ :: r => c.tagOf k r

/-- LAST and COORD of R143: of the first head, else 0. -/
def Ctx.sideOf (c : Ctx) : List Src → Bool × BitVec 16
  | [] => (false, 0)
  | .head n :: _ =>
    match c.el.head? n with
    | some t => (t.last, t.coord)
    | none => (false, 0)
  | _ :: r => c.sideOf r

/-- The data token of R143. -/
def Ctx.tok (c : Ctx) (k : BitVec 4) (srcs : List Src) (tag : Option (BitVec 3)) (res : Payload) : Token :=
  ⟨tag.getD (c.tagOf k srcs), .data, (c.sideOf srcs).1, false, (c.sideOf srcs).2, res⟩

/-- Writes a register destination (R144). -/
def Elem.writeDst (el : Elem) (dst : Dst) (res : Payload) : Elem :=
  match dst with
  | .reg n => { el with d := el.d.set n res }
  | _ => el

/-- The push of an output destination. -/
def pushesOf (dst : Dst) (t : Token) : List (Fin 4 × Token) :=
  match dst with
  | .out o => [(o, t)]
  | _ => []

/-- The effective MOD of an R form: 0 when an operand is a constant (R92). -/
def modOf (f : RForm) : BitVec 4 := if isConst f.sa || isConst f.sb then 0 else f.md

/-- What an ordinary instruction computes: its result, its condition, and the tag that replaces R143's. -/
structure Out where
  res : Payload
  cond : Bool
  tag : Option (BitVec 3)

/-- A result with the default condition of R95 and the tag of R143. -/
def Out.plain (res : Payload) : Out := ⟨res, defaultCond res, none⟩

/-- A result with its own condition. -/
def Out.withCond (res : Payload) (cond : Bool) : Out := ⟨res, cond, none⟩

/-- An ordinary firing (R65): a poisoned head among the sources raises POISON (R27); else the result goes
to the destination, the condition to the predicate of PW, and the inputs of POP are dequeued. -/
def Ctx.ordinary (c : Ctx) (s : State) (srcs : List Src) (dst : Dst) (k pop pw : BitVec 4) (o : Out) : Res :=
  if srcs.any c.poisoned then c.trap s trapPOISON
  else
    c.finish s ((c.el.writeDst dst o.res).withPw pw o.cond) (pushesOf dst (c.tok k srcs o.tag o.res)) pop (readMask srcs)

/-- An ordinary instruction of the R form: `h` gets the effective MOD, A and B. -/
def ordinaryR (s : State) (f : RForm) (h : Ctx → BitVec 4 → Payload → Payload → Out) : Res :=
  withCtx s fun c =>
    c.ordinary s [f.sa, f.sb] f.dst f.md f.pop f.pw (h c (modOf f) (c.src f.md f.sa) (c.src f.md f.sb))

/-- An ordinary instruction of the I form: `h` gets IMM and A. -/
def ordinaryI (s : State) (f : IForm) (h : Ctx → BitVec 8 → Payload → Out) : Res :=
  withCtx s fun c =>
    c.ordinary s [f.sa] f.dst (f.imm.extractLsb' 0 4) f.pop f.pw (h c f.imm (c.src (f.imm.extractLsb' 0 4) f.sa))

/-- An ordinary instruction of the X form: `h` gets CNT, A and B. -/
def ordinaryX (s : State) (f : XForm) (h : Ctx → BitVec 8 → Payload → Payload → Out) : Res :=
  withCtx s fun c =>
    c.ordinary s [f.sa, f.sb] f.dst 0 f.pop 0 (h c f.cnt (c.src 0 f.sa) (c.src 0 f.sb))

/-- A firing that reads its sources and changes only the element: a poisoned head raises POISON. -/
def Ctx.quiet (c : Ctx) (s : State) (srcs : List Src) (el : Elem) (pop : BitVec 4) : Res :=
  if srcs.any c.poisoned then c.trap s trapPOISON else c.finish s el [] pop (readMask srcs)

/-- A P-form firing (R96): the predicates of SET and CLR, then the pops. -/
def Ctx.pform (c : Ctx) (s : State) (f : PForm) (el : Elem) : Res :=
  c.finish s (el.withSetClr f.set f.clr) [] f.pop 0

end Sys2Proof.Machine
end

