-- ==== Sys2Proof/Machine/Special.lean ====
section
/-! DEFINITION. The functions of R196 and R197 and the wide exponential form WX of R205. An irrational value
is bounded below and above by rationals in fixed point; when both bounds round to one code, that code is
the correctly rounded result, and the bounds are close enough that this is the case unless the value lies
within 2^-160 of a boundary, where the result is `Config.undecided`. -/

namespace Sys2Proof.Machine

/-- The fraction bits of the fixed point. -/
def fxP : Nat := 256

/-- 1 in fixed point. -/
def fxOne : Nat := 2 ^ fxP

/-- The distance, in units of the last place, that the sums below keep from the exact value. -/
def fxErr : Nat := 2 ^ 16

/-- Σ_{k ≥ 0} f^k / k! by its first `n` terms, each rounded down: e^f for 0 ≤ f ≤ 1 in fixed point. -/
def fxExpSum (f : Nat) : (fuel k term acc : Nat) → Nat
  | 0, _, _, acc => acc
  | n + 1, k, term, acc => fxExpSum f n (k + 1) (term * f / fxOne / k) (acc + term)

/-- e^f for 0 ≤ f ≤ 1, less at most `fxErr` units. -/
def fxExp (f : Nat) : Nat := fxExpSum f 80 1 fxOne 0

/-- Σ z^(2k+1) / (2k+1) by its first `n` terms, each rounded down: atanh z for 0 ≤ z ≤ 1/3. -/
def fxAtanhSum (z2 : Nat) : (fuel k pow acc : Nat) → Nat
  | 0, _, _, acc => acc
  | n + 1, k, pow, acc => fxAtanhSum z2 n (k + 1) (pow * z2 / fxOne) (acc + pow / (2 * k + 1))

/-- atanh(n / d) for 0 ≤ n / d ≤ 1/3, less at most `fxErr` units. -/
def fxAtanh (n d : Nat) : Nat :=
  let z := n * fxOne / d
  fxAtanhSum (z * z / fxOne) 100 0 z 0

/-- ln 2 = 2 atanh(1/3), less at most `fxErr` units. -/
def fxLn2 : Nat := 2 * fxAtanh 1 3

/-- A non-negative real as a pair of bounds. -/
structure Bounds where
  lo : Nat × Nat
  hi : Nat × Nat

/-- 2^i × e^f for f in fixed point with an error below 2^32 units. -/
def expBounds (i : Int) (f : Nat) : Bounds :=
  let m := fxExp f
  let lo := m - 2 ^ 40
  let hi := m + 2 ^ 40
  if 0 ≤ i then ⟨(lo * 2 ^ i.toNat, fxOne), (hi * 2 ^ i.toNat, fxOne)⟩
  else ⟨(lo, fxOne * 2 ^ (-i).toNat), (hi, fxOne * 2 ^ (-i).toNat)⟩

/-- 2^x for a rational x = ± n / d. -/
def exp2Bounds (neg : Bool) (n d : Nat) : Bounds :=
  let x : Int := if neg then -(n : Int) else n
  let i := x.fdiv d
  let r := (x - i * d).toNat
  expBounds i (r * fxLn2 / d)

/-- e^x for a rational x = ± n / d. -/
def expEBounds (neg : Bool) (n d : Nat) : Bounds :=
  let x : Int := (if neg then -(n : Int) else n) * fxOne
  let i := x.fdiv (d * fxLn2)
  let f := x.fdiv d - i * fxLn2
  expBounds i (min f.toNat fxOne)

/-- Whether a rational is a power of two, and which. -/
def pow2Of? (n d : Nat) : Option Int :=
  let k := ilog2 n d
  let hit := if 0 ≤ k then decide (n = d * 2 ^ k.toNat) else decide (n * 2 ^ (-k).toNat = d)
  if hit then some k else none

/-- The magnitude bounds of log2(n / d) with its sign: k + log2 m, 1 < m < 2. -/
def log2Bounds (n d : Nat) : Bool × Bounds :=
  let k := ilog2 n d
  let nn := if 0 ≤ k then n else n * 2 ^ (-k).toNat
  let dd := if 0 ≤ k then d * 2 ^ k.toNat else d
  let l := 2 * fxAtanh (nn - dd) (nn + dd)
  let v : Int := k * fxOne + (l * fxOne / fxLn2 : Nat)
  let err : Nat := 2 ^ 40
  (decide (v < 0), ⟨(v.natAbs - err, fxOne), (v.natAbs + err, fxOne)⟩)

/-- The FP32 code that both bounds of a value with a sign round to, RNE. (DESIGN CHOICE, log 8.) -/
def roundBounds (key : Nat) (neg : Bool) (b : Bounds) : Word :=
  let x := rneFP32 (.fin neg b.lo.1 b.lo.2)
  let y := rneFP32 (.fin neg b.hi.1 b.hi.2)
  if x = y then x else BitVec.ofNat 32 (Config.undecided key)

/-- floor of the square root, by `fuel` halving steps from bit `fuel - 1` down. -/
def isqrtGo (n : Nat) : (fuel r : Nat) → Nat
  | 0, r => r
  | k + 1, r =>
    let t := r + 2 ^ k
    isqrtGo n k (if t * t ≤ n then t else r)

/-- floor of the square root. -/
def isqrt (n : Nat) : Nat := isqrtGo n (Nat.log2 n / 2 + 1) 0

/-- The bounds of sqrt(n / d), exact when it is rational with denominator d × 2^300. -/
def sqrtBounds (n d : Nat) : Bounds :=
  let v := n * d * 2 ^ 600
  let r := isqrt v
  let q := d * 2 ^ 300
  ⟨(r, q), (if r * r = v then r else r + 1, q)⟩

/-- The canonical NaN of FP32. -/
def nan32 : Word := BitVec.ofNat 32 fp32.nanCode
/-- +∞ of FP32. -/
def inf32 : Word := 0x7F800000
/-- 1 in FP32. -/
def one32 : Word := 0x3F800000

/-- EXP2 (R196). -/
def fnExp2 (w : Word) : Word :=
  match val32 w with
  | .nan => nan32
  | .inf s => if s then 0 else inf32
  | .fin s n d =>
    if n = 0 then one32
    else if n ≥ 200 * d then (if s then 0 else inf32)
    else if n % d = 0 then rneFP32 (.ofDyadic 1 (if s then -((n / d : Nat) : Int) else (n / d : Nat)))
    else roundBounds w.toNat false (exp2Bounds s n d)

/-- LOG2 (R196). -/
def fnLog2 (w : Word) : Word :=
  match val32 w with
  | .nan => nan32
  | .inf s => if s then nan32 else inf32
  | .fin s n d =>
    if n = 0 then 0xFF800000
    else if s then nan32
    else
      match pow2Of? n d with
      | some k => rneFP32 (.ofInt k)
      | none =>
        let (neg, b) := log2Bounds n d
        roundBounds (w.toNat + 2 ^ 32) neg b

/-- RCP (R196). -/
def fnRcp (w : Word) : Word :=
  match val32 w with
  | .nan => nan32
  | .inf s => rneFP32 (.fin s 0 1)
  | .fin s n d => if n = 0 then rneFP32 (.inf s) else rneFP32 (.fin s d n)

/-- SQRT (R196). -/
def fnSqrt (w : Word) : Word :=
  match val32 w with
  | .nan => nan32
  | .inf s => if s then nan32 else inf32
  | .fin s n d =>
    if n = 0 then w
    else if s then nan32
    else roundBounds (w.toNat + 2 * 2 ^ 32) false (sqrtBounds n d)

/-- RSQRT (R196). -/
def fnRsqrt (w : Word) : Word :=
  match val32 w with
  | .nan => nan32
  | .inf s => if s then nan32 else 0
  | .fin s n d =>
    if n = 0 then rneFP32 (.inf s)
    else if s then nan32
    else roundBounds (w.toNat + 3 * 2 ^ 32) false (sqrtBounds d n)

/-- RNE_FP32 of a product, a sum, a difference and a quotient of FP32 words. -/
def mul32 (a b : Word) : Word := rneFP32 ((val32 a).mul (val32 b))
def add32 (a b : Word) : Word := rneFP32 ((val32 a).add false (val32 b))
def sub32 (a b : Word) : Word := rneFP32 ((val32 a).add false (val32 b).negate)
def div32 (a b : Word) : Word := rneFP32 ((val32 a).div (val32 b))
/-- The word with its sign inverted. -/
def neg32 (a : Word) : Word := a ^^^ 0x80000000
/-- The word with sign +. -/
def abs32 (a : Word) : Word := a &&& 0x7FFFFFFF

/-- The constants of R197. -/
def cL : Word := 0x3FB8AA3B
def cTwoL : Word := 0x4038AA3B
def cG1 : Word := 0x3D372713
def cG2 : Word := 0x3F4C422A

/-- EXP (R197). -/
def fnExp (x : Word) : Word := fnExp2 (mul32 x cL)

/-- SIGM (R197). -/
def fnSigm (x : Word) : Word := fnRcp (add32 one32 (fnExp2 (mul32 (neg32 x) cL)))

/-- TANH (R197). -/
def fnTanh (x : Word) : Word :=
  if (val32 x).isNaN then nan32
  else if !(val32 (abs32 x)).lt (.ofInt 9) then (x &&& 0x80000000) ||| one32
  else if (val32 (abs32 x)).lt (.ofDyadic 1 (-12)) then x
  else
    let e := fnExp2 (neg32 (mul32 (abs32 x) cTwoL))
    let q := div32 (sub32 one32 e) (add32 one32 e)
    (x &&& 0x80000000) ||| abs32 q

/-- GELU (R197). -/
def fnGelu (x : Word) : Word :=
  match val32 x with
  | .nan => nan32
  | .inf s => if s then 0x80000000 else inf32
  | .fin _ _ _ =>
    let c := mul32 (mul32 x x) x
    let y := add32 x (mul32 cG1 c)
    let g := add32 one32 (fnTanh (mul32 y cG2))
    mul32 (mul32 0x3F000000 x) g

/-! ### The wide exponential form -/

/-- WX (R205): a 24-bit significand and a biased exponent; E = 0 is +0. -/
structure WX where
  m : Nat
  e : Nat
deriving DecidableEq, Repr, Inhabited

/-- The value of a WX as numerator and denominator (R205). (DEDUCED, log 89.) -/
def WX.rat (x : WX) : Nat × Nat :=
  if x.e = 0 then (0, 1)
  else if 32790 ≤ x.e then (x.m * 2 ^ (x.e - 32790), 1) else (x.m, 2 ^ (32790 - x.e))

/-- WX_RNE of n / d (R205); none when it overflows. -/
def wxRound (n d : Nat) : Option WX :=
  if n = 0 then some ⟨0, 0⟩
  else
    let k := ilog2 n d
    let t := roundUnits .rne false n d (k - 23)
    let (t, k) := if t = 2 ^ 24 then (2 ^ 23, k + 1) else (t, k)
    if k < -32766 then some ⟨0, 0⟩
    else if 32768 ≤ k then none
    else some ⟨t, (k + 32767).toNat⟩

/-- WX_RNE(e^x) of a finite FP32 value x ≤ 22,713 (R205, R207). -/
def wxExp (key : Nat) (neg : Bool) (n d : Nat) : WX :=
  if n = 0 then ⟨2 ^ 23, 32767⟩
  else if neg && n ≥ 40000 * d then ⟨0, 0⟩
  else
    let b := expEBounds neg n d
    let x := wxRound b.lo.1 b.lo.2
    let y := wxRound b.hi.1 b.hi.2
    if x = y then x.getD ⟨0, 0⟩
    else ⟨2 ^ 23 + Config.undecided key % 2 ^ 23, 1 + Config.undecided (key + 1) % 65534⟩

/-- The record of R206. -/
structure SMaxSt where
  s : WX
  k : Nat
  nan : Nat
  u : Nat
deriving DecidableEq, Repr, Inhabited

/-- Reads a state record (R206). -/
def SMaxSt.ofPayload (v : Payload) : SMaxSt :=
  ⟨⟨(lane32 v 0).toNat % 2 ^ 24, (lane32 v 1).toNat % 2 ^ 16⟩, (lane32 v 2).toNat, (lane32 v 3).toNat, (lane32 v 4).toNat⟩

/-- Writes a state record (R206). -/
def SMaxSt.payload (x : SMaxSt) : Payload :=
  ofWords [BitVec.ofNat 32 x.s.m, BitVec.ofNat 32 x.s.e, BitVec.ofNat 32 x.k, BitVec.ofNat 32 x.nan, BitVec.ofNat 32 x.u]

/-- A count that saturates at 2^32 - 1 (R206). -/
def sat32Add (a b : Nat) : Nat := min (a + b) 0xFFFFFFFF

/-- WX_RNE(a + b). -/
def wxAdd (a b : WX) : Option WX :=
  let (n, d) := a.rat
  let (m, e) := b.rat
  wxRound (n * e + m * d) (d * e)

/-- Whether an input counts as +∞ (R207): +∞ or above 22,713. -/
def countsInf (v : Val) : Bool := v == .inf false || (Val.ofInt 22713).lt v

/-- One lane of SMAX with MOD 0 (R207). -/
def smaxLane (st : SMaxSt) (w : Word) : SMaxSt :=
  match val32 w with
  | .inf true => st
  | .nan => { st with u := sat32Add st.u 1, nan := sat32Add st.nan 1 }
  | .inf false => { st with u := sat32Add st.u 1, k := sat32Add st.k 1 }
  | .fin s n d =>
    let st := { st with u := sat32Add st.u 1 }
    if countsInf (.fin s n d) then { st with k := sat32Add st.k 1 }
    else
      match wxAdd st.s (wxExp (w.toNat + 4 * 2 ^ 32) s n d) with
      | some x => { st with s := x }
      | none => { st with nan := sat32Add st.nan 1 }

/-- SMAX with MOD 0: the lanes of A in ascending order (R207). -/
def smaxAdd (a b : Payload) : SMaxSt :=
  (List.range 8).foldl (fun st i => smaxLane st (lane32 a i)) (.ofPayload b)

/-- SMAX with MOD 2 (R208). -/
def smaxMerge (a b : Payload) : SMaxSt :=
  let x := SMaxSt.ofPayload a
  let y := SMaxSt.ofPayload b
  let st : SMaxSt := ⟨x.s, sat32Add x.k y.k, sat32Add x.nan y.nan, sat32Add x.u y.u⟩
  match wxAdd x.s y.s with
  | some z => { st with s := z }
  | none => { st with nan := sat32Add st.nan 1 }

/-- One output lane of SMAX with MOD 1 (R209). (DEDUCED, log 93.) -/
def smaxOut (st : SMaxSt) (w : Word) : Word :=
  let x := val32 w
  if st.nan > 0 then nan32
  else if st.k > 0 then (if countsInf x then rneFP32 (.fin false 1 st.k) else 0)
  else if st.s.rat.1 = 0 then 0
  else
    match x with
    | .nan => nan32
    | .inf s => if s then 0 else rneFP32 (.inf false)
    | .fin s n d =>
      let (sn, sd) := st.s.rat
      if n = 0 then rneFP32 (.fin false sd sn)
      else if s && n ≥ 100000 * d then 0
      else
        let b := expEBounds s n d
        roundBounds (w.toNat + 5 * 2 ^ 32) false ⟨(b.lo.1 * sd, b.lo.2 * sn), (b.hi.1 * sd, b.hi.2 * sn)⟩

/-- SMAX with MOD 1 (R209). -/
def smaxNorm (a b : Payload) : Payload := allLanes 32 fun i => smaxOut (.ofPayload b) (lane32 a i)

/-- The empty state (R210); a sum whose significand is 0 is +0 too (R205). -/
def SMaxSt.empty? (st : SMaxSt) : Bool := st.nan == 0 && st.k == 0 && st.s.rat.1 == 0

end Sys2Proof.Machine
end

