-- ==== Sys2Proof/Machine/Float.lean ====
section
/-! DEFINITION. Opcodes 0x60 to 0x9F (R181 to R210): vector floating point, conversions, special functions,
random bits, exact accumulation and the soft maximum. -/

namespace Sys2Proof.Machine

/-! ### Variants and rounding -/

/-- The three variants of a float family (R181). -/
inductive FVar where
  | f32 | f16 | bf16
deriving DecidableEq, Repr, Inhabited

/-- The format of a variant. -/
def FVar.fmt : FVar → Fmt
  | .f32 => fp32
  | .f16 => fp16
  | .bf16 => Sys2Proof.Machine.bf16

/-- The lane width and the number of lanes of a variant (R181). -/
def FVar.w : FVar → Nat
  | .f32 => 32
  | _ => 16
def FVar.n : FVar → Nat
  | .f32 => 8
  | _ => 16

/-- The variant tag (R183): 0 for .f32, else the lowest entry with the variant's record. -/
def Ctx.vtag (c : Ctx) : FVar → BitVec 3
  | .f32 => 0
  | .f16 => (c.g.tagOf? recFP16).getD 0
  | .bf16 => (c.g.tagOf? recBF16).getD 0

/-- The seed of the launch that owns the region (R53, R369); 0 in a walker region, which belongs to no launch (R16).
(DESIGN CHOICE, log 106.) -/
def State.seedOf (s : State) (reg : Region) : BitVec 64 :=
  match s.sched.launch? reg.launch with
  | some l => l.record.seed
  | none => 0

/-- The rounding mode of a code (R40) for the value with index `j`; stochastic rounding draws its bits from
the context in d7 (R186). -/
def Ctx.rmode (c : Ctx) (s : State) (code j : Nat) : RMode :=
  match code with
  | 0 => .rne
  | 1 => .rz
  | 2 => .rd
  | 3 => .ru
  | 4 => .ra
  | _ =>
    let d7 := c.el.d.get 7
    let t := lane d7 32 0
    let cc : BitVec 64 := lane d7 64 1 + (lane d7 32 4).setWidth 64 * BitVec.ofNat 64 j
    .sr (kch (s.seedOf c.reg) t cc).2.1.toNat

/-- The value of lane `i` of a payload in a variant. -/
def FVar.val (v : FVar) (p : Payload) (i : Nat) : Val := v.fmt.value (lane p v.w i).toNat

/-- The payload whose lanes are codes of a variant. -/
def FVar.pack (v : FVar) (f : Nat → Nat) : Payload := ofLanes v.w (fun i => BitVec.ofNat v.w (f i)) v.n

/-- A lane-wise arithmetic instruction (R187, R188): tag and condition of R183 and R184. -/
def floatOp (v : FVar) (f : RForm) (s : State) (h : Ctx → (Nat → RMode) → Nat → Val → Val → Val) : Res :=
  ordinaryR s f fun c md a b =>
    let rm := c.rmode s md.toNat
    let res := v.pack fun i => roundTo v.fmt (rm i) (h c rm i (v.val a i) (v.val b i))
    ⟨res, laneNaN v.fmt v.w v.n res, some (c.vtag v)⟩

/-- An exact lane-wise instruction whose MOD is no rounding mode (R188). -/
def floatExact (v : FVar) (f : RForm) (s : State) (h : Val → Val → Val) : Res :=
  ordinaryR s f fun c _ a b =>
    let res := v.pack fun i => roundTo v.fmt .rne (h (v.val a i) (v.val b i))
    ⟨res, laneNaN v.fmt v.w v.n res, some (c.vtag v)⟩

/-- A comparison (R189). -/
def floatCmp (v : FVar) (f : RForm) (s : State) (h : Val → Val → Bool) : Res :=
  ordinaryR s f fun _ _ a b =>
    let res := v.pack fun i => if h (v.val a i) (v.val b i) then 2 ^ v.w - 1 else 0
    ⟨res, h (v.val a 0) (v.val b 0), some 1⟩

/-- FADD (R187). -/
def opFadd (v : FVar) (f : RForm) (s : State) : Res :=
  floatOp v f s fun _ rm i x y => x.add (rm i).zneg y
/-- FSUB (R187). -/
def opFsub (v : FVar) (f : RForm) (s : State) : Res :=
  floatOp v f s fun _ rm i x y => x.add (rm i).zneg y.negate
/-- FMUL (R187). -/
def opFmul (v : FVar) (f : RForm) (s : State) : Res := floatOp v f s fun _ _ _ x y => x.mul y
/-- FFMA (R187): a register destination is also the addend; otherwise the product stands as it is. -/
def opFfma (v : FVar) (f : RForm) (s : State) : Res :=
  floatOp v f s fun c rm i x y =>
    match f.dst with
    | .reg n => (x.mul y).add (rm i).zneg (v.val (c.el.d.get n) i)
    | _ => x.mul y
/-- FMIN and FMAX (R188). -/
def opFminmax (wantMax : Bool) (v : FVar) (f : RForm) (s : State) : Res := floatExact v f s (Val.minmax wantMax)
/-- FABS (R188). -/
def opFabs (v : FVar) (f : RForm) (s : State) : Res := floatExact v f s fun x _ => x.abs
/-- FNEG (R188). -/
def opFneg (v : FVar) (f : RForm) (s : State) : Res := floatExact v f s fun x _ => x.negate
/-- FCEQ, FCLT and FCLE (R189). -/
def opFceq (v : FVar) (f : RForm) (s : State) : Res := floatCmp v f s Val.eq
def opFclt (v : FVar) (f : RForm) (s : State) : Res := floatCmp v f s Val.lt
def opFcle (v : FVar) (f : RForm) (s : State) : Res := floatCmp v f s fun x y => x.lt y || x.eq y

/-! ### Conversions -/

/-- A value rounded to an integral value, keeping its sign (R190). -/
def integral (mode : RMode) : Val → Val
  | .fin sg n d => if n ≥ 2 ^ 23 * d then .fin sg n d else .fin sg (roundUnits mode sg n d 0) 1
  | v => v

/-- FCVT (R190): .f32 to an integral value; the 16-bit variants from the FP32 lanes of A and then B.
(DEDUCED, log 16.) -/
def opFcvt (v : FVar) (f : RForm) (s : State) : Res :=
  ordinaryR s f fun c md a b =>
    let rm := c.rmode s md.toNat
    let res :=
      match v with
      | .f32 => v.pack fun i => roundTo fp32 .rne (integral (rm i) (FVar.f32.val a i))
      | _ => v.pack fun i => roundTo v.fmt (rm i) (if i < 8 then FVar.f32.val a i else FVar.f32.val b (i - 8))
    ⟨res, laneNaN v.fmt v.w v.n res, some (c.vtag v)⟩

/-- FTOI (R191). -/
def opFtoi (v : FVar) (f : RForm) (s : State) : Res :=
  ordinaryR s f fun c md a _ =>
    let rm := c.rmode s md.toNat
    ⟨allLanes 32 fun i => BitVec.ofNat 32 (roundTo int32 (rm i) (v.val a i)),
      (List.range 8).any fun i => outOfInt32 (rm i) (v.val a i), some 1⟩

/-- ITOF (R192). -/
def opItof (v : FVar) (f : RForm) (s : State) : Res :=
  ordinaryR s f fun c md a b =>
    let rm := c.rmode s md.toNat
    let x (i : Nat) : Val := .ofInt (if i < 8 then (lane32 a i).toInt else (lane32 b (i - 8)).toInt)
    ⟨v.pack fun i => roundTo v.fmt (rm i) (x i), (List.range v.n).any fun i => v.fmt.overflows (rm i) (x i), some (c.vtag v)⟩

/-- FWIDEN (R193). -/
def opFwiden (v : FVar) (f : RForm) (s : State) : Res :=
  ordinaryR s f fun _ _ a _ =>
    let res := allLanes 32 fun i => rneFP32 (v.val a i)
    ⟨res, laneNaN fp32 32 8 res, some 0⟩

/-- The payload whose first `n` lanes of a target format hold codes (R194). -/
def packFmt (t : Fmt) (n : Nat) (f : Nat → Nat) : Payload := ofLanes t.lane (fun i => BitVec.ofNat t.lane (f i)) n

/-- FNARROW (R194, R195): up to 32 values from A and then B into the target format. -/
def opFnarrow (v : FVar) (f : XForm) (s : State) : Res :=
  withCtx s fun c =>
    if [f.sa, f.sb].any c.poisoned then c.trap s trapPOISON else
    let tag := f.cnt.extractLsb' 5 3
    match c.g.fmt? tag with
    | none => .refused .rejectedAtLoad
    | some t =>
      let a := c.src 0 f.sa
      let b := c.src 0 f.sb
      let rm := c.rmode s (f.cnt.toNat % 16)
      let res := packFmt t (2 * v.n) fun j =>
        roundTo t (rm j) (if j < v.n then v.val a j else v.val b (j - v.n))
      c.ordinary s [f.sa, f.sb] f.dst 0 f.pop 0 ⟨res, false, some tag⟩

/-! ### Special functions, random bits -/

/-- A function of each FP32 lane (R196, R197). -/
def specialOp (f : RForm) (s : State) (h : Word → Word) : Res :=
  ordinaryR s f fun _ _ a _ =>
    let res := allLanes 32 fun i => h (lane32 a i)
    ⟨res, laneNaN fp32 32 8 res, some 0⟩

/-- EXP2 (R196). -/
def execExp2 (f : RForm) (s : State) : Res := specialOp f s fnExp2
/-- LOG2 (R196). -/
def execLog2 (f : RForm) (s : State) : Res := specialOp f s fnLog2
/-- RCP (R196). -/
def execRcp (f : RForm) (s : State) : Res := specialOp f s fnRcp
/-- SQRT (R196). -/
def execSqrt (f : RForm) (s : State) : Res := specialOp f s fnSqrt
/-- RSQRT (R196). -/
def execRsqrt (f : RForm) (s : State) : Res := specialOp f s fnRsqrt
/-- EXP (R197). -/
def execExp (f : RForm) (s : State) : Res := specialOp f s fnExp
/-- TANH (R197). -/
def execTanh (f : RForm) (s : State) : Res := specialOp f s fnTanh
/-- SIGM (R197). -/
def execSigm (f : RForm) (s : State) : Res := specialOp f s fnSigm
/-- GELU (R197). -/
def execGelu (f : RForm) (s : State) : Res := specialOp f s fnGelu

/-- RAND (R198). -/
def execRand (f : RForm) (s : State) : Res :=
  ordinaryR s f fun c _ a b =>
    let res := allLanes 32 fun i => (kch (s.seedOf c.reg) (lane32 b 0) (lane32 b 1 ++ lane32 a i)).1
    ⟨res, defaultCond res, some 1⟩

/-! ### Exact accumulators -/

/-- Runs a meaning on the two accumulators of a C element. -/
def Ctx.withXa (c : Ctx) (f : XS → XS → Res) : Res :=
  match c.el.ks with
  | .c x y => f x y
  | _ => .refused .rejectedAtLoad

/-- XCLR (R199). -/
def execXclr (f : IForm) (s : State) : Res :=
  withCtx s fun c =>
    c.withXa fun x y =>
      let x := if f.imm = 1 then x else XS.clear
      let y := if f.imm = 0 then y else XS.clear
      c.quiet s [] ({ c.el with ks := .c x y }.withPw f.pw false) f.pop

/-- The format and values of A for XADD and XSQ (R200): of a data head's TAG, FP32 of a register, nothing
of zero; none where FORMAT is raised. -/
def Ctx.xvals (c : Ctx) (x : Src) : Option (Fmt × List Val) :=
  match x with
  | .head n =>
    match c.el.head? n with
    | some t =>
      match t.kind, c.g.fmt? t.tag with
      | .data, some f => if f.cls = .slice then none else some (f, unpack f t.payload)
      | _, _ => none
    | none => none
  | .reg n => some (fp32, unpack fp32 (c.el.d.get n))
  | _ => some (fp32, [])

/-- Adds values to the accumulator that CNT[0] names, ascending. -/
def xaAdd (cnt : BitVec 8) (x y : XS) (vs : List Val) : KindSt :=
  if cnt.getLsbD 0 then .c x (xsAddAll y vs) else .c (xsAddAll x vs) y

/-- XADD (R200). A head that is poisoned and of no format XADD takes raises POISON. (DESIGN CHOICE, log 107.) -/
def execXadd (f : XForm) (s : State) : Res :=
  withCtx s fun c =>
    c.withXa fun x y =>
      if c.poisoned f.sa then c.trap s trapPOISON
      else
        match c.xvals f.sa with
        | none => c.trap s trapFORMAT
        | some (_, vs) => c.quiet s [f.sa] { c.el with ks := xaAdd f.cnt x y vs } f.pop

/-- The contribution of XSQ with a centre m (R201). -/
def centredSquare (m x : Val) : Val :=
  if x.isNaN || m.isNaN || (x.isInf && m.isInf) then .nan
  else if x.isInf || m.isInf then .inf false
  else
    let d := x.add false m.negate
    val32 (rneFP32 (d.mul d))

/-- XSQ (R201). A poisoned head traps before its kind and format are looked at. (DESIGN CHOICE, log 107.) -/
def execXsq (f : XForm) (s : State) : Res :=
  withCtx s fun c =>
    c.withXa fun x y =>
      if c.poisoned f.sa || c.poisoned f.sb then c.trap s trapPOISON
      else
        match c.xvals f.sa with
        | none => c.trap s trapFORMAT
        | some (fm, vs) =>
          let h : Val → Val :=
            match f.sb with
            | .zero => squareFor fm
            | sb => centredSquare (val32 (lane32 (c.src 0 sb) 0))
          c.quiet s [f.sa, f.sb] { c.el with ks := xaAdd f.cnt x y (vs.map h) } f.pop

/-- XRD (R203): rounds an accumulator out and leaves it. -/
def execXrd (f : XForm) (s : State) : Res :=
  withCtx s fun c =>
    c.withXa fun x y =>
      let tag := f.cnt.extractLsb' 5 3
      match c.g.fmt? tag with
      | none => .refused .rejectedAtLoad
      | some t =>
        let acc := if f.cnt.getLsbD 4 then y else x
        let res := packFmt t 1 fun _ => xsRound acc 1 t (c.rmode s (f.cnt.toNat % 16) 0)
        c.ordinary s [] f.dst 0 f.pop 0 ⟨res, false, some tag⟩

/-- The variance of XVAR on the one-pass path (R204): (n S2 - S1^2) / n^2, clamped at 0. -/
def onePassVar (x y : XS) (n : Nat) : Val :=
  if x.pinf ≠ 0 || x.ninf ≠ 0 || x.nnan ≠ 0 || y.pinf ≠ 0 || y.ninf ≠ 0 || y.nnan ≠ 0 then .nan
  else
    let v : Int := n * y.fix.toInt * 2 ^ 160 - x.fix.toInt * x.fix.toInt
    if v ≤ 0 then .zero else .fin false v.natAbs (n * n * 2 ^ 320)

/-- XVAR (R204). -/
def execXvar (f : XForm) (s : State) : Res :=
  withCtx s fun c =>
    if c.poisoned f.sa then c.trap s trapPOISON else
    c.withXa fun x y =>
      let tag := f.cnt.extractLsb' 5 3
      match c.g.fmt? tag with
      | none => .refused .rejectedAtLoad
      | some t =>
        let a := c.src 0 f.sa
        let n := (lane32 a 0).toNat
        let rm := c.rmode s (f.cnt.toNat % 16)
        let mean := if n = 0 then roundTo t (rm 0) .nan else xsRound x n t (rm 0)
        let var :=
          if n = 0 then roundTo t (rm 1) .nan
          else if (lane32 a 1).getLsbD 0 then xsRound y n t (rm 1)
          else roundTo t (rm 1) (onePassVar x y n)
        let res := packFmt t 2 fun i => if i = 0 then mean else var
        c.ordinary s [f.sa] f.dst 0 f.pop 0 ⟨res, false, some tag⟩

/-- SMAX (R207 to R210): MOD 0 adds, MOD 1 normalises, MOD 2 combines. -/
def execSmax (f : RForm) (s : State) : Res :=
  ordinaryR s f fun _ md a b =>
    if md = 1 then ⟨smaxNorm a b, (SMaxSt.ofPayload b).empty?, some 0⟩
    else
      let st := if md = 2 then smaxMerge a b else smaxAdd a b
      ⟨st.payload, st.empty?, some 1⟩

/-! ### The families -/

/-- FADD.f32 (R187). -/
def execFaddF32 (f : RForm) (s : State) : Res := opFadd .f32 f s
/-- FADD.f16 (R187). -/
def execFaddF16 (f : RForm) (s : State) : Res := opFadd .f16 f s
/-- FADD.bf16 (R187). -/
def execFaddBF16 (f : RForm) (s : State) : Res := opFadd .bf16 f s
/-- FSUB.f32 (R187). -/
def execFsubF32 (f : RForm) (s : State) : Res := opFsub .f32 f s
/-- FSUB.f16 (R187). -/
def execFsubF16 (f : RForm) (s : State) : Res := opFsub .f16 f s
/-- FSUB.bf16 (R187). -/
def execFsubBF16 (f : RForm) (s : State) : Res := opFsub .bf16 f s
/-- FMUL.f32 (R187). -/
def execFmulF32 (f : RForm) (s : State) : Res := opFmul .f32 f s
/-- FMUL.f16 (R187). -/
def execFmulF16 (f : RForm) (s : State) : Res := opFmul .f16 f s
/-- FMUL.bf16 (R187). -/
def execFmulBF16 (f : RForm) (s : State) : Res := opFmul .bf16 f s
/-- FFMA.f32 (R187). -/
def execFfmaF32 (f : RForm) (s : State) : Res := opFfma .f32 f s
/-- FFMA.f16 (R187). -/
def execFfmaF16 (f : RForm) (s : State) : Res := opFfma .f16 f s
/-- FFMA.bf16 (R187). -/
def execFfmaBF16 (f : RForm) (s : State) : Res := opFfma .bf16 f s
/-- FMIN.f32 (R188). -/
def execFminF32 (f : RForm) (s : State) : Res := opFminmax false .f32 f s
/-- FMIN.f16 (R188). -/
def execFminF16 (f : RForm) (s : State) : Res := opFminmax false .f16 f s
/-- FMIN.bf16 (R188). -/
def execFminBF16 (f : RForm) (s : State) : Res := opFminmax false .bf16 f s
/-- FMAX.f32 (R188). -/
def execFmaxF32 (f : RForm) (s : State) : Res := opFminmax true .f32 f s
/-- FMAX.f16 (R188). -/
def execFmaxF16 (f : RForm) (s : State) : Res := opFminmax true .f16 f s
/-- FMAX.bf16 (R188). -/
def execFmaxBF16 (f : RForm) (s : State) : Res := opFminmax true .bf16 f s
/-- FCEQ.f32 (R189). -/
def execFceqF32 (f : RForm) (s : State) : Res := opFceq .f32 f s
/-- FCEQ.f16 (R189). -/
def execFceqF16 (f : RForm) (s : State) : Res := opFceq .f16 f s
/-- FCEQ.bf16 (R189). -/
def execFceqBF16 (f : RForm) (s : State) : Res := opFceq .bf16 f s
/-- FCLT.f32 (R189). -/
def execFcltF32 (f : RForm) (s : State) : Res := opFclt .f32 f s
/-- FCLT.f16 (R189). -/
def execFcltF16 (f : RForm) (s : State) : Res := opFclt .f16 f s
/-- FCLT.bf16 (R189). -/
def execFcltBF16 (f : RForm) (s : State) : Res := opFclt .bf16 f s
/-- FCLE.f32 (R189). -/
def execFcleF32 (f : RForm) (s : State) : Res := opFcle .f32 f s
/-- FCLE.f16 (R189). -/
def execFcleF16 (f : RForm) (s : State) : Res := opFcle .f16 f s
/-- FCLE.bf16 (R189). -/
def execFcleBF16 (f : RForm) (s : State) : Res := opFcle .bf16 f s
/-- FABS.f32 (R188). -/
def execFabsF32 (f : RForm) (s : State) : Res := opFabs .f32 f s
/-- FABS.f16 (R188). -/
def execFabsF16 (f : RForm) (s : State) : Res := opFabs .f16 f s
/-- FABS.bf16 (R188). -/
def execFabsBF16 (f : RForm) (s : State) : Res := opFabs .bf16 f s
/-- FNEG.f32 (R188). -/
def execFnegF32 (f : RForm) (s : State) : Res := opFneg .f32 f s
/-- FNEG.f16 (R188). -/
def execFnegF16 (f : RForm) (s : State) : Res := opFneg .f16 f s
/-- FNEG.bf16 (R188). -/
def execFnegBF16 (f : RForm) (s : State) : Res := opFneg .bf16 f s
/-- FCVT.f32 (R190). -/
def execFcvtF32 (f : RForm) (s : State) : Res := opFcvt .f32 f s
/-- FCVT.f16 (R190). -/
def execFcvtF16 (f : RForm) (s : State) : Res := opFcvt .f16 f s
/-- FCVT.bf16 (R190). -/
def execFcvtBF16 (f : RForm) (s : State) : Res := opFcvt .bf16 f s
/-- FTOI.f32 (R191). -/
def execFtoiF32 (f : RForm) (s : State) : Res := opFtoi .f32 f s
/-- FTOI.f16 (R191). -/
def execFtoiF16 (f : RForm) (s : State) : Res := opFtoi .f16 f s
/-- FTOI.bf16 (R191). -/
def execFtoiBF16 (f : RForm) (s : State) : Res := opFtoi .bf16 f s
/-- ITOF.f32 (R192). -/
def execItofF32 (f : RForm) (s : State) : Res := opItof .f32 f s
/-- ITOF.f16 (R192). -/
def execItofF16 (f : RForm) (s : State) : Res := opItof .f16 f s
/-- ITOF.bf16 (R192). -/
def execItofBF16 (f : RForm) (s : State) : Res := opItof .bf16 f s
/-- FNARROW.f32 (R194). -/
def execFnarrowF32 (f : XForm) (s : State) : Res := opFnarrow .f32 f s
/-- FNARROW.f16 (R194). -/
def execFnarrowF16 (f : XForm) (s : State) : Res := opFnarrow .f16 f s
/-- FNARROW.bf16 (R194). -/
def execFnarrowBF16 (f : XForm) (s : State) : Res := opFnarrow .bf16 f s
/-- FWIDEN.f32 (R193). -/
def execFwidenF32 (f : RForm) (s : State) : Res := opFwiden .f32 f s
/-- FWIDEN.f16 (R193). -/
def execFwidenF16 (f : RForm) (s : State) : Res := opFwiden .f16 f s
/-- FWIDEN.bf16 (R193). -/
def execFwidenBF16 (f : RForm) (s : State) : Res := opFwiden .bf16 f s

end Sys2Proof.Machine
end

