-- ==== Sys2Proof/Machine/Integer.lean ====
section
/-! DEFINITION. The integer families, opcodes 0x20 to 0x5F (R174 to R178). -/

namespace Sys2Proof.Machine

/-- The lane width of a shape (R174). -/
def shWidth : Shape → Nat
  | .w => 32
  | .h => 16
  | .b => 8
  | .s => 32

/-- The lanes a shape computes (R174). -/
def shLanes : Shape → Nat
  | .w => 8
  | .h => 16
  | .b => 32
  | .s => 1

/-- A lane-wise result of a shape; the other lanes are zero (R174). -/
def intLanes (sh : Shape) (f : BitVec (shWidth sh) → BitVec (shWidth sh) → BitVec (shWidth sh)) (a b : Payload) : Payload :=
  ofLanes (shWidth sh) (fun i => f (lane a (shWidth sh) i) (lane b (shWidth sh) i)) (shLanes sh)

/-- SAT (R176) of an operation on integers: wrap, signed saturate, unsigned saturate. -/
def satLane (w isat : Nat) (op : Int → Int → Int) (a b : BitVec w) : BitVec w :=
  if isat = 1 then BitVec.ofInt w (clampInt (op a.toInt b.toInt) (-(2 ^ (w - 1))) (2 ^ (w - 1) - 1))
  else if isat = 2 then BitVec.ofInt w (clampInt (op a.toNat b.toNat) 0 (2 ^ w - 1))
  else BitVec.ofInt w (op a.toNat b.toNat)

/-- MULH (R175): the high half of the signed or unsigned product. -/
def mulhLane (w sgn : Nat) (a b : BitVec w) : BitVec w :=
  if sgn = 1 then BitVec.ofNat w (a.toNat * b.toNat / 2 ^ w) else BitVec.ofInt w (a.toInt * b.toInt / 2 ^ w)

/-- SHL, SHR and SRA (R177): the count is the whole lane, unmasked. -/
def shlLane (w : Nat) (a b : BitVec w) : BitVec w := if b.toNat < w then a <<< b.toNat else 0
def shrLane (w : Nat) (a b : BitVec w) : BitVec w := if b.toNat < w then a >>> b.toNat else 0
def sraLane (w : Nat) (a b : BitVec w) : BitVec w :=
  if b.toNat < w then a.sshiftRight b.toNat else if a.toInt < 0 then BitVec.allOnes w else 0

/-- a < b read signed (MOD 0) or unsigned (MOD 1) (R175). -/
def ltLane (w sgn : Nat) (a b : BitVec w) : Bool :=
  if sgn = 1 then decide (a.toNat < b.toNat) else decide (a.toInt < b.toInt)

/-- All ones where a comparison holds, else 0 (R175). -/
def boolLane (w : Nat) (v : Bool) : BitVec w := if v then BitVec.allOnes w else 0

/-- An integer family whose condition is the default (R178). -/
def intOp (sh : Shape) (f : RForm) (s : State)
    (h : BitVec 4 → BitVec (shWidth sh) → BitVec (shWidth sh) → BitVec (shWidth sh)) : Res :=
  ordinaryR s f fun _ md a b => Out.plain (intLanes sh (h md) a b)

/-- A comparison, whose condition is its outcome in lane 0 (R178). -/
def intCmp (sh : Shape) (f : RForm) (s : State) (h : BitVec (shWidth sh) → BitVec (shWidth sh) → Bool) : Res :=
  ordinaryR s f fun _ _ a b =>
    Out.withCond (intLanes sh (fun x y => boolLane (shWidth sh) (h x y)) a b)
      (h (lane a (shWidth sh) 0) (lane b (shWidth sh) 0))

/-- ADD (R175, R176). -/
def execAdd (sh : Shape) (f : RForm) (s : State) : Res := intOp sh f s fun md => satLane _ md.toNat (· + ·)
/-- SUB (R175, R176). -/
def execSub (sh : Shape) (f : RForm) (s : State) : Res := intOp sh f s fun md => satLane _ md.toNat (· - ·)
/-- MUL (R175, R176). -/
def execMul (sh : Shape) (f : RForm) (s : State) : Res := intOp sh f s fun md => satLane _ md.toNat (· * ·)
/-- MULH (R175). -/
def execMulh (sh : Shape) (f : RForm) (s : State) : Res := intOp sh f s fun md => mulhLane _ md.toNat
/-- AND (R175). -/
def execAnd (sh : Shape) (f : RForm) (s : State) : Res := intOp sh f s fun _ a b => a &&& b
/-- OR (R175). -/
def execOr (sh : Shape) (f : RForm) (s : State) : Res := intOp sh f s fun _ a b => a ||| b
/-- XOR (R175). -/
def execXor (sh : Shape) (f : RForm) (s : State) : Res := intOp sh f s fun _ a b => a ^^^ b
/-- SHL (R177). -/
def execShl (sh : Shape) (f : RForm) (s : State) : Res := intOp sh f s fun _ => shlLane _
/-- SHR (R177). -/
def execShr (sh : Shape) (f : RForm) (s : State) : Res := intOp sh f s fun _ => shrLane _
/-- SRA (R177). -/
def execSra (sh : Shape) (f : RForm) (s : State) : Res := intOp sh f s fun _ => sraLane _
/-- MIN (R175). -/
def execMin (sh : Shape) (f : RForm) (s : State) : Res :=
  intOp sh f s fun md a b => if ltLane _ md.toNat b a then b else a
/-- MAX (R175). -/
def execMax (sh : Shape) (f : RForm) (s : State) : Res :=
  intOp sh f s fun md a b => if ltLane _ md.toNat a b then b else a
/-- CEQ (R175, R178). -/
def execCeq (sh : Shape) (f : RForm) (s : State) : Res := intCmp sh f s fun a b => a == b
/-- CLT (R175, R178). -/
def execClt (sh : Shape) (f : RForm) (s : State) : Res := intCmp sh f s fun a b => decide (a.toInt < b.toInt)
/-- CLTU (R175, R178). -/
def execCltu (sh : Shape) (f : RForm) (s : State) : Res := intCmp sh f s fun a b => decide (a.toNat < b.toNat)
/-- ADDI (R175): IMM sign-extended takes the place of b; no saturation. -/
def execAddi (sh : Shape) (f : IForm) (s : State) : Res :=
  ordinaryI s f fun _ imm a =>
    Out.plain (intLanes sh (fun x _ => x + imm.signExtend (shWidth sh)) a 0)

end Sys2Proof.Machine
end

