-- ==== Sys2Proof/Machine/Check.lean ====
section
/-! DEFINITION. What the loader asks of a slot (R88 to R98, R108, R109): first of the instruction by itself, then of
the slot in its element, with the format table and the edges. -/

namespace Sys2Proof.Machine

/-! ### The instruction by itself -/

/-- Whether an R form names a constant among its sources (R92). -/
def hasConst (f : RForm) : Bool := isConst f.sa || isConst f.sb

/-- Whether a DST is one that its column allows (R91, R145, R219, R263). -/
def dstOk (u : DstUse) (d : Dst) : Bool :=
  match u, d with
  | .any, _ => true
  | .none, .discard => true
  | .output, .out _ => true
  | .outNil, .out _ => true
  | .outNil, .discard => true
  | _, _ => false

/-- Whether a source is one that its column allows; `sel` is the effective MOD, on which STEER's SB depends (R246). -/
def srcOk (u : SrcUse) (sel : BitVec 4) (x : Src) : Bool :=
  match u, x with
  | .any, _ => true
  | .none, .zero => true
  | .head, .head _ => true
  | .constOnly, .const => true
  | .optHead, .zero => true
  | .optHead, .head _ => true
  | .steerB, .zero => true
  | .steerB, _ => sel == 1 || sel == 3
  | _, _ => false

/-- Whether a source is a constant, which no I or X form but MOVK may name (R93). -/
def notConst : Src → Bool
  | .const => false
  | _ => true

/-- The enable bit and index of PW (R95). -/
def pwOk (pw : BitVec 4) : Bool := pw.getLsbD 3 || pw == 0

/-- MOD under its legend (R92, R97). -/
def modOk (fld : Fld) (md : BitVec 4) : Bool :=
  match fld with
  | .k => md == 0
  | .rnd => decide (md.toNat ≤ 5)
  | .isat => decide (md.toNat ≤ 2)
  | .sgn => decide (md.toNat ≤ 1)
  | .pidx => decide (md.toNat ≤ 7)
  | .oidx => decide (md.toNat ≤ 3)
  | .shp => decide (md.toNat ≤ 2)
  | .sel m => decide (md.toNat ≤ m)
  | _ => true

/-- IMM under its legend (R98). -/
def immOk (fld : Fld) (imm : BitVec 8) : Bool :=
  match fld with
  | .kidx => decide (imm.toNat ≤ 15)
  | .tag => decide (imm.toNat ≤ 7)
  | .ctx => decide (imm.toNat ≤ 7)
  | .lvl => decide (imm.toNat ≤ 7)
  | .rowx => decide (imm.toNat ≤ 63) || imm == 255
  | .bit => decide (imm.toNat ≤ 1)
  | .seqc => decide (imm.toNat ≤ 3)
  | .xclr => decide (imm.toNat ≤ 2)
  | _ => true

/-- The completion output, zero when the completion is not enabled (R98). -/
def cmpOk (cnt : BitVec 8) : Bool := cnt.getLsbD 3 || cnt.extractLsb' 4 2 == 0

/-- CNT under its legend (R98, R103, R104). -/
def cntOk (fld : Fld) (cnt : BitVec 8) : Bool :=
  let n := cnt.toNat
  match fld with
  | .ctx => decide (n ≤ 7)
  | .row => decide (n ≤ 63)
  | .mem => decide (n ≤ 63) && cmpOk cnt
  | .atom => decide (n ≤ 63) && cmpOk cnt
  | .memSt => decide (n ≤ 63) && cmpOk cnt && n % 8 == 0
  | .lnk => decide (n ≤ 63) && cmpOk cnt
  | .lnkRed => decide (n / 64 ≤ 2) && cmpOk cnt
  | .lnkRedr => decide (n / 64 ≤ 2) && n % 64 == 0
  | .cvt => decide (n % 16 ≤ 5)
  | .cvt4 => decide (n % 16 ≤ 5) && !cnt.getLsbD 4
  | .win => decide (n ≤ 63)
  | .winMap => decide (n ≤ 7)
  | .bshp =>
    if n / 64 = 0 then decide (n % 64 < 8) else if n / 64 = 1 then decide (n % 64 < 16)
    else n / 64 == 2 && decide (n % 64 < 32)
  | .acc => decide (n ≤ 1)
  | .cnt lo hi => decide (lo ≤ n) && decide (n ≤ hi)
  | .piece => decide (n ≤ 2)
  | .joinf => n % 32 != 0
  | .split => decide (n ≤ 1)
  | .zero => n == 0
  | _ => true

/-- The inputs whose heads a form names as sources. -/
def formHeads : Form → BitVec 4
  | .R f => readMask [f.sa, f.sb]
  | .I f => readMask [f.sa]
  | .X f => readMask [f.sa, f.sb]
  | _ => 0

/-- The POP field of a form (R94). -/
def formPop : Form → BitVec 4
  | .R f => f.pop
  | .I f => f.pop
  | .P f => f.pop
  | .X f => f.pop
  | .event => 0

/-- The stream inputs of an instruction (R213, R264, R281). -/
def streamMask (i : Instr) : BitVec 4 :=
  match i.form with
  | .X f =>
    let u := i.info
    (if u.sStream || u.sa == .optHead then readMask [f.sa] else 0) ||| if u.bStream then readMask [f.sb] else 0
  | _ => 0

/-- POP as an instruction's description restricts it: no stream input (R213, R264), SA of REORD (R251), something in
MERGE (R249). -/
def popOk (i : Instr) : Bool :=
  let pop := formPop i.form
  pop &&& streamMask i == 0 &&
    (match i with
     | .reord f => pop &&& readMask [f.sa] != 0
     | .merge _ => pop != 0
     | _ => true)

/-- The operands of an instruction (R90 to R93). -/
def operandsOk (i : Instr) : Bool :=
  let u := i.info
  match i.form with
  | .R f =>
    let sel : BitVec 4 := if hasConst f then 0 else f.md
    dstOk u.dst f.dst && srcOk u.sa sel f.sa && srcOk u.sb sel f.sb
  | .I f => dstOk u.dst f.dst && srcOk u.sa 0 f.sa && (u.sa == .constOnly || notConst f.sa)
  | .X f => dstOk u.dst f.dst && srcOk u.sa 0 f.sa && srcOk u.sb 0 f.sb && notConst f.sa && notConst f.sb
  | .P _ => true
  | .event => false

/-- PW, MOD, IMM, CNT, SET and CLR of an instruction (R92, R95 to R98). -/
def fieldsOk (i : Instr) : Bool :=
  let u := i.info
  match i.form with
  | .R f => pwOk f.pw && (hasConst f || modOk u.fld f.md)
  | .I f => pwOk f.pw && immOk u.fld f.imm
  | .X f => cntOk u.fld f.cnt
  | .P f => u.fld != .nopPreds || (f.set == 0 && f.clr == 0)
  | .event => false

/-- Everything the loader asks of an instruction by itself. -/
def instrOk (i : Instr) : Bool := operandsOk i && fieldsOk i && popOk i

/-! ### The slot in its element -/

/-- What the checks of a slot read: the element's record and index, the format table, the edges of the image, and
whether the graph is the page-walk graph (R108). -/
structure SlotCtx where
  el : ElemRec
  e : Nat
  fmts : Vector Word 8
  edges : List Edge
  walker : Bool

/-- Condition Cn of a trigger word (R87). -/
def condOf (trig : Word) (n : Fin 4) : BitVec 3 := trig.extractLsb' (16 + 3 * n.val) 3
/-- TAG0 of a trigger word (R87). -/
def tag0Of (trig : Word) : BitVec 3 := trig.extractLsb' 28 3
/-- PMASK and PVAL of a trigger word (R87). -/
def pmaskOf (trig : Word) : BitVec 8 := trig.extractLsb' 8 8
def pvalOf (trig : Word) : BitVec 8 := trig.extractLsb' 0 8
/-- V of a trigger word (R87). -/
def validOf (trig : Word) : Bool := trig.getLsbD 31

/-- Whether a condition is a data condition (R60). -/
def isDataCond (c : BitVec 3) : Bool := c == 2 || c == 3 || c == 4

/-- Whether an entry of the format table is used (R28); entries 0 and 1 always are. -/
def usedTag (fmts : Vector Word 8) (t : BitVec 3) : Bool := fmts.get (Fin.ofNat 8 t.toNat) != 0

/-- The format of a used entry. -/
def SlotCtx.fmt? (x : SlotCtx) (t : BitVec 3) : Option Fmt := Fmt.ofRecord (x.fmts.get (Fin.ofNat 8 t.toNat))

/-- Whether an output drives an edge. -/
def SlotCtx.drives (x : SlotCtx) (o : Fin 4) : Bool := x.edges.any fun d => d.prod == x.e && d.out == o

/-- Whether a record stands in the table. -/
def SlotCtx.hasRecord (x : SlotCtx) (rec : Word) : Bool := x.fmts.toList.contains rec

/-- Check 1 of R109: the kind and the opcode (R101, R108). -/
def kindOk (ks : KindSet) (kind : ElemKind) (walker : Bool) : Bool :=
  match ks with
  | .all => true
  | .only l => l.contains kind
  | .walker => walker

/-- Check 2 of R109: the trigger word by itself (R62, R88). -/
def SlotCtx.trigOk (x : SlotCtx) (trig : Word) : Bool :=
  pvalOf trig &&& ~~~pmaskOf trig == 0
    && (if isDataCond (condOf trig 0) then usedTag x.fmts (tag0Of trig) else tag0Of trig == 0)

/-- An input's condition against the sources, the stream inputs and POP (R63, R75, R213). -/
def SlotCtx.inputsOk (x : SlotCtx) (trig : Word) (i : Instr) : Bool :=
  let heads := formHeads i.form
  let pop := formPop i.form
  ([0, 1, 2, 3] : List (Fin 4)).all (fun n =>
    let c := condOf trig n
    let named := heads.getLsbD n.val
    !(named && (c == 0 || c == 7)) && !(pop.getLsbD n.val && c == 7))
  && (!x.el.isect || !(isDataCond (condOf trig 0) || isDataCond (condOf trig 1)) || pop.getLsbD 0 == pop.getLsbD 1)

/-- The completion output of a memory or link instruction (R98). -/
def formCmpOut (u : OpInfo) (f : Form) : Option (Fin 4) :=
  match f with
  | .X x =>
    let has := match u.fld with
      | .mem => true
      | .memSt => true
      | .atom => true
      | .lnk => true
      | .lnkRed => true
      | _ => false
    if has && x.cnt.getLsbD 3 then some (Fin.ofNat 4 (x.cnt.toNat / 16)) else none
  | _ => none

/-- DST of a form. -/
def formDst : Form → Dst
  | .R f => f.dst
  | .I f => f.dst
  | .X f => f.dst
  | _ => .discard

/-- Whether the outputs an instruction names drive edges (R91, R98). -/
def SlotCtx.outputsOk (x : SlotCtx) (i : Instr) : Bool :=
  (match formDst i.form with
   | .out o => x.drives o
   | _ => true)
  && (match formCmpOut i.info i.form with
      | some o => x.drives o
      | none => true)

/-- The record whose entry gives a pushed token its tag (R183, R217). -/
def tagRecord? (i : Instr) : Option Word :=
  let opc := i.info.opc
  let variant := (opc - 0x60) % 3
  if (0x60 ≤ opc && opc ≤ 0x71) || (0x7B ≤ opc && opc ≤ 0x83) || (0x87 ≤ opc && opc ≤ 0x89) then
    if variant = 0 then none else if variant = 1 then some recFP16 else some recBF16
  else if opc = 0xC0 || opc = 0xC1 || opc = 0xC5 || opc = 0xC7 then some recSlice
  else if opc = 0xC6 then some recINT16
  else none

/-- Whether the tag of a pushed token has an entry (R183, R217). -/
def SlotCtx.pushTagOk (x : SlotCtx) (i : Instr) : Bool :=
  match formDst i.form, tagRecord? i with
  | .out _, some rec => x.hasRecord rec
  | _, _ => true

/-- The tag operands of an instruction: used, and of the class its description asks for (R31, R98, R195, R203, R271). A
bit-slice entry is no 32-bit entry of R271. (DEDUCED, log 135.) -/
def SlotCtx.tagsOk (x : SlotCtx) (i : Instr) : Bool :=
  let u := i.info
  let is (t : BitVec 3) (p : Fmt → Bool) : Bool :=
    match x.fmt? t with
    | some f => p f
    | none => false
  match i.form with
  | .I f => u.fld != .tag || usedTag x.fmts (f.imm.extractLsb' 0 3)
  | .X f =>
    let t := f.cnt.extractLsb' 0 3
    let c := f.cnt.extractLsb' 5 3
    match u.fld with
    | .mem => usedTag x.fmts t
    | .atom =>
      is t fun g => g.width == 32 && g.cls != .slice && (t == 0 || g.cls != .float || decide (0xDB ≤ u.opc))
    | .cvt => is c fun g => g.cls != .slice
    | .cvt4 => is c fun g => g.cls != .slice && (u.opc == 0x9E || decide (g.width ≤ if u.opc = 0x8A then 16 else 8))
    | _ => true
  | _ => true

/-- What XTHR and ISECT ask of their element (R234, R244). -/
def SlotCtx.elemOk (x : SlotCtx) (i : Instr) : Bool :=
  match i with
  | .isect _ => x.el.isect
  | .xthr _ =>
    let t := x.el.ctags.get 0
    x.el.declared == 0xFFFF && x.el.ctags.toList.all (fun u => u == t)
      && (x.fmts.get (Fin.ofNat 8 t.toNat) == recFP16 || x.fmts.get (Fin.ofNat 8 t.toNat) == recBF16)
  | _ => true

/-- The row of the opcode map for an opcode value. -/
def opcodeInfo (opc : BitVec 8) : OpInfo :=
  (match builder opc with
   | .R b => b default
   | .I b => b default
   | .P b => b default
   | .X b => b default).info

/-- The checks of step 2 on one valid slot (R109); the report names the element and the slot, whichever failed. -/
def SlotCtx.slotOk (x : SlotCtx) (s : Slot) : Bool :=
  !validOf s.trig ||
    (match decode s.act with
     | .error _ => false
     | .ok i =>
       kindOk i.info.kinds x.el.kind x.walker && x.trigOk s.trig && instrOk i && x.inputsOk s.trig i && x.outputsOk i
         && x.pushTagOk i && x.tagsOk i && x.elemOk i)

/-- The accepted format set of an input (R71, R114); none for an input that no edge feeds. -/
def SlotCtx.inputTags? (x : SlotCtx) (n : Fin 4) : Option (BitVec 8) :=
  x.edges.findSome? fun d => (d.cons.find? fun k => k.elem == x.e && k.input == n).map (·.tags)

/-- The checks of step 3 on one valid slot (R61, R62). -/
def SlotCtx.slotEdgesOk (x : SlotCtx) (s : Slot) : Bool :=
  !validOf s.trig ||
    (([0, 1, 2, 3] : List (Fin 4)).all (fun n =>
      let c := condOf s.trig n
      c == 0 || c == 7 || (x.inputTags? n).isSome)
    && (!isDataCond (condOf s.trig 0) ||
      (match x.inputTags? 0 with
       | some t => t.getLsbD (tag0Of s.trig).toNat
       | none => false)))

/-- The hierarchy level that a slot's field names (R85): the check stands before step 1, so the opcode alone says where
the field is. -/
def slotLevel? (s : Slot) : Option Nat :=
  let at3 (k : Nat) : Option Nat := some (s.act.extractLsb' k 3).toNat
  if validOf s.trig then
    match (s.act.extractLsb' 24 8).toNat with
    | 0xEA => at3 8
    | 0x19 => at3 5
    | 0xD5 => at3 3
    | 0xD6 => at3 3
    | 0xD7 => at3 3
    | _ => none
  else none

end Sys2Proof.Machine
end

