-- ==== Sys2Proof/Machine/Control.lean ====
section
/-! DEFINITION. Opcodes 0x00 to 0x1F (R145 to R173): moves, predicates, sidebands, credit, lane
arrangement, counting, element control, joins, time and status, 64-bit address arithmetic. -/

namespace Sys2Proof.Machine

/-! ### Results -/

/-- MOVI (R146): IMM sign-extended in every 32-bit lane. -/
def resMovi (imm : BitVec 8) : Payload := allLanes 32 fun _ => imm.signExtend 32

/-- BCAST (R158): lane `l` of width `w` in every lane. -/
def resBcast (w l : Nat) (a : Payload) : Payload := allLanes w fun _ => lane a w l

/-- The lane width of a shape code (R97, R98): .w 32, .h 16, .b 8. -/
def shapeWidth (n : Nat) : Nat := if n = 0 then 32 else if n = 1 then 16 else 8

/-- SHUF (R159). -/
def resShuf (a b : Payload) : Payload :=
  allLanes 8 fun j =>
    let s := (lane b 8 j).toNat
    if 128 ≤ s then 0 else lane a 8 (s % 32)

/-- PACK (R160). -/
def resPack (w : Nat) (a b : Payload) : Payload :=
  allLanes (w / 2) fun j =>
    let l := 256 / w
    if j < l then (lane a w j).setWidth (w / 2) else (lane b w (j - l)).setWidth (w / 2)

/-- UNPKL with `off` 0 and UNPKH with `off` the lane count (R160). -/
def resUnpk (w off : Nat) (a : Payload) : Payload :=
  allLanes w fun j => (lane a (w / 2) (off + j)).signExtend w

/-- CNTI (R161): the counter's next value and whether it wrapped. -/
def cntiNext (x imm : Nat) : Nat × Bool :=
  let x := (x + 1) % 2 ^ 32
  if imm ≤ x then (0, true) else (x, false)

/-- The KIND field of a token (R24). -/
def kindCode : TokKind → Nat
  | .data => 0
  | .scale => 1
  | .control => 2
  | .marker _ => 3

/-- LTOK (R155): COORD, and TAG, KIND, LAST and POISON, of a head. -/
def resLtok : Option Token → Payload
  | none => 0
  | some h =>
    ofWords [h.coord.setWidth 32,
      BitVec.ofNat 32 (h.tag.toNat + 8 * kindCode h.kind + (if h.last then 32 else 0) + (if h.poison then 64 else 0))]

/-- ADDX (R173). -/
def resAddx (a b : Payload) : Payload := allLanes 64 fun j => lane a 64 j + lane b 64 j

/-- MULX (R173). -/
def resMulx (a b : Payload) : Payload := allLanes 64 fun j => lane a 64 j * lane b 64 j

/-- A 64-bit number in lanes 0 and 1, the other lanes zero. -/
def resWide (n : BitVec 64) : Payload := n.setWidth 256

/-- The kind code of an element record (R113). -/
def elemKindCode : ElemKind → Nat
  | .C => 0
  | .M => 1
  | .L => 2
  | .S => 3
  | .X => 4
  | .E => 5

/-- STAT (R170). -/
def resStat (c : Ctx) (sel : Nat) : Payload :=
  if sel = 0 then
    ofWords [BitVec.ofNat 32 c.e, BitVec.ofNat 32 (elemKindCode c.el.img.kind), BitVec.ofNat 32 c.el.img.part]
  else if sel = 1 then ofWords [c.el.emptyPop, c.el.poisonDiscard]
  else ofWords [c.el.endCt.setWidth 32, c.el.declared.setWidth 32]

/-! ### Moves, selection and predicates -/

/-- NOP (R148): pops only. -/
def execNop (f : PForm) (s : State) : Res := withCtx s fun c => c.pform s f c.el

/-- MOV (R146). -/
def execMov (f : RForm) (s : State) : Res := ordinaryR s f fun _ _ a _ => Out.plain a

/-- MOVK (R146): the constant of IMM[3:0]. -/
def execMovk (f : IForm) (s : State) : Res := ordinaryI s f fun _ _ a => Out.plain a

/-- MOVI (R146). -/
def execMovi (f : IForm) (s : State) : Res := ordinaryI s f fun _ imm _ => Out.plain (resMovi imm)

/-- SEL (R147): both operands are read; the token takes its sideband from the one selected. -/
def execSel (f : RForm) (s : State) : Res :=
  withCtx s fun c =>
    let x := if c.el.p.getLsbD ((modOf f).toNat % 8) then f.sa else f.sb
    let res := c.src f.md x
    if [f.sa, f.sb].any c.poisoned then c.trap s trapPOISON
    else
      c.finish s ((c.el.writeDst f.dst res).withPw f.pw (defaultCond res)) (pushesOf f.dst (c.tok f.md [x] none res)) f.pop
        (readMask [f.sa, f.sb])

/-- PSET (R148, R96). -/
def execPset (f : PForm) (s : State) : Res := withCtx s fun c => c.pform s f c.el

/-- PGET (R149). -/
def execPget (f : RForm) (s : State) : Res := ordinaryR s f fun c _ _ _ => Out.plain (c.el.p.setWidth 256)

/-- The predicates after PPUT (R150). -/
def pputPreds (p imm v : BitVec 8) : BitVec 8 := (p &&& ~~~imm) ||| (v &&& imm)

/-- PPUT (R150): an enabled PW writes the value the predicate already holds. -/
def execPput (f : IForm) (s : State) : Res :=
  withCtx s fun c =>
    let v := (c.src 0 f.sa).extractLsb' 0 8
    c.quiet s [f.sa] { c.el with p := pputPreds c.el.p f.imm v } f.pop

/-! ### Tokens and their sidebands -/

/-- FWD (R151): a head to an output passes unchanged, POISON included; a head to a discard is forwarded
nowhere; every other case is MOV. -/
def execFwd (f : RForm) (s : State) : Res :=
  withCtx s fun c =>
    match c.srcTok? f.sa, f.dst with
    | some t, .out o =>
      c.finish s (c.el.withPw f.pw (defaultCond t.payload)) [(o, t)] f.pop (readMask [f.sa])
    | some t, .discard => c.finish s (c.el.withPw f.pw (defaultCond t.payload)) [] f.pop 0
    | _, _ => c.ordinary s [f.sa, f.sb] f.dst f.md f.pop f.pw (Out.plain (c.src f.md f.sa))

/-- EMITC (R152). -/
def execEmitc (f : RForm) (s : State) : Res :=
  withCtx s fun c =>
    let v := (lane32 (c.src f.md f.sa) 0).setWidth 16
    let b := c.src f.md f.sb
    if [f.sa, f.sb].any c.poisoned then c.trap s trapPOISON
    else
      c.finish s ((c.el.writeDst f.dst b).withPw f.pw (v != 0)) (pushesOf f.dst (controlTok v b)) f.pop
        (readMask [f.sa, f.sb])

/-- RETAG (R153). -/
def execRetag (f : IForm) (s : State) : Res :=
  ordinaryI s f fun _ imm a => ⟨a, defaultCond a, some (imm.extractLsb' 0 3)⟩

/-- SENDL (R154): MOV with LAST set on a pushed token. -/
def execSendl (f : RForm) (s : State) : Res :=
  withCtx s fun c =>
    let a := c.src f.md f.sa
    if c.poisoned f.sa then c.trap s trapPOISON
    else
      c.finish s ((c.el.writeDst f.dst a).withPw f.pw (defaultCond a))
        (pushesOf f.dst { c.tok f.md [f.sa] none a with last := true }) f.pop (readMask [f.sa])

/-- LTOK (R155): reads a head's sideband and never its payload, so a poisoned head does not trap. (DEDUCED, log 18.) -/
def execLtok (f : RForm) (s : State) : Res :=
  withCtx s fun c =>
    let res := resLtok (c.srcTok? f.sa)
    c.finish s ((c.el.writeDst f.dst res).withPw f.pw (defaultCond res)) (pushesOf f.dst (c.tok f.md [f.sa] none res)) f.pop 0

/-! ### Output credit -/

/-- CRDGET (R156). -/
def execCrdget (f : RForm) (s : State) : Res :=
  ordinaryR s f fun c md _ _ =>
    Out.plain (ofWords [BitVec.ofNat 32 (c.g.freePlaces c.e (Fin.ofNat 4 md.toNat))])

/-- CRDSET (R157). -/
def execCrdset (f : RForm) (s : State) : Res :=
  withCtx s fun c =>
    let v := (lane32 (c.src f.md f.sa) 0).toNat
    c.quiet s [f.sa]
      ({ c.el with outLimit := c.el.outLimit.set (Fin.ofNat 4 (modOf f).toNat) v }.withPw f.pw false) f.pop

/-! ### Lane arrangement -/

/-- BCAST (R158): the shape in CNT[7:6] and the lane in CNT[5:0]. -/
def execBcast (f : XForm) (s : State) : Res :=
  ordinaryX s f fun _ cnt a _ => Out.plain (resBcast (shapeWidth (cnt.toNat / 64)) (cnt.toNat % 64) a)

/-- SHUF (R159). -/
def execShuf (f : RForm) (s : State) : Res := ordinaryR s f fun _ _ a b => Out.plain (resShuf a b)

/-- PACK (R160). -/
def execPack (f : RForm) (s : State) : Res :=
  ordinaryR s f fun _ md a b => Out.plain (resPack (shapeWidth md.toNat) a b)

/-- UNPKL (R160). -/
def execUnpkl (f : RForm) (s : State) : Res :=
  ordinaryR s f fun _ md a _ => Out.plain (resUnpk (shapeWidth md.toNat) 0 a)

/-- UNPKH (R160). -/
def execUnpkh (f : RForm) (s : State) : Res :=
  ordinaryR s f fun _ md a _ => Out.plain (resUnpk (shapeWidth md.toNat) (256 / shapeWidth md.toNat) a)

/-! ### Counting and element control -/

/-- CNTI (R161). -/
def execCnti (f : IForm) (s : State) : Res :=
  ordinaryI s f fun _ imm a =>
    let x := cntiNext (lane32 a 0).toNat imm.toNat
    Out.withCond (ofWords [BitVec.ofNat 32 x.1]) x.2

/-- HALT (R162). -/
def execHalt (f : PForm) (s : State) : Res := withCtx s fun c => c.pform s f { c.el with stop := .halted }

/-- TRAP (R163): the element trap USER with the code IMM. -/
def execTrap (f : IForm) (s : State) : Res :=
  withCtx s fun c => .next (s.raiseTrap c.r c.e c.slot trapUSER f.imm.toNat)

/-- DONE (R164): the declared count, the end counter, and the condition. -/
def execDone (f : IForm) (s : State) : Res :=
  withCtx s fun c =>
    let decl : BitVec 16 := if f.imm = 0 then c.el.declared else f.imm.setWidth 16
    let n := satInc c.el.endCt
    c.quiet s [f.sa] ({ c.el with endCt := n, declared := decl }.withPw f.pw (decide (decl.toNat ≤ n.toNat))) f.pop

/-- DRAIN (R165): the element stops; its markers follow when it owes no other push. -/
def execDrain (f : PForm) (s : State) : Res := withCtx s fun c => c.pform s f { c.el with stop := .draining }

/-! ### Joins -/

/-- The token a join emits (R167, R168). -/
def joinTok (n : Nat) : Token := controlTok (BitVec.ofNat 16 n) 0

/-- JOIN (R167). -/
def execJoin (f : XForm) (s : State) : Res :=
  withCtx s fun c =>
    let k := Fin.ofNat 32 c.slot
    let jc := c.el.joinCt.get k + 1
    if jc = f.cnt then
      c.finish s ({ c.el with joinCt := c.el.joinCt.set k 0 }.writeDst f.dst 0) (pushesOf f.dst (joinTok f.cnt.toNat))
        f.pop 0
    else c.finish s { c.el with joinCt := c.el.joinCt.set k jc } [] f.pop 0

/-- The tokens a POP field removes (R166). -/
def Ctx.popped (c : Ctx) (pop : BitVec 4) : List Token :=
  ([0, 1, 2, 3] : List (Fin 4)).filterMap fun i =>
    if pop.getLsbD i.val && c.el.present i then c.el.head? i else none

/-- JOINF (R168): as JOIN, but the emitting firing stays incomplete until JOINF_RELEASE finds the joined
accesses propagated. It pops its inputs when it issues, before it waits. (DEDUCED, log 34.) -/
def execJoinf (f : XForm) (s : State) : Res :=
  withCtx s fun c =>
    let k := Fin.ofNat 32 c.slot
    let n := f.cnt.extractLsb' 0 5
    let jc := c.el.joinCt.get k + 1
    let el := { c.el with joinToks := c.el.joinToks ++ (c.popped f.pop).map fun t => (c.slot, t) }
    if jc = n.setWidth 8 then
      let el := { el with
        joinCt := el.joinCt.set k 0
        firing := some ⟨c.slot, .joinf f, .wait, 0, 0, none, [], [], .empty, 0, n.toNat, 0⟩ }
      .next (s.setGraph c.r (c.g.setElem c.e (el.popAll s.cycle f.pop 0)))
    else c.finish s { el with joinCt := el.joinCt.set k jc } [] f.pop 0

/-! ### Time and status -/

/-- TIME (R169). -/
def execTime (f : RForm) (s : State) : Res := ordinaryR s f fun _ _ _ _ => Out.plain (resWide s.clock)

/-- STAT (R170). -/
def execStat (f : RForm) (s : State) : Res := ordinaryR s f fun c md _ _ => Out.plain (resStat c md.toNat)

/-- An element whose count of squashed firings has risen (R171): the manual says of none when it is squashed, so the count has
risen by any number since it was last read. (DESIGN CHOICE, log 6.) -/
def Elem.countSquashed (el : Elem) (n : Nat) : Elem :=
  { el with perf := sset 0 el.perf 2 (sget 0 el.perf 2 + Config.freeWord64 n) }

/-- PERF (R171). -/
def execPerf (f : XForm) (s : State) : Res :=
  if f.cnt = 2 then
    withCtx s fun c =>
      let srcs := [f.sa, f.sb]
      if srcs.any c.poisoned then c.trap s trapPOISON
      else
        let (n, t) := s.drawFree
        let el := c.el.countSquashed n
        let res := resWide (sget 0 el.perf 2)
        c.finish t (el.writeDst f.dst res) (pushesOf f.dst (c.tok 0 srcs none res)) f.pop (readMask srcs)
  else ordinaryX s f fun c cnt _ _ => Out.plain (resWide (sget 0 c.el.perf cnt.toNat))

/-! ### 64-bit address arithmetic -/

/-- ADDX (R173): the condition says that the address left the 56-bit space. -/
def execAddx (f : RForm) (s : State) : Res :=
  ordinaryR s f fun _ _ a b =>
    let r := resAddx a b
    Out.withCond r ((lane r 64 0).extractLsb' 56 8 != 0)

/-- MULX (R173): the condition is product overflow. -/
def execMulx (f : RForm) (s : State) : Res :=
  ordinaryR s f fun _ _ a b =>
    Out.withCond (resMulx a b) (decide (2 ^ 64 ≤ (lane a 64 0).toNat * (lane b 64 0).toNat))

end Sys2Proof.Machine
end

