-- ==== Sys2Proof/Machine/Xlat.lean ====
section
/-! DEFINITION. Address words and their checks (R255 to R257), page tables and translation (R283 to R285, R319,
R320, R395), and timeline counters (R287, R332). -/

namespace Sys2Proof.Machine

/-! ### Address words -/

/-- The size in bytes of a SIZE code (R255); none for the reserved codes. -/
def sizeOf? (c : Nat) : Option Nat :=
  if c = 0 then some 32 else if c = 1 then some 16 else if c = 2 then some 8 else if c = 3 then some 4
  else if c = 4 then some 2 else if c = 5 then some 1 else none

/-- The bytes of a page-size code (R255, R319). -/
def pageBytes? (c : Nat) : Option Nat :=
  if c = 0 then some (2 ^ 16) else if c = 1 then some (2 ^ 21) else if c = 2 then some (2 ^ 30) else none

/-- An address word with its fields taken out (R255). -/
structure AddrWord where
  pa : Nat
  limit : Nat
  va : Nat
  size : Nat
  page : Nat
  mt : Nat
deriving DecidableEq, Repr, Inhabited

/-- Check 1 of R256: reserved values and bits raise PARAM. -/
def addrParse (a : Payload) : Except Nat AddrWord :=
  let attr := (lane32 a 4).toNat
  let sz := (lane32 a 5).toNat
  match sizeOf? sz, pageBytes? (attr / 32) with
  | some size, some page =>
    if attr / 2 % 4 = 3 then .error trapPARAM
    else .ok ⟨pair64 a 0, pair64 a 2, pair64 a 6, size, page, attr / 2 % 4⟩
  | _, _ => .error trapPARAM

/-- Checks 1 to 3 of R256, in order. -/
def addrCheck (a : Payload) : Except Nat AddrWord :=
  match addrParse a with
  | .error k => .error k
  | .ok w =>
    if w.pa % w.size ≠ 0 then .error trapALIGN
    else if w.limit < w.pa + w.size || w.pa + w.page < w.limit then .error trapADDR
    else .ok w

/-- Checks 4 and 5 of R256 at the home, for device memory and for host memory (R416); none when they pass. -/
def MemSt.homeCheck (m : MemSt) (ctx pa n : Nat) (isStore : Bool) : Option Nat :=
  if isHost pa then
    match m.hostRanges.find? fun x => decide (x.2.base ≤ pa) && decide (pa + n ≤ x.2.limit) && x.2.ctx == ctx with
    | none => some trapADDR
    | some x => if isStore && x.2.ro then some trapWRITE else none
  else
    let f := m.frame pa
    if f.owner ≠ some ctx then some trapADDR
    else if isStore && f.derived then some trapDERIVED
    else if isStore && f.ro then some trapWRITE
    else none

/-! ### Page tables -/

/-- A field of a page-table entry (R319). -/
def pte (x : BitVec 64) (lo n : Nat) : Nat := x.toNat / 2 ^ lo % 2 ^ n

/-- The physical address a page-table entry holds (R319). -/
def pteAddr (x : BitVec 64) : Nat := pte x 24 40 * 2 ^ 12

/-- Whether an entry with V = 1 is well formed at its level (R319, R320, R416). -/
def pteOk (level : Nat) (x : BitVec 64) : Bool :=
  let addr := pteAddr x
  if x.getLsbD 1 then decide (1 ≤ level) && pte x 2 21 == 0 && addr % 2 ^ 13 == 0
  else
    match pageBytes? (pte x 7 2) with
    | none => false
    | some page =>
      let sizeOk := if pte x 7 2 = 2 then level == 1 else level == 0
      let pitch := pte x 10 13
      sizeOk && pte x 3 2 != 3 && addr % page == 0
        && !(x.getLsbD 6 && (x.getLsbD 2 || x.getLsbD 5))
        && (if x.getLsbD 9 then decide (1 ≤ pitch) && decide (pitch ≤ 4096) else pitch == 0)
        && !(isHost addr && (x.getLsbD 5 || x.getLsbD 6))

/-- The physical address of the entry a walk reads at a level (R285, R319). -/
def pteAt (table va level : Nat) : Nat := table + 8 * (va / 2 ^ (10 * level + 16) % 2 ^ 10)

/-- What a walk ends with: the entry's address and the leaf, or whether the entry was malformed. -/
inductive WalkRes where
  | leaf (at_ : Nat) (x : BitVec 64)
  | fault (malformed : Bool)
deriving DecidableEq, Repr, Inhabited

/-- The walk from a table at a level down (R319, R320). -/
def walkFrom (bytes : List Host.Cell) (va : Nat) : (level table : Nat) → WalkRes
  | level, table =>
    let a := pteAt table va level
    let x := BitVec.ofNat 64 (readLe bytes a 8)
    if !x.getLsbD 0 then .fault false
    else if !pteOk level x then .fault true
    else if x.getLsbD 1 then
      match level with
      | 0 => .fault true
      | l + 1 => walkFrom bytes va l (pteAddr x)
    else .leaf a x

/-- The root table of a context (R396). -/
def State.root? (s : State) (ctx : Nat) : Option Nat := (s.sched.context? ctx).map (·.cfg.root)

/-- The walk of a context's VA from its root table at level 3 (R319); no VA is at or above 2^56. -/
def State.walk (s : State) (ctx va : Nat) : WalkRes :=
  if 2 ^ 56 ≤ va then .fault false
  else
    match s.root? ctx with
    | none => .fault false
    | some root => walkFrom s.mem.bytes va 3 root

/-- The bytes of the page a leaf maps. -/
def leafBytes (x : BitVec 64) : Nat := (pageBytes? (pte x 7 2)).getD (2 ^ 16)

/-- A translation's result (R283): an address word or a fault code. -/
def leafResult (x : BitVec 64) (va : Nat) (intent : Bool) : Except Nat Payload :=
  if intent && x.getLsbD 6 then .error 4
  else if intent && !x.getLsbD 2 then .error 2
  else
    let page := leafBytes x
    let pa := pteAddr x + va % page
    let limit := pteAddr x + page
    let bit (b : Bool) (n : Nat) : Nat := if b then 2 ^ n else 0
    let attr := bit (x.getLsbD 2) 0 + pte x 3 2 * 2 + bit (x.getLsbD 5) 3 + bit (x.getLsbD 6) 4 + pte x 7 2 * 32
    .ok (ofWords [lo32 pa, hi32 pa, lo32 limit, hi32 limit, BitVec.ofNat 32 attr, 0, lo32 va, hi32 va])

/-- The accessed bit of a frame, with the entry that maps it (R319, R322). -/
def MemSt.noteAccess (m : MemSt) (at_ pa : Nat) : MemSt :=
  { m with frames := sset noFrame m.frames (frameOf pa) { m.frame pa with accessed := true, leaf := some at_ } }

/-- The accessed bit, set at translation (R319): bit 23 of the entry, and the frame's. (DEDUCED, log 62.) -/
def State.setAccessed (s : State) (at_ va : Nat) (x : BitVec 64) : State :=
  let s := s.ownAmend (at_ + 2) 0xFF 0x80
  { s with mem := s.mem.noteAccess at_ (pteAddr x + va % leafBytes x) }

/-- An entry of a translation node for a leaf (R283, R319). -/
def TlbEnt.ofLeaf (ctx at_ va : Nat) (x : BitVec 64) : TlbEnt := ⟨va - va % leafBytes x, leafBytes x, x, ctx, at_⟩

/-- A translation that a node's entry answers: its page is accessed (R283, R319). -/
def State.touchTlb (s : State) (t : TlbEnt) (va : Nat) : State := s.setAccessed t.at_ va t.leaf

/-- The entry of a translation node that covers a VA. -/
def ESt.tlbHit? (x : ESt) (ctx va : Nat) : Option TlbEnt :=
  x.tlb.find? fun t => t.ctx == ctx && decide (t.va ≤ va) && decide (va < t.va + t.size)

/-- Installs an entry; the oldest goes when the node is full (R395). -/
def ESt.tlbInstall (x : ESt) (t : TlbEnt) : ESt :=
  { x with tlb := (if 64 ≤ x.tlb.length then x.tlb.drop (x.tlb.length - 63) else x.tlb) ++ [t] }

/-- A translation that no firing waits for (R319, R320): the state after the walk, and the result with the entry to install. A
malformed entry is counted at the die. (DEDUCED, log 32.) -/
def State.translate (s : State) (die ctx va : Nat) (intent : Bool) : State × Except Nat Payload × Option TlbEnt :=
  if 2 ^ 56 ≤ va then (s, .error 3, none)
  else
    match s.walk ctx va with
    | .fault bad =>
      (if bad then { s with mem := { s.mem with malformed := bumpBy s.mem.malformed die 1 } } else s, .error 1, none)
    | .leaf a x => (s.setAccessed a va x, leafResult x va intent, some (.ofLeaf ctx a va x))

/-! ### Home slices -/

/-- A page-table entry in memory. -/
def MemSt.pteOf (m : MemSt) (at_ : Nat) : BitVec 64 := BitVec.ofNat 64 (readLe m.bytes at_ 8)

/-- Whether the entry at an address of a page table maps a frame (R302, R319). -/
def MemSt.maps (m : MemSt) (at_ frame : Nat) : Bool :=
  let x := m.pteOf at_
  x.getLsbD 0 && decide (pteAddr x ≤ 2 ^ 16 * frame) && decide (2 ^ 16 * frame < pteAddr x + leafBytes x)

/-- Where the page-table entry that maps a frame stands (R302, R322): the one its frame-table entry names, or one that the entry
of another frame of the same page names. (DEDUCED, log 113.) -/
def MemSt.leafPtr? (m : MemSt) (frame : Nat) : Option Nat :=
  (sget noFrame m.frames frame).leaf.orElse fun _ => m.frames.findSome? fun f => f.2.leaf.filter fun a => m.maps a frame

/-- The page-table entry that maps a frame (R302, R322). -/
def MemSt.leafOf? (m : MemSt) (frame : Nat) : Option (BitVec 64) := (m.leafPtr? frame).map m.pteOf

/-- The memory type of a line, by the page that maps its frame (R319, R321); coherent where no entry is known.
(DEDUCED, log 113.) -/
def MemSt.typeOf (m : MemSt) (line : Nat) : Nat :=
  match m.leafOf? (frameOf (64 * line)) with
  | some x => pte x 3 2
  | none => 0

/-- The home slice of a line (R302): by the page's rows, or by the line alone. -/
def MemSt.homeOf (m : MemSt) (line : Nat) : Fin 4096 :=
  match m.leafOf? (frameOf (64 * line)) with
  | some x =>
    if x.getLsbD 9 then
      Config.rowHome (pteAddr x) (pte x 10 13) ((64 * line - pteAddr x) / (64 * pte x 10 13))
    else Config.homeSlice line
  | none => Config.homeSlice line

/-- The fault token of R283. (DESIGN CHOICE, log 33.) -/
def faultTok (code va : Nat) (intent last : Bool) (coord : BitVec 16) : Token :=
  controlTok (BitVec.ofNat 16 code)
    (ofWords [lo32 va, hi32 va, if intent then 1 else 0, if last then 1 else 0, coord.setWidth 32])

/-- The token XLAT pushes for a result (R283). -/
def xlatTok (res : Except Nat Payload) (va : Nat) (intent last : Bool) (coord : BitVec 16) : Token :=
  match res with
  | .ok w => ⟨1, .data, last, false, coord, w⟩
  | .error k => faultTok k va intent last coord

/-! ### Timeline counters -/

/-- Whether a context holds a counter (R287, R369). -/
def State.holdsCounter (s : State) (ctx n : Nat) : Bool :=
  match s.sched.context? ctx with
  | some c => c.cfg.counters.contains n
  | none => false

/-- A counter's value. -/
def MemSt.counter (m : MemSt) (n : Nat) : BitVec 64 := sget 0 m.counters n

/-- CSIG's add and raise (R287). -/
def counterAdd (v : BitVec 64) (n : Nat) : BitVec 64 := BitVec.ofNat 64 (min (v.toNat + n) (2 ^ 64 - 1))
def counterRaise (v : BitVec 64) (n : Nat) : BitVec 64 := BitVec.ofNat 64 (max v.toNat n)

/-- Writes a counter. -/
def State.setCounter (s : State) (n : Nat) (v : BitVec 64) : State :=
  { s with mem := { s.mem with counters := sset 0 s.mem.counters n v } }

/-- Advances a counter by 1 (R332). -/
def State.advance (s : State) (n : Nat) : State := s.setCounter n (counterAdd (s.mem.counter n) 1)

/-- Advances a counter that may be none. -/
def State.advance? (s : State) : Option Nat → State
  | some n => s.advance n
  | none => s

end Sys2Proof.Machine
end

