-- ==== Sys2Proof/Machine/Derive.lean ====
section
/-! DEFINITION. Derived tensors (R276 to R278, R340 to R355): the descriptor, acceptance, what a base store
does to the shadows, scans, and the values that derived words read as. -/

namespace Sys2Proof.Machine

/-! ### Visible values -/

/-- The canonical NaN of a derived tag's code, the extreme rounded, or the sum rounded (R349). -/
def Decl.rowWord (d : Decl) (row : DrvRow) : Word :=
  match d.kind with
  | .rowsum | .rowssq => BitVec.ofNat 32 (xsRound row.sum 1 fp32 .rne)
  | _ =>
    if row.ext.nan > 0 then BitVec.ofNat 32 (roundTo d.derFmt .rne .nan)
    else BitVec.ofNat 32 (roundTo d.derFmt .rne row.ext.ext)

/-- A BSCALE byte (R349). -/
def Decl.scaleByte (d : Decl) (row : DrvRow) (k : Nat) : Byte :=
  let b := row.blocks.getD k ExtSh.empty
  if b.cnt = 0 then 127
  else BitVec.ofInt 8 (clampInt (b.ext.num / b.ext.den - d.narrow.largest.exponent) (-127) 127 + 127)

/-- The bytes a BSCALE row takes in the derived range (R340). -/
def bscaleStride (cols : Nat) : Nat := 4 * (((cols + 31) / 32 + 3) / 4)

/-- What a byte of a derived range depends on (R340): a word or byte of one row, with its offset there; the histogram, with
its offset; or nothing, where no row or bin stands (R343). -/
inductive DrvAt where
  | row (d : Decl) (i off : Nat)
  | hist (d : Decl) (off : Nat)
  | none
deriving DecidableEq, Repr

/-- Where a byte of a declaration's derived range stands (R340). -/
def Decl.placeOf (d : Decl) (off : Nat) : DrvAt :=
  match d.kind with
  | .hist => if off / 4 < d.bins + 3 then .hist d off else .none
  | .bscale => if off / bscaleStride d.cols < d.rows.length then .row d (off / bscaleStride d.cols) (off % bscaleStride d.cols) else .none
  | _ => if off / 4 < d.rows.length then .row d (off / 4) (off % 4) else .none

/-- A byte of a row's derived words (R340, R349); a withdrawn row reads zero (R352). -/
def Decl.rowByte (d : Decl) (row : DrvRow) (off : Nat) : Byte :=
  if row.scan = .withdrawn then 0
  else
    match d.kind with
    | .bscale => if off < (d.cols + 31) / 32 then d.scaleByte row off else 0
    | _ => (leBytes 4 (d.rowWord row).toNat).getD off 0

/-- The declaration of a context whose derived range holds a VA (R278, R352): a live one, or else one that still
withdraws. Where the derived ranges of two overlap, the word is that of the one declared first. (DESIGN CHOICE, log 116.) -/
def State.declAt? (s : State) (ctx va : Nat) : Option Decl :=
  let mine (d : Decl) : Bool := d.ctx == ctx && decide (d.derVa ≤ va) && decide (va < d.derVa + d.derSize)
  (s.drv.find? fun d => mine d && d.withdraw.isNone).orElse fun _ => s.drv.find? mine

/-- What a byte at a VA of the derived space depends on. -/
def State.drvAt (s : State) (ctx va : Nat) : DrvAt :=
  match s.declAt? ctx va with
  | some d => d.placeOf (va - d.derVa)
  | none => .none

/-- Whether two bytes of the derived space are read in one event (R335, R343). -/
def DrvAt.together : DrvAt → DrvAt → Bool
  | .row d i _, .row e j _ => d.handle == e.handle && i == j
  | .hist d _, .hist e _ => d.handle == e.handle
  | .none, .none => true
  | _, _ => false

/-- Whether a row's scans let its derived words be read (R335, R350). -/
def DrvRow.readable (row : DrvRow) : Bool := row.scan == .ready || row.scan == .withdrawn

/-- The bytes that the next part of a derived load reads: as far as they depend on one row, or on one histogram. -/
def State.drvRun (s : State) (ctx : Nat) : List Nat → List Nat
  | [] => []
  | va :: rest => va :: rest.takeWhile fun x => (s.drvAt ctx va).together (s.drvAt ctx x)

/-- The marks on a row whose shadow fails its ECC check (R354). -/
def State.markRows (s : State) (handle : Nat) (bad : Bool) (p : DrvRow → Nat → Bool) : State :=
  if bad then
    { s with
      drv := s.drv.map fun d =>
        if d.handle = handle then
          { d with rows := d.rows.zipIdx.map fun (row, i) => if p row i then { row with poison := true } else row }
        else d }
  else s

/-- Bytes that a derived load has read, and whether the row they come from is marked (R354). -/
def DrvProg.give (p : DrvProg) (bs : List Byte) (mark : Bool) : DrvProg :=
  { p with bytes := p.bytes ++ bs, marks := p.marks ++ bs.map fun _ => mark }

/-- Whether a byte that a derived load has read came from a marked row. -/
def DrvProg.poisoned (p : DrvProg) : Bool := p.marks.any id

/-- The bytes of no row or bin that come next in a derived load read zero, with no event of their own (R343). -/
def State.drvZeros (s : State) (ctx : Nat) (vas : List Nat) (p : DrvProg) : DrvProg :=
  p.give (((vas.drop p.bytes.length).takeWhile fun va => s.drvAt ctx va == .none).map fun _ => 0) false

/-- Whether a row's derived words read poisoned (R354); a withdrawn row reads zero (R352). -/
def DrvRow.marked (row : DrvRow) : Bool := row.poison && row.scan != .withdrawn

/-- A derived load performs at the home of some rows of a declaration: it joins the home order of their lines (R325, R335). -/
def State.noteRows (s : State) (d : Decl) (rows : List DrvRow) : State :=
  { s with
    mem := rows.foldl (fun m row =>
      (List.range ((row.pa + rowBytes d.baseFmt d.cols - 1) / 64 - row.pa / 64 + 1)).foldl (fun m i =>
        m.note (row.pa / 64 + i) m.performs false) m) s.mem }

/-- A HIST read performs at slice `k` (R335, R348, R354). -/
def DrvProg.slice (p : DrvProg) (d : Decl) (k : Nat) (bad : Bool) : DrvProg :=
  { p with
    done := p.done ++ [k]
    sums := (List.range (d.bins + 3)).map fun j => p.sums.getD j 0 + d.partialCount k j
    bad := p.bad || bad || d.rows.any DrvRow.marked }

/-- The slices at which a HIST read has still to perform and may perform now (R335). -/
def DrvProg.left (p : DrvProg) (d : Decl) : List Nat :=
  d.slices.filter fun k => !p.done.contains k && d.rows.all fun r => r.slice != k || r.readable

/-- What a HIST read gives once it has performed at every slice (R340, R349). -/
def State.histDone (s : State) (ctx : Nat) (run : List Nat) (p : DrvProg) : DrvProg :=
  { p.give (run.map fun va =>
      match s.drvAt ctx va with
      | .hist _ off => (leBytes 4 (min (p.sums.getD (off / 4) 0) (2 ^ 31 - 1))).getD (off % 4) 0
      | _ => 0) p.bad with done := [], sums := [], bad := false }

/-- The next part of a load of derived words (R335, R343, R349, R354): one row at its home, or the histogram at a slice that
homes a row, in any order (DESIGN CHOICE, log 114). A check of a HIST slice that fails marks every row that the slice homes
(DESIGN CHOICE, log 114). `vas` are the VAs of the bytes read and `bad` says that the shadow fails
its ECC check there. None while scans hold back every part that could come next. -/
def State.drvPart (s : State) (ctx : Nat) (vas : List Nat) (p : DrvProg) (bad : Bool) : Option (State × DrvProg) :=
  let run := s.drvRun ctx (vas.drop p.bytes.length)
  match run.head?.map (s.drvAt ctx) with
  | none => some (s, p)
  | some .none => some (s, s.drvZeros ctx vas p)
  | some (.row d i _) =>
    match d.rows[i]? with
    | none => some (s, p.give (run.map fun _ => 0) false)
    | some row =>
      if !row.readable then none
      else
        let bs := run.map fun va =>
          match s.drvAt ctx va with
          | .row _ _ off => d.rowByte row off
          | _ => 0
        some ((s.markRows d.handle bad fun _ j => j == i).noteRows d [row],
          p.give bs (row.scan != .withdrawn && (bad || row.poison)))
  | some (.hist d _) =>
    match p.left d with
    | [] => if d.slices.all p.done.contains then some (s, s.histDone ctx run p) else none
    | l =>
      let k := l.getD (Config.pick s.freeCtr % l.length) 0
      let p := p.slice d k bad
      let t := ({ s with freeCtr := s.freeCtr + 1 }.markRows d.handle bad fun r _ => r.slice == k).noteRows d
        (d.rows.filter fun r => r.slice == k)
      some (t, if d.slices.all p.done.contains then s.histDone ctx run p else p)

/-- The next event of a derived load, with the zero bytes beside it (R343). -/
def State.drvStep (s : State) (ctx : Nat) (vas : List Nat) (p : DrvProg) (bad : Bool) : Option (State × DrvProg) :=
  match s.drvPart ctx vas (s.drvZeros ctx vas p) bad with
  | some (t, p) => some (t, t.drvZeros ctx vas p)
  | none => none

/-- The first byte of each page of 64 KiB that `n` bytes from a VA touch. -/
def pagesOf (va n : Nat) : List Nat :=
  (List.range ((va + n - 1) / 2 ^ 16 - va / 2 ^ 16 + 1)).map fun i => (va / 2 ^ 16 + i) * 2 ^ 16

/-- The VA by which a context reads a byte of a DERIVED frame, found from its declarations (R335, R414). -/
def State.derivedVa? (s : State) (pa : Nat) : Option (Nat × Nat) :=
  s.drv.findSome? fun d =>
    (pagesOf d.derVa d.derSize).findSome? fun va =>
      match s.walk d.ctx va with
      | .leaf _ x =>
        let lo := pteAddr x + va % leafBytes x
        if lo ≤ pa && pa < lo + 2 ^ 16 then some (d.ctx, va + (pa - lo)) else none
      | .fault _ => none

/-! ### Declaration -/

/-- The descriptor of DRV (R276). -/
structure DrvDesc where
  baseVa : Nat
  derVa : Nat
  rows : Nat
  cols : Nat
  pitch : Nat
  baseTag : BitVec 3
  derTag : BitVec 3
  kind : Option DrvKind
  zeros : Bool
deriving DecidableEq, Repr, Inhabited

/-- The kind codes of R276. -/
def drvKind? (n : Nat) : Option DrvKind :=
  match n with
  | 0 => some .rowsum
  | 1 => some .rowssq
  | 2 => some .rowmax
  | 3 => some .rowmin
  | 4 => some .hist
  | 5 => some .bscale
  | _ => none

/-- A bit field of a payload as a number. -/
def field (v : Payload) (lo n : Nat) : Nat := v.toNat / 2 ^ lo % 2 ^ n

/-- The descriptor A holds (R276). -/
def DrvDesc.of (a : Payload) : DrvDesc :=
  ⟨field a 0 56, field a 64 56, field a 128 32 + 1, field a 160 16 + 1, field a 176 32,
    BitVec.ofNat 3 (field a 208 3), BitVec.ofNat 3 (field a 212 3), drvKind? (field a 216 3),
    field a 56 8 == 0 && field a 120 8 == 0 && field a 211 1 == 0 && field a 215 1 == 0 && field a 219 37 == 0⟩

/-- The size of the derived range (R340). -/
def derivedSize (k : DrvKind) (rows cols bins : Nat) : Nat :=
  match k with
  | .hist => 4 * (bins + 3)
  | .bscale => bscaleStride cols * rows
  | _ => 4 * rows

/-- The bytes that a declaration's shadows pin; `slices` is the number of slices that home a base row (R340, R355). -/
def pinBytes (k : DrvKind) (rows cols bins slices : Nat) : Nat :=
  match k with
  | .rowsum | .rowssq => 48 * rows
  | .rowmax | .rowmin => 16 * rows
  | .hist => 4 * (bins + 3) * slices
  | .bscale => 4 * ((cols + 31) / 32) * rows

/-- The limits of R341. -/
def sumsFit (k : DrvKind) (f : Fmt) : Bool :=
  let big (n : Nat) : Bool := (Val.ofDyadic 1 n).lt f.largest
  match k with
  | .rowsum => !(f.cls == .float && decide (161 < f.bias + f.m)) && !big 142
  | .rowssq =>
    if f.squareRounds then true
    else !(f.cls == .float && decide (f.width ≤ 8) && decide (81 < f.bias + f.m)) && !big 71
  | _ => true

/-- The tag pairings of R340, with BSCALE's narrow format (R228). -/
def tagsPair (k : DrvKind) (d : DrvDesc) (bf : Fmt) (narrow : Option Fmt) : Bool :=
  let numeric := bf.cls != .slice
  match k with
  | .rowsum | .rowssq => numeric && d.derTag == 0
  | .rowmax | .rowmin => numeric && (d.derTag == 0 || d.derTag == d.baseTag)
  | .hist => numeric && d.derTag == 1
  | .bscale =>
    bf.cls == .float && d.derTag == 0 &&
      (match narrow with
       | some t => (t.cls == .float && decide (3 ≤ t.width) && decide (t.width ≤ 8)) || (t.cls == .sint && t.width == 8)
       | none => false)

/-- The physical address of a base row and its home slice, when the row meets R342 and R321; the base VA itself stands a
multiple of the pitch into its page. A row's home slice is that of its first byte. (DESIGN CHOICE, log 115.) -/
def State.baseRow? (s : State) (ctx : Nat) (d : DrvDesc) (len r : Nat) : Option (Nat × Nat) :=
  let va := d.baseVa + r * d.pitch
  match s.walk ctx va with
  | .leaf _ x =>
    let page := leafBytes x
    if x.getLsbD 5 && x.getLsbD 9 && pte x 10 13 * 64 == d.pitch && pte x 3 2 != 2
        && (r != 0 || va % page % d.pitch == 0) && decide (va % page + len ≤ page) then
      some (pteAddr x + va % page, (Config.rowHome (pteAddr x) (pte x 10 13) (va % page / d.pitch)).val)
    else none
  | .fault _ => none

/-- Whether every page of the derived range is mapped DERIVED (R340). -/
def State.derivedMapped (s : State) (ctx va n : Nat) : Bool :=
  (pagesOf va n).all fun page =>
    match s.walk ctx page with
    | .leaf _ x => x.getLsbD 6
    | .fault _ => false

/-- The counter an operand lane names (R276, R278): none for 0xFFFF_FFFF. -/
def counterOf (w : Word) : Option Nat := if w = 0xFFFFFFFF then none else some w.toNat

/-- The bins of a declaration's histogram, by lane 1 of B (R276). -/
def binsOf (k : DrvKind) (b1 : Nat) : Nat :=
  match k with
  | .hist => b1 / 256 % 256 + 1
  | _ => 0

/-- BSCALE's narrow format, by lane 1 of B (R276). -/
def GraphSt.narrow? (g : GraphSt) (k : DrvKind) (b1 : Nat) : Option Fmt :=
  match k with
  | .bscale => g.fmt? (BitVec.ofNat 3 (b1 % 8))
  | _ => none

/-- Whether every field of a declaration is within its limits (R276, R277, R340, R341, R348): status 1 where not. -/
def GraphSt.drvFields (g : GraphSt) (d : DrvDesc) (k : DrvKind) (bf : Fmt) (b : Payload) : Bool :=
  let b1 := (lane32 b 1).toNat
  let unused := match k with
    | .hist => b1 / 2 ^ 16 == 0
    | .bscale => b1 / 8 == 0
    | _ => b1 == 0
  d.zeros && unused && decide (d.rows * d.cols ≤ 2 ^ 32) && decide (d.pitch ≤ 262144)
    && decide (rowBytes bf d.cols ≤ d.pitch) && tagsPair k d bf (g.narrow? k b1) && sumsFit k bf && d.derVa % 4 == 0
    && (k != .hist || !((val32 (lane32 b 0)).isNaN || (val32 (lane32 b 0)).isInf))

/-- Translates VAs in order, up to the first that faults (R319, R320). -/
def State.touchVas (s : State) (die ctx : Nat) : List Nat → State
  | [] => s
  | va :: rest =>
    match s.translate die ctx va false with
    | (t, .ok _, _) => t.touchVas die ctx rest
    | (t, .error _, _) => t

/-- The translations that the acceptance of a declaration makes (R277, R319, R320): each base row, and then, where all of
those stand, each page of the derived range. (DEDUCED, log 27.) -/
def State.declTouch (s : State) (die : Nat) (g : GraphSt) (ctx : Nat) (a b : Payload) : State :=
  let d := DrvDesc.of a
  match d.kind, g.fmt? d.baseTag with
  | some k, some bf =>
    if !g.drvFields d k bf b then s
    else
      let t := s.touchVas die ctx ((List.range d.rows).map fun r => d.baseVa + r * d.pitch)
      if (List.range d.rows).any fun r => (s.baseRow? ctx d (rowBytes bf d.cols) r).isNone then t
      else t.touchVas die ctx (pagesOf d.derVa (derivedSize k d.rows d.cols (binsOf k (lane32 b 1).toNat)))
  | _, _ => s

/-- Acceptance of a declaration (R277): the lowest refusal status, or the declaration, with the lowest free handle.
(DEDUCED, log 27.) (DESIGN CHOICE, log 116.) -/
def State.declare (s : State) (g : GraphSt) (ctx launch : Nat) (a b : Payload) : Except Nat Decl :=
  let d := DrvDesc.of a
  let b1 := (lane32 b 1).toNat
  let ctr := counterOf (lane32 b 2)
  match d.kind, g.fmt? d.baseTag with
  | some k, some bf =>
    let bins := binsOf k b1
    let narrow := g.narrow? k b1
    let len := rowBytes bf d.cols
    let size := derivedSize k d.rows d.cols bins
    let pas := (List.range d.rows).map fun r => s.baseRow? ctx d len r
    let pin := pinBytes k d.rows d.cols bins ((pas.filterMap fun p => p.map (·.2)).foldl (fun l x => setIns x l) []).length
    if !g.drvFields d k bf b then .error 1
    else if pas.any Option.isNone then .error 2
    else if !s.derivedMapped ctx d.derVa size then .error 3
    else if decide (4096 ≤ s.drv.length) || decide (512 ≤ (s.drv.filter fun x => x.ctx == ctx).length) then .error 4
    else if (s.drv.map (·.pin)).sum + pin > 64 * 2 ^ 20 then .error 5
    else if (match ctr with
        | some n => !s.holdsCounter ctx n
        | none => false) then .error 6
    else
      let handle := ((List.range 4096).find? fun h => (s.drv.find? fun x => x.handle == h).isNone).getD 0
      .ok { handle := handle, ctx := ctx, launch := launch, kind := k, baseVa := d.baseVa, derVa := d.derVa
            derSize := size, cols := d.cols, pitch := d.pitch, baseFmt := bf
            derFmt := (g.fmt? d.derTag).getD fp32, lo := lane32 b 0
            wexp := (BitVec.ofNat 8 (b1 % 256)).toInt, bins := bins, narrow := narrow.getD fp32
            counter := ctr, pending := true, pin := pin
            rows := pas.map fun p => ⟨(p.getD (0, 0)).1, (p.getD (0, 0)).2, .initial, false, XS.clear, ExtSh.empty, [], []⟩
            withdraw := none, sat := [] }
  | _, _ => .error 1

/-- The result of DRV, DRVX and DRVQ with a handle and a status (R277). -/
def drvRes (handle status : Nat) : Payload := ofWords [BitVec.ofNat 32 handle, BitVec.ofNat 32 status]

/-- The live declaration with a handle that a context owns (R277, R278). -/
def State.declOf? (s : State) (ctx handle : Nat) : Option Decl :=
  s.drv.find? fun d => d.handle == handle && d.ctx == ctx && d.withdraw.isNone

/-- Changes the declaration with a handle. -/
def State.modDecl (s : State) (h : Nat) (f : Decl → Decl) : State :=
  { s with drv := s.drv.map fun d => if d.handle = h then f d else d }

/-- The addresses of the identical leaves that map one page (R319): one, or 32 or 16 consecutive ones. -/
def pageLeaves (at_ : Nat) (x : BitVec 64) : List Nat :=
  let n := if pte x 7 2 = 1 then 32 else if pte x 7 2 = 2 then 16 else 1
  (List.range n).map fun i => at_ - at_ % (8 * n) + 8 * i

/-- The pages of a declaration's derived range that lose their mapping (R278), by their first VA and their leaves: those that
no part of the derived range of another live declaration shares. -/
def State.lostPages (s : State) (d : Decl) : List (Nat × List Nat) :=
  if d.derSize = 0 then []
  else
    (pagesOf d.derVa d.derSize).filterMap fun va =>
      match s.walk d.ctx va with
      | .fault _ => none
      | .leaf a x =>
        let base := va - va % leafBytes x
        let shared := s.drv.any fun y =>
          y.handle != d.handle && y.ctx == d.ctx && y.withdraw.isNone && decide (y.derVa < base + leafBytes x)
            && decide (base < y.derVa + y.derSize)
        if shared || !x.getLsbD 6 then none else some (base, pageLeaves a x)

/-- An element whose misses go to the walker region anew: answers to earlier requests are dropped. (DEDUCED, log 127.) -/
def Elem.unask (el : Elem) : Elem := { el with outs := el.outs.map fun (o : OutF) => { o with asked := none } }

/-- A graph whose misses go to the walker region anew. -/
def GraphSt.unask (g : GraphSt) : GraphSt := { g with elems := g.elems.map Elem.unask }

/-- The translation nodes of a graph without the page of a context that begins at a VA (R278). -/
def GraphSt.dropPages (g : GraphSt) (ctx : Nat) (bases : List Nat) : GraphSt :=
  { g with
    elems := g.elems.map fun el =>
      match el.ks with
      | .e st => { el with ks := .e { st with tlb := st.tlb.filter fun t => !(t.ctx == ctx && bases.contains t.va) } }
      | _ => el }

end Sys2Proof.Machine
end

