-- ==== Sys2Proof/Machine/Stream.lean ====
section
/-! DEFINITION. Firings that take or push more than one token (R67, R213): how they start, push, and
complete, and engines' claims (R214). -/

namespace Sys2Proof.Machine

/-- The input a stream operand names (R213). -/
def headOf? : Src → Option (Fin 4)
  | .head n => some n
  | _ => none

/-- A firing that has taken and pushed nothing yet. -/
def Firing.start (slot : Nat) (i : Instr) (stage : Stage) : Firing :=
  ⟨slot, i, stage, 0, 0, none, [], [], .empty, 0, 0, 0⟩

/-- Leaves a firing incomplete (R67): no other slot of the element issues until it completes. -/
def Ctx.hold (c : Ctx) (s : State) (el : Elem) (f : Firing) : Res := .next (c.put s { el with firing := some f })

/-- Completes an incomplete firing: steps 3 to 5 of R65 for what is left of it. -/
def Ctx.complete (c : Ctx) (s : State) (el : Elem) (pushes : List (Fin 4 × Token)) (pop read : BitVec 4) : Res :=
  c.finish s { el with firing := none } pushes pop read

/-- Pushes the first of a list of tokens now and leaves the rest to FURTHER_TOKEN_PUSH (R67). A tag of any of them outside the
producer's set raises FORMAT before the firing has written anything (R71). With nothing to push the firing completes. -/
def Ctx.pushList (c : Ctx) (s : State) (el : Elem) (f : Firing) (q : List (Fin 4 × Token)) (pop read : BitVec 4) : Res :=
  match q with
  | [] => c.complete s el [] pop read
  | [x] => c.complete s el [x] pop read
  | x :: r =>
    if c.g.tagsOk c.e q then
      .next (s.setGraph c.r ((c.g.setElem c.e { el with firing := some { f with stage := .push, q := r } }).push c.e x.1 x.2))
    else c.trap s trapFORMAT

/-- What taking one token does to a firing or an engine. -/
inductive Take where
  | trap (code : Nat)
  | more (el : Elem) (f : Firing)
  | push (el : Elem) (f : Firing) (q : List (Fin 4 × Token))
  | done (el : Elem) (res : Option (Payload × Token))

/-- Whether an engine of a kind runs on an element (R214). -/
def Elem.engine? (el : Elem) (k : EngKind) : Option Engine := el.engines.find? fun x => x.kind == k

/-- Whether a firing that would start an engine or claim an input has to wait (R214). -/
def Elem.busy (el : Elem) (k : EngKind) (i : Fin 4) : Bool := (el.engine? k).isSome || (el.ins.get i).claimed

/-- Starts an engine and claims its stream input (R214). -/
def Elem.startEngine (el : Elem) (x : Engine) : Elem :=
  { el with engines := el.engines ++ [x] }.modInput x.input fun n => { n with claimed := true }

/-- Ends an engine and releases its claim (R214). -/
def Elem.endEngine (el : Elem) (x : Engine) : Elem :=
  { el with engines := el.engines.filter fun y => y.kind != x.kind }.modInput x.input fun n => { n with claimed := false }

/-- Replaces the engine of a kind. -/
def Elem.setEngine (el : Elem) (x : Engine) : Elem :=
  { el with engines := el.engines.map fun y => if y.kind = x.kind then x else y }

/-- A data token with TAG, LAST and COORD. -/
def dataTok (tag : BitVec 3) (last : Bool) (coord : Nat) (v : Payload) : Token :=
  ⟨tag, .data, last, false, BitVec.ofNat 16 coord, v⟩

end Sys2Proof.Machine
end

