-- ==== Sys2Proof/Machine/Matrix.lean ====
section
/-! DEFINITION. Opcodes 0xA0 to 0xB4 (R220 to R231): weight banks, rows, accumulator output and access, grouped
rows, status. Rows take their tokens one at a time (R213), so the row procedure of R224 stands here token by
token, and STREAM_TOKEN_TAKE and LOAD_ENGINE_TOKEN apply it. -/

namespace Sys2Proof.Machine

/-- Runs a meaning on the state of an M element. -/
def Ctx.withM (c : Ctx) (f : MSt → Res) : Res :=
  match c.el.ks with
  | .m x => f x
  | _ => .refused .rejectedAtLoad

/-- Writes the state of an M element. -/
def Elem.setM (el : Elem) (m : MSt) : Elem := { el with ks := .m m }

/-- The active and the inactive bank (R220). -/
def MSt.bank (m : MSt) : Bank := if m.active then m.bank1 else m.bank0
def MSt.idle (m : MSt) : Bank := if m.active then m.bank0 else m.bank1

/-- Writes the inactive bank. -/
def MSt.setIdle (m : MSt) (b : Bank) : MSt := if m.active then { m with bank0 := b } else { m with bank1 := b }

/-- One bit of a flag word of 64 rows. -/
def setRow (w : BitVec 64) (r : Nat) (v : Bool) : BitVec 64 :=
  if v then w ||| BitVec.ofNat 64 (2 ^ r) else w &&& ~~~(BitVec.ofNat 64 (2 ^ r))

/-- Accumulator column `n` of row `r`. -/
def MSt.col (m : MSt) (r n : Nat) : Word := sget 0 m.acc (128 * r + n)
/-- Writes an accumulator column. -/
def MSt.setCol (m : MSt) (r n : Nat) (w : Word) : MSt := { m with acc := sset 0 m.acc (128 * r + n) w }
/-- Writes eight accumulator columns from 8j up (R225, R229). -/
def MSt.setCols (m : MSt) (r j : Nat) (f : Nat → Word) : MSt :=
  (List.range 8).foldl (fun m i => m.setCol r (8 * j + i) (f i)) m
/-- Eight accumulator columns from 8j up. -/
def MSt.cols (m : MSt) (r j : Nat) : Payload := allLanes 32 fun i => m.col r (8 * j + i)

/-- The columns a row firing touches: the half of a split bank, or all (R223). -/
def MSt.columns (m : MSt) : List (Nat × Nat) :=
  if m.bank.split then (List.range 64).map fun n => (n, n + (if m.half then 64 else 0))
  else (List.range 128).map fun n => (n, n)

/-- The raw codes of a column block of a bank (R221). -/
def Bank.block (b : Bank) (n k : Nat) : List Nat := (List.range 32).map fun i => sget 0 b.codes (256 * n + 32 * k + i)

/-- BLOCK(k, n) for every column the row touches (R50, R51). -/
def MSt.applyBlock (m : MSt) (r q : Nat) (af : Fmt) (row : RowSt) (k : Nat) : MSt :=
  let codes := (List.range 32).map fun i => sget 0 row.codes (32 * k + i)
  let b := m.bank
  let bf := (Fmt.ofRecord b.fmt).getD fp32
  if m.rowInt.getLsbD r then
    let ai := codes.map fun x => (af.value x).num
    m.columns.foldl (fun m (n, col) =>
      let (w, clamped) := intBlock ai ((b.block n k).map fun x => (bf.value x).num) (m.col r col)
      let m := m.setCol r col w
      if clamped then { m with sticky := setRow m.sticky r true } else m) m
  else
    let av := codes.map af.value
    let (ai, ea) := prealign av q
    let sa := scaleExp ((row.scales.lookup k).getD m.aScale)
    m.columns.foldl (fun m (n, col) =>
      let bv := (b.block n k).map bf.value
      let (bi, eb) := prealign bv (if b.split then 16 else 8)
      let sb := scaleExp (sget 127 b.scales (8 * n + k))
      m.setCol r col (floatBlock av bv ai bi (ea + eb) sa sb (m.col r col))) m

/-- The formed blocks from `lo` below `hi`, in ascending order (R224). -/
def MSt.applyBlocks (m : MSt) (r q : Nat) (af : Fmt) (row : RowSt) (lo hi : Nat) : MSt :=
  ((List.range hi).filter fun k => decide (lo ≤ k) && row.formed.getLsbD k).foldl
    (fun m k => m.applyBlock r q af row k) m

/-- What a row does with one token. -/
inductive RowOut where
  | trap (code : Nat)
  | more (m : MSt) (row : RowSt)
  | done (m : MSt)

/-- The path a data token of a format takes with the active bank, or none for FORMAT (R224). -/
def MSt.path? (m : MSt) (q : Nat) (f : Fmt) : Option Bool :=
  match f.cls with
  | .float => if m.bank.int then none else some false
  | .sint => if m.bank.int && (f.width == 4 || f.width == 8) && decide (f.width ≤ q) then some true else none
  | _ => none

/-- The fresh start of a row, or the check of a primed one (R224). -/
def MSt.beginRow (m : MSt) (r : Nat) (int : Bool) : Option MSt :=
  if m.primed.getLsbD r then (if m.rowInt.getLsbD r = int then some m else none)
  else
    let m := m.columns.foldl (fun m (_, col) => m.setCol r col 0) m
    some { m with rowInt := setRow m.rowInt r int }

/-- Places a data token's values in the row and applies the blocks that are complete (R224). -/
def MSt.rowData (m : MSt) (r q : Nat) (sparse : Bool) (f : Fmt) (row : RowSt) (t : Token) : RowOut :=
  let codes := unpackCodes f t.payload
  let pos := if sparse then t.coord.toNat else row.pos
  if sparse && decide (pos < row.pos) then .trap trapKLEN
  else if pos + codes.length > 256 then .trap trapKLEN
  else
    let last := pos + codes.length
    let blocks := (List.range 8).filter fun k => decide (pos / 32 ≤ k) && decide (32 * k < last)
    let scales := row.scales ++ (blocks.filter fun k => (row.scales.lookup k).isNone).map fun k => (k, m.aScale)
    let nz := (List.range codes.length).filter fun i => !(f.value (codes.getD i 0)).isZero
    let formed := if sparse then nz.foldl (fun w i => w ||| BitVec.ofNat 8 (2 ^ ((pos + i) / 32))) row.formed else 255
    let row := { row with pos := last, codes := ssetMany 0 row.codes pos codes, scales := scales, formed := formed }
    let hi := if t.last then 8 else last / 32
    let m := m.applyBlocks r q f row row.applied hi
    if t.last then .done { m with primed := setRow m.primed r false } else .more m { row with applied := hi }

/-- One token of ROW(R, q, sparse) (R224, R215). POISON goes before FORMAT. (DESIGN CHOICE, log 107.) -/
def MSt.rowToken (m : MSt) (g : GraphSt) (r q : Nat) (sparse : Bool) (row : RowSt) (t : Token) : RowOut :=
  if t.poison then .trap trapPOISON
  else
    match t.kind with
    | .scale => .more { m with aScale := byteOf t.payload 0 } row
    | .data =>
      match g.fmt? t.tag with
      | none => .trap trapFORMAT
      | some f =>
        match row.tag with
        | some t0 => if t0 = t.tag then m.rowData r q sparse f row t else .trap trapFORMAT
        | none =>
          match m.path? q f with
          | none => .trap trapFORMAT
          | some int =>
            match m.beginRow r int with
            | none => .trap trapFORMAT
            | some m => m.rowData r q sparse f { row with tag := some t.tag } t
    | _ => .trap trapFORMAT

/-- The A width a variant sets (R224). -/
def aBits : AWidth → Nat
  | .a2 => 2
  | .a4 => 4
  | .a8 => 8
  | .a16 => 16

/-- The tag of a row's output (R227). -/
def MSt.rowTag (m : MSt) (r : Nat) : BitVec 3 := if m.rowInt.getLsbD r then 1 else 0

/-- The sixteen tokens of a row (R227), with COORD from `base` up. -/
def MSt.rowTokens (m : MSt) (r base : Nat) : List Token :=
  (List.range 16).map fun j => dataTok (m.rowTag r) (j == 15) (base + j) (m.cols r j)

/-- The eight tokens of a quantised row (R228); lanes that no column fills are zero (DESIGN CHOICE, log 134). (DEDUCED, log 17.) -/
def MSt.quantTokens (m : MSt) (r : Nat) (tag : BitVec 3) (t : Fmt) (rm : Nat → RMode) : List Token :=
  let val (n : Nat) : Val := if m.rowInt.getLsbD r then .ofInt (m.col r n).toInt else val32 (m.col r n)
  let eT := t.largest.exponent
  ((List.range 4).map fun b =>
    let sc : Int :=
      match maxExponent ((List.range 32).map fun i => val (32 * b + i)) with
      | none => 0
      | some k => clampInt (k - eT) (-127) 127
    let scale : Token := ⟨0, .scale, false, false, BitVec.ofNat 16 b, (BitVec.ofInt 256 (sc + 127))⟩
    let code (i : Nat) : Nat := roundPlus t (rm (32 * b + i)) ((val (32 * b + i)).mul (.ofDyadic 1 (-sc)))
    [scale, dataTok tag (b == 3) b (packFmt t 32 code)]).flatten

/-! ### Weight banks -/

/-- A firing that starts a load engine (R214): it waits while the engine or the claim is busy. -/
def Ctx.load (c : Ctx) (s : State) (i : Instr) (k : EngKind) (sa : Src) (pop : BitVec 4) (ctx : Nat) (split : Bool)
    (h : Elem → Elem) : Res :=
  match headOf? sa with
  | none => .refused .rejectedAtLoad
  | some n =>
    if c.el.busy k n then c.hold s c.el (.start c.slot i .wait)
    else c.complete s ((h c.el).startEngine ⟨k, c.slot, n, ctx, split, none, 0, false⟩) [] pop 0

/-- MLDB (R221): the weight engine, with the inactive bank reset and the layout set. -/
def execMldb (f : XForm) (s : State) : Res :=
  withCtx s fun c =>
    c.withM fun m =>
      let split := f.cnt.getLsbD 0
      c.load s (.mldb f) .weights f.sa f.pop 0 split fun el =>
        el.setM (({ m with split := split } : MSt).setIdle { Bank.empty with split := split })

/-- MLDS (R222): the scale engine, with the token count of the most recent MLDB. -/
def execMlds (f : XForm) (s : State) : Res :=
  withCtx s fun c => c.withM fun m => c.load s (.mlds f) .scales f.sa f.pop 0 m.split id

/-- MSWAP (R223): waits while the weight or the scale engine runs. -/
def execMswap (f : PForm) (s : State) : Res :=
  withCtx s fun c =>
    c.withM fun m =>
      if (c.el.engine? .weights).isSome || (c.el.engine? .scales).isSome then c.hold s c.el (.start c.slot (.mswap f) .wait)
      else c.complete s ((c.el.setM { m with active := !m.active }).withSetClr f.set f.clr) [] f.pop 0

/-- One token of the weight engine (R221): a trap code, or the element after it. -/
def Elem.weightToken (el : Elem) (g : GraphSt) (m : MSt) (x : Engine) (t : Token) : Except Nat Elem :=
  if t.poison then .error trapPOISON
  else
    match t.kind, g.fmt? t.tag with
    | .data, some f =>
      let okFloat := f.cls == .float && (if x.split then f.width == 16 else f.width != 16 && f.width != 32)
      let okInt := f.cls == .sint && !x.split && (f.width == 4 || f.width == 8)
      if !(okFloat || okInt) || (x.tag.isSome && x.tag != some t.tag) then .error trapFORMAT
      else
        let b := m.idle
        let cs := unpackCodes f t.payload
        let b := { b with int := okInt, fmt := g.record t.tag, codes := ssetMany 0 b.codes x.n cs }
        let el := el.setM (m.setIdle b)
        let n := x.n + cs.length
        if t.last || decide ((if x.split then 16384 else 32768) ≤ n) then .ok (el.endEngine x)
        else .ok (el.setEngine { x with n := n, tag := some t.tag })
    | _, _ => .error trapFORMAT

/-- One token of the scale engine (R222). -/
def Elem.scaleToken (el : Elem) (m : MSt) (x : Engine) (t : Token) : Except Nat Elem :=
  if t.poison then .error trapPOISON
  else
    match t.kind with
    | .scale =>
      let b := m.idle
      let el := el.setM (m.setIdle { b with scales := ssetMany 127 b.scales (32 * x.n) (toBytes t.payload 32) })
      if t.last || decide ((if x.split then 16 else 32) ≤ x.n + 1) then .ok (el.endEngine x)
      else .ok (el.setEngine { x with n := x.n + 1 })
    | _ => .error trapFORMAT

/-! ### Rows -/

/-- A firing that takes its tokens from SA one at a time (R213). -/
def Ctx.stream (c : Ctx) (s : State) (i : Instr) (sa : Src) : Res :=
  match headOf? sa with
  | none => .refused .rejectedAtLoad
  | some _ => c.hold s c.el (.start c.slot i .take)

/-- MZERO (R226). -/
def execMzero (f : IForm) (s : State) : Res :=
  withCtx s fun c =>
    c.withM fun m =>
      let rows := if f.imm = 255 then List.range 64 else [f.imm.toNat]
      let m := rows.foldl (fun m r =>
        let m := (List.range 16).foldl (fun m j => m.setCols r j fun _ => 0) m
        { m with primed := setRow m.primed r false, rowInt := setRow m.rowInt r false, sticky := setRow m.sticky r false }) m
      c.quiet s [] ((c.el.setM m).withPw f.pw false) f.pop

/-- MROW (R224): a dense row. -/
def execMrow (q : AWidth) (f : XForm) (s : State) : Res := withCtx s fun c => c.withM fun _ => c.stream s (.mrow q f) f.sa
/-- MROWS (R224): a sparse row. -/
def execMrows (q : AWidth) (f : XForm) (s : State) : Res := withCtx s fun c => c.withM fun _ => c.stream s (.mrows q f) f.sa
/-- MCHAIN (R225). (DEDUCED, log 24.) -/
def execMchain (f : XForm) (s : State) : Res := withCtx s fun c => c.withM fun _ => c.stream s (.mchain f) f.sa
/-- MBIAS (R229). -/
def execMbias (f : XForm) (s : State) : Res := withCtx s fun c => c.withM fun _ => c.stream s (.mbias f) f.sa

/-- A token of a row firing. -/
def takeRow (el : Elem) (g : GraphSt) (m : MSt) (f : Firing) (r q : Nat) (sparse : Bool) (t : Token) : Take :=
  match m.rowToken g r q sparse f.row t with
  | .trap k => .trap k
  | .more m row => .more (el.setM m) { f with row := row }
  | .done m => .done (el.setM m) none

/-- A token of MCHAIN (R225). -/
def takeChain (el : Elem) (m : MSt) (f : Firing) (r : Nat) (t : Token) : Take :=
  if t.poison then .trap trapPOISON
  else if t.kind = .data && (t.tag == 0 || t.tag == 1) then
    let m := m.setCols r f.i fun i => lane32 t.payload i
    let m := { m with rowInt := setRow m.rowInt r (t.tag == 1) }
    if f.i = 15 then .done (el.setM { m with primed := setRow m.primed r true }) none
    else .more (el.setM m) { f with i := f.i + 1 }
  else .trap trapFORMAT

/-- A token of MBIAS (R229). -/
def takeBias (el : Elem) (m : MSt) (f : Firing) (r : Nat) (t : Token) : Take :=
  if t.poison then .trap trapPOISON
  else if t.kind = .data && t.tag == m.rowTag r then
    let m :=
      if m.rowInt.getLsbD r then
        let z (i : Nat) : Int := (m.col r (8 * f.i + i)).toInt + (lane32 t.payload i).toInt
        let clamped := (List.range 8).any fun i => sat32 (z i) != z i
        let m' := m.setCols r f.i fun i => BitVec.ofInt 32 (sat32 (z i))
        if clamped then { m' with sticky := setRow m'.sticky r true } else m'
      else m.setCols r f.i fun i => faddRne (m.col r (8 * f.i + i)) (lane32 t.payload i)
    if f.i = 15 then .done (el.setM m) none else .more (el.setM m) { f with i := f.i + 1 }
  else .trap trapFORMAT

/-! ### Output and access -/

/-- The row a CNT field names (R98). -/
def rowOf (cnt : BitVec 8) : Nat := cnt.toNat % 64

/-- The output a DST field names, for instructions whose DST is an output (R219, R263). -/
def outOf? : Dst → Option (Fin 4)
  | .out o => some o
  | _ => none

/-- MOUT (R227). -/
def execMout (f : XForm) (s : State) : Res :=
  withCtx s fun c =>
    c.withM fun m =>
      match outOf? f.dst with
      | none => .refused .rejectedAtLoad
      | some o =>
        c.pushList s c.el (.start c.slot (.mout f) .push) ((m.rowTokens (rowOf f.cnt) 0).map fun t => (o, t)) f.pop 0

/-- The parameters of MOUTQ (R228): the target format, or none for PARAM. -/
def moutqTarget? (g : GraphSt) (a : Payload) : Option (BitVec 3 × Fmt × Nat) :=
  let w := lane32 a 0
  let tag := w.extractLsb' 0 3
  let mode := (w.extractLsb' 4 4).toNat
  if w.getLsbD 3 || decide (5 < mode) then none
  else
    match g.fmt? tag with
    | some t =>
      if (t.cls == .float && decide (3 ≤ t.width) && decide (t.width ≤ 8)) || (t.cls == .sint && t.width == 8) then
        some (tag, t, mode)
      else none
    | none => none

/-- MOUTQ (R228). -/
def execMoutq (f : XForm) (s : State) : Res :=
  withCtx s fun c =>
    c.withM fun m =>
      match outOf? f.dst with
      | none => .refused .rejectedAtLoad
      | some o =>
        if c.poisoned f.sa then c.trap s trapPOISON
        else
          match moutqTarget? c.g (c.src 0 f.sa) with
          | none => c.trap s trapPARAM
          | some (tag, t, mode) =>
            c.pushList s c.el (.start c.slot (.moutq f) .push)
              ((m.quantTokens (rowOf f.cnt) tag t (c.rmode s mode)).map fun t => (o, t)) f.pop (readMask [f.sa])

/-- MACCR (R229): eight columns, bit for bit. -/
def execMaccr (f : XForm) (s : State) : Res :=
  withCtx s fun c =>
    c.withM fun m =>
      let r := rowOf f.cnt
      let j := (lane32 (c.src 0 f.sa) 0).toNat
      if c.poisoned f.sa then c.trap s trapPOISON
      else if j > 15 then c.trap s trapPARAM
      else
        c.finish s (c.el.writeDst f.dst (m.cols r j)) (pushesOf f.dst (dataTok (m.rowTag r) false j (m.cols r j))) f.pop
          (readMask [f.sa])

/-- MACCW (R229). -/
def execMaccw (f : XForm) (s : State) : Res :=
  withCtx s fun c =>
    c.withM fun m =>
      let r := rowOf f.cnt
      let a := c.src 0 f.sa
      let j := (lane32 (c.src 0 f.sb) 0).toNat
      if [f.sa, f.sb].any c.poisoned then c.trap s trapPOISON
      else if j > 15 then c.trap s trapPARAM
      else
        let int := match c.srcTok? f.sa with
          | some t => t.tag == 1
          | none => false
        let m := m.setCols r j fun i => lane32 a i
        c.quiet s [f.sa, f.sb]
          (c.el.setM { m with primed := setRow m.primed r true, rowInt := setRow m.rowInt r int }) f.pop

/-- MSPLIT (R223): the column half. -/
def execMsplit (f : IForm) (s : State) : Res :=
  withCtx s fun c =>
    c.withM fun m => c.quiet s [] ((c.el.setM { m with half := f.imm.getLsbD 0 }).withPw f.pw false) f.pop

/-- The lanes of MSTAT (R231). -/
def mstatRes (el : Elem) (m : MSt) : Payload :=
  let bit (b : Bool) (n : Nat) : Nat := if b then 2 ^ n else 0
  ofWords [m.sticky.extractLsb' 0 32, m.sticky.extractLsb' 32 32,
    BitVec.ofNat 32 (bit m.active 0 + bit (el.engine? .weights).isSome 1 + bit (el.engine? .scales).isSome 2
      + bit m.bank.split 3 + bit m.idle.split 4 + bit m.bank.int 5 + bit m.half 6),
    m.groupDiscard, m.aScale.setWidth 32, m.primed.extractLsb' 0 32, m.primed.extractLsb' 32 32]

/-- MSTAT (R231): selector 1 clears the sticky flags after reading. -/
def execMstat (f : RForm) (s : State) : Res :=
  withCtx s fun c =>
    c.withM fun m =>
      let res := mstatRes c.el m
      let el := if modOf f = 1 then c.el.setM { m with sticky := 0 } else c.el
      c.finish s ((el.writeDst f.dst res).withPw f.pw (m.sticky != 0))
        (pushesOf f.dst (c.tok f.md [f.sa, f.sb] none res)) f.pop 0

/-! ### Grouped rows -/

/-- The A width and sparseness that a group's control token names (R230). -/
def groupWidth (v : Payload) : Nat := 2 ^ ((lane32 v 0).toNat % 4 + 1)
def groupSparse (v : Payload) : Bool := (lane32 v 0).getLsbD 2

/-- The end token of a group (R230). -/
def groupEnd (h : Nat) : Token := controlTok (BitVec.ofNat 16 h) 0

/-- What MGRP does next, after row `i - 1` has been pushed: another row, an excess row, or the end token. -/
def groupNext (el : Elem) (f : Firing) (o : Fin 4) : Take :=
  let h := min f.g f.n
  if f.i < h then .more el { f with stage := .take, row := .empty }
  else if f.i < f.g then .more el { f with stage := .skip }
  else .push el { f with toks := [groupEnd h] } [(o, groupEnd h)]

/-- MGRP (R230): takes its control token from SA; the rows come from SB. -/
def execMgrp (f : XForm) (s : State) : Res :=
  withCtx s fun c =>
    c.withM fun _ =>
      match headOf? f.sa, headOf? f.sb, outOf? f.dst with
      | some n, some _, some o =>
        match c.el.head? n with
        | none => .refused .rejectedAtLoad
        | some t =>
          if t.poison then c.trap s trapPOISON
          else if t.kind ≠ .control then c.trap s trapFORMAT
          else
            let x := { Firing.start c.slot (.mgrp f) .take with b := t.payload, g := t.coord.toNat, n := f.cnt.toNat }
            let el := c.el.takeHead s.cycle n
            match groupNext el x o with
            | .more el x => c.hold s el x
            | .push el x q => c.pushList s el x q f.pop 0
            | _ => .refused .rejectedAtLoad
      | _, _, _ => .refused .rejectedAtLoad

/-- A token of MGRP's SB (R230): of a row, or of an excess row. -/
def takeGroup (el : Elem) (g : GraphSt) (m : MSt) (f : Firing) (o : Fin 4) (t : Token) : Take :=
  match f.stage with
  | .skip =>
    let el := if t.poison then { el with poisonDiscard := satInc el.poisonDiscard } else el
    if t.kind = .data && t.last then
      groupNext (el.setM { m with groupDiscard := satInc m.groupDiscard }) { f with i := f.i + 1 } o
    else .more el f
  | _ =>
    match m.rowToken g f.i (groupWidth f.b) (groupSparse f.b) f.row t with
    | .trap k => .trap k
    | .more m row => .more (el.setM m) { f with row := row }
    | .done m =>
      .push (el.setM m) { f with i := f.i + 1 } ((m.rowTokens f.i (16 * f.i)).map fun t => (o, t))

end Sys2Proof.Machine
end

