-- ==== Sys2Proof/Machine/Shape.lean ====
section
/-! DEFINITION. Opcodes 0xB5 to 0xBF (R232 to R238): sliding-window tiles, intersection control, compress and
expand, splitting and joining tokens, arg-maximum. -/

namespace Sys2Proof.Machine

/-- Runs a meaning on the state of an S element. -/
def Ctx.withS (c : Ctx) (f : SSt → Res) : Res :=
  match c.el.ks with
  | .s x => f x
  | _ => .refused .rejectedAtLoad

/-- Writes the state of an S element. -/
def Elem.setS (el : Elem) (x : SSt) : Elem := { el with ks := .s x }

/-- The KiB of the areas of a partition word (R304). -/
def pwWin (w : Word) : Nat := w.toNat / 2 ^ 24
def pwPark (w : Word) : Nat := w.toNat / 2 ^ 16 % 256
def pwReord (w : Word) : Nat := w.toNat / 2 ^ 8 % 256
def pwSlide (w : Word) : Nat := w.toNat % 256

/-! ### Sliding-window tiles -/

/-- SWCFG (R232). -/
def execSwcfg (f : RForm) (s : State) : Res :=
  withCtx s fun c =>
    c.withS fun x =>
      let w := (lane32 (c.src f.md f.sa) 0).toNat
      if c.poisoned f.sa then c.trap s trapPOISON
      else if w = 0 || decide (pwSlide c.el.img.pword * 1024 / 32 < w) then c.trap s trapPARAM
      else c.quiet s [f.sa] ((c.el.setS { x with ringW := w, ring := [] }).withPw f.pw false) f.pop

/-- A ring after a push: the oldest entry goes when it was full (R233). -/
def ringPush (w : Nat) (l : List RingEnt) (x : RingEnt) : List RingEnt :=
  (if w ≤ l.length then l.drop (l.length + 1 - w) else l) ++ [x]

/-- SWPUSH (R233). POISON goes before PARAM. (DESIGN CHOICE, log 107.) -/
def execSwpush (f : RForm) (s : State) : Res :=
  withCtx s fun c =>
    c.withS fun x =>
      if c.poisoned f.sa then c.trap s trapPOISON
      else if x.ringW = 0 then c.trap s trapPARAM
      else
        let r := ringPush x.ringW x.ring ⟨c.src f.md f.sa, c.tagOf f.md [f.sa]⟩
        c.quiet s [f.sa] ((c.el.setS { x with ring := r }).withPw f.pw (r.length == x.ringW)) f.pop

/-- The tokens of SWEMIT (R233). -/
def ringTokens (l : List RingEnt) (n : Nat) : List Token :=
  let l := l.take n
  (List.range l.length).map fun i =>
    let x := l.getD i default
    dataTok x.tag (i + 1 == l.length) i x.payload

/-- SWEMIT (R233). -/
def execSwemit (f : XForm) (s : State) : Res :=
  withCtx s fun c =>
    c.withS fun x =>
      match outOf? f.dst with
      | none => .refused .rejectedAtLoad
      | some o =>
        c.pushList s c.el (.start c.slot (.swemit f) .push) ((ringTokens x.ring f.cnt.toNat).map fun t => (o, t)) f.pop 0

/-- SWFLUSH (R233). -/
def execSwflush (f : PForm) (s : State) : Res :=
  withCtx s fun c => c.withS fun x => c.pform s f (c.el.setS { x with ring := [] })

/-! ### Intersection control -/

/-- ISECT (R234): bypassing clears the drain side. A side's segment is kept over a bypass. (DESIGN CHOICE, log 121.) -/
def execIsect (f : IForm) (s : State) : Res :=
  withCtx s fun c =>
    let on := f.imm.getLsbD 0
    let p := if on then { c.el.pair with active := true } else { c.el.pair with active := false, drain := none }
    c.quiet s [] ({ c.el with pair := p }.withPw f.pw false) f.pop

/-- ICNT (R235): selector 1 clears the counters after reading. -/
def execIcnt (f : RForm) (s : State) : Res :=
  withCtx s fun c =>
    let p := c.el.pair
    let res := if c.el.img.isect then ofWords [p.disc0, p.disc1, p.matched, p.drains] else 0
    let p' := if modOf f = 1 then { p with disc0 := 0, disc1 := 0, matched := 0, drains := 0 } else p
    c.finish s (({ c.el with pair := p' }.writeDst f.dst res).withPw f.pw (defaultCond res))
      (pushesOf f.dst (c.tok f.md [f.sa, f.sb] none res)) f.pop 0

/-! ### Compress, expand, split, join, arg-maximum -/

/-- The lanes that B selects (R236). -/
def selected (w : Nat) (b : Payload) : List Nat := (List.range (256 / w)).filter fun l => lane b w l != 0

/-- CMPR's result (R236). -/
def resCmpr (w : Nat) (a b : Payload) : Payload :=
  let l := selected w b
  ofLanes w (fun m => lane a w (l.getD m 0)) l.length

/-- EXPND's result (R236). -/
def resExpnd (w : Nat) (a b : Payload) : Payload :=
  allLanes w fun l => if lane b w l != 0 then lane a w ((selected w b).filter (· < l)).length else 0

/-- CMPR (R236): a pushed token carries COORD m. -/
def execCmpr (f : RForm) (s : State) : Res :=
  withCtx s fun c =>
    let w := shapeWidth (modOf f).toNat
    let b := c.src f.md f.sb
    let res := resCmpr w (c.src f.md f.sa) b
    let m := (selected w b).length
    if [f.sa, f.sb].any c.poisoned then c.trap s trapPOISON
    else
      c.finish s ((c.el.writeDst f.dst res).withPw f.pw (decide (0 < m)))
        (pushesOf f.dst { c.tok f.md [f.sa, f.sb] none res with coord := BitVec.ofNat 16 m }) f.pop (readMask [f.sa, f.sb])

/-- EXPND (R236). -/
def execExpnd (f : RForm) (s : State) : Res :=
  ordinaryR s f fun _ md a b => Out.plain (resExpnd (shapeWidth md.toNat) a b)

/-- The piece size of WSPLIT and WJOIN in bytes (R98). -/
def pieceBytes (cnt : BitVec 8) : Nat := if cnt.toNat % 4 = 0 then 4 else if cnt.toNat % 4 = 1 then 8 else 16

/-- The tokens of WSPLIT (R237). -/
def splitTokens (p : Nat) (a : Payload) (tag : BitVec 3) (last : Bool) : List Token :=
  (List.range (32 / p)).map fun i =>
    dataTok tag (last && i + 1 == 32 / p) i (ofBytes ((List.range p).map fun j => byteOf a (p * i + j)))

/-- WSPLIT (R237). -/
def execWsplit (f : XForm) (s : State) : Res :=
  withCtx s fun c =>
    match outOf? f.dst with
    | none => .refused .rejectedAtLoad
    | some o =>
      if c.poisoned f.sa then c.trap s trapPOISON
      else
        let ts := splitTokens (pieceBytes f.cnt) (c.src 0 f.sa) (c.tagOf 0 [f.sa]) (c.sideOf [f.sa]).1
        c.pushList s c.el (.start c.slot (.wsplit f) .push) (ts.map fun t => (o, t)) f.pop (readMask [f.sa])

/-- WJOIN (R237): takes its pieces from SA. -/
def execWjoin (f : XForm) (s : State) : Res := withCtx s fun c => c.stream s (.wjoin f) f.sa

/-- A token of WJOIN (R237). -/
def takeJoin (el : Elem) (f : Firing) (p : Nat) (t : Token) : Take :=
  if t.poison then .trap trapPOISON
  else if t.kind ≠ .data then .trap trapFORMAT
  else
    let toks := f.toks ++ [t]
    if t.last || toks.length = 32 / p then
      let res := ofBytes ((toks.map fun x => toBytes x.payload p).flatten)
      let h := toks.headD t
      .done el (some (res, ⟨h.tag, .data, t.last, false, h.coord, res⟩))
    else .more el { f with toks := toks }

/-- One lane of ARGMX (R238): best, index, held. -/
def argmxLane (st : Word × Word × Word) (x idx : Word) : Word × Word × Word :=
  let (best, ix, held) := st
  let b := val32 best
  let v := val32 x
  let beats := v.isNaN || b.lt v || (v.isZero && b.isZero && !v.neg? && b.neg?)
  if held = 0 || (!b.isNaN && beats) then (if v.isNaN then nan32 else x, idx, 1) else (best, ix, held)

/-- ARGMX's result (R238). -/
def resArgmx (a b : Payload) : Payload :=
  let base := lane32 b 2
  let st := (List.range 8).foldl (fun st i => argmxLane st (lane32 a i) (base + BitVec.ofNat 32 i))
    (lane32 b 0, lane32 b 1, lane32 b 3)
  ofWords [st.1, st.2.1, base + 8, st.2.2]

/-- ARGMX (R238). -/
def execArgmx (f : RForm) (s : State) : Res :=
  ordinaryR s f fun _ _ a b =>
    let r := resArgmx a b
    ⟨r, (val32 (lane32 r 0)).isNaN, some 1⟩

end Sys2Proof.Machine
end

