-- ==== Sys2Proof/Machine/Coherence.lean ====
section
/-! DEFINITION. Coherence (R301 to R312, R334, R441): windows by word, the directory, recalls, the race monitor,
line-granular agents, and home-side reads and writes. -/

namespace Sys2Proof.Machine

/-! ### Window words -/

/-- Byte, halfword and word access to the word a window holds: `n` bytes from a local byte offset. -/
def SSt.read (x : SSt) (off n : Nat) : List Byte :=
  (List.range n).map fun i => (leBytes 4 (sget 0 x.sram ((off + i) / 4)).toNat).getD ((off + i) % 4) 0

/-- Writes bytes at a local byte offset. -/
def SSt.write (x : SSt) (off : Nat) (bs : List Byte) : SSt :=
  bs.zipIdx.foldl (fun x (b, i) =>
    let w := (off + i) / 4
    let old := leBytes 4 (sget 0 x.sram w).toNat
    { x with sram := sset 0 x.sram w (BitVec.ofNat 32 (ofLe (old.set ((off + i) % 4) b))) }) x

/-- The window that a local byte offset lies in (R269); one that WCLOSE is closing counts as unmapped (R270). -/
def SSt.windowAt? (x : SSt) (off n : Nat) : Option (Fin 8) :=
  ([0, 1, 2, 3, 4, 5, 6, 7] : List (Fin 8)).find? fun w =>
    let win := x.windows.get w
    win.mapped && !win.closing && decide (win.off ≤ off) && decide (off + n ≤ win.off + win.len)

/-- The VA of a local byte offset of a window. -/
def Window.vaAt (w : Window) (off : Nat) : Nat := w.va + (off - w.off)

/-- The address word of a window that covers a VA (R268). -/
def Window.page? (w : Window) (va : Nat) : Option AddrWord :=
  w.pages.findSome? fun p =>
    match addrParse p with
    | .ok a =>
      let lo := a.va - (a.pa - (a.limit - a.page))
      if lo ≤ va && va < lo + a.page then some { a with pa := a.pa + va - a.va, va := va } else none
    | .error _ => none

/-- The local byte offset of a physical address in a window. -/
def Window.offOf? (w : Window) (pa : Nat) : Option Nat :=
  w.pages.findSome? fun p =>
    match addrParse p with
    | .ok a =>
      let va := a.va + pa - a.pa
      if a.limit - a.page ≤ pa && pa < a.limit && w.va ≤ va && va < w.va + w.len then some (w.off + (va - w.va)) else none
    | .error _ => none

/-- The local words of the 64-byte line of memory that holds a local offset, as local word indices with the
window's bounds kept (R269). -/
def Window.lineWords (w : Window) (off : Nat) : List Nat :=
  let va := w.vaAt off
  (List.range 16).filterMap fun i =>
    let v := va - va % 64 + 4 * i
    if w.va ≤ v && v < w.va + w.len then some ((w.off + (v - w.va)) / 4) else none

/-- The words of a line of memory that a window holds, by their place in the line, with their local byte offsets. -/
def Window.lineOffs (w : Window) (line : Nat) : List (Nat × Nat) :=
  (List.range 16).filterMap fun i => (w.offOf? (64 * line + 4 * i)).map fun off => (i, off)

/-- The window stores to some words that no write-back carries are gone with those words (R309, R330). -/
def SSt.forget (x : SSt) (gone : Nat → Bool) : SSt :=
  { x with stores := x.stores.filter fun w => !(gone w.word && w.sent.isNone) }

/-- The bit of a local word in its line's masks. -/
def Window.maskBit (w : Window) (k : Nat) : Nat := w.vaAt (4 * k) / 4 % 16

/-! ### The graph of a launch, wherever it stands -/

/-- The configured graph of a launch: in its region, or in its saved image. -/
def State.graphOf (s : State) (l : Nat) : Option (Option Nat × GraphSt) :=
  match s.sched.launch? l with
  | none => none
  | some x =>
    match x.region with
    | some r =>
      match s.region? r with
      | some reg => reg.g.map fun g => (some r, g)
      | none => none
    | none => x.saved.map fun g => (none, g)

/-- Writes the configured graph of a launch back. -/
def State.setGraphOf (s : State) (l : Nat) (at_ : Option Nat) (g : GraphSt) : State :=
  match at_ with
  | some r => s.setGraph r g
  | none => { s with sched := s.sched.modLaunch l fun x => { x with saved := some g } }

/-- The window state of a registered window's S element, wherever its image stands. -/
def State.windowSt? (s : State) (l e : Nat) : Option SSt :=
  match s.graphOf l with
  | some (_, g) =>
    match (g.elems[e]?).map fun (el : Elem) => el.ks with
    | some (KindSt.s st) => some st
    | _ => none
  | none => none

/-! ### The directory and recalls -/

/-- Writes a directory entry. -/
def MemSt.setDir (m : MemSt) (line : Nat) (d : DirEnt) : MemSt := { m with dir := sset DirEnt.empty m.dir line d }

/-- The number that orders windows (R309): die, site of the S element, window. (DESIGN CHOICE, log 42.) -/
def State.agentNo (s : State) (m : WinMask) : Nat :=
  match s.graphOf m.l with
  | some (r, g) =>
    ((match r with
      | some r => dieOf r
      | none => 0) * 2 ^ 16 + (g.sites.lookup m.e).getD m.e) * 8 + m.w
  | none => m.e * 8 + m.w

/-- Insertion by a key, for the orders of R309 and R314. -/
def insertBy {α : Type} (key : α → Nat) (x : α) : List α → List α
  | [] => [x]
  | y :: r => if key x ≤ key y then x :: y :: r else y :: insertBy key x r

/-- A list sorted by a key. -/
def sortBy {α : Type} (key : α → Nat) (l : List α) : List α := l.foldr (insertBy key) []

/-- A write-back of a window's line that a recall takes over; one that still waits for its STW stays as it is (R309). -/
def Access.taken (a : Access) (line l e w : Nat) : Access :=
  match a.kind with
  | .wback v st =>
    if v = w && a.launch = l && a.e = e && a.pa / 64 = line && st != .awaiting then { a with kind := .wback v .merged } else a
  | _ => a

/-- The dirty words of a line in one window, which a recall writes home (R309, R334). -/
def State.recallWords (s : State) (line : Nat) (m : WinMask) : List (Nat × Nat) :=
  match s.windowSt? m.l m.e with
  | some st => ((st.windows.get (Fin.ofNat 8 m.w)).lineOffs line).filter fun x => st.dirty.contains (x.2 / 4)
  | none => []

/-- The trap of a window at a recall (R309): the first of its dirty words that fails check 4 or 5 of R256. -/
def State.recallTrap? (s : State) (line : Nat) (m : WinMask) : Option Nat :=
  (s.sched.launch? m.l).bind fun x =>
    (s.recallWords line m).findSome? fun (i, _) => s.mem.homeCheck x.ctx (64 * line + 4 * i) 4 true

/-- Recalls one window of a line (R309, R334): its dirty words are written home in ascending order, but not a word
that fails check 4 or 5 of R256, and the line's words become invalid and clean in the window, wherever its image stands. A
write-back under way for a word of the line is part of that merge. It takes no tokens of the cache port (DEDUCED, log 38).
(DEDUCED, log 55.) -/
def State.recallOne (s : State) (line : Nat) (m : WinMask) : State :=
  let s := { s with
    mem := s.mem.setDir line
      { s.mem.dirAt line with windows := (s.mem.dirAt line).windows.filter fun y => !(y.l == m.l && y.e == m.e && y.w == m.w) } }
  match s.graphOf m.l, s.sched.launch? m.l with
  | some (r, g), some x =>
    match g.elems[m.e]? with
    | none => s
    | some el =>
      match el.ks with
      | .s st =>
        let gone := ((st.windows.get (Fin.ofNat 8 m.w)).lineOffs line).map fun (_, off) => off / 4
        let st' := { st with
          valid := st.valid.filter fun k => !gone.contains k
          dirty := st.dirty.filter fun k => !gone.contains k
          poison := st.poison.filter fun k => !gone.contains k }.forget gone.contains
        let dirty := s.recallWords line m
        let fix (a : Access) : Access := a.taken line m.l m.e m.w
        let s := s.setGraphOf m.l r (g.setElem m.e { el.setS st' with issueQ := el.issueQ.map fix })
        let s := { s with mem := { s.mem with reqs := s.mem.reqs.map fix } }
        dirty.foldl (fun s (i, off) =>
          let pa := 64 * line + 4 * i
          match s.mem.homeCheck x.ctx pa 4 true with
          | some _ => s
          | none => s.homeWrite pa (leBytes 4 (sget 0 st.sram (off / 4)).toNat)) s
      | _ => s
  | _, _ => s

/-- The registered windows of a line but the given one, in ascending agent number (R309). -/
def State.otherWindows (s : State) (line : Nat) (but : Option (Nat × Nat × Nat)) : List WinMask :=
  sortBy s.agentNo ((s.mem.dirAt line).windows.filter fun m => some (m.l, m.e, m.w) != but)

/-- The traps of a recall, lowest element first (R309, R399): launch, element and code. -/
def State.recallTraps (s : State) (line : Nat) (but : Option (Nat × Nat × Nat)) : List (Nat × Nat × Nat) :=
  sortBy (·.2.1) ((s.otherWindows line but).filterMap fun m => (s.recallTrap? line m).map fun k => (m.l, m.e, k))

/-- Recalls every registered window of a line but the given one, in ascending agent number (R309). The elements of the windows
whose words were refused trap with it, and of those of one launch the lowest is reported (R399). (DESIGN CHOICE, log 29.) -/
def State.recallWindows (s : State) (line : Nat) (but : Option (Nat × Nat × Nat)) : State :=
  let t := (s.otherWindows line but).foldl (fun s m => s.recallOne line m) s
  (s.recallTraps line but).foldl (fun t x => t.trapLaunch x.1 x.2.1 0xFF x.2.2 0) t

/-- Whether some window other than the given one has a word of a mask in its write mask (R309). -/
def MemSt.overlaps (m : MemSt) (line : Nat) (mask : BitVec 16) (but : Option (Nat × Nat × Nat)) : Bool :=
  (m.dirAt line).windows.any fun x => some (x.l, x.e, x.w) != but && (x.writeM &&& mask) != 0

/-- Whether a scan holds back a recall store that the windows of a line need, but the given one (R350). -/
def State.recallBlocked (s : State) (line : Nat) (but : Option (Nat × Nat × Nat)) : Bool :=
  (s.mem.dirAt line).windows.any fun m => some (m.l, m.e, m.w) != but &&
    (s.recallWords line m).any fun x => s.scanBlocks (64 * line + 4 * x.1) 4

/-- Counts an unordered overlap (R310): at the home slice for the context that owns the frame, and for the
launch whose access caused the recall. A case at a frame that no context owns any more counts for context 0.
(DESIGN CHOICE, log 39.) -/
def State.countRace (s : State) (line : Nat) (launch : Option Nat) : State :=
  let ctx := ((s.mem.frame (64 * line)).owner).getD 0
  let s := { s with mem := { s.mem with race := bumpBy s.mem.race ((s.mem.homeOf line).val * 1024 + ctx) 1 } }
  match launch with
  | some l => { s with sched := s.sched.modLaunch l fun x => { x with races := x.races + 1 } }
  | none => s

/-- A true overlap of a write with window words: the recall, counted as a race (R309, R310). Streaming and
host memory are not tracked (R307, R321). -/
def State.overlapRecall (s : State) (mt pa n : Nat) (but : Option (Nat × Nat × Nat)) (launch : Option Nat) : State :=
  let line := pa / 64
  if mt = 1 || isHost pa then s
  else if s.mem.overlaps line (wordMask pa n) but then (s.recallWindows line but).countRace line launch
  else s

/-- Registers words of a window at the home (R305). -/
def State.register (s : State) (line : Nat) (l e w : Nat) (read write : BitVec 16) : State :=
  let d := s.mem.dirAt line
  let hit := d.windows.any fun m => m.l == l && m.e == e && m.w == w
  let ws :=
    if hit then d.windows.map fun m =>
      if m.l = l && m.e = e && m.w = w then { m with readM := m.readM ||| read, writeM := m.writeM ||| write } else m
    else d.windows ++ [⟨l, e, w, read, write⟩]
  { s with mem := s.mem.setDir line { d with windows := ws } }

/-- The masks of a window after the write-back of words (R305). -/
def State.cleanMask (s : State) (line : Nat) (l e w : Nat) (mask : BitVec 16) : State :=
  let d := s.mem.dirAt line
  { s with
    mem := s.mem.setDir line { d with
      windows := d.windows.map fun m =>
        if m.l = l && m.e = e && m.w = w then { m with writeM := m.writeM &&& ~~~mask } else m } }

/-- Drops every mask of a window (R270). -/
def State.dropWindow (s : State) (l e w : Nat) : State :=
  { s with
    mem := { s.mem with
      dir := (s.mem.dir.map fun (k, d) =>
        (k, { d with windows := d.windows.filter fun m => !(m.l == l && m.e == e && m.w == w) })).filter
          fun (_, d) => d != DirEnt.empty } }

/-! ### Line-granular agents -/

/-- The dirty states of MOESI. -/
def isDirty : Moesi → Bool
  | .M => true
  | .O => true
  | _ => false

/-- The bytes of word `i` of a line that a holder has stored. -/
def Holder.storedIn (h : Holder) (i : Nat) : List Nat := (List.range 4).filter fun j => h.stored.contains (4 * i + j)

/-- A word with the mark it had, where it had one. -/
def State.keepMark (t : State) (w : Nat) (marked : Bool) : State :=
  if marked then { t with mem := { t.mem with poison := setIns w t.mem.poison } } else t

/-- A word of a dirty holder's copy is written home in one write (R344, R353): what the holder has stored, with the home copy's
bytes between. A word that it has not stored whole keeps its mark (R441). -/
def State.writeWord (s : State) (line : Nat) (h : Holder) (i : Nat) : State :=
  match (h.storedIn i).head?, (h.storedIn i).getLast? with
  | some lo, some hi =>
    let pa := 64 * line + 4 * i
    let bs := (List.range (hi + 1 - lo)).map fun k =>
      if (h.storedIn i).contains (lo + k) then h.data.getD (4 * i + lo + k) 0 else readByte s.mem.bytes (pa + lo + k)
    (s.backWrite (pa + lo) bs).keepMark (pa / 4) ((h.storedIn i).length != 4 && s.mem.poison.contains (pa / 4))
  | _, _ => s

/-- A dirty holder's copy is written home, word by word (R308, R353, R441): the bytes it has stored. The other bytes are those
of the home copy. A frame that has become DERIVED is not written. -/
def State.writeHome (s : State) (line : Nat) (h : Holder) : State := (List.range 16).foldl (fun s i => s.writeWord line h i) s

/-- The dirty holder of a line. -/
def MemSt.dirtyHolder? (m : MemSt) (line : Nat) : Option Holder := (m.dirAt line).holders.find? fun h => isDirty h.st

/-- A dirty holder's copy goes home and stays shared, so that a home-side read sees it (R308). -/
def State.flushLine (s : State) (line : Nat) : State :=
  match s.mem.dirtyHolder? line with
  | none => s
  | some h =>
    let s := s.writeHome line h
    let d := s.mem.dirAt line
    { s with
      mem := s.mem.setDir line { d with
        holders := d.holders.map fun x => if x.agent = h.agent then { x with st := .S, stored := [] } else x } }

/-- Whether a scan holds back the write-back of a holder's copy (R350): it runs over a byte that the holder has stored. -/
def State.backBlocked (s : State) (line : Nat) (h : Holder) : Bool :=
  h.stored.any fun j => s.scanBlocks (64 * line + j) 1

/-- Whether a scan holds back the write-back that a home-side read of a line needs (R350). -/
def State.flushBlocked (s : State) (line : Nat) : Bool :=
  match s.mem.dirtyHolder? line with
  | some h => s.backBlocked line h
  | none => false

/-- Every line-granular holder of a line becomes a sharer, as when a window fills from it (R308). -/
def State.shareLine (s : State) (line : Nat) : State :=
  let s := s.flushLine line
  let d := s.mem.dirAt line
  if d.holders = [] then s
  else { s with mem := s.mem.setDir line { d with holders := d.holders.map fun h => { h with st := .S } } }

/-- Whether a write to a line may perform: no line-granular agent holds it (R309, R312). -/
def MemSt.lineFree (m : MemSt) (line : Nat) : Bool := (m.dirAt line).holders == []

/-- Sends the invalidations a write needs (R311, R312): stale sharers are listed too. -/
def State.invalidate (s : State) (line : Nat) : State :=
  let d := s.mem.dirAt line
  { s with mem := s.mem.setDir line { d with awaiting := d.holders.map (·.agent) } }

/-- An acknowledgement (R311, R312): a dirty holder writes back first, once no scan holds that back (R350). -/
def State.acknowledge (s : State) (agent line : Nat) : State :=
  let d := s.mem.dirAt line
  let dirty := d.holders.find? fun h => h.agent == agent && isDirty h.st && !h.dropped
  let blocked := match dirty with
    | some h => s.backBlocked line h
    | none => false
  if !d.awaiting.contains agent || blocked then s
  else
    let s := match dirty with
      | some h => s.writeHome line h
      | none => s
    { s with
      mem := s.mem.setDir line { s.mem.dirAt line with
        holders := d.holders.filter fun h => h.agent != agent
        awaiting := d.awaiting.filter fun a => a != agent } }

/-- The copy that an agent holds of a line. -/
def MemSt.held? (m : MemSt) (agent line : Nat) : Option Holder :=
  (m.dirAt line).holders.find? fun h => h.agent == agent && !h.dropped

/-- Writes an agent's copy of a line. -/
def State.putHolder (s : State) (line : Nat) (h : Holder) : State :=
  let d := s.mem.dirAt line
  { s with mem := s.mem.setDir line { d with holders := (d.holders.filter fun x => x.agent != h.agent) ++ [h] } }

/-- The words with the given numbers among those of a line that fail their check code are marked (R26, R441). -/
def State.eccMark (s : State) (bad words : List Nat) : State :=
  { s with mem := { s.mem with poison := markWords s.mem.poison (bad.filter words.contains) } }

/-- A read of a line at the home joins its home order (R325). -/
def State.noteRead (s : State) (pa : Nat) : State := { s with mem := s.mem.note (pa / 64) s.mem.performs false }

/-- An agent's copy of a line is read from the home (R308, R325). -/
def State.takeLine (s : State) (agent line : Nat) (st : Moesi) (bad : List Nat) : State :=
  let s := (s.eccMark bad (wordsOf (64 * line) 64)).noteRead (64 * line)
  s.putHolder line ⟨agent, st, false, readBytes s.mem.bytes (64 * line) 64, []⟩

/-- A request for a shared copy of a line (R308), or none while a scan holds back the write-back it needs (R350). -/
def State.shareFor (s : State) (agent line : Nat) (bad : List Nat) : Option State :=
  if s.flushBlocked line then none else some ((s.shareLine line).takeLine agent line .S bad)

/-- A request for a line in state E (R308 to R312): it recalls windows and the other agents, and while those hold the line
only their invalidations are sent. The flag says whether the agent has the line then. -/
def State.exclusiveFor (s : State) (agent line : Nat) : State × Bool :=
  let d := s.mem.dirAt line
  let others := d.holders.filter fun h => h.agent != agent
  if others ≠ [] then ({ s with mem := s.mem.setDir line { d with awaiting := others.map (·.agent) } }, false)
  else if s.flushBlocked line || s.recallBlocked line none then (s, false)
  else (((s.recallWindows line none).flushLine line).takeLine agent line .E [], true)

/-- A store of an agent into the copy it holds in state M or E (R308). -/
def State.storeLine (s : State) (line off : Nat) (bytes : List Byte) (h : Holder) : State :=
  s.putHolder line { h with
    st := .M, data := h.data.take off ++ bytes ++ h.data.drop (off + bytes.length)
    stored := (List.range bytes.length).foldl (fun l i => setIns (off + i) l) h.stored }

/-- The copy that an agent may store into. -/
def MemSt.owned? (m : MemSt) (agent line : Nat) : Option Holder :=
  (m.held? agent line).filter fun h => h.st == .M || h.st == .E

/-- A store of an agent to a line (R308, R312, R353): it asks for the line in state E unless it holds it so, and waits until
it does. A DERIVED frame is not written. -/
def State.storeFor (s : State) (agent line off : Nat) (bytes : List Byte) : State × Bool :=
  if (s.mem.frame (64 * line)).derived || decide (64 < off + bytes.length) then (s, true)
  else
    match s.mem.owned? agent line with
    | some h => (s.storeLine line off bytes h, true)
    | none =>
      match s.exclusiveFor agent line with
      | (t, true) =>
        (match t.mem.owned? agent line with
         | some h => t.storeLine line off bytes h
         | none => t, true)
      | x => x

/-- A request for a line of a streaming or device page (R321): the directory does not track it, and a store goes to the home
copy once no scan holds it back (R350, R353). -/
def State.untrackedFor (s : State) (line : Nat) (req : LineReq) : State × Bool :=
  match req with
  | .store off bytes =>
    if 64 < off + bytes.length then (s, true)
    else if s.scanBlocks (64 * line + off) bytes.length then (s, false)
    else (s.backWrite (64 * line + off) bytes, true)
  | _ => (s, true)

/-- A line-granular request other than a read (R303, R308 to R312, R414), with whether it is done or still waits. A DERIVED
frame is never written, so a request for E or M of it is refused (R353). -/
def State.lineRequest (s : State) (agent line : Nat) (req : LineReq) : State × Bool :=
  if s.mem.typeOf line ≠ 0 then s.untrackedFor line req
  else
    match req with
    | .share =>
      match s.shareFor agent line [] with
      | some t => (t, true)
      | none => (s, false)
    | .exclusive => if (s.mem.frame (64 * line)).derived then (s, true) else s.exclusiveFor agent line
    | .store off bytes => s.storeFor agent line off bytes
    | .read _ _ _ => (s, true)
    | .writeback =>
      match s.mem.held? agent line with
      | some h =>
        if isDirty h.st then
          if s.backBlocked line h then (s, false)
          else ((s.writeHome line h).putHolder line { h with st := .S, stored := [] }, true)
        else (s, true)
      | none => (s, true)
    | .dropClean =>
      match s.mem.held? agent line with
      | some h => (if h.st == Moesi.S then s.putHolder line { h with dropped := true } else s, true)
      | none => (s, true)

/-- The bytes that an agent reads of the copy it holds, and whether some word of them is marked that it has not stored
whole (R308, R441). -/
def State.copyRead (s : State) (line off n : Nat) (h : Holder) : List Byte × Bool :=
  ((h.data.drop off).take n,
    (wordsOf off n).any fun i =>
      s.mem.poison.contains (16 * line + i) && !(List.range 4).all fun j => h.stored.contains (4 * i + j))

/-! ### Home-side reads and writes -/

/-- A home-side read of device memory (R26, R257): the bytes and whether a word of them is marked.
(DEDUCED, log 30.) -/
def State.homeRead (s : State) (pa n : Nat) : List Byte × Bool :=
  (readBytes s.mem.bytes pa n, readsPoison s.mem.poison pa n)

/-- A home-side write (R257, R309, R353): window words it overlaps are recalled first. -/
def State.homeStore (s : State) (mt pa : Nat) (bs : List Byte) (but : Option (Nat × Nat × Nat)) (launch : Option Nat) :
    State :=
  (s.overlapRecall mt pa bs.length but launch).homeWrite pa bs

end Sys2Proof.Machine
end

