-- ==== Sys2Proof/Machine/Steer.lean ====
section
/-! DEFINITION. Opcodes 0xCA to 0xCF (R246 to R252, R390 to R394): steering, stamping, merging, reordering. -/

namespace Sys2Proof.Machine

/-- Runs a meaning on the state of an X element. -/
def Ctx.withX (c : Ctx) (f : XSt → Res) : Res :=
  match c.el.ks with
  | .x x => f x
  | _ => .refused .rejectedAtLoad

/-- Writes the state of an X element. -/
def Elem.setX (el : Elem) (x : XSt) : Elem := { el with ks := .x x }

/-- The output with the most free places, the lowest index at a tie, among those that drive edges (R246). -/
def GraphSt.widest? (g : GraphSt) (e : Nat) : Option (Fin 4) :=
  ([0, 1, 2, 3] : List (Fin 4)).foldl (fun best o =>
    if (g.edge? e o).isNone then best
    else
      match best with
      | none => some o
      | some b => if g.freePlaces e b < g.freePlaces e o then some o else some b) none

/-- A map byte of STEER (R246): none discards. -/
def steerMap (m : Byte) : Option (Fin 4) := if m.getLsbD 7 then none else some (Fin.ofNat 4 (m.toNat % 4))

/-- The output STEER chooses, or none for a discard (R246). -/
def Ctx.steerTo (c : Ctx) (md : Nat) (t : Token) (b : Payload) : Option (Fin 4) :=
  let v := (lane32 t.payload 0).toNat
  let o :=
    if md = 0 then (if v ≤ 3 then some (Fin.ofNat 4 v) else none)
    else if md = 1 then steerMap (byteOf b t.tag.toNat)
    else if md = 2 then c.g.widest? c.e
    else if v < 32 then steerMap (byteOf b v) else none
  match o with
  | some o => if (c.g.edge? c.e o).isSome then some o else none
  | none => none

/-- STEER (R246). -/
def execSteer (f : RForm) (s : State) : Res :=
  withCtx s fun c =>
    match c.srcTok? f.sa with
    | none => .refused .rejectedAtLoad
    | some t =>
      let md := (modOf f).toNat
      if (t.poison && (md == 0 || md == 3)) || c.poisoned f.sb then c.trap s trapPOISON
      else
        match c.steerTo md t (c.src f.md f.sb) with
        | some o => c.finish s (c.el.withPw f.pw true) [(o, t)] f.pop (readMask [f.sa, f.sb])
        | none => c.finish s ((c.el.perfInc 8).withPw f.pw false) [] f.pop (readMask [f.sb])

/-- The result of SLOTS (R247). Lanes 4 and 5 name output 0 where no output drives an edge. (DESIGN CHOICE, log 108.) -/
def resSlots (c : Ctx) : Payload :=
  let fp (o : Fin 4) : Word := BitVec.ofNat 32 (c.g.freePlaces c.e o)
  let w := (c.g.widest? c.e).getD 0
  ofWords [fp 0, fp 1, fp 2, fp 3, BitVec.ofNat 32 w.val, fp w]

/-- SLOTS (R247). -/
def execSlots (f : RForm) (s : State) : Res :=
  ordinaryR s f fun c md _ _ =>
    Out.withCond (resSlots c) (decide (0 < c.g.freePlaces c.e (Fin.ofNat 4 md.toNat)))

/-- SEQNO (R248). -/
def execSeqno (f : IForm) (s : State) : Res :=
  withCtx s fun c =>
    c.withX fun x =>
      let k := Fin.ofNat 4 (f.imm.toNat % 4)
      let n := x.seqC.get k
      let a := c.src 0 f.sa
      let t : Token :=
        match c.srcTok? f.sa with
        | some t => { t with coord := n }
        | none => { c.tok 0 [f.sa] none a with coord := n }
      let el := (c.el.setX { x with seqC := x.seqC.set k (n + 1) }).writeDst f.dst a
      c.finish s (el.withPw f.pw (defaultCond a)) (pushesOf f.dst t) f.pop (readMask [f.sa])

/-- The input MERGE takes (R249): of the present heads among those POP names, the earliest to have reached its
head, the lowest index at a tie. -/
def Elem.mergeFrom (el : Elem) (pop : BitVec 4) : Option (Fin 4) :=
  ([0, 1, 2, 3] : List (Fin 4)).foldl (fun best i =>
    if !(pop.getLsbD i.val && el.present i) || (el.ins.get i).claimed then best
    else
      match best with
      | none => some i
      | some b => if (el.ins.get i).headAt < (el.ins.get b).headAt then some i else some b) none

/-- MERGE (R249): with no present head among those it names it does nothing. -/
def execMerge (f : RForm) (s : State) : Res :=
  withCtx s fun c =>
    match c.el.mergeFrom f.pop with
    | none => .next s
    | some i =>
      match c.el.head? i with
      | none => .next s
      | some t =>
        let bit := BitVec.ofNat 4 (2 ^ i.val)
        c.finish s (c.el.withPw f.pw (defaultCond t.payload)) (pushesOf f.dst t) bit bit

/-! ### Reorder buffers -/

/-- The distance of a number from a buffer's next number (R250). -/
def RBuf.dist (b : RBuf) (x : BitVec 16) : Nat := (x - b.next).toNat

/-- What REORD does with a head (R251): it waits, raises SEQ, or changes the buffer. -/
inductive ReordOut where
  | wait
  | seq
  | held (b : RBuf)

/-- REORD on a buffer (R251). -/
def RBuf.insert (b : RBuf) (t : Token) : ReordOut :=
  let d := b.dist t.coord
  if 32768 ≤ d then .seq
  else if 64 ≤ d then .wait
  else
    match t.kind with
    | .control =>
      let n := max (lane32 t.payload 0).toNat 1
      if 64 < d + n || ((List.range n).any fun i => sget .free b.cells (d + i) != .free) then .seq
      else .held { b with cells := ssetMany .free b.cells d (List.replicate n .gap) }
    | _ =>
      if sget .free b.cells d = .free then .held { b with cells := sset .free b.cells d (.tok t) } else .seq

/-- Whether a head stands too far ahead of a buffer for REORD to qualify (R251, R392). -/
def RBuf.tooFar (b : RBuf) (t : Token) : Bool := decide (64 ≤ b.dist t.coord) && decide (b.dist t.coord < 32768)

/-- REORD (R251). A poisoned control token behind N_b raises POISON, not SEQ. (DESIGN CHOICE, log 107.) -/
def execReord (f : XForm) (s : State) : Res :=
  withCtx s fun c =>
    c.withX fun x =>
      match c.srcTok? f.sa with
      | none => .refused .rejectedAtLoad
      | some t =>
        let k := Fin.ofNat 8 (f.cnt.toNat % 8)
        if (x.bufs.get k).tooFar t then .next s
        else if t.kind = .control && t.poison then c.trap s trapPOISON
        else
          match (x.bufs.get k).insert t with
          | .wait => .next s
          | .seq => c.trap s trapSEQ
          | .held b => c.finish s (c.el.setX { x with bufs := x.bufs.set k b }) [] f.pop (readMask [f.sa])

/-- A buffer shifted by one position (R252). -/
def RBuf.shift (b : RBuf) : RBuf :=
  ⟨b.next + 1, (b.cells.filter fun c => c.1 != 0).map fun c => (c.1 - 1, c.2)⟩

/-- RELS on a buffer (R252): past the gaps at position 0, then the token released, if any. -/
def RBuf.release : (fuel : Nat) → RBuf → RBuf × Option Token
  | 0, b => (b, none)
  | n + 1, b =>
    match sget .free b.cells 0 with
    | .gap => RBuf.release n b.shift
    | .tok t => (b.shift, some t)
    | .free => (b, none)

/-- RELS (R252): with an empty position 0 it does nothing. -/
def execRels (f : XForm) (s : State) : Res :=
  withCtx s fun c =>
    c.withX fun x =>
      let k := Fin.ofNat 8 (f.cnt.toNat % 8)
      if sget .free (x.bufs.get k).cells 0 = .free then .next s
      else
        let (b, t) := RBuf.release 65 (x.bufs.get k)
        let pushes := match t with
          | some t => pushesOf f.dst t
          | none => []
        c.finish s (c.el.setX { x with bufs := x.bufs.set k b }) pushes f.pop 0

end Sys2Proof.Machine
end

