-- ==== Sys2Proof/Machine/MemInstr.lean ====
section
/-! DEFINITION. Opcodes 0xD0 to 0xE9 (R255 to R283): loads and stores, windows, atomics, derivation, address
generation, parking and translation, as their firings issue them. What an access does when it is sent and
performed stands in Perform.lean. -/

namespace Sys2Proof.Machine

/-! ### Asynchronous firings -/

/-- The completion output of a mem or lnk field (R98). -/
def cmpOf (cnt : BitVec 8) : Option (Fin 4) :=
  if cnt.getLsbD 3 then some (Fin.ofNat 4 (cnt.extractLsb' 4 2).toNat) else none

/-- An outstanding firing that owes nothing yet. -/
def OutF.new (id slot opc : Nat) (seq : BitVec 16) : OutF :=
  ⟨id, slot, opc, seq, 0, 0, none, [], false, none, false, 0, 0, none, false, 0, none⟩

/-- The payload of a completion token (R259): VA, opcode, failure code. -/
def cmpPayload (va : BitVec 64) (opc fail : Nat) : Payload :=
  ofWords [va.extractLsb' 0 32, va.extractLsb' 32 32, BitVec.ofNat 32 opc, BitVec.ofNat 32 fail]

/-- A completion token (R259). -/
def cmpTok (seq : BitVec 16) (va : BitVec 64) (opc fail : Nat) : Token := controlTok seq (cmpPayload va opc fail)

/-- An access of the element in a context. -/
def Ctx.access (c : Ctx) (id fid opc : Nat) (kind : AccKind) (w : AddrWord) (data : Payload) : Access :=
  { id := id, fid := fid, r := c.r, gen := c.reg.gen, e := c.e, slot := c.slot, ctx := c.reg.ctx
    launch := c.reg.launch, opc := opc, seq := c.el.seq, kind := kind, pa := w.pa, va := w.va, size := w.size, mt := w.mt
    data := data, a := 0, cnt := 0, toks := [], cost := 1, tva := BitVec.ofNat 64 w.va, prog := .start }

/-- The memory sequence number advances at every firing of an opcode of this group (R259). -/
def Elem.bumpSeq (el : Elem) : Elem := { el with seq := el.seq + 1 }

/-- A firing that completes at issue: as `Ctx.finish`, with the sequence number advanced (R259). -/
def Ctx.memFinish (c : Ctx) (s : State) (el : Elem) (pushes : List (Fin 4 × Token)) (pop read : BitVec 4) : Res :=
  c.finish s { el.bumpSeq with firing := none } pushes pop read

/-- A firing that completes at issue with an effect `t` of its own on the rest of the state: a push outside the producer's set
raises FORMAT, and then none of the effect is left (R71). -/
def Ctx.memFinishFrom (c : Ctx) (s t : State) (el : Elem) (pushes : List (Fin 4 × Token)) (pop read : BitVec 4) : Res :=
  if c.g.tagsOk c.e pushes then c.memFinish t el pushes pop read else c.trap s trapFORMAT

/-- Issues an asynchronous firing (R258): the predicates of PW take the condition 0, the pops are made, the
accesses join the issue queue, and the firing is outstanding. (DEDUCED, log 19.) -/
def Ctx.issue (c : Ctx) (s : State) (srcs : List Src) (el : Elem) (pop pw : BitVec 4) (outs : List OutF)
    (accs : List Access) : Res :=
  let el := (((el.withPw pw false).popAll s.cycle pop (readMask srcs)).completed c.slot).bumpSeq
  let el := { el with outs := el.outs ++ outs, issueQ := el.issueQ ++ accs, firing := none }
  .next { c.put s el with nextId := s.nextId + 1 + accs.length }

/-- The token a load pushes, before its payload is known (R265). -/
def Ctx.loadTok (c : Ctx) (cnt : BitVec 8) (sa : Src) : Token :=
  ⟨cnt.extractLsb' 0 3, .data, (c.sideOf [sa]).1, false, (c.sideOf [sa]).2, 0⟩

/-! ### Loads, stores and atomics -/

/-- Whether a load's token may go out on an output (R71): a tag outside the edge's set stops the firing at issue. (DEDUCED,
log 112.) -/
def Ctx.loadTagOk (c : Ctx) (o : Option (Fin 4)) (t : Token) : Bool :=
  match o with
  | some o => c.g.tagOk c.e o t
  | none => true

/-- LD (R265). -/
def execLd (f : XForm) (s : State) : Res :=
  withCtx s fun c =>
    match outOf? f.dst with
    | none => .refused .rejectedAtLoad
    | some o =>
      if c.poisoned f.sa then c.trap s trapPOISON
      else
        match addrCheck (c.src 0 f.sa) with
        | .error k => c.trap s k
        | .ok w =>
          let id := s.nextId
          if !c.loadTagOk (some o) (c.loadTok f.cnt f.sa) then c.trap s trapFORMAT
          else c.issue s [f.sa] c.el f.pop 0
            [{ OutF.new id c.slot 0xD0 c.el.seq with
                va := BitVec.ofNat 64 w.va, cls := 1, dst := some o, cmp := cmpOf f.cnt, hd := some (c.loadTok f.cnt f.sa) }]
            [c.access id id 0xD0 .load w 0]

/-- ST (R265). -/
def execSt (f : XForm) (s : State) : Res :=
  withCtx s fun c =>
    if [f.sa, f.sb].any c.poisoned then c.trap s trapPOISON
    else
      match addrCheck (c.src 0 f.sa) with
      | .error k => c.trap s k
      | .ok w =>
        let id := s.nextId
        c.issue s [f.sa, f.sb] c.el f.pop 0
          [{ OutF.new id c.slot 0xD1 c.el.seq with va := BitVec.ofNat 64 w.va, cmp := cmpOf f.cnt }]
          [c.access id id 0xD1 .store w (c.src 0 f.sb)]

/-- The address word of an atomic (R271, R272): check 1 and the size first, then checks 2 and 3 of R256. -/
def atomicAddr (maxSize : Nat) (a : Payload) : Except Nat AddrWord :=
  match addrParse a with
  | .error k => .error k
  | .ok w => if w.size < 4 || maxSize < w.size then .error trapPARAM else addrCheck a

/-- An atomic (R271 to R274). `inGroup` says whether the opcode may carry a group update. (DEDUCED, log 25.) -/
def Ctx.atomic (c : Ctx) (s : State) (f : XForm) (opc maxSize : Nat) (inGroup : Bool) : Res :=
  if [f.sa, f.sb].any c.poisoned then c.trap s trapPOISON
  else
    let fmt := c.g.record (f.cnt.extractLsb' 0 3)
    let id := s.nextId
    match c.el.issuer with
    | some q =>
      if !inGroup || (outOf? f.dst).isSome then c.trap s trapPARAM
      else
        match atomicAddr maxSize (c.src 0 f.sa) with
        | .error k => c.trap s k
        | .ok w =>
          c.issue s [f.sa, f.sb] { c.el with issuer := some { q with useq := q.useq + 1 } } f.pop 0
            [{ OutF.new id c.slot opc c.el.seq with va := BitVec.ofNat 64 w.va, cmp := cmpOf f.cnt }]
            [c.access id id opc (.update opc fmt q.group q.issuer q.useq) w (c.src 0 f.sb)]
    | none =>
      match atomicAddr maxSize (c.src 0 f.sa) with
      | .error k => c.trap s k
      | .ok w =>
        if !c.loadTagOk (outOf? f.dst) (c.loadTok f.cnt f.sa) then c.trap s trapFORMAT
        else c.issue s [f.sa, f.sb] c.el f.pop 0
          [{ OutF.new id c.slot opc c.el.seq with
              va := BitVec.ofNat 64 w.va, cls := 1, dst := outOf? f.dst, cmp := cmpOf f.cnt
              hd := some (c.loadTok f.cnt f.sa) }]
          [c.access id id opc (.atomic opc fmt) w (c.src 0 f.sb)]

/-- AADD (R271). -/
def execAadd (f : XForm) (s : State) : Res := withCtx s fun c => c.atomic s f 0xD8 32 true
/-- AMAX (R271). -/
def execAmax (f : XForm) (s : State) : Res := withCtx s fun c => c.atomic s f 0xD9 32 true
/-- AMIN (R271). -/
def execAmin (f : XForm) (s : State) : Res := withCtx s fun c => c.atomic s f 0xDA 32 true
/-- AXCHG (R271). -/
def execAxchg (f : XForm) (s : State) : Res := withCtx s fun c => c.atomic s f 0xDB 32 false
/-- ACAS (R272). -/
def execAcas (f : XForm) (s : State) : Res := withCtx s fun c => c.atomic s f 0xDC 16 false
/-- AOR (R271). -/
def execAor (f : XForm) (s : State) : Res := withCtx s fun c => c.atomic s f 0xDD 32 true
/-- AAND (R271). -/
def execAand (f : XForm) (s : State) : Res := withCtx s fun c => c.atomic s f 0xDE 32 true

/-- The group of a context with a number. -/
def MemSt.group? (m : MemSt) (ctx g : Nat) : Option DetGroup := m.groups.find? fun x => x.ctx == ctx && x.num == g

/-- Changes a group. -/
def MemSt.modGroup (m : MemSt) (ctx g : Nat) (f : DetGroup → DetGroup) : MemSt :=
  { m with groups := m.groups.map fun x => if x.ctx = ctx && x.num = g then f x else x }

/-- The groups after an ADET (R273), or none for PARAM. -/
def State.openGroup (s : State) (ctx : Nat) (a : Payload) : Option (MemSt × Issuer) :=
  let g := (lane32 a 0).toNat
  let i := (lane32 a 1).toNat
  let m := (lane32 a 2).toNat
  let k := (lane32 a 3).toNat
  if 255 < g || m = 0 || 1024 < m || m ≤ i || !s.holdsCounter ctx k then none
  else
    match s.mem.group? ctx g with
    | none => some ({ s.mem with groups := s.mem.groups ++ [⟨ctx, g, m, k, [i], []⟩] }, ⟨g, i, 0⟩)
    | some x =>
      if x.m ≠ m || x.counter ≠ k || x.opened.contains i then none
      else some (s.mem.modGroup ctx g fun y => { y with opened := y.opened ++ [i] }, ⟨g, i, 0⟩)

/-- ADET (R273). -/
def execAdet (f : RForm) (s : State) : Res :=
  withCtx s fun c =>
    if c.poisoned f.sa then c.trap s trapPOISON
    else if c.el.issuer.isSome then c.trap s trapPARAM
    else
      match s.openGroup c.reg.ctx (c.src f.md f.sa) with
      | none => c.trap s trapPARAM
      | some (m, q) =>
        c.memFinish { s with mem := m } ({ c.el with issuer := some q }.withPw f.pw false) [] f.pop (readMask [f.sa])

/-- ACLOSE (R275). -/
def execAclose (f : XForm) (s : State) : Res :=
  withCtx s fun c =>
    match c.el.issuer with
    | none => c.trap s trapPARAM
    | some q =>
      let id := s.nextId
      c.issue s [] { c.el with issuer := none } f.pop 0
        [{ OutF.new id c.slot 0xE0 c.el.seq with cmp := cmpOf f.cnt }]
        [{ c.access id id 0xE0 (.close q.group q.issuer) ⟨0, 0, 0, 0, 0, 0⟩ 0 with cost := 0 }]

/-! ### Windows -/

/-- The checks of LDW and STW (R269), in order: the window, the local offset and the size. -/
def SSt.windowCheck (x : SSt) (a : Payload) (isStore : Bool) : Except Nat (Fin 8 × Nat × Nat) :=
  let off := (lane32 a 0).toNat
  match sizeOf? (lane32 a 1).toNat with
  | none => .error trapPARAM
  | some n =>
    if off % n ≠ 0 then .error trapALIGN
    else
      match x.windowAt? off n with
      | none => .error trapADDR
      | some w => if isStore && !(x.windows.get w).writable then .error trapWRITE else .ok (w, off, n)

/-- Whether a word of `n` bytes from a local offset is invalid. -/
def SSt.anyInvalid (x : SSt) (off n : Nat) : Bool := (wordsOf off n).any fun w => !x.valid.contains w

/-- Whether an earlier window access of the element to one of these words still waits (R260). -/
def Elem.wordsBusy (el : Elem) (words : List Nat) : Bool :=
  el.outs.any fun o =>
    (o.opc == 0xD2 || o.opc == 0xD3) && !o.ready
      && (wordsOf (lane32 o.arg 0).toNat ((sizeOf? (lane32 o.arg 1).toNat).getD 4)).any words.contains

/-- The words of its line that a fill for a local offset reads (R269, R306, R334): the invalid ones. -/
def SSt.fillMask (x : SSt) (win : Window) (off : Nat) : BitVec 16 :=
  (win.lineWords off).foldl (fun m k =>
    if x.valid.contains k then m else m ||| BitVec.ofNat 16 (2 ^ win.maskBit k)) 0

/-- Whether an access of a window needs a fill (R269): a load of a word that is invalid, or a narrow store to one. -/
def SSt.needsFill (x : SSt) (isStore : Bool) (off n : Nat) : Bool := x.anyInvalid off n && (!isStore || decide (n < 4))

/-- The fill access of a line of a window (R269, R306, R317, R334). -/
def Ctx.fillAcc (c : Ctx) (id fid opc : Nat) (x : SSt) (win : Window) (w : Fin 8) (off : Nat) : List Access :=
  match win.page? (win.vaAt off) with
  | none => []
  | some a =>
    [{ c.access id fid opc (.fill w.val off (x.fillMask win off))
        { a with pa := a.pa - a.pa % 64, va := a.va - a.va % 64, size := 64 } 0 with
      cost := 2, tva := BitVec.ofNat 64 (win.vaAt off) }]

/-- What a window load reads (R265, R269). -/
def SSt.loadTok (x : SSt) (t : Token) (off n : Nat) : Token :=
  { t with payload := ofBytes (x.read off n), poison := (wordsOf off n).any fun w => x.poison.contains w }

/-- A window store of a firing (R269): the bytes are written, the words become valid and dirty, and the store has still to
propagate (R328, R334). -/
def SSt.storeWords (x : SSt) (fid off : Nat) (bs : List Byte) : SSt :=
  let x := x.write off bs
  let ws := wordsOf off bs.length
  { x with
    valid := ws.foldl (fun l w => setIns w l) x.valid
    dirty := ws.foldl (fun l w => setIns w l) x.dirty
    poison := if bs.length < 4 then x.poison else ws.foldl (fun l w => setDel w l) x.poison
    stores := x.stores ++ ws.map fun w => ⟨w, fid, none⟩ }

/-- The write-backs that are under way for words that STW `id` stores again stay behind those words' dirty bits (R270). -/
def restored (words : List Nat) (e launch : Nat) (win : Window) (w id : Nat) (a : Access) : Access :=
  match a.kind with
  | .wback v .plain =>
    if v = w && a.e = e && a.launch = launch && decide (a.fid < id) then
      match win.offOf? a.pa with
      | some off => if words.contains (off / 4) then { a with kind := .wback v .restored } else a
      | none => a
    else a
  | _ => a

/-- Whether the home can take window words now (R308, R309, R350): no line-granular agent holds the line, and no scan holds
back a recall that the words need. -/
def State.claimable (s : State) (mt pa n : Nat) (but : Option (Nat × Nat × Nat)) : Bool :=
  let line := pa / 64
  mt = 1 || (s.mem.lineFree line && !(s.mem.overlaps line (wordMask pa n) but && s.recallBlocked line but))

/-- The home's part of a window store (R305, R309): other windows with a stored word in their write mask are recalled, and
the words join this window's masks. -/
def State.claim (s : State) (mt pa n launch e w : Nat) (mask : BitVec 16) : State :=
  (s.overlapRecall mt pa n (some (launch, e, w)) (some launch)).register (pa / 64) launch e w mask mask

/-- What a window store sends home (R305, R309): its words join the window's masks, at once or, while the line's other
holders stand in the way, as access `id` of its request queue. Windows on streaming pages are not registered (R307). -/
def State.storeMasks (s : State) (c : Ctx) (id fid : Nat) (win : Window) (w : Fin 8) (off n : Nat) : State :=
  match win.page? (win.vaAt off) with
  | none => s
  | some a =>
    let mask := wordMask a.pa n
    if a.mt = 1 then s
    else if s.claimable a.mt a.pa n (some (c.reg.launch, c.e, w.val)) then
      s.claim a.mt a.pa n c.reg.launch c.e w.val mask
    else
      let s := if s.mem.lineFree (a.pa / 64) then s else s.invalidate (a.pa / 64)
      { s with
        mem := { s.mem with
          reqs := s.mem.reqs ++ [{ c.access id fid 0xD3 (.claim w.val mask) { a with size := n } 0 with cost := 0 }] } }

/-- The completion token of a window load or store that is due at once, if it asks for one (R258, R259, R269). -/
def OutF.dueNow (o : OutF) (no : Nat) : List Due :=
  match o.cmp with
  | some k => [⟨o.id, k, cmpTok o.seq o.va o.opc 0, no⟩]
  | none => []

/-- LDW (R269): from the window when every word is valid, else after a fill, and behind the element's earlier accesses to its
words (R260). -/
def execLdw (f : XForm) (s : State) : Res :=
  withCtx s fun c =>
    c.withS fun x =>
      match outOf? f.dst with
      | none => .refused .rejectedAtLoad
      | some o =>
        if c.poisoned f.sa then c.trap s trapPOISON
        else
          let a := c.src 0 f.sa
          match x.windowCheck a false with
          | .error k => c.trap s k
          | .ok (w, off, n) =>
            let win := x.windows.get w
            let id := s.nextId
            let t := c.loadTok f.cnt f.sa
            let out := { OutF.new id c.slot 0xD2 c.el.seq with
              va := BitVec.ofNat 64 (win.vaAt off), cls := 1, dst := some o, cmp := cmpOf f.cnt, hd := some t, arg := a }
            if !c.loadTagOk (some o) t then c.trap s trapFORMAT
            else if x.needsFill false off n then
              c.issue s [f.sa] c.el f.pop 0 [out] (c.fillAcc id id 0xD2 x win w off)
            else if c.el.wordsBusy (wordsOf off n) then c.issue s [f.sa] c.el f.pop 0 [out] []
            else
              let (s, no) := s.performNo
              c.issue s [f.sa] { c.el with dues := c.el.dues ++ out.dueNow no } f.pop 0
                [{ out with data := [x.loadTok t off n], ready := true }] []

/-- STW (R269): whole words at once, narrow stores to an invalid word after a fill, and behind the element's earlier accesses
to its words (R260). (DEDUCED, log 28.)
(DEDUCED, log 91.) -/
def execStw (f : XForm) (s : State) : Res :=
  withCtx s fun c =>
    c.withS fun x =>
      if [f.sa, f.sb].any c.poisoned then c.trap s trapPOISON
      else
        let a := c.src 0 f.sa
        match x.windowCheck a true with
        | .error k => c.trap s k
        | .ok (w, off, n) =>
          let win := x.windows.get w
          let id := s.nextId
          let out := { OutF.new id c.slot 0xD3 c.el.seq with
            va := BitVec.ofNat 64 (win.vaAt off), cmp := cmpOf f.cnt, arg := a, arg2 := c.src 0 f.sb }
          if x.needsFill true off n then
            c.issue s [f.sa, f.sb] c.el f.pop 0 [out] (c.fillAcc id id 0xD3 x win w off)
          else if c.el.wordsBusy (wordsOf off n) then c.issue s [f.sa, f.sb] c.el f.pop 0 [out] []
          else
            let x := x.storeWords id off (toBytes (c.src 0 f.sb) n)
            let fix := restored (wordsOf off n) c.e c.reg.launch win w.val id
            let (s, no) := s.performNo
            let el := { c.el.setS x with dues := c.el.dues ++ out.dueNow no, issueQ := c.el.issueQ.map fix }
            let outs := if out.cmp.isSome then [{ out with ready := true }] else []
            let s := { s with nextId := id + 2, mem := { s.mem with reqs := s.mem.reqs.map fix } }
            let s' := (c.put s el).storeMasks c (id + 1) id win w off n
            match s'.at? c.r c.e c.slot with
            | some c' => c'.issue s' [f.sa, f.sb] c'.el f.pop 0 outs []
            | none => .next s'

/-- The window field and the level field of CNT (R98). -/
def winOf (cnt : BitVec 8) : Fin 8 := Fin.ofNat 8 (cnt.toNat % 8)
def lvlOf (cnt : BitVec 8) : Nat := cnt.toNat / 8 % 8

/-- The checks of WMAP on its operand (R267, R268); none when PARAM is raised. -/
def SSt.mapCheck (x : SSt) (pword : Word) (w : Fin 8) (a : Payload) : Option Window :=
  let off := (lane32 a 0).toNat
  let len := (lane32 a 1).toNat
  let va := pair64 a 2
  let overlap := (List.range 8).any fun i =>
    let y := x.windows.get (Fin.ofNat 8 i)
    y.mapped && decide (off < y.off + y.len) && decide (y.off < off + len)
  let sizes := off % 1024 != 0 || len % 1024 != 0 || decide (len < 1024) || va % 1024 != 0
  let ranges := decide (2 ^ 56 < va + len) || decide (pwWin pword * 1024 < off + len)
  if (x.windows.get w).mapped || sizes || ranges || decide (1 < (lane32 a 4).toNat) || overlap then none
  else some ⟨true, false, off, len, va, (lane32 a 4).getLsbD 0, []⟩

/-- Whether a WCLOSE under way holds the window, or a local range the binding would overlap (R268). -/
def SSt.mapWaits (x : SSt) (w : Fin 8) (a : Payload) : Bool :=
  let off := (lane32 a 0).toNat
  let len := (lane32 a 1).toNat
  (List.range 8).any fun i =>
    let y := x.windows.get (Fin.ofNat 8 i)
    y.closing && (i == w.val || (decide (off < y.off + y.len) && decide (y.off < off + len)))

/-- WMAP (R268): waits for a WCLOSE, checks its operand, and then takes its tokens from B. -/
def execWmap (f : XForm) (s : State) : Res :=
  withCtx s fun c =>
    c.withS fun x =>
      match headOf? f.sb with
      | none => .refused .rejectedAtLoad
      | some _ =>
        let a := c.src 0 f.sa
        let fr := { Firing.start c.slot (.wmap f) .wait with a := a }
        if c.poisoned f.sa then c.trap s trapPOISON
        else if x.mapWaits (winOf f.cnt) a then c.hold s c.el fr
        else
          match x.mapCheck c.el.img.pword (winOf f.cnt) a with
          | none => c.trap s trapPARAM
          | some _ => c.hold s c.el { fr with stage := .take }

/-- A token of WMAP's B (R268): the count, then the address words. A fault token is not taken: it freezes the
region (R400). -/
def takeMap (el : Elem) (x : SSt) (f : Firing) (w : Fin 8) (t : Token) : Take :=
  if t.poison then .trap trapPOISON
  else if f.n = 0 then
    if t.kind ≠ .control then .trap trapFORMAT
    else if t.coord = 0 then .trap trapPARAM
    else .more el { f with n := t.coord.toNat }
  else
    match x.mapCheck el.img.pword w f.a with
    | none => .trap trapPARAM
    | some win =>
      match t.kind with
      | .data =>
        match addrParse t.payload with
        | .error k => .trap k
        | .ok a =>
          let lo := a.va - (a.pa - (a.limit - a.page))
          let begins := if f.toks = [] then decide (lo ≤ win.va) && decide (win.va < lo + a.page) else lo == f.i
          if a.mt = 2 || !begins then .trap trapPARAM
          else
            let toks := f.toks ++ [t]
            let hi := lo + a.page
            if toks.length < f.n then .more el { f with toks := toks, i := hi }
            else if hi < win.va + win.len then .trap trapPARAM
            else
              let win := { win with pages := toks.map (·.payload) }
              let gone (k : Nat) : Bool := decide (win.off / 4 ≤ k) && decide (k < (win.off + win.len) / 4)
              .done (el.setS ({ x with
                windows := x.windows.set w win
                valid := x.valid.filter fun k => !gone k
                dirty := x.dirty.filter fun k => !gone k
                poison := x.poison.filter fun k => !gone k }.forget gone)).bumpSeq none
      | _ => .trap trapFORMAT

/-- The dirty words of a window, as local word indices (R270). -/
def SSt.dirtyOf (x : SSt) (win : Window) : List Nat :=
  x.dirty.filter fun k => decide (win.off ≤ 4 * k) && decide (4 * k < win.off + win.len)

/-- The words of a window that STWs which still wait for their fill will store (R260, R270, R334). -/
def Elem.lateWords (el : Elem) (win : Window) : List Nat :=
  (el.outs.filter fun (o : OutF) => o.opc == 0xD3 && !o.ready).foldl (fun l o =>
    let off := (lane32 o.arg 0).toNat
    if win.off ≤ off && off < win.off + win.len then
      (wordsOf off ((sizeOf? (lane32 o.arg 1).toNat).getD 4)).foldl (fun l k => setIns k l) l
    else l) []

/-- The write-back accesses of a window (R270, R317, R334): one 4-byte store for each dirty word, and for each word that
an earlier STW of the element has yet to store, which waits for that STW. (DEDUCED, log 85.) -/
def Ctx.wbacks (c : Ctx) (id opc : Nat) (x : SSt) (w : Fin 8) : List Access :=
  let win := x.windows.get w
  let late := c.el.lateWords win
  let l := (late.foldl (fun l k => setIns k l) (x.dirtyOf win)).filterMap fun k =>
    (win.page? (win.vaAt (4 * k))).map fun a => (k, a)
  l.zipIdx.map fun ((k, a), i) =>
    { c.access (id + 1 + i) id opc (.wback w.val (if late.contains k then .awaiting else .plain)) { a with size := 4 }
        (ofWords [sget 0 x.sram k]) with
      cost := if (l.take i).any fun y => y.2.pa / 64 == a.pa / 64 then 0 else 2
      tva := BitVec.ofNat 64 win.va }

/-- The outstanding firing of WSYNC, WINV and WCLOSE, whose token on DST is a completion token (R270). -/
def Ctx.winOut (c : Ctx) (id opc : Nat) (f : XForm) (win : Window) : OutF :=
  { OutF.new id c.slot opc c.el.seq with
    va := BitVec.ofNat 64 win.va, cmp := outOf? f.dst, level := lvlOf f.cnt, arg := BitVec.ofNat 256 (winOf f.cnt).val }

/-- WSYNC (R270). -/
def execWsync (f : XForm) (s : State) : Res :=
  withCtx s fun c =>
    c.withS fun x =>
      let win := x.windows.get (winOf f.cnt)
      if !win.mapped || win.closing then c.trap s trapPARAM
      else c.issue s [] c.el f.pop 0 [c.winOut s.nextId 0xD5 f win] (c.wbacks s.nextId 0xD5 x (winOf f.cnt))

/-- The fills of a window that have read some rows of a derived line read all of them anew (R334, R335, R343): no word that
was read before a WINV becomes valid after it. (DESIGN CHOICE, log 133.) -/
def State.refill (s : State) (r e : Nat) (gen : BitVec 12) (w : Fin 8) : State :=
  let again (a : Access) : Access :=
    match a.kind with
    | .fill v _ _ => if a.r == r && a.e == e && a.gen == gen && v == w.val then { a with prog := .start } else a
    | _ => a
  { s with mem := { s.mem with reqs := s.mem.reqs.map again } }

/-- WINV (R270, R334): drops every valid clean word at issue; later fills perform after it. -/
def execWinv (f : XForm) (s : State) : Res :=
  withCtx s fun c =>
    c.withS fun x =>
      let win := x.windows.get (winOf f.cnt)
      if !win.mapped || win.closing then c.trap s trapPARAM
      else
        let keep (k : Nat) : Bool :=
          x.dirty.contains k || decide (4 * k < win.off) || decide (win.off + win.len ≤ 4 * k)
        let el := c.el.setS { x with valid := x.valid.filter keep, poison := x.poison.filter keep }
        let o := c.winOut s.nextId 0xD6 f win
        let (s, no) := (s.refill c.r c.e c.reg.gen (winOf f.cnt)).performNo
        c.issue s [] { el with dues := el.dues ++ o.dueNow no } f.pop 0
          (if o.cmp.isSome then [{ o with ready := true }] else []) []

/-- WCLOSE (R270): WSYNC's write-back; the window counts as unmapped at once and is free when its token would
be pushed. -/
def execWclose (f : XForm) (s : State) : Res :=
  withCtx s fun c =>
    c.withS fun x =>
      let w := winOf f.cnt
      let win := x.windows.get w
      if !win.mapped || win.closing then c.trap s trapPARAM
      else
        c.issue s [] (c.el.setS { x with windows := x.windows.set w { win with closing := true } }) f.pop 0
          [c.winOut s.nextId 0xD7 f win] (c.wbacks s.nextId 0xD7 x w)

/-! ### Derived tensors -/

/-- DRV (R276, R277): incomplete until DECLARATION_ACCEPT. -/
def execDrv (f : RForm) (s : State) : Res :=
  withCtx s fun c =>
    if [f.sa, f.sb].any c.poisoned then c.trap s trapPOISON
    else
      c.hold s c.el { Firing.start c.slot (.drv f) .wait with a := c.src f.md f.sa, b := c.src f.md f.sb }

/-- Whether an operand names a counter that the context does not hold (R276, R278). -/
def State.lacksCounter (s : State) (ctx : Nat) : Option Nat → Bool
  | some n => !s.holdsCounter ctx n
  | none => false

/-- The status of DRVX (R278): 6 and 7 as in R277, 0 where the withdrawal starts. -/
def State.drvxStatus (s : State) (ctx handle : Nat) (ctr : Option Nat) : Nat :=
  if s.lacksCounter ctx ctr then 6 else if (s.declOf? ctx handle).isNone then 7 else 0

/-- DRVX (R278): the withdrawal starts; it takes effect row by row (R352). (DEDUCED, log 40.) -/
def execDrvx (f : RForm) (s : State) : Res :=
  withCtx s fun c =>
    if c.poisoned f.sa then c.trap s trapPOISON
    else
      let a := c.src f.md f.sa
      let h := (lane32 a 0).toNat
      let ctr := counterOf (lane32 a 1)
      let status := s.drvxStatus c.reg.ctx h ctr
      let t := if status = 0 then s.modDecl h fun d => { d with withdraw := some ctr } else s
      let res := drvRes h status
      c.memFinishFrom s t ((c.el.writeDst f.dst res).withPw f.pw (status != 0))
        (pushesOf f.dst (c.tok f.md [f.sa] none res)) f.pop (readMask [f.sa])

/-- The kind code of a declaration (R276). -/
def drvCode : DrvKind → Nat
  | .rowsum => 0
  | .rowssq => 1
  | .rowmax => 2
  | .rowmin => 3
  | .hist => 4
  | .bscale => 5

/-- The result of DRVQ (R278, R351). -/
def drvqRes (d : Option Decl) : Payload :=
  match d with
  | none => ofWords [0, 0, 0, 7]
  | some d =>
    let n := (d.rows.filter fun r => r.scan == .scanning || r.scan == .extended).length
    let st := if d.rows.any fun r => r.scan == .initial then 1 else if n = 0 then 2 else 3
    ofWords [BitVec.ofNat 32 st, BitVec.ofNat 32 (drvCode d.kind), BitVec.ofNat 32 n, 0]

/-- DRVQ (R278). -/
def execDrvq (f : RForm) (s : State) : Res :=
  withCtx s fun c =>
    if c.poisoned f.sa then c.trap s trapPOISON
    else
      let res := drvqRes (s.declOf? c.reg.ctx (lane32 (c.src f.md f.sa) 0).toNat)
      c.memFinish s ((c.el.writeDst f.dst res).withPw f.pw (defaultCond res))
        (pushesOf f.dst (c.tok f.md [f.sa] none res)) f.pop (readMask [f.sa])

/-! ### Address generation -/

/-- Runs a meaning on the state of an E element. -/
def Ctx.withE (c : Ctx) (f : ESt → Res) : Res :=
  match c.el.ks with
  | .e x => f x
  | _ => .refused .rejectedAtLoad

/-- Writes the state of an E element. -/
def Elem.setE (el : Elem) (x : ESt) : Elem := { el with ks := .e x }

/-- Whether a stream runs. -/
def ESt.runs (x : ESt) (n : Nat) : Bool := x.streams.any fun t => t.num == n

/-- AGEN (R279). -/
def execAgen (f : RForm) (s : State) : Res :=
  withCtx s fun c =>
    c.withE fun x =>
      let b := (c.src f.md f.sb).toNat
      let st := b % 8
      let w := b / 16 % 8
      if [f.sa, f.sb].any c.poisoned then c.trap s trapPOISON
      else if b ≠ st + 16 * w || x.runs st then c.trap s trapPARAM
      else
        c.memFinish s ((c.el.setE { x with agen := sset 0 x.agen (8 * st + w) (c.src f.md f.sa) }).withPw f.pw false)
          [] f.pop (readMask [f.sa, f.sb])

/-- A word of a stream's descriptor (R279). -/
def ESt.word (x : ESt) (st w : Nat) : Payload := sget 0 x.agen (8 * st + w)

/-- The fields of a descriptor's word 0 (R279). -/
def ESt.base (x : ESt) (st : Nat) : Nat := pair64 (x.word st 0) 0
def ESt.dims (x : ESt) (st : Nat) : Nat := (lane32 (x.word st 0) 2).toNat
def ESt.mode (x : ESt) (st : Nat) : Nat := (lane32 (x.word st 0) 3).toNat
def ESt.loadTag (x : ESt) (st : Nat) : BitVec 3 := (lane32 (x.word st 0) 4).extractLsb' 0 3
def ESt.sizeCode (x : ESt) (st : Nat) : Nat := (lane32 (x.word st 0) 4).toNat / 16 % 8
def ESt.streamCounter (x : ESt) (st : Nat) : Word := lane32 (x.word st 0) 5

/-- Count and stride of a dimension (R279). -/
def ESt.count (x : ESt) (st d : Nat) : Nat := (lane32 (x.word st (d / 2 + 1)) (4 * (d % 2))).toNat
def ESt.stride (x : ESt) (st d : Nat) : Nat := pair64 (x.word st (d / 2 + 1)) (4 * (d % 2) + 2)

/-- The number of addresses of a stream (R280). -/
def ESt.total (x : ESt) (st : Nat) : Nat := ((List.range (x.dims st)).map fun d => x.count st d).foldl (· * ·) 1

/-- Σ i_d × stride_d for the index of a generated address, dimension 0 fastest (R280). -/
def ESt.offsetGo (x : ESt) (st : Nat) : (fuel d i : Nat) → Nat
  | 0, _, _ => 0
  | n + 1, d, i => (i % x.count st d) * x.stride st d + x.offsetGo st n (d + 1) (i / x.count st d)

/-- The generated address with an index, modulo 2^64 (R280). -/
def ESt.genAddr (x : ESt) (st i : Nat) : Nat := (x.base st + x.offsetGo st (x.dims st) 0 i) % 2 ^ 64

/-- Whether AGSTR accepts a descriptor (R280); `held` says that the counter it names is held. -/
def ESt.descOk (x : ESt) (st : Nat) (held : Bool) : Bool :=
  let d := x.dims st
  let w4 := (lane32 (x.word st 0) 4).toNat
  decide (1 ≤ d) && decide (d ≤ 14) && decide (x.mode st ≤ 3) && decide (x.sizeCode st ≤ 5)
    && decide (w4 = w4 % 8 + 16 * x.sizeCode st) && held
    && ((List.range d).all fun i => x.count st i != 0) && decide (x.total st ≤ 2 ^ 48)
    && ((List.range 7).all fun i => lane32 (x.word st (i + 1)) 1 == 0 && lane32 (x.word st (i + 1)) 5 == 0)

/-- AGSTR (R280, R281): waits while its stream runs or its input is claimed. (DEDUCED, log 60.) -/
def execAgstr (f : XForm) (s : State) : Res :=
  withCtx s fun c =>
    c.withE fun x =>
      match outOf? f.dst with
      | none => .refused .rejectedAtLoad
      | some o =>
        let st := f.cnt.toNat % 8
        let input := headOf? f.sa
        let claimed := match input with
          | some i => (c.el.ins.get i).claimed
          | none => false
        if x.runs st || claimed then c.hold s c.el (.start c.slot (.agstr f) .wait)
        else
          let ctr := counterOf (x.streamCounter st)
          let held := match ctr with
            | some n => s.holdsCounter c.reg.ctx n
            | none => true
          if !x.descOk st held || (x.mode st == 3) != input.isSome then c.trap s trapPARAM
          else
            let el := c.el.setE { x with streams := x.streams ++ [⟨s.nextId, st, c.slot, some o, input, 0, 0, false, none⟩] }
            let el := match input with
              | some i => el.modInput i fun n => { n with claimed := true }
              | none => el
            c.memFinish { s with nextId := s.nextId + 1 } el [] f.pop 0

/-! ### Parking -/

/-- The channel with a number; one the mapper gave no storage keeps none (R282). -/
def GraphSt.chan (g : GraphSt) (n : Nat) : Chan := (g.chans.find? fun c => c.num == n).getD ⟨n, 0, 0, [], []⟩

/-- Writes a channel. -/
def GraphSt.setChan (g : GraphSt) (x : Chan) : GraphSt :=
  { g with chans := if g.chans.any fun c => c.num == x.num then g.chans.map fun c => if c.num = x.num then x else c
      else g.chans ++ [x] }

/-- The tokens of a region that stand in its spill pool (R282). -/
def GraphSt.spilled (g : GraphSt) : Nat := (g.chans.map fun c => c.spill.length).sum

/-- A channel after a PARK (R282); none when storage and pool are full. -/
def GraphSt.park (g : GraphSt) (n : Nat) (t : Token) : Option GraphSt :=
  let x := g.chan n
  if x.spill = [] && decide (x.store.length < x.cap) then some (g.setChan { x with store := x.store ++ [t] })
  else if g.spilled < g.spillCap then some (g.setChan { x with spill := x.spill ++ [t] })
  else none

/-- A channel after an UNPARK (R282), with its oldest token; spilled tokens return in order. -/
def GraphSt.unpark (g : GraphSt) (n : Nat) : Option (Token × GraphSt) :=
  let x := g.chan n
  match x.store, x.spill with
  | t :: r, y :: q => some (t, g.setChan { x with store := r ++ [y], spill := q })
  | t :: r, [] => some (t, g.setChan { x with store := r })
  | [], y :: q => some (y, g.setChan { x with spill := q })
  | [], [] => none

/-- PARK (R282): the token with its whole sideband; a poisoned head does not trap. -/
def execPark (f : XForm) (s : State) : Res :=
  withCtx s fun c =>
    let t := (c.srcTok? f.sa).getD (c.tok 0 [f.sa] none (c.src 0 f.sa))
    match c.g.park f.cnt.toNat t with
    | none => c.trap s trapSPILL
    | some g => { c with g := g }.memFinish s c.el [] f.pop (readMask [f.sa])

/-- UNPARK (R282): with an empty channel it does nothing. -/
def execUnpark (f : XForm) (s : State) : Res :=
  withCtx s fun c =>
    match c.g.unpark f.cnt.toNat with
    | none => .next s
    | some (t, g) => { c with g := g }.memFinish s c.el (pushesOf f.dst t) f.pop 0

/-! ### Translation -/

/-- What the translation node of an element answers at once (R283, R284): an entry that hits, or code 3 for a VA of 2^56 or
more; none for a miss. -/
def Ctx.xlatNow? (c : Ctx) (x : ESt) (va : Nat) (intent : Bool) : Option (Except Nat Payload) :=
  if 2 ^ 56 ≤ va then some (.error 3) else (x.tlbHit? c.reg.ctx va).map fun t => leafResult t.leaf va intent

/-- Whether the operand of an XLAT raises a trap, and which (R26, R283). -/
def Ctx.xlatTrap? (c : Ctx) (f : RForm) : Option Nat :=
  if c.poisoned f.sa then some trapPOISON
  else if 1 < (lane32 (c.src f.md f.sa) 2).toNat then some trapPARAM
  else none

/-- Whether the firing of an XLAT would be a miss (R258, R283). -/
def Ctx.xlatMisses (c : Ctx) (f : RForm) : Bool :=
  match c.el.ks with
  | .e x => (c.xlatTrap? f).isNone && (c.xlatNow? x (pair64 (c.src f.md f.sa) 0) false).isNone
  | _ => false

/-- XLAT (R283): a hit is due at once, a miss waits for the walker region; results leave in firing order. What a hit pushes is
known at issue, so a tag that its edge does not take stops the firing there (R71; DEDUCED, log 112); a miss stops when its
address word would leave. -/
def execXlat (f : RForm) (s : State) : Res :=
  withCtx s fun c =>
    c.withE fun x =>
      match outOf? f.dst with
      | none => .refused .rejectedAtLoad
      | some o =>
        let a := c.src f.md f.sa
        let va := pair64 a 0
        let intent := (lane32 a 2).getLsbD 0
        let (last, coord) := c.sideOf [f.sa]
        match c.xlatTrap? f with
        | some k => c.trap s k
        | none =>
          let s' := match if 2 ^ 56 ≤ va then none else x.tlbHit? c.reg.ctx va with
            | some t => s.touchTlb t va
            | none => s
          let out := { OutF.new s'.nextId c.slot 0xE8 c.el.seq with
            va := BitVec.ofNat 64 va, cls := 2, dst := some o, arg := a, hd := some ⟨1, .data, last, false, coord, 0⟩ }
          let out := match c.xlatNow? x va intent with
            | some r => { out with data := [xlatTok r va intent last coord], ready := true }
            | none => { out with miss := true }
          if out.data.all fun t => c.g.tagOk c.e o t then c.issue s' [f.sa] c.el f.pop f.pw [out] [] else c.trap s trapFORMAT

/-- XINV (R258, R283): outstanding until its reply, with which the entries go. (DEDUCED, log 31.) -/
def execXinv (f : RForm) (s : State) : Res :=
  withCtx s fun c =>
    c.withE fun _ =>
      if c.poisoned f.sa then c.trap s trapPOISON
      else c.issue s [f.sa] c.el f.pop f.pw [{ OutF.new s.nextId c.slot 0xE9 c.el.seq with arg := c.src f.md f.sa }] []

end Sys2Proof.Machine
end

