-- ==== Sys2Proof/Machine/Sync.lean ====
section
/-! DEFINITION. Opcodes 0xEA to 0xEF (R286 to R289): fences, timeline counters and barriers. -/

namespace Sys2Proof.Machine

/-- Whether the launch of a region binds a hierarchy level (R18, R85, R369). -/
def State.boundLevel (s : State) (launch level : Nat) : Bool :=
  if level ≤ 4 then true
  else
    match s.sched.launch? launch with
    | none => false
    | some x =>
      if level = 5 then x.record.hostGroup != 0xFFFF
      else if level = 6 then x.record.linkGroup != 0xFFFF
      else x.record.level7.getLsbD 0

/-- Whether a context holds a barrier (R289, R369). -/
def State.holdsBarrier (s : State) (ctx n : Nat) : Bool :=
  match s.sched.context? ctx with
  | some c => c.cfg.barriers.contains n
  | none => false

/-- A barrier's state; one that no BARI has set expects 0 (R289). -/
def MemSt.barrier (m : MemSt) (n : Nat) : Barrier := sget ⟨0, 0, 0⟩ m.barriers n

/-- Writes a barrier. -/
def State.setBarrier (s : State) (n : Nat) (b : Barrier) : State :=
  { s with mem := { s.mem with barriers := sset ⟨0, 0, 0⟩ s.mem.barriers n b } }

/-- One arrival (R289): at zero the phase advances and the count starts anew. -/
def Barrier.arrive (b : Barrier) : Barrier :=
  if b.remaining ≤ 1 then ⟨b.expected, b.expected, b.phase + 1⟩ else { b with remaining := b.remaining - 1 }

/-- The control token an instruction of this chapter pushes (R25, R143): KIND 2 and TAG 0, the value in COORD
where the rule gives one, LAST and COORD otherwise as R143 copies them. (DEDUCED, log 44.) -/
def Ctx.ctlTok (c : Ctx) (srcs : List Src) (coord : Option (BitVec 16)) (v : Payload) : Token :=
  ⟨0, .control, (c.sideOf srcs).1, false, coord.getD (c.sideOf srcs).2, v⟩

/-- A firing whose token is ready when it issues: outstanding only while the token waits (R258). -/
def Ctx.issueReady (c : Ctx) (s : State) (opc : Nat) (srcs : List Src) (dst : Dst) (pop pw : BitVec 4) (t : Token) : Res :=
  c.issue s srcs c.el pop pw
    (match outOf? dst with
     | some o => [{ OutF.new s.nextId c.slot opc c.el.seq with dst := some o, data := [t], ready := true }]
     | none => []) []

/-- Whether an access belongs to an element of a region under its generation. -/
def Access.isOf (a : Access) (r e : Nat) (gen : BitVec 12) : Bool := a.r == r && a.e == e && a.gen == gen

/-- Whether an element has an access with a property among those sent and not yet performed (R325, R328):
refused and held updates with them, and, for the system scope, the egress buffers. -/
def State.inMem (s : State) (r e : Nat) (gen : BitVec 12) (egress : Bool) (p : Access → Bool) : Bool :=
  let mine (a : Access) : Bool := a.isOf r e gen && p a
  s.mem.reqs.any mine || s.mem.replays.any mine || (s.mem.held.any fun h => h.held.any mine)
    || (egress && s.mem.egress.any mine)

/-- The running send engines of an element (R291). -/
def Elem.sends (el : Elem) : List SendEng :=
  match el.ks with
  | .e x => x.sends
  | _ => []

/-- The window stores of an element that have not propagated (R328, R330). -/
def Elem.winStores (el : Elem) : List WinStore :=
  match el.ks with
  | .s x => x.stores
  | _ => []

/-- Whether a window store has not propagated to a level's scope: it is visible in the package once its word is written back,
and beyond it once the write-back is delivered (R328, R334). -/
def WinStore.pending (w : WinStore) (level : Nat) : Bool := w.sent.isNone || decide (5 ≤ level)

/-- Whether some access of a firing of the element before number `n` has not propagated to a level's scope: those of a
packet or a write-back belong to the firing that owes them, whenever they were formed, and a window store is one that
propagates when it is written back (R270, R286, R287, R289, R328, R330, R334). (DEDUCED, log 43.) -/
def State.pendingBefore (s : State) (c : Ctx) (n level : Nat) : Bool :=
  decide (1 ≤ level) &&
    ((c.el.issueQ.any fun a => decide (a.fid < n)) || (c.el.sends.any fun x => decide (x.id < n))
      || (c.el.winStores.any fun w => decide (w.fid < n) && w.pending level)
      || s.inMem c.r c.e c.reg.gen (decide (5 ≤ level)) fun a => decide (a.fid < n))

/-- The level of FENCE. -/
def fenceLevel (f : IForm) : Nat := f.imm.toNat % 8

/-- Whether a FENCE with its mark still waits (R286). (DEDUCED, log 43.) -/
def State.fenceWaits (s : State) (c : Ctx) (n level : Nat) : Bool := s.pendingBefore c n level

/-- Completes a FENCE (R286). -/
def Ctx.fenceEnd (c : Ctx) (s : State) (f : IForm) : Res := c.memFinish s (c.el.withPw f.pw false) [] f.pop 0

/-- FENCE (R286): incomplete until FENCE_COMPLETE; `n` marks the accesses issued before it. -/
def execFence (f : IForm) (s : State) : Res :=
  withCtx s fun c =>
    if s.fenceWaits c s.nextId (fenceLevel f) then
      c.hold s c.el { Firing.start c.slot (.fence f) .wait with n := s.nextId }
    else c.fenceEnd s f

/-- Whether CWAIT's counter has reached its value (R288). -/
def State.cwaitMet (s : State) (a : Payload) : Bool :=
  decide (pair64 a 2 ≤ (s.mem.counter (lane32 a 0).toNat).toNat)

/-- CWAIT (R288): a counter that is not held raises PARAM; below its value the slot does not qualify. -/
def execCwait (f : RForm) (s : State) : Res :=
  withCtx s fun c =>
    let a := c.src f.md f.sa
    let n := (lane32 a 0).toNat
    if c.poisoned f.sa then c.trap s trapPOISON
    else if !s.holdsCounter c.reg.ctx n then c.trap s trapPARAM
    else if !s.cwaitMet a then .next s
    else c.issueReady s 0xEB [f.sa] f.dst f.pop f.pw (c.ctlTok [f.sa] (some 0) (resWide (s.mem.counter n)))

/-- Whether CSIG's operand is in its limits (R287). -/
def State.csigOk (s : State) (ctx : Nat) (a : Payload) : Bool :=
  s.holdsCounter ctx (lane32 a 0).toNat && decide ((lane32 a 1).toNat ≤ 1)
    && !((lane32 a 1) == 0 && pair64 a 2 == 0)

/-- CSIG (R287): the change itself is COUNTER_RAISE, once the element's earlier accesses have propagated. -/
def execCsig (f : RForm) (s : State) : Res :=
  withCtx s fun c =>
    let a := c.src f.md f.sa
    if c.poisoned f.sa then c.trap s trapPOISON
    else if !s.csigOk c.reg.ctx a then c.trap s trapPARAM
    else c.issue s [f.sa] c.el f.pop f.pw [{ OutF.new s.nextId c.slot 0xEC c.el.seq with arg := a }] []

/-- Whether a barrier operand may be used (R85, R289). -/
def State.barOk (s : State) (c : Ctx) (a : Payload) : Bool :=
  s.holdsBarrier c.reg.ctx (lane32 a 0).toNat && s.boundLevel c.reg.launch ((lane32 a 2).toNat % 8)

/-- BARA (R289): the arrival itself is BARRIER_ARRIVAL. -/
def execBara (f : RForm) (s : State) : Res :=
  withCtx s fun c =>
    let a := c.src f.md f.sa
    if c.poisoned f.sa then c.trap s trapPOISON
    else if !s.barOk c a || (s.mem.barrier (lane32 a 0).toNat).expected == 0 then c.trap s trapPARAM
    else
      c.issue s [f.sa] c.el f.pop f.pw
        [{ OutF.new s.nextId c.slot 0xED c.el.seq with
            dst := outOf? f.dst, arg := a, level := (lane32 a 2).toNat % 8, hd := some (c.ctlTok [f.sa] none 0) }] []

/-- Whether BARW's barrier has passed its phase (R289). -/
def State.barwMet (s : State) (a : Payload) : Bool :=
  let d := ((s.mem.barrier (lane32 a 0).toNat).phase - lane32 a 1).toNat
  decide (1 ≤ d) && decide (d ≤ 2 ^ 31)

/-- BARW (R289). -/
def execBarw (f : RForm) (s : State) : Res :=
  withCtx s fun c =>
    let a := c.src f.md f.sa
    if c.poisoned f.sa then c.trap s trapPOISON
    else if !s.barOk c a then c.trap s trapPARAM
    else if !s.barwMet a then .next s
    else c.issueReady s 0xEE [f.sa] f.dst f.pop f.pw (c.ctlTok [f.sa] none 0)

/-- BARI (R289). -/
def execBari (f : RForm) (s : State) : Res :=
  withCtx s fun c =>
    let a := c.src f.md f.sa
    let n := (lane32 a 0).toNat
    let e := (lane32 a 1).toNat
    if c.poisoned f.sa then c.trap s trapPOISON
    else if !s.holdsBarrier c.reg.ctx n || e == 0 then c.trap s trapPARAM
    else
      c.memFinish (s.setBarrier n ⟨e, e, 0⟩) (c.el.withPw f.pw false) [] f.pop (readMask [f.sa])

end Sys2Proof.Machine
end

