-- ==== Sys2Proof/Machine/Link.lean ====
section
/-! DEFINITION. Opcodes 0xF0 to 0xF7 (R290 to R295): link operations as their firings issue them. -/

namespace Sys2Proof.Machine

/-- Whether the remote operand of an opcode is in its limits (R290): the fields it uses, every other lane zero.
(DEDUCED, log 45.) -/
def remoteOk (opc : Nat) (a : Payload) : Bool :=
  let l (n : Nat) : Nat := (lane32 a n).toNat
  let mem := opc == 0xF0 || opc == 0xF1 || opc == 0xF2
  let va := if mem then pair64 a 0 % 32 == 0 else l 0 == 0 && l 1 == 0
  let elem := if opc == 0xF5 then decide (l 4 < 8) else l 3 == 0 && l 4 == 0
  let sig := if opc == 0xF1 then decide (l 5 < 2 ^ 16) else l 5 == 0
  let get := if opc == 0xF2 then decide (1 ≤ l 6) && decide (l 6 ≤ 128) && decide (l 7 < 8) else l 6 == 0 && l 7 == 0
  va && decide (l 2 < 2 ^ 16) && elem && sig && get

/-- The outstanding firing of a link operation (R258, R291): `a` in `arg`. -/
def Ctx.linkOut (c : Ctx) (id opc : Nat) (cnt : BitVec 8) (a : Payload) : OutF :=
  { OutF.new id c.slot opc c.el.seq with
    va := if opc = 0xF0 || opc = 0xF1 || opc = 0xF2 then a.setWidth 64 else 0, cmp := cmpOf cnt, arg := a }

/-- Starts a send engine (R291): it claims SB (R214) and the firing is outstanding until its reply.
(DEDUCED, log 26.) -/
def Ctx.startSend (c : Ctx) (s : State) (f : XForm) (i : Instr) (opc : Nat) : Res :=
  c.withE fun x =>
    match headOf? f.sb with
    | none => .refused .rejectedAtLoad
    | some n =>
      if (c.el.ins.get n).claimed then c.hold s c.el (.start c.slot i .wait)
      else
        let a := c.src 0 f.sa
        let eng : SendEng := ⟨s.nextId, c.slot, opc, f.cnt, n, a, [], c.el.seq⟩
        let el := c.el.setE { x with sends := x.sends ++ [eng] }
        c.issue s [f.sa] (el.modInput n fun k => { k with claimed := true }) f.pop 0 [c.linkOut s.nextId opc f.cnt a] []

/-- PUT, PUTS and LSEND (R290, R291). -/
def Ctx.sendOp (c : Ctx) (s : State) (f : XForm) (i : Instr) (opc : Nat) : Res :=
  if c.poisoned f.sa then c.trap s trapPOISON
  else if !remoteOk opc (c.src 0 f.sa) then c.trap s trapPARAM
  else c.startSend s f i opc

/-- PUT (R291, R292). -/
def execPut (f : XForm) (s : State) : Res := withCtx s fun c => c.sendOp s f (.put f) 0xF0
/-- PUTS (R291, R292). -/
def execPuts (f : XForm) (s : State) : Res := withCtx s fun c => c.sendOp s f (.puts f) 0xF1
/-- LSEND (R291, R293). -/
def execLsend (f : XForm) (s : State) : Res := withCtx s fun c => c.sendOp s f (.lsend f) 0xF5

/-- GET (R291, R292): one request packet; its data come back as one reply. -/
def execGet (f : XForm) (s : State) : Res :=
  withCtx s fun c =>
    let a := c.src 0 f.sa
    if c.poisoned f.sa then c.trap s trapPOISON
    else if !remoteOk 0xF2 a then c.trap s trapPARAM
    else
      let id := s.nextId
      if !c.loadTagOk (outOf? f.dst) (dataTok ((lane32 a 7).extractLsb' 0 3) false 0 0) then c.trap s trapFORMAT
      else c.issue s [f.sa] c.el f.pop 0 [{ c.linkOut id 0xF2 f.cnt a with dst := outOf? f.dst }]
        [{ c.access (id + 1) id 0xF2 .link ⟨0, 0, 0, 0, 0, 0⟩ 0 with a := a, cnt := f.cnt, cost := 0 }]

/-! ### Reductions -/

/-- The reduction group with a number. -/
def LinkSt.group? (l : LinkSt) (n : Nat) : Option GroupSt := sget none l.groups n

/-- Writes a group. -/
def State.setGroup (s : State) (n : Nat) (g : GroupSt) : State :=
  { s with link := { s.link with groups := sset none s.link.groups n (some g) } }

/-- The group an element may contribute to (R421): its record names the context and the element. -/
def State.redGroup? (s : State) (ctx e n : Nat) : Option GroupSt :=
  match s.link.group? n with
  | some g => if g.record.ctx = ctx && g.record.endpoint = e && g.record.localMember then some g else none
  | none => none

/-- Whether a void round of a group is owed to a REDR of a launch's element (R426). -/
def LinkSt.owesVoid (l : LinkSt) (n launch e : Nat) : Bool := l.unmet.contains (n, launch, e)

/-- A REDR has met a void round (R426). -/
def State.meetVoid (s : State) (n launch e : Nat) : State :=
  { s with link := { s.link with unmet := s.link.unmet.erase (n, launch, e) } }

/-- Whether RED qualifies (R294): no earlier result of the group waits for its REDR. -/
def GroupSt.redFree (g : GroupSt) : Bool := !g.rounds.any fun r => r.result.isSome

/-- RED (R294): the group's operation is checked at issue, each tag as its token is taken, the length at the
end of the stream. -/
def execRed (f : XForm) (s : State) : Res :=
  withCtx s fun c =>
    let n := (lane32 (c.src 0 f.sa) 0).toNat
    if c.poisoned f.sa then c.trap s trapPOISON
    else if 4095 < n then c.trap s trapPARAM
    else
      match s.redGroup? c.reg.ctx c.e n with
      | none => c.startSend s f (.red f) 0xF3
      | some g =>
        if g.record.op ≠ f.cnt.toNat / 64 then c.trap s trapPARAM
        else if !g.redFree then .next s
        else c.startSend s f (.red f) 0xF3

/-- Counts a failed link operation (R295). -/
def ESt.fail (x : ESt) : ESt := { x with failures := satInc x.failures }

/-- The result of a round as REDR pushes it (R294). -/
def redTokens (tag : BitVec 3) (l : List Payload) : List Token :=
  l.zipIdx.map fun (v, j) => dataTok tag (j + 1 == l.length) j v

/-- REDR (R294, R422, R426): waits for the round's result; without the group, or for a voided round, it fails with
code 4. (DEDUCED, log 46.) -/
def execRedr (f : XForm) (s : State) : Res :=
  withCtx s fun c =>
    c.withE fun x =>
      let n := (lane32 (c.src 0 f.sa) 0).toNat
      if c.poisoned f.sa then c.trap s trapPOISON
      else if 4095 < n then c.trap s trapPARAM
      else
        match s.redGroup? c.reg.ctx c.e n with
        | none => c.trap (c.put (s.meetVoid n c.reg.launch c.e) (c.el.setE x.fail)) trapLINK
        | some g =>
          if s.link.owesVoid n c.reg.launch c.e then
            c.trap (c.put (s.meetVoid n c.reg.launch c.e) (c.el.setE x.fail)) trapLINK
          else if g.record.op ≠ f.cnt.toNat / 64 then c.trap s trapPARAM
          else
            match g.rounds with
            | ⟨_, _, _, _, some res⟩ :: rest =>
              match c.g.tagOf? g.record.fmt with
              | none => c.trap s trapFORMAT
              | some tag =>
                if !c.loadTagOk (outOf? f.dst) (dataTok tag false 0 0) then c.trap s trapFORMAT
                else c.issue (s.setGroup n { g with rounds := rest }) [f.sa] c.el f.pop 0
                  [{ OutF.new s.nextId c.slot 0xF4 c.el.seq with
                      dst := outOf? f.dst, data := redTokens tag res, ready := true }] []
            | _ => .next s

/-! ### Receiving and status -/

/-- The tokens of a packet as LRECV pushes them (R293). -/
def rxTokens (l : List RxTok) : List Token :=
  l.zipIdx.map fun (t, j) => ⟨t.tag, .data, j + 1 == l.length, false, t.coord, t.payload⟩

/-- LRECV (R293): waits for a whole packet, and pushes its tokens as space appears (R67). -/
def execLrecv (f : XForm) (s : State) : Res :=
  withCtx s fun c =>
    c.withE fun x =>
      let n := (lane32 (c.src 0 f.sa) 0).toNat
      if c.poisoned f.sa then c.trap s trapPOISON
      else if 7 < n then c.trap s trapPARAM
      else
        let q := Fin.ofNat 8 n
        match outOf? f.dst, x.rx.get q with
        | some o, p :: rest =>
          let el := (c.el.setE { x with rx := x.rx.set q rest }).bumpSeq
          c.pushList s el (.start c.slot (.lrecv f) .push) ((rxTokens p).map fun t => (o, t)) f.pop (readMask [f.sa])
        | some _, [] => .next s
        | none, _ => .refused .rejectedAtLoad

/-- The link operations outstanding on an element (R258, R295). -/
def Elem.linkOuts (el : Elem) : Nat := (el.outs.filter fun o => 0xF0 ≤ o.opc && o.opc ≤ 0xF5).length

/-- LQ (R295). -/
def execLq (f : RForm) (s : State) : Res :=
  withCtx s fun c =>
    c.withE fun x =>
      let res :=
        if f.md = 0 then ofWords ((List.range 8).map fun q => BitVec.ofNat 32 (x.rx.get (Fin.ofNat 8 q)).length)
        else ofWords [BitVec.ofNat 32 c.el.linkOuts, x.failures]
      c.memFinish s ((c.el.writeDst f.dst res).withPw f.pw (defaultCond res)) (pushesOf f.dst (c.tok f.md [] none res))
        f.pop 0

end Sys2Proof.Machine
end

