-- ==== Sys2Proof/Machine/System.lean ====
section
/-! DEFINITION. Opcodes 0xF8 to 0xFF (R285, R296 to R299): launches, services, faults handed over, requests to
the scheduler, buckets, and the page-walk graph. -/

namespace Sys2Proof.Machine

/-- LNCH (R296): the scheduler judges the record when it reaches it. (DEDUCED, log 48.) Its token's payload is zero (R25). -/
def execLnch (f : RForm) (s : State) : Res :=
  withCtx s fun c =>
    if [f.sa, f.sb].any c.poisoned then c.trap s trapPOISON
    else
      c.issue s [f.sa, f.sb] c.el f.pop f.pw
        [{ OutF.new s.nextId c.slot 0xF8 c.el.seq with
            dst := outOf? f.dst, arg := c.src f.md f.sa, arg2 := c.src f.md f.sb
            hd := some (c.ctlTok [f.sa, f.sb] none 0) }] []

/-- SYSC (R296): the service number waits in `level` and A in `arg`. The reply has TAG 1, so an edge that does not take it stops
the firing at issue (R71; DEDUCED, log 112). -/
def execSysc (f : IForm) (s : State) : Res :=
  withCtx s fun c =>
    let t : Token := ⟨1, .data, (c.sideOf [f.sa]).1, false, (c.sideOf [f.sa]).2, 0⟩
    if c.poisoned f.sa then c.trap s trapPOISON
    else if !c.loadTagOk (outOf? f.dst) t then c.trap s trapFORMAT
    else
      c.issue s [f.sa] c.el f.pop f.pw
        [{ OutF.new s.nextId c.slot 0xF9 c.el.seq with
            dst := outOf? f.dst, arg := c.src 0 f.sa, level := f.imm.toNat, hd := some t }] []

/-- FLTH (R297): codes 2 to 4 are answered at once, code 1 by FLTH_REPLY; the payload of the
pushed token is zero (R25). -/
def execFlth (f : RForm) (s : State) : Res :=
  withCtx s fun c =>
    match c.srcTok? f.sa with
    | none => if isHead f.sa then .next s else .refused .rejectedAtLoad
    | some t =>
      if t.poison then c.trap s trapPOISON
      else if t.kind ≠ .control then c.trap s trapFORMAT
      else if t.coord = 0 || 4 < t.coord.toNat then c.trap s trapPARAM
      else if t.coord = 1 then
        c.issue s [f.sa] c.el f.pop f.pw
          [{ OutF.new s.nextId c.slot 0xFA c.el.seq with
              dst := outOf? f.dst, arg := t.payload, hd := some (c.ctlTok [f.sa] none 0) }] []
      else c.issueReady s 0xFA [f.sa] f.dst f.pop f.pw (c.ctlTok [f.sa] none 0)

/-- A request to pre-empt a region by markers (R298); one already pending or running absorbs it. -/
def Region.request (x : Region) (ckpt : Bool) : Region :=
  match x.preempt with
  | .none => { x with preempt := .requested, ckpt := ckpt }
  | .requested => { x with ckpt := x.ckpt || ckpt }
  | .running => x

/-- PREQ and CKPT (R298): the predicates, the pops, then the request. -/
def Ctx.preReq (c : Ctx) (s : State) (f : PForm) (ckpt : Bool) : Res :=
  match c.memFinish s (c.el.withSetClr f.set f.clr) [] f.pop 0 with
  | .next t => .next (t.modRegion c.r fun x => x.request ckpt)
  | r => r

/-- PREQ (R298). -/
def execPreq (f : PForm) (s : State) : Res := withCtx s fun c => c.preReq s f false
/-- CKPT (R298). (DEDUCED, log 54.) -/
def execCkpt (f : PForm) (s : State) : Res := withCtx s fun c => c.preReq s f true

/-- The key of a context's bucket at the cache port of a die (R317). -/
def bucketKey (die ctx : Nat) : Nat := die * 1024 + ctx

/-- The bucket of a context at a die's port (R317); one that the device operating system has not set is empty.
(DEDUCED, log 38.) -/
def MemSt.bucket (m : MemSt) (die ctx : Nat) : Bucket := (sget none m.buckets (bucketKey die ctx)).getD ⟨0, 0, 0, 0, false⟩

/-- What TBKT reads (R299). -/
def bucketWords (b : Bucket) : Payload :=
  ofWords [BitVec.ofNat 32 b.rate, BitVec.ofNat 32 b.burst, BitVec.ofNat 32 b.level, BitVec.ofNat 32 b.borrowed,
    if b.borrower then 1 else 0]

/-- TBKT (R299). -/
def execTbkt (f : RForm) (s : State) : Res :=
  withCtx s fun c =>
    let res := bucketWords (s.mem.bucket c.die c.reg.ctx)
    c.memFinish s ((c.el.writeDst f.dst res).withPw f.pw (defaultCond res)) (pushesOf f.dst (c.tok f.md [] none res)) f.pop 0

/-- WALK (R285): one read of the page table. -/
def execWalk (f : RForm) (s : State) : Res :=
  withCtx s fun c =>
    let a := c.src f.md f.sa
    if c.poisoned f.sa then c.trap s trapPOISON
    else if 3 < (lane32 a 3).toNat then c.trap s trapPARAM
    else
      let id := s.nextId
      c.issue s [f.sa] c.el f.pop f.pw
        [{ OutF.new id c.slot 0xFE c.el.seq with
            dst := outOf? f.dst, arg := a, hd := some (c.tok f.md [f.sa] none a) }]
        [c.access (id + 1) id 0xFE .walk ⟨pteAt (pair64 a 4) (pair64 a 0) (lane32 a 3).toNat, 0, 0, 8, 0, 2⟩ 0]

/-- What WALK pushes for the entry it read (R285, R320): the request for the next table, the leaf, or a fault
token of code 1, which keeps the request tag in lane 2. -/
def walkReply (a : Payload) (t : Token) (x : BitVec 64) : Token × Bool :=
  let level := (lane32 a 3).toNat
  let fault : Token := controlTok 1 (ofWords [lane32 a 0, lane32 a 1, lane32 a 2])
  if !x.getLsbD 0 then (fault, false)
  else if !pteOk level x then (fault, true)
  else if x.getLsbD 1 then
    ({ t with
        payload := ofWords [lane32 a 0, lane32 a 1, lane32 a 2, BitVec.ofNat 32 (level - 1), lo32 (pteAddr x),
          hi32 (pteAddr x), lane32 a 6, lane32 a 7] }, false)
  else
    ({ t with
        payload := ofWords [lane32 a 0, lane32 a 1, lane32 a 2, 0xFF, lane32 a 4, lane32 a 5, x.extractLsb' 0 32,
          x.extractLsb' 32 32] }, false)

/-- The token of a missing XLAT for a result. -/
def OutF.xlatRes (o : OutF) (res : Except Nat Payload) : Token :=
  let (last, coord) := match o.hd with
    | some t => (t.last, t.coord)
    | none => (false, 0)
  xlatTok res o.va.toNat ((lane32 o.arg 2).getLsbD 0) last coord

/-- Whether a firing waits for the answer to a request tag; the tag is lane 2 of the request (R285). -/
def OutF.awaits (o : OutF) (tag : Nat) : Bool := o.miss && (o.asked.map (· % 2 ^ 32)) == some tag

/-- A missing translation with its result (R283): an XLAT gets its token; an address stream goes on by its node's entry. -/
def OutF.answered (o : OutF) (res : OutF → Except Nat Payload) : Option OutF :=
  if o.opc = 0xE5 then none else some { o with data := [o.xlatRes (res o)], ready := true, miss := false, asked := none }

/-- A walk's answer reaches the translation node of the element that its tag names (R283, R285): the firing gets its result, the
node installs the leaf, and an address stream whose page is not mapped meets a fault (R281). -/
def Elem.release (el : Elem) (tag : Nat) (res : OutF → Except Nat Payload) (t : Option TlbEnt) : Elem :=
  match el.outs.find? fun (o : OutF) => o.awaits tag, el.ks with
  | some o, .e x =>
    let streams := if o.opc = 0xE5 && t.isNone then
        x.streams.map fun y => if 10 + y.num = o.cls && !y.ended then { y with fault := some 1 } else y
      else x.streams
    let x := { x with streams := streams }
    { el with
      outs := el.outs.filterMap fun (y : OutF) => if y.awaits tag then y.answered res else some y
      ks := .e (match t with
        | some t => x.tlbInstall t
        | none => x) }
  | _, _ => el

/-- A walk's answer reaches the firing that its tag names, in whatever region that waits. -/
def State.releaseXlat (s : State) (tag : Nat) (res : OutF → Except Nat Payload) (t : Nat → Option TlbEnt) : State :=
  { s with
    regions := s.regions.map fun reg =>
      { reg with g := reg.g.map fun g => { g with elems := g.elems.map fun el => el.release tag res (t reg.ctx) } } }

/-- The address of the entry that a walk ended with, from the request that WALK forwards (R285, R319). -/
def walkedAt (a : Payload) : Nat :=
  pteAt (pair64 a 4) (pair64 a 0) (if pte (BitVec.ofNat 64 (pair64 a 6)) 7 2 = 2 then 1 else 0)

/-- WALKL (R285): the leaf or fault goes to the node that the request tag names; the leaf's page is accessed (R319). An answer
that no firing awaits any more is dropped. (DEDUCED, log 127.) -/
def execWalkl (f : RForm) (s : State) : Res :=
  withCtx s fun c =>
    let a := c.src f.md f.sa
    let isFault := match c.srcTok? f.sa with
      | some t => t.kind == .control
      | none => false
    let id := (lane32 a 2).toNat
    let leaf : BitVec 64 := BitVec.ofNat 64 (pair64 a 6)
    if c.poisoned f.sa then c.trap s trapPOISON
    else if !isFault && lane32 a 3 != 0xFF then c.trap s trapPARAM
    else
      match c.memFinish s (c.el.withPw f.pw false) [] f.pop (readMask [f.sa]) with
      | .next t =>
        if isFault then .next (t.releaseXlat id (fun _ => .error 1) fun _ => none)
        else
          let t := t.releaseXlat id (fun o => leafResult leaf o.va.toNat ((lane32 o.arg 2).getLsbD 0))
            fun ctx => some (.ofLeaf ctx (walkedAt a) (pair64 a 0) leaf)
          .next (t.setAccessed (walkedAt a) (pair64 a 0) leaf)
      | r => r

end Sys2Proof.Machine
end

