-- ==== Sys2Proof/Machine/Perform.lean ====
section
/-! DEFINITION. The ordering machine's access steps (R326 to R337): SEND, PERFORM, EGRESS, DELIVER, FILL, APPLY
and UPDATE_REPLAY, with the atomic unit (R271, R272, R313 to R316, R441). A step that is not enabled leaves
the state as it is. -/

namespace Sys2Proof.Machine

/-! ### Order within an element's queues -/

/-- Whether an access names bytes of memory. -/
def Access.hasPa (a : Access) : Bool :=
  match a.kind with
  | .close _ _ => false
  | .link => false
  | _ => true

/-- The aligned words that a fill reads, or that any other access touches (R306, R334). -/
def Access.words (a : Access) : List Nat :=
  match a.kind with
  | .fill _ _ mask => ((List.range 16).filter mask.getLsbD).map (· + a.pa / 4)
  | _ => wordsOf a.pa a.size

/-- Whether an access is a fill. -/
def Access.isFill (a : Access) : Bool :=
  match a.kind with
  | .fill _ _ _ => true
  | _ => false

/-- Two accesses that overlap in a byte (R260); a fill reads its own words only (R334). -/
def Access.overlaps (a b : Access) : Bool :=
  a.hasPa && b.hasPa && decide (a.pa < b.pa + b.size) && decide (b.pa < a.pa + a.size)
    && ((!a.isFill && !b.isFill) || a.words.any b.words.contains)

/-- Whether an access is an update of a deterministic group. -/
def Access.isUpdate (a : Access) : Bool :=
  match a.kind with
  | .update _ _ _ _ _ => true
  | _ => false

/-- The flow of a link operation (R290, R419): what names its destination, and the virtual lane. A
contribution travels as a packet of its group. -/
def Access.flow (a : Access) : Nat × Nat × Nat × Nat :=
  if a.opc = 0xF3 then (2, (lane32 a.a 0).toNat, 0, a.cnt.toNat % 8)
  else if a.opc = 0xF5 then (1, (lane32 a.a 2).toNat, (lane32 a.a 3).toNat, a.cnt.toNat % 8)
  else (0, (lane32 a.a 2).toNat, 0, a.cnt.toNat % 8)

/-- Whether access `b` has to stay behind access `a` of its element: overlapping bytes (R260), device accesses
(R266, R321), updates of one line and their close (R275, R315), packets of one flow (R336). -/
def Access.before (a b : Access) : Bool :=
  a.overlaps b || (a.hasPa && b.hasPa && a.mt == 2 && b.mt == 2)
    || (a.isUpdate && b.isUpdate && a.pa / 64 == b.pa / 64)
    || (a.isUpdate && (match b.kind with
        | .close _ _ => true
        | _ => false))
    || (a.kind == .link && b.kind == .link && a.flow == b.flow)

/-- The accesses of a queue before the one with an identifier. -/
def queueBefore (l : List Access) (k : Nat) : List Access := l.takeWhile fun a => a.id != k

/-- A queue without the access with an identifier. -/
def queueDel (l : List Access) (k : Nat) : List Access := l.filter fun a => a.id != k

/-- Whether an element of a region takes part in steps: the region is armed and its clock runs (R81, R401). -/
def Region.runs (x : Region) : Bool := x.state == .armed && !x.freezing

/-! ### SEND -/

/-- Whether an access moves its tokens away from the fabric (R317): it writes. A read moves them toward it. (DEDUCED,
log 38.) -/
def Access.outward (a : Access) : Bool :=
  match a.kind with
  | .load => false
  | .fill _ _ _ => false
  | .walk => false
  | _ => true

/-- What a die's cache port has carried, with the counts of this cycle (R317). -/
def State.portUse (s : State) (die : Nat) : PortUse :=
  let u := sget PortUse.zero s.mem.ports die
  if u.cycle = s.cycle then u else { u with inCyc := 0, outCyc := 0, cycle := s.cycle }

/-- The tokens of a direction in this cycle and in this interval. -/
def PortUse.cyc (u : PortUse) (out : Bool) : Nat := if out then u.outCyc else u.inCyc
def PortUse.interval (u : PortUse) (out : Bool) : Nat := if out then u.outIn else u.inIn

/-- A port after it has carried `n` tokens in a direction. -/
def PortUse.carry (u : PortUse) (out : Bool) (n : Nat) : PortUse :=
  if out then { u with outCyc := u.outCyc + n, outIn := u.outIn + n } else { u with inCyc := u.inCyc + n, inIn := u.inIn + n }

/-- The age of a launch as a number that is smaller for an older one: of two of one time, the first submitted is the
older (R376). -/
def Launch.ageKey (l : Launch) : Nat := l.age * 2 ^ 64 + l.id

/-- Priority and age of a region's launch (R318). -/
def State.rankOf (s : State) (x : Region) : Nat × Nat :=
  match s.sched.launch? x.launch with
  | some l => (l.prio, l.ageKey)
  | none => (0, 0)

/-- Whether an access is a write-back that still waits for the STW whose word it writes (R260, R334). -/
def Access.isAwaiting (a : Access) : Bool :=
  match a.kind with
  | .wback _ .awaiting => true
  | _ => false

/-- The window whose write-back an access is, by launch, element and number: its own words are not recalled for it (R309). -/
def Access.window? (a : Access) : Option (Nat × Nat × Nat) :=
  match a.kind with
  | .wback w _ => some (a.launch, a.e, w)
  | _ => none

/-- Whether a store of a line's write-back pays the two tokens for another one of it (R317). -/
def Access.pays (b a : Access) : Bool :=
  match b.kind, a.kind with
  | .wback _ _, .wback _ _ => b.fid == a.fid && b.pa / 64 == a.pa / 64 && b.cost != 0 && a.cost == 0
  | _, _ => false

/-- Whether an access of an element may join its request queue, but for the tokens it costs (R260, R327). The stores of a line's
write-back go behind the one that pays for the line (R317). (DEDUCED, log 38.) -/
def Elem.maySend (el : Elem) (a : Access) : Bool :=
  !a.isAwaiting && (!(queueBefore el.issueQ a.id).any fun b => b.before a) && !el.issueQ.any fun b => b.pays a

/-- Whether a port's direction can carry `n` tokens of a borrowed grant (R317, R318): 896 in a cycle, and 57,344 in an
interval. -/
def PortUse.canLend (u : PortUse) (out : Bool) (n : Nat) : Bool :=
  decide (u.cyc out < 896) && decide (u.interval out + n ≤ 57344)

/-- Whether a region runs an access that waits at the die's port for lent capacity (R318): its bucket holds too little for it.
(DEDUCED, log 38.) -/
def State.awaitsLoan (s : State) (die : Nat) (y : Region) : Bool :=
  let b := s.mem.bucket die y.ctx
  match y.g with
  | some g =>
    y.runs && b.borrower && g.elems.any fun el =>
      el.issueQ.any fun a => decide (b.level < a.cost) && el.maySend a && (s.portUse die).canLend a.outward a.cost
  | none => false

/-- Whether a waiting borrower on the die goes before a region's launch (R318). -/
def State.outranked (s : State) (die r : Nat) (x : Region) : Bool :=
  let me := s.rankOf x
  s.regions.zipIdx.any fun (y, q) =>
    q != r && dieOf q == die && decide (q < 128) && s.awaitsLoan die y
      && (decide (me.1 < (s.rankOf y).1) || (me.1 == (s.rankOf y).1 && decide ((s.rankOf y).2 < me.2)))

/-- Charges an access of `n` tokens to the context's bucket at its port (R317, R318); none while it waits. A direction that
has carried 896 tokens in the cycle takes no further access; a grant stays within what the port's direction has not carried in the
interval. A bucket that holds fewer tokens than the access takes lets it wait as an empty one does. The walker region's accesses
belong to no context and no bucket (R16). (DEDUCED, log 38.) -/
def State.charge (s : State) (r : Nat) (x : Region) (n : Nat) (out : Bool) : Option State :=
  let die := dieOf r
  let u := s.portUse die
  let b := s.mem.bucket die x.ctx
  let carried : State := { s with mem := { s.mem with ports := sset PortUse.zero s.mem.ports die (u.carry out n) } }
  let put (b : Bucket) : State :=
    { carried with mem := { carried.mem with buckets := sset none carried.mem.buckets (bucketKey die x.ctx) (some b) } }
  if 896 ≤ u.cyc out then none
  else if n = 0 then some s
  else if 128 ≤ r then some carried
  else if n ≤ b.level then some (put { b with level := b.level - n })
  else if b.borrower && u.canLend out n && !s.outranked die r x then
    some (put { b with borrowed := b.borrowed + n })
  else none

/-- SEND (R327): access `k` of an element joins its request queue, under the region's generation (R324). A link operation does not
pass the cache port (R317). -/
def execSend (r e k : Nat) (s : State) : Res :=
  match s.at? r e 0 with
  | none => .next s
  | some c =>
    match c.el.issueQ.find? fun a => a.id == k with
    | none => .next s
    | some a =>
      if !c.reg.runs || !c.el.maySend a then .next s
      else
        match if a.kind = .link then some s else s.charge r c.reg a.cost a.outward with
        | none => .next s
        | some s =>
          let s := c.put s { c.el with issueQ := queueDel c.el.issueQ k }
          .next { s with mem := { s.mem with reqs := s.mem.reqs ++ [{ a with r := r, gen := c.reg.gen }] } }

/-! ### The atomic unit -/

/-- The new value of one word (R271). -/
def atomWord (opc : Nat) (rec : Word) (old x : Word) : Word :=
  match Fmt.ofRecord rec with
  | none => old
  | some f =>
    let signed := f.cls == .sint
    let val (w : Word) : Int := if signed then w.toInt else (w.toNat : Int)
    if opc = 0xD8 then
      if f.cls = .float then faddRne old x
      else if f.ovf = 0 then BitVec.ofInt 32 (clampInt (val old + val x) f.intMin f.intMax)
      else old + x
    else if opc = 0xD9 || opc = 0xDA then
      if f.cls = .float then rneMinmax (opc == 0xD9) old x
      else if (opc == 0xD9) == decide (val old < val x) then x else old
    else if opc = 0xDB then x
    else if opc = 0xDD then old ||| x
    else old &&& x
where
  /-- IEEE maximum or minimum of two FP32 codes (R39). -/
  rneMinmax (wantMax : Bool) (a b : Word) : Word :=
    BitVec.ofNat 32 (roundTo fp32 .rne (Val.minmax wantMax (val32 a) (val32 b)))

/-- The words an atomic writes, in order (R271, R272): ACAS writes only when every word compares equal. -/
def atomWords (opc : Nat) (rec : Word) (n : Nat) (old : List Word) (b : Payload) : List Word :=
  if opc = 0xDC then
    if (List.range n).all fun i => old.getD i 0 == lane32 b i then (List.range n).map fun i => lane32 b (4 + i) else old
  else old.zipIdx.map fun (w, i) => atomWord opc rec w (lane32 b i)

/-- One atomic at the home (R271, R313, R325, R441): windows are recalled, and then it reads and writes; marked words stay as they are except under
AXCHG, and the old value comes back. -/
def State.atomicAt (s : State) (a : Access) (opc : Nat) (rec : Word) : State × Payload × Bool :=
  let s := (s.overlapRecall a.mt a.pa a.size none (some a.launch)).noteRead a.pa
  let n := a.size / 4
  let bytes := readBytes s.mem.bytes a.pa a.size
  let old := (List.range n).map fun i => BitVec.ofNat 32 (readLe s.mem.bytes (a.pa + 4 * i) 4)
  let bad := readsPoison s.mem.poison a.pa a.size
  let marks := s.mem.poison
  let s := (atomWords opc rec n old a.data).zipIdx.foldl (fun s (w, i) =>
    let pa := a.pa + 4 * i
    if readsPoison marks pa 4 && opc != 0xDB then s else s.homeWrite pa (leBytes 4 w.toNat)) s
  (s, ofBytes bytes, bad)

/-! ### Performing at the home -/

/-- How an attempt to perform ends: not enabled yet, or not in all its parts; performed with its reply, or with none owed;
or refused to its memory port (R274). -/
inductive Perf where
  | waits
  | reply (v : ReplyVal)
  | silent
  | refused

/-- Whether a base write may perform now (R309, R312, R321, R350): no line-granular agent holds the line, and no scan
of a row it touches runs; a recall covers the whole line. -/
def State.writable (s : State) (mt pa n : Nat) (but : Option (Nat × Nat × Nat)) : Bool :=
  s.claimable mt pa n but && !s.scanBlocks pa n

/-- A store or atomic that cannot perform yet sends the invalidations it needs (R312). -/
def State.waitWrite (s : State) (pa : Nat) : State × Perf :=
  (if s.mem.lineFree (pa / 64) then s else s.invalidate (pa / 64), .waits)

/-- Writes how far an access has performed. -/
def State.setProg (s : State) (k : Nat) (p : DrvProg) : State :=
  { s with mem := { s.mem with reqs := s.mem.reqs.map fun a => if a.id = k then { a with prog := p } else a } }

/-- A load at the home (R265, R266, R321, R343, R441). Derived words come in one step per row. -/
def State.performLoad (s : State) (a : Access) (bad : List Nat) : State × Perf :=
  match s.mem.homeCheck a.ctx a.pa a.size false with
  | some k => (s, .reply (.trap k))
  | none =>
    if (s.mem.frame a.pa).derived then
      match s.drvStep a.ctx ((List.range a.size).map (a.va + ·)) a.prog (bad != []) with
      | none => (s, .waits)
      | some (s, p) =>
        if p.bytes.length < a.size then (s.setProg a.id p, .waits) else (s, .reply (.data (ofBytes p.bytes) p.poisoned))
    else if a.mt != 1 && s.flushBlocked (a.pa / 64) then (s, .waits)
    else
      let s := ((if a.mt = 1 then s else s.flushLine (a.pa / 64)).eccMark bad a.words).noteRead a.pa
      let (bs, poison) := s.homeRead a.pa a.size
      (s, .reply (.data (ofBytes bs) poison))

/-- A store at the home (R256, R309, R344). -/
def State.performStore (s : State) (a : Access) (but : Option (Nat × Nat × Nat)) : State × Perf :=
  match s.mem.homeCheck a.ctx a.pa a.size true with
  | some k => (s, .reply (.trap k))
  | none =>
    if s.writable a.mt a.pa a.size but then
      (s.homeStore a.mt a.pa (toBytes a.data a.size) but (some a.launch), .reply .done)
    else s.waitWrite a.pa

/-- An atomic at the home (R271, R313). -/
def State.performAtomic (s : State) (a : Access) (opc : Nat) (rec : Word) (bad : List Nat) : State × Perf :=
  match s.mem.homeCheck a.ctx a.pa a.size true with
  | some k => (s, .reply (.trap k))
  | none =>
    if s.writable a.mt a.pa a.size none then
      let (s, v, p) := (s.eccMark bad a.words).atomicAt a opc rec
      (s, .reply (.data v p))
    else s.waitWrite a.pa

/-- The window state of an access's element changed, wherever its image stands. -/
def State.modWindowSt (s : State) (a : Access) (f : SSt → SSt) : State :=
  match s.graphOf a.launch with
  | some (r, g) =>
    match g.elems[a.e]? with
    | some el =>
      match el.ks with
      | .s st => s.setGraphOf a.launch r (g.setElem a.e (el.setS (f st)))
      | _ => s
    | none => s
  | none => s

/-- The local word of window `w` that a write-back writes. -/
def SSt.backWord? (x : SSt) (w pa : Nat) : Option Nat := ((x.windows.get (Fin.ofNat 8 w)).offOf? pa).map (· / 4)

/-- The dirty bit of a written-back word clears, unless the word was stored again meanwhile (R270, R334). -/
def State.cleanWord (s : State) (a : Access) (w : Nat) : State :=
  (s.modWindowSt a fun st =>
    match st.backWord? w a.pa with
    | some k => { st with dirty := setDel k st.dirty }
    | none => st).cleanMask (a.pa / 64) a.launch a.e w (wordMask a.pa 4)

/-- The stores to a word before the write-back of firing `fid` are at their home (R328, R330, R334). -/
def SSt.arrived (x : SSt) (k fid : Nat) : SSt :=
  { x with stores := x.stores.filter fun y => !(y.word == k && decide (y.fid < fid)) }

/-- The stores to a word before the write-back of firing `fid` leave the package with access `id` (R328). -/
def SSt.departed (x : SSt) (k fid id : Nat) : SSt :=
  { x with
    stores := x.stores.map fun y =>
      if y.word = k && decide (y.fid < fid) && y.sent.isNone then { y with sent := some id } else y }

/-- The stores that an access carried outside the package are delivered (R328). -/
def SSt.delivered (x : SSt) (id : Nat) : SSt := { x with stores := x.stores.filter fun y => y.sent != some id }

/-- A write-back of window `w` performs: the stores it carries have propagated (R328, R330). -/
def State.wordHome (s : State) (a : Access) (w : Nat) : State :=
  s.modWindowSt a fun st =>
    match st.backWord? w a.pa with
    | some k => st.arrived k a.fid
    | none => st

/-- A write-back of window `w` leaves the package (R327, R328). -/
def State.wordSent (s : State) (a : Access) (w : Nat) : State :=
  s.modWindowSt a fun st =>
    match st.backWord? w a.pa with
    | some k => st.departed k a.fid a.id
    | none => st

/-- A write-back of a window word (R270, R334). One that a recall took over writes nothing more (R309), and one whose word
has been stored again leaves it dirty (R270). -/
def State.performWback (s : State) (a : Access) (w : Nat) (st : WbSt) : State × Perf :=
  if st = .merged then (s, .reply .done)
  else
    match s.performStore a a.window? with
    | (s, .reply .done) =>
      let s := s.wordHome a w
      (if st = .restored then s else s.cleanWord a w, .reply .done)
    | x => x

/-- The words of a window's first store that are still dirty there (R305, R309). -/
def State.stillDirty (s : State) (a : Access) (w : Nat) (mask : BitVec 16) : BitVec 16 :=
  (s.recallWords (a.pa / 64) ⟨a.launch, a.e, w, 0, 0⟩).foldl (fun m x =>
    if mask.getLsbD x.1 then m ||| BitVec.ofNat 16 (2 ^ x.1) else m) 0

/-- The first store of window words reaches the home (R305, R309). -/
def State.performClaim (s : State) (a : Access) (w : Nat) (mask : BitVec 16) : State × Perf :=
  let m := s.stillDirty a w mask
  if m = 0 then (s, .silent)
  else if s.claimable a.mt a.pa a.size (some (a.launch, a.e, w)) then
    (s.claim a.mt a.pa a.size a.launch a.e w m, .silent)
  else s.waitWrite a.pa

/-! ### Deterministic groups -/

/-- The lowest issuer that has not closed (R314); `m` when all have. -/
def DetGroup.lowest (g : DetGroup) : Nat :=
  ((List.range g.m).find? fun i => !g.closed.contains i).getD g.m

/-- The order in which held updates are applied (R314). -/
def updateKey (a : Access) : Nat :=
  match a.kind with
  | .update _ _ _ i q => i * 2 ^ 64 + q
  | _ => 0

/-- The issuer of an update. -/
def issuerOf (a : Access) : Nat :=
  match a.kind with
  | .update _ _ _ i _ => i
  | _ => 0

/-- The group an update belongs to. -/
def groupOf (a : Access) : Nat × Nat :=
  match a.kind with
  | .update _ _ g _ _ => (a.ctx, g)
  | _ => (a.ctx, 256)

/-- The group state of a line. -/
def MemSt.heldAt? (m : MemSt) (line : Nat) : Option HeldLine := m.held.find? fun h => h.line == line

/-- Writes the group state of a line. -/
def MemSt.setHeld (m : MemSt) (h : HeldLine) : MemSt :=
  { m with
    held := if m.held.any fun x => x.line == h.line then m.held.map fun x => if x.line = h.line then h else x
      else m.held ++ [h] }

/-- Whether the atomic unit of a line has one of its 32 lines free (R314). -/
def MemSt.unitFree (m : MemSt) (line : Nat) : Bool :=
  let inUnit := m.held.filter fun h => h.inUnit
  decide (inUnit.length < 32) || decide ((inUnit.filter fun h => m.homeOf h.line == m.homeOf line).length < 32)

/-- A line with a group among those that update it. -/
def HeldLine.join (h : HeldLine) (g : Nat × Nat) : HeldLine :=
  if h.groups.contains g then h else { h with groups := h.groups ++ [g] }

/-- A line at which a group is in the issuer-serial regime (R314). -/
def HeldLine.serialise (h : HeldLine) (g : Nat × Nat) : HeldLine :=
  let h := h.join g
  if h.serial.contains g then h else { h with serial := h.serial ++ [g] }

/-- A line without a completed group; one of no group any more is forgotten. -/
def HeldLine.leave (h : HeldLine) (g : Nat × Nat) : Option HeldLine :=
  let h := { h with groups := h.groups.filter (· != g), serial := h.serial.filter (· != g) }
  if h.groups = [] && h.held = [] then none else some h

/-- Applies one update at the home (R315, R325). -/
def State.applyUpdate (s : State) (a : Access) : State :=
  match a.kind with
  | .update opc rec _ _ _ => (s.atomicAt a opc rec).1
  | _ => s

/-- A group that all issuers have closed and that holds no update completes (R275): its counter advances and its
number is free. -/
def State.groupDone (s : State) (ctx g : Nat) : State :=
  match s.mem.group? ctx g with
  | none => s
  | some x =>
    if x.closed.length = x.m && !(s.mem.held.any fun h => h.held.any fun a => groupOf a == (ctx, g)) then
      { s with
        mem := { s.mem with
          groups := s.mem.groups.filter fun y => !(y.ctx == ctx && y.num == g)
          held := s.mem.held.filterMap fun (h : HeldLine) => h.leave (ctx, g) } }.advance x.counter
    else s

/-- An update that reaches a line in the issuer-serial regime (R314): only the lowest open issuer's is admitted,
once the held updates of the group before it are applied; `bad` names the words that fail their check code. -/
def State.serialUpdate (s : State) (a : Access) (h : HeldLine) (low : Nat) (bad : List Nat) : State × Perf :=
  if issuerOf a ≠ low then (s, .refused)
  else if h.held.any fun x => groupOf x == groupOf a && decide (issuerOf x ≤ low) then (s, .waits)
  else if s.writable a.mt a.pa a.size none then ((s.eccMark bad a.words).applyUpdate a, .reply .done)
  else s.waitWrite a.pa

/-- An update of a deterministic group at its atomic unit (R274, R314): held while the line's buffer of 16 has room, else
in the issuer-serial regime. -/
def State.performUpdate (s : State) (a : Access) (g : Nat) (bad : List Nat) : State × Perf :=
  match s.mem.homeCheck a.ctx a.pa a.size true, s.mem.group? a.ctx g with
  | some k, _ => (s, .reply (.trap k))
  | none, none => (s, .waits)
  | none, some x =>
    let line := a.pa / 64
    let h := (s.mem.heldAt? line).getD ⟨line, false, [], [], []⟩
    let unit := h.inUnit || s.mem.unitFree line
    if unit && !h.serial.contains (a.ctx, g) && decide (h.held.length < 16) then
      ({ s with mem := s.mem.setHeld { h.join (a.ctx, g) with inUnit := true, held := h.held ++ [a] } }, .reply .done)
    else
      let h := h.serialise (a.ctx, g)
      { s with mem := s.mem.setHeld h }.serialUpdate a h x.lowest bad

/-- The close of an issuer (R275, R315). -/
def State.performClose (s : State) (a : Access) (g i : Nat) : State × Perf :=
  (({ s with
      mem := s.mem.modGroup a.ctx g fun x =>
        { x with closed := if x.closed.contains i then x.closed else x.closed ++ [i] } }).groupDone a.ctx g,
    .reply .done)

/-! ### PERFORM -/

/-- Whether an access has an earlier access of its element ahead of it, in the request queue or among the refused
updates (R260, R315, R327). -/
def State.performBlocked (s : State) (a : Access) : Bool :=
  let mine (b : Access) : Bool := b.isOf a.r a.e a.gen && b.before a
  (queueBefore s.mem.reqs a.id).any mine || s.mem.replays.any fun b => mine b && decide (b.id < a.id)

/-- What the host or a control core has read. -/
def State.hostRead (s : State) (agent : Nat) (bs : List Byte) (poison : Bool) : State :=
  { s with mem := { s.mem with hostReads := s.mem.hostReads ++ [(agent, bs, poison)] } }

/-- A read of `n` bytes of device memory by the host or a control core (R303, R414, R441): from the home copy, or, of a DERIVED
frame, the derived words (R335). -/
def State.portRead (s : State) (a : Access) (agent pa n : Nat) (bad : List Nat) : State × Perf :=
  if (s.mem.frame pa).derived then
    match s.derivedVa? pa with
    | none => (s.hostRead agent (List.replicate n 0) false, .silent)
    | some (ctx, va) =>
      match s.drvStep ctx ((List.range n).map (va + ·)) a.prog (bad != []) with
      | none => (s, .waits)
      | some (s, p) =>
        if p.bytes.length < n then (s.setProg a.id p, .waits) else (s.hostRead agent p.bytes p.poisoned, .silent)
  else if s.mem.typeOf (pa / 64) = 0 && s.flushBlocked (pa / 64) then (s, .waits)
  else
    let s := if s.mem.typeOf (pa / 64) = 0 then s.flushLine (pa / 64) else s
    let s := (s.eccMark bad (wordsOf pa n)).noteRead pa
    let (bs, poison) := s.homeRead pa n
    (s.hostRead agent bs poison, .silent)

/-- A read of a line-granular agent (R303, R308, R312, R441): from the copy it holds, or once it shares the line. A line of a
DERIVED frame, or of a page that the directory does not track (R321), is read at the home. (DEDUCED, log 70.) -/
def State.lineRead (s : State) (a : Access) (agent off n : Nat) (bad : List Nat) : State × Perf :=
  let line := a.pa / 64
  if 64 < off + n then (s, .silent)
  else if (s.mem.frame a.pa).derived || s.mem.typeOf line != 0 then s.portRead a agent (a.pa + off) n bad
  else
    let from_ (t : State) (h : Holder) : State × Perf :=
      (t.hostRead agent (t.copyRead line off n h).1 (t.copyRead line off n h).2, .silent)
    match s.mem.held? agent line with
    | some h => from_ s h
    | none =>
      match s.shareFor agent line bad with
      | none => (s, .waits)
      | some t =>
        match t.mem.held? agent line with
        | some h => from_ t h
        | none => (t, .silent)

/-- An amendment of a byte at the home (R319, R353): window words it overlaps are recalled first, and it is written where it
changes. -/
def State.amendAt (s : State) (mt pa : Nat) (keep set : Byte) : State :=
  let s := s.overlapRecall mt pa 1 none none
  let b := readByte s.mem.bytes pa
  if amendByte keep set b = b then s else s.backWrite pa [amendByte keep set b]

/-- A request of the host, a control core or the machine itself at the home (R303, R312, R353, R414). A write to a DERIVED frame
is refused. -/
def State.performPort (s : State) (a : Access) (agent : Nat) (req : PortReq) : State × Perf :=
  match req with
  | .read n bad => s.portRead a agent a.pa n bad
  | .write bs =>
    if (s.mem.frame a.pa).derived then (s, .silent)
    else if s.writable (s.mem.typeOf (a.pa / 64)) a.pa bs.length none then
      (s.homeStore (s.mem.typeOf (a.pa / 64)) a.pa bs none none, .silent)
    else s.waitWrite a.pa
  | .amend keep set =>
    if (s.mem.frame a.pa).derived then (s, .silent)
    else if s.writable (s.mem.typeOf (a.pa / 64)) a.pa 1 none then
      (s.amendAt (s.mem.typeOf (a.pa / 64)) a.pa keep set, .silent)
    else s.waitWrite a.pa
  | .line (.read off n bad) => s.lineRead a agent off n bad
  | .line req =>
    match s.lineRequest agent (a.pa / 64) req with
    | (s, true) => (s, .silent)
    | (s, false) => (s, .waits)

/-- What a request of the host or a control core reads: the agent, the first byte and the number of bytes. -/
def Access.portReads? (a : Access) : Option (Nat × Nat × Nat) :=
  match a.kind with
  | .port agent (.read n _) => some (agent, a.pa, n)
  | .port agent (.line (.read off n _)) => some (agent, a.pa + off, n)
  | _ => none

/-- What a request of the host or a control core writes. -/
def Access.portWrites? (a : Access) : Option (Nat × List Byte) :=
  match a.kind with
  | .port _ (.write bs) => some (a.pa, bs)
  | .port _ (.line (.store off bs)) => some (a.pa + off, bs)
  | _ => none

/-- What an agent's own waiting write gives its later read of the same bytes (R312). -/
def State.forwarded? (s : State) (a : Access) : Option (Nat × List Byte) :=
  match a.portReads? with
  | none => none
  | some (agent, pa, n) =>
    let writes := (queueBefore s.mem.reqs a.id).filterMap fun b => if b.r = a.r then b.portWrites? else none
    match (writes.filter fun w => decide (w.1 < pa + n) && decide (pa < w.1 + w.2.length)).getLast? with
    | some (at_, bs) =>
      if at_ ≤ pa && pa + n ≤ at_ + bs.length then some (agent, (bs.drop (pa - at_)).take n) else none
    | none => none

/-- An access performs at a home in the package. -/
def State.performAt (s : State) (a : Access) (bad : List Nat) : State × Perf :=
  match a.kind with
  | .load => s.performLoad a bad
  | .store => s.performStore a none
  | .atomic opc rec => s.performAtomic a opc rec bad
  | .update _ _ g _ _ => s.performUpdate a g bad
  | .close g i => s.performClose a g i
  | .wback w st => s.performWback a w st
  | .claim w mask => s.performClaim a w mask
  | .walk =>
    if s.flushBlocked (a.pa / 64) then (s, .waits)
    else
      let s := ((s.flushLine (a.pa / 64)).eccMark bad a.words).noteRead a.pa
      (s, .reply (.data (BitVec.ofNat 256 (readLe s.mem.bytes a.pa 8)) (readsPoison s.mem.poison a.pa 8)))
  | .fill _ _ _ => (s, .waits)
  | .link => (s, .waits)
  | .port agent req => s.performPort a agent req

/-- An access leaves the request queue. -/
def State.unqueued (s : State) (a : Access) : State := { s with mem := { s.mem with reqs := queueDel s.mem.reqs a.id } }

/-- An access leaves the request queue with its reply. -/
def State.answered (s : State) (a : Access) (v : ReplyVal) : State := (s.unqueued a).replied a v

/-- Whether an access has its home outside the package (R415). (DESIGN CHOICE, log 36.) -/
def Access.outside (a : Access) : Bool := a.kind == .link || (a.hasPa && isHost a.pa)

/-- An access performs (R327): enabled when no earlier access of its issuer overlaps it and its home is in the package. -/
def State.performReq (s : State) (a : Access) (bad : List Nat) : State :=
  if a.outside then s
  else if s.performBlocked a then
    match s.forwarded? a with
    | some (agent, bs) => (s.unqueued a).hostRead agent bs false
    | none => s
  else
    match s.performAt a bad with
    | (t, .waits) => t
    | (t, .reply v) => t.answered a v
    | (t, .silent) => t.unqueued a
    | (t, .refused) => { t.unqueued a with mem := { (t.unqueued a).mem with replays := t.mem.replays ++ [a] } }

/-- A request queue with a replayed update back in its place: before the element's later accesses (R274, R315). -/
def replayInto (l : List Access) (a : Access) : List Access :=
  let later (b : Access) : Bool := b.isOf a.r a.e a.gen && decide (a.id < b.id)
  l.takeWhile (fun b => !later b) ++ a :: l.dropWhile fun b => !later b

/-- UPDATE_REPLAY (R274): the memory port sends a refused update again, in its issuer's sequence order (R315). -/
def execUpdateReplay (k : Nat) (s : State) : Res :=
  match s.mem.replays.find? fun a => a.id == k with
  | none => .next s
  | some a => .next { s with mem := { s.mem with replays := queueDel s.mem.replays k, reqs := replayInto s.mem.reqs a } }

/-- Whether an update of a group's issuer has arrived at a line. -/
def MemSt.arrived (m : MemSt) (line : Nat) (g : Nat × Nat) (i : Nat) : Bool :=
  m.reqs.any fun a => a.isUpdate && a.pa / 64 == line && groupOf a == g && issuerOf a == i

/-- The held update of a group that applies next at a line (R314): in the holding regime once every issuer has closed; in
the issuer-serial regime those below the lowest open issuer L, and L's own once an update of L arrives. -/
def MemSt.nextHeld? (m : MemSt) (h : HeldLine) (ctx g : Nat) : Option Access :=
  match sortBy updateKey (h.held.filter fun a => groupOf a == (ctx, g)), m.group? ctx g with
  | a :: _, some x =>
    let due :=
      if h.serial.contains (ctx, g) then
        decide (issuerOf a < x.lowest) || (issuerOf a == x.lowest && m.arrived h.line (ctx, g) x.lowest)
      else x.closed.length == x.m
    if due then some a else none
  | _, _ => none

/-- A held update that fails check 4 or 5 of R256 when it would be applied is not applied (R353), and the element that issued
it traps if the update belongs to its region's generation. (DEDUCED, log 117.) -/
def State.applyFails (s : State) (a : Access) (code : Nat) : State :=
  match s.region? a.r with
  | some reg => if reg.gen = a.gen && reg.launch = a.launch then s.raiseTrap a.r a.e a.slot code 0 else s
  | none => s

/-- APPLY (R337): the next held update of a group at a line is applied at the home; `bad` names the words that fail their
check code. -/
def execApply (x : HeldAt) (s : State) : Res :=
  match s.mem.heldAt? x.line with
  | none => .next s
  | some h =>
    match s.mem.nextHeld? h x.ctx x.group with
    | none => .next s
    | some a =>
      let t : State := { s with mem := s.mem.setHeld { h with held := queueDel h.held a.id } }
      match s.mem.homeCheck a.ctx a.pa a.size true with
      | some code => .next ((t.groupDone x.ctx x.group).applyFails a code)
      | none =>
        if s.writable a.mt a.pa a.size none then
          .next (((t.eccMark x.bad a.words).applyUpdate a).groupDone x.ctx x.group)
        else .next (s.waitWrite a.pa).1

/-! ### FILL -/

/-- The words of a line that a fill has read come into a window (R305, R306): invalid words only. -/
def SSt.fillLine (x : SSt) (win : Window) (off : Nat) (mask : BitVec 16) (bs : List Byte) (marked : Nat → Bool) : SSt :=
  (win.lineWords off).foldl (fun x w =>
    let i := win.maskBit w
    if x.valid.contains w || !mask.getLsbD i then x
    else
      { x with
        sram := sset 0 x.sram w (BitVec.ofNat 32 (ofLe ((bs.drop (4 * i)).take 4)))
        valid := setIns w x.valid
        dirty := setDel w x.dirty
        poison := if marked i then setIns w x.poison else setDel w x.poison }) x

/-- Whether a window access before firing `id` still has to touch one of these words (R260). -/
def Elem.busyBefore (el : Elem) (id : Nat) (words : List Nat) : Bool :=
  { el with outs := el.outs.filter fun (o : OutF) => decide (o.id < id) }.wordsBusy words

/-- A write-back that waited for an STW takes its word once no earlier STW to it is left (R260, R334). -/
def Access.resolve (a : Access) (el : Elem) (x : SSt) (win : Window) (w id : Nat) (words : List Nat) : Access :=
  match a.kind with
  | .wback v .awaiting =>
    match win.offOf? a.pa with
    | some off =>
      if v = w && decide (id < a.fid) && words.contains (off / 4) && !el.busyBefore a.fid [off / 4] then
        { a with kind := .wback v .plain, data := ofWords [sget 0 x.sram (off / 4)] }
      else a
    | none => a
  | _ => a

/-- A window store that waited proceeds (R269, R270, R334): its words are stored, write-backs that were under
way for them leave them dirty, and write-backs of a WSYNC or WCLOSE that fired later take them. -/
def Ctx.lateStore (c : Ctx) (s : State) (o : OutF) (x : SSt) (win : Window) (w : Fin 8) (off n no : Nat) : State :=
  let x := x.storeWords o.id off (toBytes o.arg2 n)
  let words := wordsOf off n
  let fix := restored words c.e c.reg.launch win w.val o.id
  let outs := if o.cmp.isSome then c.el.outs.map fun (y : OutF) => if y.id = o.id then { y with ready := true } else y
    else c.el.outs.filter fun (y : OutF) => y.id != o.id
  let el := { c.el.setS x with outs := outs, dues := c.el.dues ++ o.dueNow no }
  let el := { el with issueQ := el.issueQ.map fun a => (fix a).resolve el x win w.val o.id words }
  let s := { s with mem := { s.mem with reqs := s.mem.reqs.map fix } }
  State.storeMasks { c.put s el with nextId := s.nextId + 1 } c s.nextId o.id win w off n

/-- Whether a fill of a firing is under way. -/
def State.filling (s : State) (el : Elem) (fid : Nat) : Bool :=
  (el.issueQ ++ s.mem.reqs ++ s.mem.egress).any fun a => a.isFill && a.fid == fid

/-- The window that a waiting access lies in: one that WCLOSE closes since keeps its words (R270). -/
def SSt.windowOf? (x : SSt) (off : Nat) : Option (Fin 8) :=
  ([0, 1, 2, 3, 4, 5, 6, 7] : List (Fin 8)).find? fun w =>
    let win := x.windows.get w
    win.mapped && decide (win.off ≤ off) && decide (off < win.off + win.len)

/-- A waiting window access proceeds once no earlier one to its words waits (R260) and it needs no fill (R269, R334); one
that needs a fill and has none under way sends it. -/
def Ctx.resume (c : Ctx) (s : State) (o : OutF) : State :=
  let off := (lane32 o.arg 0).toNat
  let n := (sizeOf? (lane32 o.arg 1).toNat).getD 4
  match c.el.ks with
  | .s x =>
    match x.windowOf? off with
    | none => s
    | some w =>
      let win := x.windows.get w
      if x.needsFill (o.opc == 0xD3) off n then
        if s.filling c.el o.id then s
        else
          let more := (c.fillAcc s.nextId o.id o.opc x win w off).map fun a => { a with slot := o.slot, seq := o.seq }
          { c.put s { c.el with issueQ := c.el.issueQ ++ more } with nextId := s.nextId + 1 }
      else if c.el.busyBefore o.id (wordsOf off n) then s
      else
        let (s, no) := s.performNo
        if o.opc = 0xD2 then
          let t := x.loadTok (o.hd.getD ⟨0, .data, false, false, 0, 0⟩) off n
          c.put s { c.el with
            outs := c.el.outs.map fun (y : OutF) => if y.id = o.id then { y with data := [t], ready := true } else y
            dues := c.el.dues ++ o.dueNow no }
        else c.lateStore s o x win w off n no
  | _ => s

/-- The waiting window accesses of an element, in firing order, proceed as far as they can (R260, R269, R334). -/
def State.resumeAll (s : State) (r e : Nat) : State :=
  match s.at? r e 0 with
  | none => s
  | some c =>
    c.el.outs.foldl (fun s (o : OutF) =>
      match s.at? r e o.slot with
      | some c =>
        (match c.el.outs.find? fun y => y.id == o.id with
         | some o => if (o.opc == 0xD2 || o.opc == 0xD3) && !o.ready then c.resume s o else s
         | none => s)
      | none => s) s

/-- What a fill does once it has read its words: the window, the home's masks (R305), and the accesses that waited. -/
def State.fillDone (s : State) (c : Ctx) (a : Access) (w off : Nat) (mask : BitVec 16) (bs : List Byte)
    (marked : Nat → Bool) : State :=
  match c.el.ks with
  | .s x =>
    let win := x.windows.get (Fin.ofNat 8 w)
    let s := s.unqueued a
    let s := if a.mt = 1 then s else s.register (a.pa / 64) c.reg.launch c.e w mask 0
    (c.put s (c.el.setS (x.fillLine win off mask bs marked))).resumeAll c.r c.e
  | _ => s

/-- How many words of a mask stand before a word. -/
def rankIn (mask : BitVec 16) (i : Nat) : Nat := ((List.range i).filter mask.getLsbD).length

/-- The bytes of a line of which some words have been read, in ascending order; the others are 0. -/
def spread (mask : BitVec 16) (bs : List Byte) : List Byte :=
  (List.range 16).flatMap fun i => if mask.getLsbD i then (bs.drop (4 * rankIn mask i)).take 4 else [0, 0, 0, 0]

/-- The words of a line that were read marked, of those that have been read (R354). -/
def spreadMarks (mask : BitVec 16) (marks : List Bool) (i : Nat) : Bool :=
  mask.getLsbD i && ((marks.drop (4 * rankIn mask i)).take 4).any id

/-- A fill reads its words of a line at the home in one event, or derived words in one step per row (R306, R334, R335,
R441); the words become valid with the last row (DESIGN CHOICE, log 133). Sharers of the line stay sharers (R308). -/
def State.fillAt (s : State) (c : Ctx) (a : Access) (w off : Nat) (mask : BitVec 16) (bad : List Nat) : State :=
  if (s.mem.frame a.pa).derived then
    let vas := a.words.flatMap fun k => (List.range 4).map fun j => a.va + (4 * k - a.pa) + j
    match s.drvStep a.ctx vas a.prog (bad != []) with
    | none => s
    | some (s, p) =>
      if p.bytes.length < vas.length then s.setProg a.id p
      else s.fillDone c a w off mask (spread mask p.bytes) (spreadMarks mask p.marks)
  else if a.mt != 1 && s.flushBlocked (a.pa / 64) then s
  else
    let s := ((if a.mt = 1 then s else s.shareLine (a.pa / 64)).eccMark bad a.words).noteRead a.pa
    s.fillDone c a w off mask (readBytes s.mem.bytes a.pa 64) fun i => s.mem.poison.contains (a.pa / 4 + i)

/-- FILL (R334): the invalid words of a line are read in one event. -/
def execFill (x : WordRead) (s : State) : Res :=
  match s.mem.reqs.find? fun a => a.id == x.id with
  | none => .next s
  | some a =>
    match a.kind with
    | .fill w off mask =>
      if a.outside || s.performBlocked a then .next s
      else
        match s.at? a.r a.e a.slot with
        | none => .next (s.answered a .done)
        | some c =>
          if c.reg.gen ≠ a.gen then .next (s.answered a .done)
          else
            match s.mem.homeCheck a.ctx a.pa a.size false with
            | some t => .next (s.answered a (.trap t))
            | none => .next (s.fillAt c a w off mask x.bad)
    | _ => .next s

/-! ### Homes outside the package -/

/-- The host port's checks 4 and 5 (R416); a page-walk read is not checked. -/
def State.hostCheck (s : State) (a : Access) : Option Nat :=
  let isStore := match a.kind with
    | .store => true
    | .atomic _ _ => true
    | .update _ _ _ _ _ => true
    | .wback _ _ => true
    | _ => false
  match a.kind with
  | .walk => none
  | _ => s.mem.homeCheck a.ctx a.pa a.size isStore

/-- The completion of an access becomes due at EGRESS (R327); what it loads comes at DELIVER. -/
def State.egressed (s : State) (a : Access) : State :=
  let due := match a.kind with
    | .fill _ _ _ => false
    | .walk => false
    | .link => false
    | _ => true
  let s := s.unqueued a
  let s := { s with mem := { s.mem with egress := s.mem.egress ++ [a] } }
  if due then s.replied a .done else s

/-- A contribution enters its group at this package's switch (R294, R423): a switch holds two rounds, and a member
further ahead waits. -/
def GroupSt.contribute (g : GroupSt) (a : Access) : Option GroupSt :=
  let toks := a.toks.map (·.payload)
  let fresh : Round := ⟨some toks, some a, [], false, none⟩
  if g.rounds.any fun r => r.own.isNone then
    let (pre, post) := (g.rounds.takeWhile fun r => r.own.isSome, g.rounds.dropWhile fun r => r.own.isSome)
    match post with
    | r :: rest => some { g with rounds := pre ++ { r with own := some toks, ownAcc := some a } :: rest }
    | [] => none
  else if (g.rounds.filter fun r => r.result.isNone).length < 2 then some { g with rounds := g.rounds ++ [fresh] }
  else none

/-- Whether a link operation goes to a package that its launch's link group cannot reach any more (R295, R417). -/
def State.unreachable (s : State) (launch : Nat) (a : Payload) : Bool :=
  match s.sched.launch? launch with
  | some x => s.link.unreachable.contains (x.record.linkGroup.toNat, (lane32 a 2).toNat)
  | none => false

/-- EGRESS of a contribution: the switch accepts it, or the operation fails (R294, R295). -/
def State.egressRed (s : State) (a : Access) : State :=
  let n := (lane32 a.a 0).toNat
  match s.redGroup? a.ctx a.e n with
  | none => s.answered a (.fail 4)
  | some g =>
    if a.toks.length ≠ g.record.length then s.answered a (.trap trapPARAM)
    else
      match g.contribute a with
      | none => s
      | some g => (s.setGroup n g).answered a .done

/-- EGRESS (R327): an access whose home lies outside the package joins its egress buffer; a link operation to a package
that is unreachable fails (R417). -/
def execEgress (k : Nat) (s : State) : Res :=
  match s.mem.reqs.find? fun a => a.id == k with
  | none => .next s
  | some a =>
    if !a.outside || s.performBlocked a then .next s
    else if a.kind = .link then
      if a.opc = 0xF3 then .next (s.egressRed a)
      else if s.unreachable a.launch a.a then .next (s.answered a (.fail 3))
      else .next (s.egressed a)
    else
      match s.hostCheck a with
      | some t => .next (s.answered a (.trap t))
      | none =>
        let s := s.egressed a
        match a.kind with
        | .wback w st =>
          let s := s.wordSent a w
          if st = .plain then .next (s.cleanWord a w) else .next s
        | _ => .next s

/-- Whether two accesses use one egress buffer (R325): the host port's, or one flow's of an endpoint. -/
def Access.sameBuffer (a b : Access) : Bool :=
  if a.kind == .link then b.kind == .link && b.isOf a.r a.e a.gen && a.flow == b.flow else b.kind != .link

/-- An access leaves its egress buffer with a reply. -/
def State.delivered (s : State) (a : Access) (v : Option ReplyVal) : State :=
  let s := { s with mem := { s.mem with egress := queueDel s.mem.egress a.id } }
  match v with
  | some v => s.replied a v
  | none => s

/-- DELIVER (R327, R336): the access at the front of its egress buffer performs at its outside home, which answers
`res`: for a fill its 16 words, each with its mark (R26), and for a link operation perhaps one of the failures of R295. Accesses to host memory do not fail there. -/
def execDeliver (k : Nat) (res : RemoteRes) (s : State) : Res :=
  match s.mem.egress.find? fun a => a.id == k with
  | none => .next s
  | some a =>
    if (queueBefore s.mem.egress k).any (fun b => a.sameBuffer b) then .next s
    else
      match a.kind, res with
      | .link, .fail code => if 1 ≤ code && code ≤ 4 then .next (s.delivered a (some (.fail code))) else .next s
      | .link, .done read =>
        if a.opc = 0xF2 then
          if read.length = (lane32 a.a 6).toNat then .next (s.delivered a (some (.toks read))) else .next s
        else .next (s.delivered a (some .done))
      | _, .fail _ => .next s
      | .fill w off mask, .done read =>
        match s.at? a.r a.e a.slot with
        | none => .next (s.delivered a (some .done))
        | some c =>
          if c.reg.gen ≠ a.gen then .next (s.delivered a (some .done))
          else
            if read.length ≠ 16 then .next s
            else
              .next ((s.delivered a none).fillDone c a w off mask (read.flatMap fun x => toBytes x.1 4)
                fun i => (read.getD i (0, false)).2)
      | .store, .done _ => .next (s.delivered a none)
      | .wback _ _, .done _ => .next ((s.delivered a none).modWindowSt a fun st => st.delivered a.id)
      | .update _ _ _ _ _, .done _ => .next (s.delivered a none)
      | _, .done read =>
        match read with
        | (v, p) :: _ => .next (s.delivered a (some (.data (ofBytes (toBytes v a.size)) p)))
        | [] => .next s

end Sys2Proof.Machine
end

