-- ==== Sys2Proof/Machine/Launch.lean ====
section
/-! DEFINITION. The scheduler's records and their lives up to admission (R369 to R377): submission, the launch
window, waits, the signal counter, and the time-triggered table. -/

namespace Sys2Proof.Machine

/-! ### The launch record -/

/-- A little-endian field of a record. -/
def fieldOf (bs : List Byte) (off n : Nat) : Nat := ofLe ((bs.drop off).take n)

/-- The fields of a launch record (R369). -/
def launchRec (bs : List Byte) : LaunchRec :=
  { imageVa := BitVec.ofNat 64 (fieldOf bs 0 8)
    ctl := BitVec.ofNat 8 (fieldOf bs 8 1)
    level7 := BitVec.ofNat 8 (fieldOf bs 9 1)
    signal := BitVec.ofNat 16 (fieldOf bs 10 2)
    hostGroup := BitVec.ofNat 16 (fieldOf bs 12 2)
    linkGroup := BitVec.ofNat 16 (fieldOf bs 14 2)
    seed := BitVec.ofNat 64 (fieldOf bs 16 8)
    tensor0 := BitVec.ofNat 32 (fieldOf bs 24 4)
    tensor1 := BitVec.ofNat 32 (fieldOf bs 28 4)
    waits := (List.range 4).map fun i => BitVec.ofNat 64 (fieldOf bs (32 + 8 * i) 8) }

/-- The fields of CTL (R369). -/
def recPrio (x : LaunchRec) : Nat := x.ctl.toNat % 4
def recDet (x : LaunchRec) : Bool := x.ctl.getLsbD 2
def recFlag (x : LaunchRec) : Bool := x.ctl.getLsbD 3
def recNwait (x : LaunchRec) : Nat := x.ctl.toNat / 16 % 8

/-- The counter and the value of a wait (R369). -/
def waitCounter (w : BitVec 64) : Nat := w.toNat / 2 ^ 52
def waitValue (w : BitVec 64) : Nat := w.toNat % 2 ^ 52

/-- Whether every field lies in its legal values (R369, code 1 of R372). -/
def recFields (x : LaunchRec) : Bool :=
  let group (g : BitVec 16) : Bool := decide (g.toNat ≤ 4095) || g == 0xFFFF
  x.imageVa.toNat % 8 == 0 && decide (x.imageVa.toNat < 2 ^ 56) && !x.ctl.getLsbD 7 && decide (recNwait x ≤ 4)
    && decide (x.level7.toNat ≤ 1) && group x.hostGroup && group x.linkGroup
    && (x.waits.drop (recNwait x)).all fun w => w == 0

/-- Whether the context holds what the record names (R369, code 2 of R372). -/
def recHeld (c : ContextCfg) (x : LaunchRec) : Bool :=
  decide (recPrio x ≤ c.maxPrio)
    && (x.signal == 0xFFFF || c.counters.contains x.signal.toNat)
    && (x.hostGroup == 0xFFFF || c.hostGroups.contains x.hostGroup.toNat)
    && (x.linkGroup == 0xFFFF || c.linkGroups.contains x.linkGroup.toNat)
    && (x.waits.take (recNwait x)).all fun w => c.counters.contains (waitCounter w)

/-- The records of a context that are not admitted yet (R372). -/
def SchedSt.waiting (d : SchedSt) (ctx : Nat) : Nat :=
  (d.launches.filter fun l => l.ctx == ctx && (l.state == .waiting || l.state == .ready)).length

/-- Whether the device takes launches: stage 3 runs (R427, R434). -/
def State.running (s : State) : Bool := s.plat.boot == .running

/-- The code of R372 that a record returns. (DEDUCED, log 49.) -/
def State.submitCode (s : State) (c : Context) (x : LaunchRec) : Nat :=
  if !recFields x then 1
  else if !recHeld c.cfg x then 2
  else if 256 ≤ s.sched.waiting c.cfg.ctx then 3
  else 0

/-- Whether every wait of a record is met (R375). -/
def State.waitsMet (s : State) (x : LaunchRec) : Bool :=
  (x.waits.take (recNwait x)).all fun w => decide (waitValue w ≤ (s.mem.counter (waitCounter w)).toNat)

/-- A new launch; one that entry `entry.1` of the time-triggered table submits counts its age from the start time
`entry.2` (R373). -/
def Launch.new (id ctx seq : Nat) (x : LaunchRec) (state : LaunchState) (clock : Nat) (entry : Option (Nat × Nat)) : Launch :=
  { id := id, ctx := ctx, seq := seq, record := x, state := state, age := (entry.map (·.2)).getD clock, readyAt := clock
    prio := recPrio x, waited := false, region := none, saved := none, savedPart := 0, entry := entry.map (·.1), races := 0
    endAt := clock, endState := 0, sigDue := false, flagged := [], preempts := 0, ckpts := 0, key := none }

/-- Submits a record (R371, R372): it takes the context's next sequence number; a refused one ends at once with end
state 5, its status is written and its signal counter advances when the context holds it (R375). -/
def State.submit (s : State) (ctx : Nat) (x : LaunchRec) (entry : Option (Nat × Nat)) : State × Nat :=
  match s.sched.context? ctx with
  | none => (s, 1)
  | some c =>
    let code := s.submitCode c x
    let id := s.sched.nextLaunch
    let clock := s.clock.toNat
    let d := s.sched.modContext ctx fun y => { y with nextSeq := (y.nextSeq + 1) % 2 ^ 32 }
    let d := { d with nextLaunch := id + 1 }
    if code = 0 then
      let st : LaunchState := if s.waitsMet x then .ready else .waiting
      ({ s with sched := { d with launches := d.launches ++ [.new id ctx c.nextSeq x st clock entry] } }, 0)
    else
      let l := { Launch.new id ctx c.nextSeq x .ended clock entry with endState := 5 }
      let s := { s with sched := { d with launches := d.launches ++ [l] } }
      let s := s.writeStatus l 0 (leBytes 1 code ++ List.replicate 7 0) []
      (if c.cfg.counters.contains x.signal.toNat then s.advance x.signal.toNat else s, code)

/-- LAUNCH_WINDOW_WRITE (R371): an aligned 64-byte write submits; any other write is dropped and counted. -/
def execLaunchWindowWrite (ctx off : Nat) (bytes : List Byte) (s : State) : Res :=
  match s.sched.context? ctx with
  | none => .next { s with sched := { s.sched with strayWrites := s.sched.strayWrites + 1 } }
  | some c =>
    if bytes.length = 64 && off % 64 = 0 && decide (off < 4096) then .next (s.submit ctx (launchRec bytes) none).1
    else
      let c' := { c with dropped := min (c.dropped + 1) 0xFFFFFFFF }
      let s := { s with sched := s.sched.modContext ctx fun _ => c' }
      .next (if c.cfg.ringSlots = 0 then s else s.ownWrite c.cfg.ringBase (ringHeader c'))

/-- LAUNCH_WAIT_MET (R375). -/
def execLaunchWaitMet (l : Nat) (s : State) : Res :=
  match s.sched.launch? l with
  | some x =>
    if x.state = .waiting && s.waitsMet x.record then
      .next { s with sched := s.sched.modLaunch l fun y => { y with state := .ready, readyAt := s.clock.toNat } }
    else .next s
  | none => .next s

/-- Whether an access of a launch has not propagated to package scope (R375). -/
def State.launchBusy (s : State) (l : Nat) : Bool :=
  (s.mem.reqs.any fun a => a.launch == l) || (s.mem.replays.any fun a => a.launch == l)
    || s.mem.held.any fun h => h.held.any fun a => a.launch == l

/-- SIGNAL_COUNTER_ADVANCE (R375): once every access of an ended launch has propagated. -/
def execSignalCounterAdvance (l : Nat) (s : State) : Res :=
  match s.sched.launch? l with
  | some x =>
    if x.state = .ended && x.sigDue && !s.launchBusy l then
      let s := { s with sched := s.sched.modLaunch l fun y => { y with sigDue := false } }
      .next (if x.record.signal = 0xFFFF then s else s.advance x.record.signal.toNat)
    else .next s
  | none => .next s

/-! ### Time-triggered starts -/

/-- The latest launch that an entry submitted, whatever the entry held then. (DEDUCED, log 51.) (DESIGN CHOICE, log 129.) -/
def SchedSt.lastOf (d : SchedSt) (i : Nat) : Option Launch :=
  (d.launches.filter fun l => l.entry == some i && l.endState != 5).getLast?

/-- Whether a launch overruns a start time (R374). -/
def Launch.overruns (l : Launch) (start : Nat) : Bool := !(l.state == .ended && decide (l.endAt < start))

/-- TIME_TRIGGER_START (R373, R374). A queued record is admitted as any READY one, also while the launch before it runs. A start of
an entry whose context is gone submits nothing and so is a skip. (DESIGN CHOICE, log 129.) -/
def execTimeTriggerStart (idx : Nat) (s : State) : Res :=
  match sget none s.sched.table idx with
  | none => .next s
  | some t =>
    let start := t.ent.offset + t.k * t.ent.period
    if t.ent.period = 0 || decide (s.clock.toNat < start) then .next s
    else
      let put (skips : Nat) : State :=
        { s with sched := { s.sched with
            table := sset none s.sched.table idx (some { t with k := t.k + 1, skips := t.skips + skips }) } }
      let started := put (if (s.sched.context? t.ent.ctx).isSome then 0 else 1)
      let submit (s : State) : State := (s.submit t.ent.ctx t.ent.record (some (idx, start))).1
      let prev := match s.sched.lastOf idx with
        | some l => if l.overruns start then some l else none
        | none => none
      match prev with
      | none => .next (submit started)
      | some l =>
        if t.ent.rule = 0 then .next (put 1)
        else if t.ent.rule = 1 then .next (submit (started.endLaunch l.id 4 0 (List.replicate 8 0) []))
        else if l.state = .waiting || l.state = .ready then .next (put 1)
        else .next (submit started)

/-! ### Reading virtual memory -/

/-- The VAs at which `n` bytes from a VA begin in the pages of 64 KiB that they touch. -/
def vaStarts (va n : Nat) : List Nat :=
  (List.range ((va % 2 ^ 16 + n + 2 ^ 16 - 1) / 2 ^ 16)).map fun i => max va ((va / 2 ^ 16 + i) * 2 ^ 16)

/-- Bytes of a context's virtual memory, page by page through its page table; none when a page is missing. -/
def State.readVa (s : State) (ctx va n : Nat) : Option (List Byte) :=
  (vaStarts va n).foldl (fun acc lo =>
    match acc with
    | none => none
    | some bs =>
      let hi := min (va + n) ((lo / 2 ^ 16 + 1) * 2 ^ 16)
      match s.walk ctx lo with
      | .leaf _ x => some (bs ++ readBytes s.mem.bytes (pteAddr x + lo % leafBytes x) (hi - lo))
      | .fault _ => none) (some [])

/-- The translations of a read of a context's virtual memory: accessed bits, and the count of a malformed entry (R319,
R320). (DEDUCED, log 62.) -/
def State.touchRead (s : State) (die ctx va n : Nat) : State := s.touchVas die ctx (vaStarts va n)

end Sys2Proof.Machine
end

