-- ==== Sys2Proof/Machine/Image.lean ====
section
/-! DEFINITION. The graph image container (R111 to R117, R304): its fields, where the first one lies that is outside
its legal values, and the graph it describes. -/

namespace Sys2Proof.Machine

/-! ### Sections -/

/-- An entry of the section directory (R112), with the offset at which the entry itself stands. -/
structure Section where
  at_ : Nat
  type : Nat
  count : Nat
  off : Nat
deriving DecidableEq, Repr, Inhabited

/-- A declared address range (R116). -/
structure RangeRec where
  elem : Nat
  access : Nat
  base : Nat
  len : Nat
deriving DecidableEq, Repr, Inhabited

/-- What an image describes (R77). -/
structure ImageRec where
  fmts : Vector Word 8
  parts : Nat
  elems : List ElemRec
  edges : List Edge
  order : List (Nat × Nat)
  ranges : List RangeRec
  exact : List (Nat × Nat)

/-- The size of the records of a section (R112); 0 for edges, whose records vary, and for names. -/
def recordSize (type : Nat) : Nat :=
  if type = 1 then 800 else if type = 3 then 40 else if type = 4 then 8 else if type = 5 then 24
  else if type = 6 then 8 else 0

/-- The section directory (R112). -/
def imageDir (bs : List Byte) : List Section :=
  (List.range (fieldOf bs 12 2)).map fun i =>
    let o := 64 + 16 * i
    ⟨o, fieldOf bs o 2, fieldOf bs (o + 4) 4, fieldOf bs (o + 8) 8⟩

/-- The section of a type. -/
def sectionOf? (dir : List Section) (type : Nat) : Option Section := dir.find? fun x => x.type == type

/-- The offsets of the records of a section of fixed size. -/
def recordsAt (dir : List Section) (type : Nat) : List Nat :=
  match sectionOf? dir type with
  | some x => (List.range x.count).map fun i => x.off + recordSize type * i
  | none => []

/-- The offsets of edge records, each 16 bytes and 8 for each consumer (R114), and the end of the last. -/
def edgesFrom (bs : List Byte) : (count at_ : Nat) → List Nat × Nat
  | 0, at_ => ([], at_)
  | n + 1, at_ =>
    let (l, e) := edgesFrom bs n (at_ + 16 + 8 * fieldOf bs (at_ + 9) 1)
    (at_ :: l, e)

/-- The offsets of the edge records and their end. -/
def edgesAt (bs : List Byte) (dir : List Section) : List Nat × Nat :=
  match sectionOf? dir 2 with
  | some x => edgesFrom bs x.count x.off
  | none => ([], 0)

/-- The end of a section; names have no record size. -/
def Section.fin (bs : List Byte) (x : Section) : Nat :=
  if x.type = 2 then (edgesFrom bs x.count x.off).2 else x.off + recordSize x.type * x.count

/-! ### Legal values -/

/-- The first offset whose check fails. -/
def firstBad (l : List (Nat × Bool)) : Option Nat := (l.find? fun x => !x.2).map (·.1)

/-- Whether `n` bytes at an offset are zero. -/
def zeroAt (bs : List Byte) (off n : Nat) : Nat × Bool := (off, fieldOf bs off n == 0)

/-- The checks of the header (R111). Format records are judged at step 1 of R79. -/
def headerChecks (bs : List Byte) : List (Nat × Bool) :=
  let f (o n : Nat) : Nat := fieldOf bs o n
  let hint (o : Nat) : Bool := decide (f o 1 ≤ 8)
  [(0, f 0 4 == 0x4947384B), (4, f 4 2 == 1), (6, f 6 2 == 0), (8, decide (64 ≤ f 8 4)),
    (12, decide (1 ≤ f 12 2) && decide (f 12 2 ≤ 7)), zeroAt bs 14 2,
    (40, decide (1 ≤ f 40 4) && decide (f 40 4 ≤ 9216)), (44, decide (f 44 4 ≤ 65536)),
    (48, decide (1 ≤ f 48 2) && decide (f 48 2 ≤ 256)), zeroAt bs 50 2, (52, hint 52), (53, hint 53),
    (54, hint 54 && (f 54 1 == 0 || decide (f 52 1 ≤ f 54 1))), (55, hint 55 && (f 55 1 == 0 || decide (f 53 1 ≤ f 55 1))),
    zeroAt bs 56 8]

/-- The checks of one directory entry after the type before it (R112, R117). -/
def sectionChecks (bs : List Byte) (before : Nat) (x : Section) : List (Nat × Bool) :=
  let count := if x.type = 1 then x.count == fieldOf bs 40 4 else x.type != 2 || x.count == fieldOf bs 44 4
  [(x.at_, decide (before < x.type) && decide (x.type ≤ 7)), zeroAt bs (x.at_ + 2) 2, (x.at_ + 4, count),
    (x.at_ + 8, x.off % 8 == 0 && decide (x.fin bs ≤ fieldOf bs 8 4))]

/-- The checks of the directory: its entries, the required sections, and overlaps (R112, R117). (DEDUCED, log 58.) -/
def dirChecks (bs : List Byte) (dir : List Section) : List (Nat × Bool) :=
  let apart (x : Section) : Bool :=
    dir.all fun y => decide (x.type ≤ y.type) || decide (x.fin bs ≤ y.off) || decide (y.fin bs ≤ x.off)
      || x.fin bs == x.off || y.fin bs == y.off
  (dir.zip (0 :: dir.map (·.type))).flatMap (fun (x, t) => sectionChecks bs t x)
    ++ [(40, (sectionOf? dir 1).isSome), (44, fieldOf bs 44 4 == 0 || (sectionOf? dir 2).isSome)]
    ++ dir.map fun x => (x.at_ + 8, apart x)

/-- The sum of the four areas of a partition word in KiB (R304). -/
def pwordKiB (w : Nat) : Nat := w / 2 ^ 24 + w / 2 ^ 16 % 256 + w / 2 ^ 8 % 256 + w % 256

/-- The checks of an element record (R113, R304). A constant's tag or value is reported at its own bytes.
(DESIGN CHOICE, log 119.) -/
def elemChecks (bs : List Byte) (b : Nat) : List (Nat × Bool) :=
  let f (o n : Nat) : Nat := fieldOf bs (b + o) n
  let has (n : Nat) : Bool := f 4 2 / 2 ^ n % 2 == 1
  [(b, decide (f 0 1 ≤ 5)), (b + 2, decide (f 2 1 ≤ 1)), (b + 3, decide (f 3 1 < fieldOf bs 48 2)), zeroAt bs (b + 6) 2,
    (b + 8, if f 0 1 = 3 then decide (pwordKiB (f 8 4) ≤ 256) else f 8 4 == 0), zeroAt bs (b + 12) 4]
    ++ (List.range 16).map (fun n => (b + 272 + n, decide (f (272 + n) 1 ≤ 7) && (has n || f (272 + n) 1 == 0)))
    ++ (List.range 16).map fun n => (b + 288 + 32 * n, has n || f (288 + 32 * n) 32 == 0)

/-- The checks of an edge record (R69, R114). -/
def edgeChecks (bs : List Byte) (b : Nat) : List (Nat × Bool) :=
  let f (o n : Nat) : Nat := fieldOf bs (b + o) n
  let n := fieldOf bs 40 4
  [(b + 2, f 2 1 == 0 || (decide (2 ≤ f 2 1) && decide (f 2 1 ≤ 32))), (b + 3, decide (f 3 1 ≤ 3)), (b + 4, decide (f 4 4 < n)),
    (b + 9, decide (1 ≤ f 9 1) && decide (f 9 1 ≤ 64)), zeroAt bs (b + 10) 6]
    ++ (List.range (f 9 1)).flatMap fun j =>
      [(b + 16 + 8 * j, decide (f (16 + 8 * j) 4 < n)), (b + 20 + 8 * j, decide (f (20 + 8 * j) 1 ≤ 3)),
        zeroAt bs (b + 22 + 8 * j) 2]

/-- The checks of an initial token (R72, R115). -/
def initChecks (bs : List Byte) (nums : List Nat) (b : Nat) : List (Nat × Bool) :=
  let sb := fieldOf bs (b + 4) 1
  [(b, nums.contains (fieldOf bs b 2)), (b + 4, decide (sb / 8 % 4 ≤ 2) && decide (sb < 64)), zeroAt bs (b + 5) 3]

/-- The checks of sections 4 to 6 (R116). -/
def orderChecks (bs : List Byte) (b : Nat) : List (Nat × Bool) :=
  let n := fieldOf bs 40 4
  [(b, decide (fieldOf bs b 4 < n)), (b + 4, decide (fieldOf bs (b + 4) 4 < n) && fieldOf bs b 4 != fieldOf bs (b + 4) 4)]

/-- The checks of a declared range (R116). -/
def rangeChecks (bs : List Byte) (b : Nat) : List (Nat × Bool) :=
  let base := fieldOf bs (b + 8) 8
  let len := fieldOf bs (b + 16) 8
  [(b, decide (fieldOf bs b 4 < fieldOf bs 40 4)), (b + 4, decide (fieldOf bs (b + 4) 1 ≤ 2)), zeroAt bs (b + 5) 3,
    (b + 8, decide (base < 2 ^ 56)), (b + 16, decide (1 ≤ len) && decide (base + len ≤ 2 ^ 56))]

/-- The checks of an exact mark (R116). -/
def exactChecks (bs : List Byte) (b : Nat) : List (Nat × Bool) :=
  [(b, decide (fieldOf bs b 4 < fieldOf bs 40 4)), (b + 4, decide (fieldOf bs (b + 4) 1 ≤ 31)), zeroAt bs (b + 5) 1,
    zeroAt bs (b + 6) 2]

/-- The byte offset of the first field of an image outside its legal values (R117): the header, the directory, then
the records of the sections in ascending type; an edge number that an earlier record has is outside them (R114).
(DEDUCED, log 105.) -/
def imageBad (bs : List Byte) : Option Nat :=
  match firstBad (headerChecks bs) with
  | some o => some o
  | none =>
    let dir := imageDir bs
    match firstBad (dirChecks bs dir) with
    | some o => some o
    | none =>
      let edges := (edgesAt bs dir).1
      let nums := edges.map fun b => fieldOf bs b 2
      firstBad ((recordsAt dir 1).flatMap (elemChecks bs)
        ++ edges.zipIdx.flatMap (fun (b, i) => (b, !(nums.take i).contains (fieldOf bs b 2)) :: edgeChecks bs b)
        ++ (recordsAt dir 3).flatMap (initChecks bs nums) ++ (recordsAt dir 4).flatMap (orderChecks bs)
        ++ (recordsAt dir 5).flatMap (rangeChecks bs) ++ (recordsAt dir 6).flatMap (exactChecks bs))

/-! ### Reading -/

/-- The kind of a code (R113). -/
def kindOf (n : Nat) : ElemKind :=
  match n with
  | 0 => .C
  | 1 => .M
  | 2 => .L
  | 3 => .S
  | 4 => .X
  | _ => .E

/-- A word of an image. -/
def wordAt (bs : List Byte) (o : Nat) : Word := BitVec.ofNat 32 (fieldOf bs o 4)

/-- An element record (R86, R113). -/
def readElem (bs : List Byte) (b : Nat) : ElemRec :=
  { kind := kindOf (fieldOf bs b 1)
    predInit := BitVec.ofNat 8 (fieldOf bs (b + 1) 1)
    isect := fieldOf bs (b + 2) 1 == 1
    part := fieldOf bs (b + 3) 1
    declared := BitVec.ofNat 16 (fieldOf bs (b + 4) 2)
    pword := wordAt bs (b + 8)
    slots := Vector.ofFn fun k => ⟨wordAt bs (b + 16 + 8 * k.val), wordAt bs (b + 20 + 8 * k.val)⟩
    ctags := Vector.ofFn fun k => BitVec.ofNat 3 (fieldOf bs (b + 272 + k.val) 1)
    consts := Vector.ofFn fun k => BitVec.ofNat 256 (fieldOf bs (b + 288 + 32 * k.val) 32) }

/-- An initial token (R72, R115); TAG is 0 on scale and control tokens (R25). -/
def readInit (bs : List Byte) (b : Nat) : Token :=
  let sb := fieldOf bs (b + 4) 1
  { tag := if sb / 8 % 4 = 0 then BitVec.ofNat 3 sb else 0
    kind := if sb / 8 % 4 = 0 then .data else if sb / 8 % 4 = 1 then .scale else .control
    last := sb / 32 % 2 == 1
    poison := false
    coord := BitVec.ofNat 16 (fieldOf bs (b + 2) 2)
    payload := BitVec.ofNat 256 (fieldOf bs (b + 8) 32) }

/-- An edge record with its initial tokens in the order the section lists them (R69, R72, R114). -/
def readEdge (bs : List Byte) (inits : List Nat) (b : Nat) : Edge :=
  let cap := fieldOf bs (b + 2) 1
  let num := fieldOf bs b 2
  { num := num
    cap := if cap = 0 then 4 else cap
    prod := fieldOf bs (b + 4) 4
    out := Fin.ofNat 4 (fieldOf bs (b + 3) 1)
    tags := BitVec.ofNat 8 (fieldOf bs (b + 8) 1)
    cons := (List.range (fieldOf bs (b + 9) 1)).map fun j =>
      ⟨fieldOf bs (b + 16 + 8 * j) 4, Fin.ofNat 4 (fieldOf bs (b + 20 + 8 * j) 1),
        BitVec.ofNat 8 (fieldOf bs (b + 21 + 8 * j) 1)⟩
    init := (inits.filter fun k => fieldOf bs k 2 == num).map (readInit bs)
    feedback := false }

/-- The graph of an image (R77, R111 to R116). Entries 0 and 1 of the format table are fixed (R28). -/
def readImage (bs : List Byte) : ImageRec :=
  let dir := imageDir bs
  { fmts := Vector.ofFn fun k =>
      if k.val = 0 then recFP32 else if k.val = 1 then recINT32 else wordAt bs (16 + 4 * (k.val - 2))
    parts := fieldOf bs 48 2
    elems := (recordsAt dir 1).map (readElem bs)
    edges := (edgesAt bs dir).1.map (readEdge bs (recordsAt dir 3))
    order := (recordsAt dir 4).map fun b => (fieldOf bs b 4, fieldOf bs (b + 4) 4)
    ranges := (recordsAt dir 5).map fun b =>
      ⟨fieldOf bs b 4, fieldOf bs (b + 4) 1, fieldOf bs (b + 8) 8, fieldOf bs (b + 16) 8⟩
    exact := (recordsAt dir 6).map fun b => (fieldOf bs b 4, fieldOf bs (b + 4) 1) }

end Sys2Proof.Machine
end

