-- ==== Sys2Proof/Machine/Place.lean ====
section
/-! DEFINITION. The mapper (R78, R83, R118, R250, R282, R304, R309): what it must give an image, its cache of
placements, and the sites that a placement names on a die. -/

namespace Sys2Proof.Machine

/-! ### What an image asks of its placement -/

/-- The inputs of cut edges, by element and input (R83). -/
def cutInputs (elems : List ElemRec) (edges : List Edge) : List (Nat × Fin 4) :=
  let part (e : Nat) : Option Nat := (elems[e]?).map (·.part)
  edges.flatMap fun d => (d.cons.filter fun k => part k.elem != part d.prod).map fun k => (k.elem, k.input)

/-- The reorder buffers that the slots of an element name (R250). -/
def ElemRec.buffers (el : ElemRec) : List Nat :=
  if el.kind ≠ .X then []
  else
    (el.slots.toList.filterMap fun k =>
      if validOf k.trig then
        match decode k.act with
        | .ok (.reord f) => some (f.cnt.toNat % 8)
        | .ok (.rels f) => some (f.cnt.toNat % 8)
        | _ => none
      else none).eraseDups

/-- The reorder buffers of an image, by X element and number. -/
def namedBuffers (elems : List ElemRec) : List (Nat × Nat) :=
  elems.zipIdx.flatMap fun (el, e) => el.buffers.map fun b => (e, b)

/-- The cluster of an element's site, counted within its rectangle in row-major order: a cluster has three S sites and one X
site (R14). -/
def siteCluster (kind : ElemKind) (site : Nat) : Nat := if kind = .S then site / 3 else site

/-- Whether every S and X element has a site in a rectangle of `n` clusters, and no two of a kind and a partition share one
(R14, R82). -/
def sitesOk (elems : List ElemRec) (n : Nat) (pl : Placement) : Bool :=
  elems.zipIdx.all fun (el, e) =>
    (el.kind != .S && el.kind != .X) ||
      (match pl.sites.lookup e with
       | some k =>
         decide (siteCluster el.kind k < n) &&
           elems.zipIdx.all fun (y, j) =>
             decide (e ≤ j) || y.kind != el.kind || y.part != el.part || pl.sites.lookup j != some k
       | none => false)

/-- The parking channels that the slots of an image name (R282). -/
def namedChans (elems : List ElemRec) : List Nat :=
  (elems.flatMap fun el => el.slots.toList.filterMap fun k =>
    if validOf k.trig then
      match decode k.act with
      | .ok (.park f) => some f.cnt.toNat
      | .ok (.unpark f) => some f.cnt.toNat
      | _ => none
    else none).eraseDups

/-- Whether each parking channel that a slot names, and no input of a cut edge twice, has its storage in the parking area of one
S element, and the areas hold them, 32 tokens to the KiB (R83, R282, R304). (DEDUCED, log 66.) -/
def chansOk (elems : List ElemRec) (edges : List Edge) (pl : Placement) : Bool :=
  let cuts := cutInputs elems edges
  let inS (e : Nat) : Bool :=
    match elems[e]? with
    | some el => el.kind == .S
    | none => false
  let used (e : Nat) : Nat :=
    ((pl.chans.filter fun c => c.2.1 == e).map fun c => c.2.2).sum + ((pl.cuts.filter fun c => c.2.2.1 == e).map fun c => c.2.2.2).sum
  (namedChans elems).all (fun n => pl.chans.any fun c => c.1 == n)
    && pl.chans.all (fun c => decide (c.1 < 256) && inS c.2.1 && (pl.chans.filter fun d => d.1 == c.1).length == 1)
    && pl.cuts.all (fun c => cuts.contains (c.1, c.2.1) && inS c.2.2.1
      && (pl.cuts.filter fun d => d.1 == c.1 && d.2.1 == c.2.1).length == 1)
    && elems.zipIdx.all fun (el, e) => el.kind != .S || decide (used e ≤ 32 * pwPark el.pword)

/-- Whether each reorder buffer that a slot names stands in the reorder area of an S element of its X element's cluster and
partition, 3 KiB each (R82, R250, R304). -/
def reordOk (elems : List ElemRec) (pl : Placement) : Bool :=
  let kib (e : Nat) : Nat :=
    match elems[e]? with
    | some el => if el.kind = .S then pwReord el.pword else 0
    | none => 0
  let beside (x s : Nat) : Bool :=
    match pl.sites.lookup x, pl.sites.lookup s with
    | some i, some j => siteCluster .X i == siteCluster .S j && (elems[x]?).map (·.part) == (elems[s]?).map (·.part)
    | _, _ => false
  (namedBuffers elems).all (fun b => (pl.reord.filter fun r => (r.1, r.2.1) == b).length == 1)
    && pl.reord.all fun r =>
      beside r.1 r.2.2 && decide (3 * (pl.reord.filter fun q => q.2.2 == r.2.2).length ≤ kib r.2.2)

/-- Whether the mapper can place an image so (R78). -/
def placementFits (pl : Placement) (elems : List ElemRec) (edges : List Edge) (n : Nat) : Bool :=
  sitesOk elems n pl && chansOk elems edges pl && reordOk elems pl

/-! ### Lack of reorder space -/

/-- Every way to take at most `k` of some rooms: their sum, and the rooms that are left. -/
def takeRooms : (rooms : List Nat) → (k : Nat) → List (Nat × List Nat)
  | [], _ => [(0, [])]
  | r :: rs, k =>
    (match k with
     | 0 => []
     | k + 1 => (takeRooms rs k).map fun x => (r + x.1, x.2)) ++ (takeRooms rs k).map fun x => (x.1, r :: x.2)

/-- Whether X elements that name so many buffers can each have S elements of their own, at most the three of a cluster, with
room for them (R14, R250). -/
def canGive : (wants rooms : List Nat) → Bool
  | [], _ => true
  | w :: ws, rooms => (takeRooms rooms 3).any fun x => decide (w ≤ x.1) && canGive ws x.2

/-- The sublists of a list. -/
def subLists : List Nat → List (List Nat)
  | [] => [[]]
  | x :: l => (subLists l).flatMap fun y => [y, x :: y]

/-- Whether the mapper may report that reorder space is lacking for an element (R250): some X elements of its partition can
have their space together, and not with this one as well. -/
def mayLack (elems : List ElemRec) (e : Nat) : Bool :=
  match elems[e]? with
  | none => false
  | some x =>
    let here := elems.zipIdx.filter fun (y, _) => y.part == x.part
    let rooms := (here.filter fun (y, _) => y.kind == .S).map fun (y, _) => pwReord y.pword / 3
    let others := ((here.filter fun (_, j) => j != e).map fun (y, _) => y.buffers.length).filter (· != 0)
    x.buffers != [] && (subLists others).any fun l => canGive l rooms && !canGive (x.buffers.length :: l) rooms

/-! ### The placement cache -/

/-- An image without its names, and without what places the sections in the file (R112, R118). -/
def imageBody (bs : List Byte) : List Byte :=
  (bs.drop 16).take 48 ++ ((imageDir bs).filter fun x => x.type != 7).flatMap fun x =>
    leBytes 2 x.type ++ leBytes 4 x.count ++ (bs.drop x.off).take (x.fin bs - x.off)

/-- The hashes that an image's placements are looked up by (R78, R118). -/
def imageKey (bs : List Byte) : BitVec 384 × BitVec 384 := (Config.sha384 bs, Config.sha384 (imageBody bs))

/-- The key of a placement on a rectangle (R78): rectangles of one shape have the same usable sites when they lie on the same
edges of the die (R14, R16). -/
def cacheKey (k : BitVec 384 × BitVec 384) (x y w h : Nat) : CacheKey :=
  ⟨k.1, k.2, w, h, [x == 0, y == 0, x + w == 8, y + h == 8]⟩

/-- The placement that the cache holds for a key: that of the same image, or of one that differs in its names alone (R78,
R118). -/
def SchedSt.cached? (d : SchedSt) (k : CacheKey) : Option Placement :=
  ((d.cache.find? fun x => x.1 == k).orElse fun _ => d.cache.find? fun x => { x.1 with image := k.image } == k).map (·.2)

/-- The cache with a placement under a key (R78). -/
def State.cachePut (s : State) (k : Option CacheKey) (pl : Placement) : State :=
  match k with
  | some k =>
    if s.sched.cache.any fun x => x.1 == k then s else { s with sched := { s.sched with cache := s.sched.cache ++ [(k, pl)] } }
  | none => s

/-- The placement that a launch gets on a rectangle (R78, R118, R250): the cached one, or else the one that the mapper forms
where it is one the mapper can form, or the X element for which it lacks reorder space. (DEDUCED, log 100.) -/
def State.placeOn (s : State) (elems : List ElemRec) (edges : List Edge) (key : Option CacheKey) (w h : Nat) (pl : Placement) :
    Option (Except Nat Placement) :=
  match key.bind s.sched.cached? with
  | some q => some (.ok q)
  | none =>
    match pl.lacking with
    | some e => if mayLack elems e then some (.error e) else none
    | none => if placementFits pl elems edges (w * h) then some (.ok pl) else none

/-- The sites on the die of the elements that a placement puts into a rectangle (R309). -/
def placeSites (pl : Placement) (elems : List ElemRec) (x y w : Nat) : List (Nat × Nat) :=
  pl.sites.map fun (e, k) =>
    let isS : Bool := match elems[e]? with
      | some el => el.kind == .S
      | none => false
    let c := if isS then k / 3 else k
    let abs := 8 * (y + c / w) + x + c % w
    (e, if isS then 3 * abs + k % 3 else abs)

end Sys2Proof.Machine
end

