-- ==== Sys2Proof/Machine/Reply.lean ====
section
/-! DEFINITION. What comes back to asynchronous firings and what they owe (R258, R259, R270, R281, R283, R286 to
R289, R295 to R297): replies, pushes, releases, counters and barriers, and the steps of declarations (R277,
R278, R350 to R354). -/

namespace Sys2Proof.Machine

/-! ### Outstanding firings -/

/-- Whether a firing owes nothing more. -/
def OutF.settled (o : OutF) : Bool := o.ready && o.data.isEmpty && (o.cmp.isNone || o.cmpDone)

/-- Replaces an outstanding firing, or drops it once it is settled. -/
def Elem.setOut (el : Elem) (o : OutF) : Elem :=
  { el with
    outs := if o.settled then el.outs.filter fun (y : OutF) => y.id != o.id
      else el.outs.map fun (y : OutF) => if y.id = o.id then o else y }

/-- Drops an outstanding firing. -/
def Elem.dropOut (el : Elem) (id : Nat) : Elem := { el with outs := el.outs.filter fun (y : OutF) => y.id != id }

/-- A completion token becomes due (R259), once, in the order in which the accesses were performed (R258); `no` is the place
of its own. -/
def Elem.due (el : Elem) (o : OutF) (fail no : Nat) : Elem :=
  match o.cmp with
  | some k =>
    if o.cmpDone || el.dues.any fun (d : Due) => d.id == o.id then el
    else
      let before (d : Due) : Bool := decide (d.no < no)
      { el with
        dues := el.dues.takeWhile before ++ ⟨o.id, k, cmpTok o.seq o.va o.opc fail, no⟩ :: el.dues.dropWhile before }
  | none => el

/-- The region slot and element of an outstanding firing. -/
def State.findOut (s : State) (id : Nat) : Option (Nat × Nat × OutF) :=
  s.regions.zipIdx.findSome? fun (x, r) =>
    match x.g with
    | some g => g.elems.zipIdx.findSome? fun (el, e) => (el.outs.find? fun (o : OutF) => o.id == id).map fun o => (r, e, o)
    | none => none

/-- Pushes one token of an asynchronous firing or engine: a tag outside the producer's set raises FORMAT (R71). -/
def Ctx.pushLate (c : Ctx) (s : State) (el : Elem) (slot : Nat) (o : Fin 4) (t : Token) : Res :=
  if c.g.tagOk c.e o t then .next (s.setGraph c.r ((c.g.setElem c.e el).push c.e o t))
  else .next (s.raiseTrap c.r c.e slot trapFORMAT 0)

/-! ### MEMORY_REPLY -/

/-- The tokens a GET pushes (R292): tag lane 7, COORD j, LAST on the last. -/
def getTokens (a : Payload) (l : List (Payload × Bool)) : List Token :=
  l.zipIdx.map fun ((v, p), j) =>
    { dataTok ((lane32 a 7).extractLsb' 0 3) (j + 1 == l.length) j v with poison := p }

/-- Data come back to a firing (R258, R265): its token is built, its completion due. The fault token that WALK pushes has POISON 0
though the entry it read is marked. (DESIGN CHOICE, log 33.) -/
def Ctx.replyData (c : Ctx) (s : State) (o : OutF) (v : Payload) (p : Bool) (no : Nat) : State :=
  if o.opc = 0xFE then
    let (t, bad) := walkReply o.arg (o.hd.getD ⟨1, .data, false, false, 0, 0⟩) (v.setWidth 64)
    let t := { t with poison := p && t.kind == .data }
    let s := c.put s (c.el.setOut { o with data := if o.dst.isSome then [t] else [], ready := true })
    if bad then { s with mem := { s.mem with malformed := bumpBy s.mem.malformed c.die 1 } } else s
  else
    let t : Token := { o.hd.getD ⟨0, .data, false, false, 0, 0⟩ with payload := v, poison := p }
    c.put s ((c.el.due o 0 no).setOut { o with data := if o.dst.isSome then [t] else [], ready := true })

/-- A failed link operation (R295): its completion carries the code, or LINK is raised. -/
def Ctx.replyFail (c : Ctx) (s : State) (o : OutF) (code no : Nat) : State :=
  let el := match c.el.ks with
    | .e x => c.el.setE x.fail
    | _ => c.el
  if o.cmp.isSome then c.put s ((el.due o code no).setOut { o with data := [], ready := true })
  else (c.put s el).raiseTrap c.r c.e o.slot trapLINK 0

/-- A reply to an access of a running element. A write-back's reply changes nothing more: its WSYNC waits for the
home (R270). A refusal raises its trap (R256). -/
def Ctx.applyReply (c : Ctx) (s : State) (y : Reply) : State :=
  match y.val with
  | .trap code => s.raiseTrap c.r c.e y.acc.slot code 0
  | v =>
    match c.el.outs.find? fun (o : OutF) => o.id == y.acc.fid with
    | none => s
    | some o =>
      if o.opc = 0xD5 || o.opc = 0xD7 then s
      else
        match v with
        | .data v p => c.replyData s o v p y.no
        | .toks l => c.put s (c.el.setOut { o with data := getTokens o.arg l, ready := true })
        | .fail k => c.replyFail s o k y.no
        | _ =>
          let waits := match y.acc.kind with
            | .load => true
            | .atomic _ _ => o.dst.isSome
            | _ => false
          c.put s ((c.el.due o 0 y.no).setOut (if waits then o else { o with ready := true }))

/-- The replies of one element that stand before a given one. -/
def earlierReply (l : List Reply) (k : Nat) (p : Access → Bool) : Bool :=
  (l.takeWhile fun y => y.acc.id != k).any fun y => p y.acc

/-- A reply of the memory system reaches its element (R324): one that bears another generation is dropped and
counted, one to a freezing region or to an element that a pre-emption has saved is collected (R401, R407), and one that
follows a restore stays behind the collected ones of its element (R262, R408). -/
def State.memReply (s : State) (y : Reply) : Res :=
  let a := y.acc
  if earlierReply s.mem.replies a.id fun b => b.isOf a.r a.e a.gen then .next s
  else
    let t := { s with mem := { s.mem with replies := s.mem.replies.filter fun z => z.no != y.no } }
    match t.at? a.r a.e a.slot with
    | some c =>
      if c.reg.gen ≠ a.gen then
        .next { t with mem := { t.mem with stale := bumpBy t.mem.stale (dieOf a.r) 1 } }
      else if c.reg.freezing || c.el.saved then .next (t.setGraph a.r { c.g with collected := c.g.collected ++ [y] })
      else if c.reg.runs && !c.g.collected.any fun z => z.acc.e == a.e then .next (c.applyReply t y)
      else .next s
    | none => .next { t with mem := { t.mem with stale := bumpBy t.mem.stale (dieOf a.r) 1 } }

/-- The launch parameters (R370). -/
def sysParams (l : Launch) : Payload :=
  let bit (b : Bool) (n : Nat) : Nat := if b then 2 ^ n else 0
  ofWords [0, BitVec.ofNat 32 l.seq, l.record.tensor0, l.record.tensor1,
    BitVec.ofNat 32 (bit (l.record.hostGroup != 0xFFFF) 0 + bit (l.record.linkGroup != 0xFFFF) 1
      + bit (l.record.level7.getLsbD 0) 2)]

/-- A reply of a service the manual does not describe: any status of R296 and any lanes. (DESIGN CHOICE, log 7.) -/
def freeReply (v : Payload) : Payload :=
  v - (v.setWidth 32).setWidth 256 + BitVec.ofNat 256 ((lane32 v 0).toNat % 3)

/-- The reply to SYSC (R296, R370). -/
def State.sysReply (s : State) (launch service : Nat) : State × Payload :=
  if service = 1 then
    match s.sched.launch? launch with
    | some l => (s, sysParams l)
    | none => (s, ofWords [2])
  else (s.drawFree.2, freeReply (Config.freePayload s.drawFree.1))

/-- Whether WSYNC or WCLOSE still waits (R270): for its write-backs, and for the element's earlier accesses. -/
def State.syncWaits (s : State) (c : Ctx) (o : OutF) : Bool :=
  s.pendingBefore c o.id o.level
    || (c.el.issueQ.any fun a => a.fid == o.id)
    || s.inMem c.r c.e c.reg.gen (decide (5 ≤ o.level)) (fun a => a.fid == o.id)
    || s.mem.replies.any fun y => y.acc.isOf c.r c.e c.reg.gen && y.acc.fid == o.id

/-- The window table after WCLOSE (R270): the window is free and holds no word. -/
def SSt.unmap (x : SSt) (w : Fin 8) : SSt :=
  let win := x.windows.get w
  let keep (k : Nat) : Bool := decide (4 * k < win.off) || decide (win.off + win.len ≤ 4 * k)
  { x with
    windows := x.windows.set w .empty, valid := x.valid.filter keep, dirty := x.dirty.filter keep
    poison := x.poison.filter keep }

/-- The window that a WCLOSE unmaps (R270). -/
def Ctx.unmapped (c : Ctx) (s : State) (el : Elem) (o : OutF) : Elem × State :=
  let w := Fin.ofNat 8 (lane32 o.arg 0).toNat
  match el.ks with
  | .s x => if o.opc = 0xD7 then (el.setS (x.unmap w), s.dropWindow c.reg.launch c.e w.val) else (el, s)
  | _ => (el, s)

/-- The release of WSYNC and WCLOSE (R270): the token on DST is due, or with no DST the window of a WCLOSE is free. -/
def Ctx.syncRelease (c : Ctx) (s : State) (o : OutF) : State :=
  if o.cmp.isSome then
    let (s, no) := s.performNo
    c.put s ((c.el.due o 0 no).setOut { o with ready := true })
  else
    let (el, s) := c.unmapped s (c.el.dropOut o.id) o
    c.put s el

/-! ### Misses -/

/-- The inputs of an element at which a page-walk graph takes requests: the heads that a WALK of it reads (R285). -/
def ElemRec.walkHeads (x : ElemRec) : List (Fin 4) :=
  ([0, 1, 2, 3] : List (Fin 4)).filter fun i => x.slots.toList.any fun k =>
    validOf k.trig &&
      (match decode k.act with
       | .ok (.walk f) => f.sa == .head i
       | _ => false)

/-- The tag that a request takes at an input, the lowest that the input accepts, while its FIFO has a free place (R69, R71). -/
def GraphSt.doorTag? (g : GraphSt) (e : Nat) (i : Fin 4) : Option (BitVec 3) :=
  match g.feed? e i with
  | some d =>
    match d.cons.find? fun k => k.elem == e && k.input == i with
    | some k => if g.freeAt d k = 0 then none else ((List.range 8).find? k.tags.getLsbD).map (BitVec.ofNat 3)
    | none => none
  | none => none

/-- The inputs of a page-walk graph that can take a request now. -/
def GraphSt.walkDoors (g : GraphSt) : List (Nat × Fin 4 × BitVec 3) :=
  g.elems.zipIdx.flatMap fun (el, e) =>
    if g.isActive el then el.img.walkHeads.filterMap fun i => (g.doorTag? e i).map fun t => (e, i, t) else []

/-- The request of a miss (R285, R396): the VA, the request tag, level 3, and the root table of the context. -/
def walkRequest (va : BitVec 64) (tag root : Nat) : Payload :=
  ofWords [va.extractLsb' 0 32, va.extractLsb' 32 32, BitVec.ofNat 32 tag, 3, lo32 root, hi32 root]

/-- The walker region of a die takes a miss, one a cycle (R396): its request joins an input at which a WALK reads it, and the
firing keeps its tag. With no page-walk graph that runs and has a place, the miss waits. (DESIGN CHOICE, log 126.) -/
def State.askWalker (s : State) (c : Ctx) (o : OutF) : State :=
  match s.region? (128 + c.die), s.root? c.reg.ctx with
  | some w, some root =>
    match w.g with
    | none => s
    | some g =>
      let doors := g.walkDoors
      match doors[Config.pick s.freeCtr % doors.length]? with
      | none => s
      | some (e, i, tag) =>
        if !w.runs || sget none s.mem.taken c.die = some s.cycle then s
        else
          let t := dataTok tag false 0 (walkRequest o.va s.nextId root)
          let s := c.put s (c.el.setOut { o with asked := some s.nextId })
          let s := s.modRegion (128 + c.die) fun w =>
            { w with g := w.g.map fun g => g.modIn e i fun n => { n with inflight := n.inflight ++ [t] } }
          { s with
            nextId := s.nextId + 1, freeCtr := s.freeCtr + 1
            mem := { s.mem with taken := sset none s.mem.taken c.die (some s.cycle) } }
  | _, _ => s

/-- The reply of an XINV (R258, R283): the entry that covers the VA of its operand is invalid, or every entry, and
the misses of the node that the walker region has taken up go there anew. (DEDUCED, log 31.) (DEDUCED, log 127.) -/
def Ctx.invalidated (c : Ctx) (s : State) (o : OutF) : State :=
  let va := pair64 o.arg 0
  let keep (t : TlbEnt) : Bool := !((lane32 o.arg 2).getLsbD 0 || (decide (t.va ≤ va) && decide (va < t.va + t.size)))
  match c.el.ks with
  | .e x => c.put s ((c.el.setE { x with tlb := x.tlb.filter keep }).unask.dropOut o.id)
  | _ => s

/-- The answer of the scheduler or the operating system to a firing (R296), that of the translation node to an XINV (R258), the
miss of a translation on its way to the walker region (R283, R396), and the release of a WSYNC or WCLOSE that waits no more
(R270). -/
def State.serviceReply (s : State) (r e : Nat) (o : OutF) : Res :=
  match s.at? r e o.slot with
  | none => .next s
  | some c =>
    if !c.reg.runs || o.ready then .next s
    else if o.opc = 0xD5 || o.opc = 0xD7 then (if s.syncWaits c o then .next s else .next (c.syncRelease s o))
    else if o.opc = 0xE9 then .next (c.invalidated s o)
    else
      let answer (s : State) (t : Token) : Res :=
        match s.at? r e o.slot with
        | some c => .next (c.put s (c.el.setOut { o with data := if o.dst.isSome then [t] else [], ready := true, miss := false }))
        | none => .next s
      let hd := o.hd.getD ⟨0, .control, false, false, 0, 0⟩
      if o.opc = 0xF8 then
        let (t, code) := s.submit c.reg.ctx (launchRec (toBytes o.arg 32 ++ toBytes o.arg2 32)) none
        answer t { hd with coord := BitVec.ofNat 16 code }
      else if o.opc = 0xF9 then
        let (t, v) := s.sysReply c.reg.launch o.level
        answer t { hd with payload := v }
      else if o.miss && o.asked.isNone then .next (s.askWalker c o)
      else .next s

/-- Whether a pre-emption under way has saved an element (R407). -/
def GraphSt.savedAt (g : GraphSt) (e : Nat) : Bool :=
  match g.elems[e]? with
  | some el => el.saved
  | none => false

/-- The next collected reply of a restored region, or of one whose pre-emption has ended (R408). -/
def State.collectedReply (s : State) (k : Nat) : Option (Nat × GraphSt × Reply) :=
  s.regions.zipIdx.findSome? fun (x, r) =>
    match x.g with
    | some g =>
      if x.runs then
        ((g.collected.find? fun y => y.acc.id == k).filter fun y => !g.savedAt y.acc.e).map fun y => (r, g, y)
      else none
    | none => none

/-- MEMORY_REPLY (R258): `k` names the access whose reply arrives, oldest first at one element, a collected reply,
or the firing that a service answers. -/
def execMemoryReply (k : Nat) (s : State) : Res :=
  match s.mem.replies.find? fun y => y.acc.id == k with
  | some y => s.memReply y
  | none =>
    match s.collectedReply k with
    | some (r, g, y) =>
      if earlierReply g.collected k fun b => b.e == y.acc.e then .next s
      else
        let s := s.setGraph r { g with collected := g.collected.filter fun z => z.acc.id != k }
        match s.at? r y.acc.e y.acc.slot with
        | some c => .next (c.applyReply s y)
        | none => .next s
    | none =>
      match s.findOut k with
      | some (r, e, o) => s.serviceReply r e o
      | none => .next s

/-! ### PUSH -/

/-- Whether an earlier firing of an ordered class still owes its data (R258, R283). -/
def Elem.classBlocked (el : Elem) (o : OutF) : Bool :=
  o.cls != 0 &&
    (el.outs.takeWhile fun (y : OutF) => y.id != o.id).any fun (y : OutF) =>
      y.cls == o.cls && y.dst.isSome && !(y.ready && y.data.isEmpty)

/-- A data token of a firing leaves (R258). GET's completion is due after its last token (R291). -/
def Ctx.pushData (c : Ctx) (s : State) (o : OutF) (k : Fin 4) (t : Token) (rest : List Token) : Res :=
  let o' := { o with data := rest }
  let (s, no) := if o.opc = 0xF2 && rest.isEmpty then s.performNo else (s, 0)
  let el := if o.opc = 0xF2 && rest.isEmpty then c.el.due o 0 no else c.el
  c.pushLate s (el.setOut o') o.slot k t

/-- The oldest due completion token leaves (R258, R259); that of a WCLOSE frees its window (R270). -/
def Ctx.pushDue (c : Ctx) (s : State) (d : Due) (rest : List Due) : Res :=
  let el := { c.el with dues := rest }
  let (el, s) := match el.outs.find? fun (o : OutF) => o.id == d.id with
    | some o => c.unmapped s (el.setOut { o with cmpDone := true }) o
    | none => (el, s)
  c.pushLate s el c.slot d.out d.tok

/-- Whether the completion of an access performed before place `no` is still on its way to the element (R258). -/
def State.earlierDue (s : State) (c : Ctx) (no : Nat) : Bool :=
  let owes (y : Reply) : Bool :=
    decide (y.no < no) && c.el.outs.any fun (o : OutF) => o.id == y.acc.fid && o.cmp.isSome && !o.cmpDone
  (s.mem.replies.any fun y => y.acc.isOf c.r c.e c.reg.gen && owes y)
    || c.g.collected.any fun y => y.acc.e == c.e && owes y

/-- PUSH (R327): the next data token of the firing `which`, or with none the oldest due completion token. Its place
was reserved at issue. -/
def execPush (r e : Nat) (which : Option Nat) (s : State) : Res :=
  match s.at? r e 0 with
  | none => .next s
  | some c =>
    if !c.reg.runs then .next s
    else
      match which with
      | none =>
        match c.el.dues with
        | d :: rest => if c.g.freePlaces e d.out = 0 || s.earlierDue c d.no then .next s else c.pushDue s d rest
        | [] => .next s
      | some id =>
        match c.el.outs.find? fun (o : OutF) => o.id == id with
        | none => .next s
        | some o =>
          let space := match o.dst with
            | some k => c.g.freePlaces e k != 0
            | none => true
          if !space then .next s
          else
            match o.ready, o.dst, o.data with
            | true, some k, t :: rest => if c.el.classBlocked o then .next s else c.pushData s o k t rest
            | _, _, _ => .next s

/-! ### Releases -/

/-- Whether a completion token's access still waits for DELIVER (R168, R328). -/
def State.undelivered (s : State) (launch : Nat) (t : Token) : Bool :=
  s.mem.egress.any fun a =>
    a.launch == launch && a.seq == t.coord && (lane32 t.payload 2).toNat == a.opc && pair64 t.payload 0 == a.tva.toNat

/-- JOINF_RELEASE (R168): the token is pushed once the accesses whose completion tokens the slot popped have
propagated to the level. -/
def execJoinfRelease (r e : Nat) (s : State) : Res :=
  match s.at? r e 0 with
  | none => .next s
  | some c =>
    match c.el.firing with
    | some ⟨slot, .joinf f, .wait, _, _, _, _, _, _, _, n, _⟩ =>
      let level := f.cnt.toNat / 32
      let mine := c.el.joinToks.filter fun x => x.1 == slot
      let space := match outOf? f.dst with
        | some k => c.g.hasSpace e c.el k 1
        | none => true
      if !c.reg.runs || c.el.saved || !space || (decide (5 ≤ level) && mine.any fun x => s.undelivered c.reg.launch x.2) then .next s
      else
        let el := { c.el with joinToks := c.el.joinToks.filter fun x => x.1 != slot }
        { c with slot := slot }.complete s (el.writeDst f.dst 0) (pushesOf f.dst (joinTok n)) 0 0
    | _ => .next s

/-- FENCE_COMPLETE (R286). -/
def execFenceComplete (r e : Nat) (s : State) : Res :=
  match s.at? r e 0 with
  | none => .next s
  | some c =>
    match c.el.firing with
    | some ⟨slot, .fence f, .wait, _, _, _, _, _, _, _, n, _⟩ =>
      if !c.reg.runs || c.el.saved || s.fenceWaits c n (fenceLevel f) then .next s else { c with slot := slot }.fenceEnd s f
    | _ => .next s

/-- A stream that has ended, with nothing of it outstanding (R281): its counter advances and it is no longer
running. -/
def State.streamDone (s : State) (k : Nat) : Res :=
  let hit := s.regions.zipIdx.findSome? fun (x, r) =>
    match x.g with
    | some g => g.elems.zipIdx.findSome? fun (el, e) =>
        match el.ks with
        | .e st => (st.streams.find? fun (t : Stream) => t.id == k).map fun t => (r, e, t)
        | _ => none
    | none => none
  match hit with
  | none => .next s
  | some (r, e, t) =>
    match s.at? r e t.slot with
    | none => .next s
    | some c =>
      match c.el.ks with
      | .e x =>
        if !t.ended || !c.reg.runs || c.el.outs.any fun (o : OutF) => o.cls == 10 + t.num then .next s
        else
          let s := c.put s (c.el.setE { x with streams := x.streams.filter fun y => y.id != k })
          .next (s.advance? (counterOf (x.streamCounter t.num)))
      | _ => .next s

/-- The change of CSIG (R287). -/
def State.csigApply (s : State) (a : Payload) : State :=
  let n := (lane32 a 0).toNat
  let v := pair64 a 2
  s.setCounter n (if lane32 a 1 = 0 then counterAdd (s.mem.counter n) v else counterRaise (s.mem.counter n) v)

/-- COUNTER_RAISE (R287, R332): CSIG's change once the element's earlier accesses have propagated to package scope,
or the end of an address stream. -/
def execCounterRaise (k : Nat) (s : State) : Res :=
  match s.findOut k with
  | some (r, e, o) =>
    match s.at? r e o.slot with
    | none => .next s
    | some c =>
      if o.opc ≠ 0xEC || !c.reg.runs || s.pendingBefore c o.id 4 then .next s
      else .next ((c.put s (c.el.dropOut k)).csigApply o.arg)
  | none => s.streamDone k

/-- BARRIER_ARRIVAL (R289): BARA's arrival is counted once its earlier accesses have propagated; the token holds the
phase at which it arrived. -/
def execBarrierArrival (k : Nat) (s : State) : Res :=
  match s.findOut k with
  | some (r, e, o) =>
    match s.at? r e o.slot with
    | none => .next s
    | some c =>
      let n := (lane32 o.arg 0).toNat
      let b := s.mem.barrier n
      if o.opc ≠ 0xED || o.ready || !c.reg.runs || s.pendingBefore c o.id o.level then .next s
      else
        let t : Token := { o.hd.getD (controlTok 0 0) with payload := ofWords [b.phase] }
        .next ((c.put s (c.el.setOut { o with data := if o.dst.isSome then [t] else [], ready := true })).setBarrier n
          b.arrive)
  | none => .next s

/-! ### Declarations -/

/-- DECLARATION_ACCEPT (R277): the firing completes with the handle and the status. A result whose tag its edge does not take
raises FORMAT, and nothing is declared (R71). -/
def execDeclarationAccept (r e : Nat) (s : State) : Res :=
  match s.at? r e 0 with
  | none => .next s
  | some c =>
    match c.el.firing with
    | some ⟨slot, .drv f, .wait, a, b, _, _, _, _, _, _, _⟩ =>
      let space := match outOf? f.dst with
        | some k => c.g.hasSpace c.e c.el k 1
        | none => true
      if !c.reg.runs || c.el.saved || !space then .next s
      else
        let c := { c with slot := slot }
        let t := s.declTouch c.die c.g c.reg.ctx a b
        let fin (t : State) (res : Payload) (status : Nat) : Res :=
          c.memFinishFrom s t ((c.el.writeDst f.dst res).withPw f.pw (status != 0))
            (pushesOf f.dst (c.tok f.md [f.sa, f.sb] none res)) f.pop (readMask [f.sa, f.sb])
        match s.declare c.g c.reg.ctx c.reg.launch a b with
        | .error k => fin t (drvRes 0xFFFFFFFF k) k
        | .ok d => fin { t with drv := t.drv ++ [d] } (drvRes d.handle 0) 0
    | _ => .next s

/-- SCAN_END (R350, R351, R354, R441): the row's shadows are set from its elements; `bad` names the words that fail their
check code, and an error there marks the word and the row. The counter advances once every row has had its initial scan. -/
def execScanEnd (decl row : Nat) (bad : List Nat) (s : State) : Res :=
  match s.drv.find? fun d => d.handle == decl with
  | none => .next s
  | some d =>
    match d.rows[row]? with
    | none => .next s
    | some w =>
      match w.scan with
      | .ready => .next s
      | .withdrawn => .next s
      | st =>
        let s := s.eccMark bad (wordsOf w.pa (rowBytes d.baseFmt d.cols))
        let marked := readsPoison s.mem.poison w.pa (rowBytes d.baseFmt d.cols)
        let w' := { d.scanRow s.mem.bytes w with
          scan := (match st with
            | .extended => .scanning
            | _ => .ready), poison := marked }
        let d' := (d.setRow row w').saturate
        if d'.pending && d'.rows.all fun y => y.scan != .initial then
          .next ((s.modDecl decl fun _ => { d' with pending := false }).advance? d.counter)
        else .next (s.modDecl decl fun _ => d')

/-- The rows that a slice homes withdraw together (R352): the withdrawal takes effect at each home slice as one step. -/
def Decl.withdrawAt (d : Decl) (slice : Nat) : Decl :=
  { d with rows := d.rows.map fun y => if y.slice = slice then { y with scan := .withdrawn } else y }

/-- Whether the leaves of the pages that lose their mapping can be written now (R309, R312, R350). -/
def State.unmapReady (s : State) (l : List Nat) : Bool := l.all fun a => s.writable (s.mem.typeOf (a / 64)) a 1 none

/-- The invalidations that the writes of some bytes need (R312). -/
def State.sendFor (s : State) (l : List Nat) : State := l.foldl (fun s a => (s.waitWrite a).1) s

/-- The pages of a withdrawn declaration lose their mapping (R278): the valid bit of every leaf of a page is cleared, as a write
of its home copy (R353), and translation nodes drop the page; walks under way for the context answer nothing more. (DEDUCED,
log 127.) -/
def State.unmapPages (s : State) (ctx : Nat) (l : List (Nat × List Nat)) : State :=
  let s := (l.flatMap (·.2)).foldl (fun s a => s.amendAt (s.mem.typeOf (a / 64)) a 0xFE 0) s
  let drop (reg : Region) (g : GraphSt) : GraphSt := (if reg.ctx = ctx then g.unask else g).dropPages ctx (l.map (·.1))
  { s with regions := s.regions.map fun reg => { reg with g := reg.g.map (drop reg) } }

/-- DECLARATION_WITHDRAW (R278, R352): the home slice of one row withdraws; with the last, a pending DRV counter and then
the DRVX counter advance, the range is unmapped, and the handle is free. The last waits while the leaves of the range cannot be
written (R312, R350). -/
def execDeclarationWithdraw (decl row : Nat) (s : State) : Res :=
  match s.drv.find? fun d => d.handle == decl with
  | none => .next s
  | some d =>
    match d.withdraw, d.rows[row]? with
    | some ctr, some w =>
      let d' := d.withdrawAt w.slice
      if d'.rows.all fun y => y.scan == .withdrawn then
        let pages := s.lostPages d
        let leaves := pages.flatMap (·.2)
        if !s.unmapReady leaves then .next (s.sendFor leaves)
        else
          let s := (if d.pending then s.advance? d.counter else s).advance? ctr
          let s := s.unmapPages d.ctx pages
          .next { s with drv := s.drv.filter fun y => y.handle != decl }
      else .next (s.modDecl decl fun _ => d')
    | _, _ => .next s

end Sys2Proof.Machine
end

