-- ==== Sys2Proof/Machine/Trigger.lean ====
section
/-! DEFINITION. The trigger conditions of a slot (R60 to R62, R64, R75, R214). -/

namespace Sys2Proof.Machine

/-- A condition of R60 on the token at a head. -/
def headHolds (c : BitVec 3) (t : Option Token) : Bool :=
  match t with
  | none => c == 0 || c == 7
  | some t =>
    if isMarker t then c == 0
    else
      match c.toNat with
      | 0 => true
      | 1 => true
      | 2 => t.kind == .data
      | 3 => t.kind == .data && t.last
      | 4 => t.kind == .data && !t.last
      | 5 => t.kind == .scale
      | 6 => t.kind == .control
      | _ => false

/-- Whether a matched pair is presented (R74, R75). -/
def Elem.matched (el : Elem) : Bool :=
  let isData (n : Fin 4) : Bool :=
    match (el.ins.get n).pres with
    | some t => t.kind == .data
    | none => false
  isData 0 && isData 1

/-- Condition Cn (R60 to R62, R75, R214): a claimed input satisfies only 000; on a side of the active pair a data
condition needs a matched pair; and TAG0 counts at i0. -/
def Elem.condHolds (el : Elem) (trig : Word) (n : Fin 4) : Bool :=
  let c := condOf trig n
  if (el.ins.get n).claimed then c == 0
  else
    headHolds c (el.head? n) && (!isDataCond c || !el.paired n || el.matched)
      && (!isDataCond c || n != 0 ||
        (match el.head? n with
         | some t => t.tag == tag0Of trig
         | none => false))

/-- Whether a slot's trigger holds (R64): V, the predicates, and C0 to C3. -/
def Elem.triggers (el : Elem) (trig : Word) : Bool :=
  validOf trig && el.p &&& pmaskOf trig == pvalOf trig &&& pmaskOf trig
    && ([0, 1, 2, 3] : List (Fin 4)).all (el.condHolds trig)

end Sys2Proof.Machine
end

