-- ==== Sys2Proof/Machine/Packets.lean ====
section
/-! DEFINITION. What the Lunuold link does of its own (R291 to R295, R417 to R426): packets of other packages,
PUTS signals, unreachable destinations, and the reductions of the package switch. -/

namespace Sys2Proof.Machine

/-! ### Waiting packets -/

/-- Sends an answer back to another package (R291, R295). -/
def State.ack (s : State) (src : Nat) (v : RemoteRes) : State :=
  { s with link := { s.link with acks := s.link.acks ++ [(src, v)] } }

/-- What keeps packets in order (R336, R419): the flow of a source, or the child port of a group. -/
def packetKey : Packet → Nat × Nat × Nat
  | .put src flow _ _ _ _ => (0, src, flow)
  | .get src flow _ _ _ _ => (0, src, flow)
  | .send src flow _ _ _ _ => (0, src, flow)
  | .contrib group port _ => (1, group, port)
  | .result group _ => (2, group, 0)
  | .voided group => (2, group, 0)

/-- A waiting packet, or one part-way through, with its progress. -/
def State.setInbound (s : State) (x : Inbound) : State :=
  { s with link := { s.link with inbound := s.link.inbound.map fun y => if y.id = x.id then x else y } }

/-- A packet that waits no more. -/
def State.endInbound (s : State) (x : Inbound) : State :=
  { s with link := { s.link with inbound := s.link.inbound.filter fun y => y.id != x.id } }

/-- A packet that waits no more, and its answer. -/
def State.answerInbound (s : State) (x : Inbound) (src : Nat) (v : RemoteRes) : State := (s.endInbound x).ack src v

/-! ### Packets of memory -/

/-- Where a remote access of 32 bytes lands (R290, R291): the physical address and the memory type, or a failure code
of R295. A store to a DERIVED page is refused as R256 refuses it (R353), and the refusal is a failure of the link
operation, code 2. (DEDUCED, log 131.) -/
def State.remoteAt (s : State) (ctx va : Nat) (isStore : Bool) : Except Nat (Nat × Nat) :=
  match s.walk ctx va with
  | .fault _ => .error 1
  | .leaf _ x =>
    match leafResult x va isStore with
    | .error k => .error (if k = 4 then 2 else 1)
    | .ok _ =>
      let pa := pteAddr x + va % leafBytes x
      match s.mem.homeCheck ctx pa 32 isStore with
      | some _ => .error 2
      | none => .ok (pa, pte x 3 2)

/-- The accessed bit of a remote access, and the count of a malformed entry (R319, R320). -/
def State.remoteTouch (s : State) (ctx va : Nat) : State := (s.translate 0 ctx va false).1

/-- An access of packet `k` of another package to a page of host memory waits in the host port's egress buffer (R415). -/
def State.hostPut (s : State) (k ctx pa : Nat) (v : Payload) : State :=
  let a : Access :=
    { id := s.nextId, fid := k, r := regionSlots, gen := 0, e := 0, slot := 0, ctx := ctx, launch := 0, opc := 0xF0
      seq := 0, kind := .store, pa := pa, va := 0, size := 32, mt := 0, data := v, a := 0, cnt := 0, toks := []
      cost := 0, tva := 0, prog := .start }
  { s with nextId := s.nextId + 1, mem := { s.mem with egress := s.mem.egress ++ [a] } }

/-- Whether some data of a packet still wait in the host port's egress buffer (R415). -/
def State.hostDataLeft (s : State) (k : Nat) : Bool := s.mem.egress.any fun a => a.r == regionSlots && a.fid == k

/-- Whether a packet has all its writes visible and waits only for its signal, which holds back no packet behind it (R336). -/
def State.onlySignal (s : State) (x : Inbound) : Bool :=
  match x.pkt with
  | .put _ _ _ _ [] _ => !s.hostDataLeft x.id
  | _ => false

/-- Whether a waiting packet stands at the front of its flow (R336). -/
def State.isFront (s : State) (x : Inbound) : Bool :=
  (s.link.inbound.takeWhile fun y => y.id != x.id).all fun y => packetKey y.pkt != packetKey x.pkt || s.onlySignal y

/-- The next token of a PUT or PUTS packet is written at its home (R292, R336), once those before it have performed; a line
that is held gets its invalidations (R312), and a token that fails ends the packet. A PUT that has written its last token
within the package is answered. (DEDUCED, log 56.) (DEDUCED, log 71.) -/
def State.putStep (s : State) (x : Inbound) (src flow ctx va : Nat) (data : List Payload) (signal : Option (Bool × Nat)) :
    State :=
  match data with
  | [] => s
  | v :: rest =>
    if s.hostDataLeft x.id then s
    else
      let s := s.remoteTouch ctx va
      match s.remoteAt ctx va true with
      | .error code => s.answerInbound x src (.fail code)
      | .ok (pa, mt) =>
        let x' := { x with pkt := .put src flow ctx (va + 32) rest signal }
        if isHost pa then (s.hostPut x.id ctx pa v).setInbound x'
        else if s.writable mt pa 32 none then
          let s := s.homeStore mt pa (toBytes v 32) none none
          if rest = [] && signal.isNone then s.answerInbound x src (.done []) else s.setInbound x'
        else (s.waitWrite pa).1

/-- A GET packet with one token more, which answers it when it is the last (R292). -/
def State.gotToken (s : State) (x : Inbound) (src flow ctx va n : Nat) (bad : List Nat) (t : Payload × Bool) : State :=
  if n ≤ 1 then s.answerInbound x src (.done (x.got ++ [t]))
  else s.setInbound { x with pkt := .get src flow ctx (va + 32) (n - 1) bad, got := x.got ++ [t], prog := .start }

/-- The next token of a GET packet is read at its home, one a step in ascending address (R292, R321, R335, R336; DESIGN CHOICE,
log 128). The contents of host memory are outside the machine. (DESIGN CHOICE, log 11.) -/
def State.getStep (s : State) (x : Inbound) (src flow ctx va n : Nat) (bad : List Nat) : State :=
  let s := s.remoteTouch ctx va
  match s.remoteAt ctx va false with
  | .error code => s.answerInbound x src (.fail code)
  | .ok (pa, mt) =>
    let here := bad.filter (wordsOf pa 32).contains
    if isHost pa then s.drawFree.2.gotToken x src flow ctx va n bad (Config.freePayload s.drawFree.1, false)
    else if (s.mem.frame pa).derived then
      match s.drvStep ctx ((List.range 32).map (va + ·)) x.prog (here != []) with
      | none => s
      | some (s, p) =>
        if p.bytes.length < 32 then s.setInbound { x with prog := p }
        else s.gotToken x src flow ctx va n bad (ofBytes p.bytes, p.poisoned)
    else if mt = 0 && s.flushBlocked (pa / 64) then s
    else
      let s := ((if mt = 0 then s.flushLine (pa / 64) else s).eccMark here (wordsOf pa 32)).noteRead pa
      let (bs, p) := s.homeRead pa 32
      s.gotToken x src flow ctx va n bad (ofBytes bs, p)

/-- An LSEND packet joins its queue (R293): a queue holds 16 packets, and a full one holds the flow. A packet for what is no
receive queue fails with code 3. One for an element that no configured graph holds waits. (DEDUCED, log 109.) -/
def State.sendStep (s : State) (x : Inbound) (src region elem queue : Nat) (toks : List RxTok) : State :=
  match s.at? region elem 0 with
  | none => s
  | some c =>
    match c.el.ks with
    | .e y =>
      let q := Fin.ofNat 8 queue
      if 8 ≤ queue then s.answerInbound x src (.fail 3)
      else if 16 ≤ (y.rx.get q).length then s
      else (c.put s (c.el.setE { y with rx := y.rx.set q (y.rx.get q ++ [toks]) })).answerInbound x src (.done [])
    | _ => s.answerInbound x src (.fail 3)

/-! ### PUTS_SIGNAL -/

/-- PUTS_SIGNAL (R292, R336, R420): once all the data of the packet are visible, one arrival or one advance, or failure code
2 for a target that is not held. A PUT has no signal, and only its answer waits for its data. A barrier that is held and has
no size yet takes an arrival as any other. (DESIGN CHOICE, log 122.) -/
def execPutsSignal (k : Nat) (s : State) : Res :=
  match s.link.inbound.find? fun x => x.id == k with
  | none => .next s
  | some x =>
    match x.pkt with
    | .put src _ ctx _ [] signal =>
      if s.hostDataLeft k then .next s
      else
        let t := s.endInbound x
        match signal with
        | none => .next (t.ack src (.done []))
        | some (true, n) =>
          if s.holdsCounter ctx n then .next ((t.advance n).ack src (.done [])) else .next (t.ack src (.fail 2))
        | some (false, n) =>
          if s.holdsBarrier ctx n then .next ((t.setBarrier n (t.mem.barrier n).arrive).ack src (.done []))
          else .next (t.ack src (.fail 2))
    | _ => .next s

/-! ### Failed operations -/

/-- A link operation that has issued and waits for its stream input's engine (R214): its opcode and fields. -/
def heldSend? (f : Firing) : Option (Nat × XForm) :=
  if f.stage != .wait then none
  else
    match f.instr with
    | .put x => some (0xF0, x)
    | .puts x => some (0xF1, x)
    | .red x => some (0xF3, x)
    | .lsend x => some (0xF5, x)
    | _ => none

/-- The link operation of an element that waits for its stream input, where it satisfies a property: the element with it issued
and outstanding under the given identifier, and its access. -/
def Ctx.cutHeld (c : Ctx) (el : Elem) (id cycle : Nat) (p : (opc : Nat) → (a : Payload) → Bool) : Elem × List Access :=
  match el.firing.bind fun f => (heldSend? f).map fun x => (f.slot, x.1, x.2) with
  | some (slot, opc, f) =>
    let a := c.src 0 f.sa
    if p opc a then
      let c := { c with slot := slot }
      let el' := ((el.popAll cycle f.pop (readMask [f.sa])).completed slot).bumpSeq
      ({ el' with outs := el'.outs ++ [c.linkOut id opc f.cnt a], firing := none },
        [{ c.access id id opc .link ⟨0, 0, 0, 0, 0, 0⟩ 0 with a := a }])
    else (el, [])
  | none => (el, [])

/-- The link operations of one element that satisfy a property (R295, R417, R426), its send engines, the packets in its
issue queue and the one that waits for its stream input, which is outstanding as `id`, and the graph without them: the engines'
claims are released. -/
def Ctx.cutLinks (c : Ctx) (id cycle : Nat) (p : (opc : Nat) → (a : Payload) → Bool) : GraphSt × List Access :=
  match c.el.ks with
  | .e x =>
    let mine (g : SendEng) : Bool := p g.opc g.a
    let engs := x.sends.filter mine
    let el := engs.foldl (fun el g => el.modInput g.input fun k => { k with claimed := false })
      (c.el.setE { x with sends := x.sends.filter fun g => !mine g })
    let acc (g : SendEng) : Access :=
      { c.access g.id g.id g.opc .link ⟨0, 0, 0, 0, 0, 0⟩ 0 with slot := g.slot, seq := g.seq, a := g.a }
    let hit (a : Access) : Bool := a.kind == .link && p a.opc a.a
    let mark (a : Access) : Access := { a with r := c.r, gen := c.reg.gen }
    let queued := (el.issueQ.filter hit).map mark
    let (el, held) := c.cutHeld { el with issueQ := el.issueQ.filter fun a => !hit a } id cycle p
    (c.g.setElem c.e el, engs.map acc ++ queued ++ held.map mark)
  | _ => (c.g, [])

/-- Failures of accesses join the replies that an image has collected (R401, R408); `no` is the place of the first. -/
def GraphSt.collectFails (g : GraphSt) (code no : Nat) (l : List Access) : GraphSt :=
  { g with collected := g.collected ++ l.zipIdx.map fun (a, i) => ⟨a, .fail code, no + i⟩ }

/-- Draws the places of several performances, and an identifier for each. -/
def State.performNos (s : State) (n : Nat) : State :=
  { s with nextId := s.nextId + n, mem := { s.mem with performs := s.mem.performs + n } }

/-- The link operations of one element that satisfy a property end with a failure code (R295, R417, R426). In a region at rest,
and at an element that a pre-emption has saved, the failures are kept with the image, as the replies that a freeze collects are
(R407, R408). -/
def Ctx.failLinks (c : Ctx) (s : State) (code : Nat) (p : (opc : Nat) → (a : Payload) → Bool) : State :=
  let (g, l) := c.cutLinks s.nextId s.cycle p
  if c.reg.state = .parked || c.reg.state = .frozen || c.reg.freezing || c.el.saved then
    (s.setGraph c.r (g.collectFails code s.mem.performs l)).performNos l.length
  else l.foldl (fun s a => s.replied a (.fail code)) { s.setGraph c.r g with nextId := s.nextId + l.length }

/-- The link operations in a launch's saved image that satisfy a property end with a failure code, kept with the image
(R408, R417, R426). -/
def State.failSaved (s : State) (code : Nat) (x : Launch) (p : (opc : Nat) → (a : Payload) → Bool) : State :=
  match x.saved with
  | none => s
  | some g =>
    let (g, n) := (List.range g.elems.length).foldl (fun acc e =>
      match acc.1.elems[e]? with
      | some el =>
        let reg := { Region.empty with launch := x.id, ctx := x.ctx }
        let (g, l) := ({ r := 0, e := e, slot := 0, reg := reg, g := acc.1, el := el } : Ctx).cutLinks (s.nextId + acc.2) s.cycle p
        (g.collectFails code (s.mem.performs + acc.2) l, acc.2 + l.length)
      | none => acc) (g, 0)
    { s.performNos n with sched := s.sched.modLaunch x.id fun y => { y with saved := some g } }

/-- The link operations that satisfy a property of the launch, the opcode and the operand end with a failure code, wherever
they stand on their way. -/
def State.failLinks (s : State) (code : Nat) (p : (launch opc : Nat) → (a : Payload) → Bool) : State :=
  let s := (List.range regionSlots).foldl (fun s r =>
    match s.region? r with
    | some reg =>
      match reg.g with
      | some g => (List.range g.elems.length).foldl (fun s e =>
          match s.at? r e 0 with
          | some c => c.failLinks s code (p reg.launch)
          | none => s) s
      | none => s
    | none => s) s
  let s := s.sched.launches.foldl (fun s x => s.failSaved code x (p x.id)) s
  let hit (a : Access) : Bool := a.kind == .link && p a.launch a.opc a.a
  let gone := (s.mem.reqs ++ s.mem.egress).filter hit
  gone.foldl (fun s a => s.replied a (.fail code)) { s with
    mem := { s.mem with reqs := s.mem.reqs.filter fun a => !hit a, egress := s.mem.egress.filter fun a => !hit a } }

/-! ### Reductions -/

/-- The rounds of a group that are still open (R423). -/
def GroupSt.openRounds (g : GroupSt) : Nat := (g.rounds.filter fun r => r.result.isNone).length

/-- A child's contribution reaches its switch (R423): two rounds at once. -/
def GroupSt.contributeKid (g : GroupSt) (port : Nat) (c : Contrib) : Option GroupSt :=
  let has (r : Round) : Bool := r.kids.any fun k => k.1 == port
  let pre := g.rounds.takeWhile has
  match g.rounds.dropWhile has with
  | r :: rest => some { g with rounds := pre ++ { r with kids := r.kids ++ [(port, c)] } :: rest }
  | [] => if g.openRounds < 2 then some { g with rounds := g.rounds ++ [⟨none, none, [(port, c)], false, none⟩] } else none

/-- A contribution of a child port (R423): one of a third round waits. -/
def State.contribStep (s : State) (x : Inbound) (group port : Nat) (c : Contrib) : State :=
  match s.link.group? group with
  | none => s.endInbound x
  | some g =>
    if g.record.children.getLsbD port then
      match g.contributeKid port c with
      | some g => (s.endInbound x).setGroup group g
      | none => s
    else s.endInbound x

/-- The child ports of a record in ascending order (R424). -/
def redPorts (r : GroupRec) : List Nat := (List.range 24).filter r.children.getLsbD

/-- Whether a switch has everything a round needs (R423). -/
def redComplete (r : GroupRec) (x : Round) : Bool :=
  (!r.localMember || x.own.isSome) && (redPorts r).all fun p => x.kids.any fun k => k.1 == p

/-- OP of R424 on one lane: FADD_RNE keeps the sign of a zero, ROUND gives +0 (R42, R43). -/
def reduceOp (f : Fmt) (op a b : Nat) : Nat :=
  let x := f.value a
  let y := f.value b
  if op = 0 then (if f.width = 32 then roundTo else roundPlus) f .rne (x.add false y) else roundTo f .rne (Val.minmax (op == 1) x y)

/-- OP lane by lane on the tokens of two contributions (R423, R424). -/
def reduceToks (f : Fmt) (op : Nat) (a b : List Payload) : List Payload :=
  (a.zip b).map fun (x, y) =>
    ofLanes f.lane (fun i =>
      BitVec.ofNat f.lane (reduceOp f op ((unpackCodes f x).getD i 0) ((unpackCodes f y).getD i 0))) f.lanes

/-- The contributions of a round in the order of R424: the local one, then the child ports ascending. -/
def redInOrder (r : GroupRec) (x : Round) : List Contrib :=
  (match x.own with
   | some t => [.toks t]
   | none => []) ++ (redPorts r).filterMap fun p => (x.kids.find? fun k => k.1 == p).map (·.2)

/-- One contribution added to the XS records of EXACT with sum (R425). -/
def addExact (f : Fmt) (n : Nat) (acc : List (List XS)) : Contrib → List (List XS)
  | .recs l => (acc.zip l).map fun (a, y) => (a.zip y).map fun (p, q) => xsMerge p q
  | .toks t => ((acc.zip t).map fun (a, v) => (a.zip (unpack f v)).map fun (p, x) => xsAdd p x false).take n

/-- The records of EXACT at a switch, from cleared (R425). -/
def redExact (r : GroupRec) (f : Fmt) (x : Round) : List (List XS) :=
  (redInOrder r x).foldl (addExact f r.length) (List.replicate r.length (List.replicate f.lanes XS.clear))

/-- What a switch forms of a complete round (R424, R425); under EXACT any NaN is canonical. -/
def redFormed (r : GroupRec) (f : Fmt) (x : Round) : Contrib :=
  if r.exact && r.op == 0 then .recs (redExact r f x)
  else
    match redInOrder r x with
    | .toks t :: rest =>
      .toks (rest.foldl (fun acc c =>
        match c with
        | .toks u => reduceToks f r.op acc u
        | .recs _ => acc) (if r.exact then reduceToks f r.op t t else t))
    | _ => .toks []

/-- The result that the root forms (R423 to R425). -/
def redAtRoot (f : Fmt) : Contrib → List Payload
  | .toks t => t
  | .recs l => l.map fun xs =>
      ofLanes f.lane (fun i => BitVec.ofNat f.lane (xsRound (xs.getD i XS.clear) 1 f .rne)) f.lanes

/-- The result of a round reaches this switch, behind rounds that have theirs: its children get it, and its member's REDR, or
the round is over (R423). -/
def State.roundResult (s : State) (group : Nat) (g : GroupSt) (pre : List Round) (x : Round) (rest : List Round)
    (l : List Payload) : State :=
  let mine := if g.record.localMember then [{ x with sent := true, result := some l }] else []
  let s := s.setGroup group { g with rounds := pre ++ mine ++ rest }
  if redPorts g.record = [] then s else { s with link := { s.link with sentDown := s.link.sentDown ++ [(group, l)] } }

/-- SWITCH_REDUCE (R423): the oldest round that this switch has not passed on. The root forms the result; every
other switch sends its part to its parent. -/
def execSwitchReduce (group : Nat) (s : State) : Res :=
  match s.link.group? group with
  | none => .next s
  | some g =>
    match g.rounds.span fun r => r.sent, Fmt.ofRecord g.record.fmt with
    | (pre, x :: rest), some f =>
      if !redComplete g.record x then .next s
      else
        let c := redFormed g.record f x
        match g.record.parent with
        | some _ =>
          let s := s.setGroup group { g with rounds := pre ++ { x with sent := true } :: rest }
          .next { s with link := { s.link with sentUp := s.link.sentUp ++ [(group, c)] } }
        | none => .next (s.roundResult group g pre x rest (redAtRoot f c))
    | _, _ => .next s

/-- The parent's result arrives (R423): it belongs to the oldest round sent up that has none. -/
def State.resultArrives (s : State) (group : Nat) (l : List Payload) : State :=
  match s.link.group? group with
  | none => s
  | some g =>
    match g.rounds.span fun r => r.result.isSome with
    | (pre, x :: rest) => if x.sent && g.record.parent.isSome then s.roundResult group g pre x rest l else s
    | (_, []) => s

/-- The REDs of a group that are on their way (R291, R426), as group, launch and element: those of the graph of an image, the one
that waits for its stream input with them. -/
def GraphSt.redsOf (g : GraphSt) (launch n : Nat) : List (Nat × Nat × Nat) :=
  let mine (opc : Nat) (a : Payload) : Bool := opc == 0xF3 && (lane32 a 0).toNat == n
  g.elems.zipIdx.flatMap fun (el, e) =>
    ((match el.ks with
      | .e x => (x.sends.filter fun y => mine y.opc y.a).map fun _ => (n, launch, e)
      | _ => []) ++ ((el.issueQ.filter fun a => a.kind == .link && mine a.opc a.a).map fun _ => (n, launch, e))
      ++ (match el.firing.bind heldSend? with
        | some (opc, f) => if mine opc (({ r := 0, e := e, slot := 0, reg := Region.empty, g := g, el := el } : Ctx).src 0 f.sa)
            then [(n, launch, e)] else []
        | none => []))

/-- Whether a REDR of a group waits at an element: the trigger of its slot holds, and no firing stands before it. -/
def Ctx.redrWaits (c : Ctx) (n : Nat) : Bool :=
  c.g.isActive c.el && c.el.stop == .none && c.el.firing.isNone &&
    c.el.img.slots.toList.any fun k => c.el.triggers k.trig &&
      (match decode k.act with
       | .ok (.redr f) => !c.poisoned f.sa && (lane32 (c.src 0 f.sa) 0).toNat == n
       | _ => false)

/-- The REDRs of a group's member that wait in the graph of an image (R294, R426), as group, launch and element. -/
def State.redrsOf (s : State) (reg : Region) (g : GraphSt) (n : Nat) : List (Nat × Nat × Nat) :=
  g.elems.zipIdx.filterMap fun (el, e) =>
    if (s.redGroup? reg.ctx e n).isSome && ({ r := 0, e := e, slot := 0, reg := reg, g := g, el := el } : Ctx).redrWaits n then
      some (n, reg.launch, e)
    else none

/-- The REDRs of a group's member that wait, wherever their image stands. -/
def State.waitingRedrs (s : State) (n : Nat) : List (Nat × Nat × Nat) :=
  (s.regions.flatMap fun x => (x.g.map fun g => s.redrsOf x g n).getD [])
    ++ s.sched.launches.flatMap fun x =>
      (x.saved.map fun g => s.redrsOf { Region.empty with launch := x.id, ctx := x.ctx } g n).getD []

/-- The rounds of a group's local member that are under way (R423, R426): its REDs on their way and its contributions here. -/
def State.ownRounds (s : State) (n : Nat) : List (Nat × Nat × Nat) :=
  let key (a : Access) : Nat × Nat × Nat := (n, a.launch, a.e)
  (s.regions.flatMap fun x => (x.g.map fun g => g.redsOf x.launch n).getD [])
    ++ (s.sched.launches.flatMap fun x => (x.saved.map fun g => g.redsOf x.id n).getD [])
    ++ ((s.mem.reqs ++ s.mem.egress).filter fun a => a.kind == .link && a.opc == 0xF3 && (lane32 a.a 0).toNat == n).map key
    ++ (match s.link.group? n with
      | some g => g.rounds.filterMap fun x => x.ownAcc.map key
      | none => [])

/-- Whether a packet is a child's contribution to a group (R423). -/
def isContrib (p : Packet) (n : Nat) : Bool :=
  match p with
  | .contrib group _ _ => group == n
  | _ => false

/-- A round of a group is void (R426): the contributions on their way end with failure code 4, the open rounds go, with them the
contributions of children that wait for a further round. The REDR of each round of the local member that is under way still owes
its failure, and one that waits with no such round too. (DEDUCED, log 47.) -/
def State.voidGroup (s : State) (n : Nat) : State :=
  let owed := s.ownRounds n
  let owed := owed ++ (s.waitingRedrs n).filter fun k => !owed.contains k && !s.link.unmet.contains k
  let s := s.failLinks 4 fun _ opc a => opc == 0xF3 && (lane32 a 0).toNat == n
  { s with link := { s.link with
      unmet := s.link.unmet ++ owed
      inbound := s.link.inbound.filter fun x => !isContrib x.pkt n
      groups := match s.link.group? n with
        | some g => sset none s.link.groups n (some { g with rounds := [] })
        | none => s.link.groups } }

/-- A switch says that a round of a group is void (R426), since its record has changed there or a member has gone. -/
def State.voidArrives (s : State) (n : Nat) : State :=
  match s.link.group? n with
  | none => s
  | some _ => s.voidGroup n

/-! ### LINK_PACKET_ARRIVAL and PERFORM -/

/-- The next event of a waiting packet, at the front of its flow (R292, R293, R336, R423). -/
def State.inboundStep (s : State) (x : Inbound) (bad : List Nat) : State :=
  if !s.isFront x then s
  else
    match x.pkt with
    | .put src flow ctx va data signal => s.putStep x src flow ctx va data signal
    | .get src flow ctx va n more => s.getStep x src flow ctx va n (bad ++ more)
    | .send src _ region elem queue toks => s.sendStep x src region elem queue toks
    | .contrib group port c => s.contribStep x group port c
    | .result _ _ => s.endInbound x
    | .voided _ => s.endInbound x

/-- PERFORM (R327): an access performs at its home, or a packet of another package has its next event there. -/
def execPerform (k : Nat) (bad : List Nat) (s : State) : Res :=
  match s.mem.reqs.find? fun a => a.id == k with
  | some a => .next (s.performReq a bad)
  | none =>
    match s.link.inbound.find? fun x => x.id == k with
    | some x => .next (s.inboundStep x bad)
    | none => .next s

/-- LINK_PACKET_ARRIVAL (R292, R293, R325, R336, R423, R426): a packet joins those that wait, and has its first event where
it stands at the front of its flow. -/
def execLinkPacketArrival (p : Packet) (s : State) : Res :=
  match p with
  | .result group data => .next (s.resultArrives group data)
  | .voided group => .next (s.voidArrives group)
  | p =>
    let x : Inbound := ⟨s.nextId, p, [], .start⟩
    .next ({ s with
      nextId := s.nextId + 1, link := { s.link with inbound := s.link.inbound ++ [x] } }.inboundStep x [])

/-! ### DESTINATION_UNREACHABLE -/

/-- Whether a launch's link group is the given one (R369). -/
def State.inLinkGroup (s : State) (launch group : Nat) : Bool :=
  match s.sched.launch? launch with
  | some x => x.record.linkGroup.toNat == group
  | none => false

/-- DESTINATION_UNREACHABLE (R417): a package of a link group is unreachable from now on, and every operation owed to it
fails with code 3. -/
def execDestinationUnreachable (dest : LinkDest) (s : State) : Res :=
  let t := s.failLinks 3 fun l opc a => opc != 0xF3 && (lane32 a 2).toNat == dest.pkg && s.inLinkGroup l dest.linkGroup
  .next (if s.link.unreachable.contains (dest.linkGroup, dest.pkg) then t
    else { t with link := { t.link with unreachable := t.link.unreachable ++ [(dest.linkGroup, dest.pkg)] } })

end Sys2Proof.Machine
end

