-- ==== Sys2Proof/Machine/Tables.lean ====
section
/-! DEFINITION. The agents beside the fabric (R303, R308 to R312, R412 to R416): host and control-core accesses,
acknowledgements; and what the device operating system writes: buckets (R317, R318), contexts (R287, R434), frames
(R322, R323), host ranges (R416), reduction groups (R421, R422, R426), the time-triggered table (R373), shootdowns
(R397, R404) and the Badger sweeper (R405). -/

namespace Sys2Proof.Machine

/-! ### Line-granular agents and the host -/

/-- The host's number among the agents that have requests at the homes; control cores are 0 to 7. -/
def hostAgent : Nat := 8

/-- Whether the host may reach `n` bytes of device memory, within one line (R301, R413). -/
def State.exported (s : State) (pa n : Nat) : Bool :=
  s.plat.ioUp && decide (0 < n) && decide (pa + n ≤ s.plat.exportGib * 2 ^ 30)
    && decide (pa / 64 = (pa + n - 1) / 64)

/-- A request of the host or a control core joins its queue at the home and performs at once where it may; one that waits is
taken up again by PERFORM (R303, R312, R325, R327). -/
def State.portAccess (s : State) (agent pa size : Nat) (req : PortReq) : State :=
  (s.joinReqs agent pa size 0 req).performReq (portReq s.nextId agent pa size 0 req) []

/-- The mark of a cluster (R435): 0 usable, 1 slow, 2 mapped out, which hides a slow mark. -/
def PlatSt.mark (p : PlatSt) (n : Nat) : Nat := min 2 (sget 0 p.clusters n)

/-- Adds a mark to a cluster (R438): 1 slow, 2 mapped out. (DEDUCED, log 77.) -/
def PlatSt.addMark (p : PlatSt) (n m : Nat) : PlatSt := { p with clusters := sset 0 p.clusters n (sget 0 p.clusters n ||| m) }

/-- The mark of each of the 512 clusters, four to a byte (R435). -/
def PlatSt.clusterMap (p : PlatSt) : List Byte :=
  (List.range 128).map fun b => BitVec.ofNat 8 (((List.range 4).map fun j => p.mark (4 * b + j) * 4 ^ j).sum)

/-- The status mailbox is written: the device clock of its last update (R435). -/
def State.mailed (s : State) : State := { s with plat := { s.plat with lastUpdate := s.clock } }

/-- The bytes of the status mailbox (R435). -/
def PlatSt.mailbox (p : PlatSt) : List Byte :=
  [0x4B, 0x38, 0x53, 0x4D] ++ leBytes 1 p.mailState ++ leBytes 1 p.highest ++ leBytes 2 p.safeReason
    ++ leBytes 4 p.failStep ++ leBytes 4 p.bootCount ++ leBytes 8 p.lastUpdate.toNat ++ List.replicate 8 0
    ++ p.clusterMap ++ (p.meas.toList.flatMap fun m => leBytes 48 m.toNat)
    ++ leBytes 4 p.power ++ leBytes 2 p.coolant ++ leBytes 2 p.hottest ++ leBytes 4 p.powerLimit
    ++ List.replicate 0x694 0 ++ (List.range 1024).flatMap fun n => leBytes 2 (sget 0 p.errors n)

/-- The bytes of BAR0 that the manual gives (R371, R413): the mailbox, and a context's count of status records. -/
def State.barByte? (s : State) (off : Nat) : Option Byte :=
  if off < 4096 then s.plat.mailbox[off]?
  else if 0x500000 ≤ off then
    (s.sched.context? ((off - 0x500000) / 4096)).bind fun c => (leBytes 4 c.written)[(off - 0x500000) % 4096]?
  else none

/-- A host read of BAR0 (R413). What the manual does not list reads as any byte. (DESIGN CHOICE, log 102.) -/
def State.barRead (s : State) (off n : Nat) : State :=
  let draws := (n + 31) / 32
  let free := (List.range draws).flatMap fun i => toBytes (Config.freePayload (s.freeCtr + i)) 32
  let bs := (List.range n).map fun i => (s.barByte? (off + i)).getD (free.getD i 0)
  { s with freeCtr := s.freeCtr + draws }.hostRead hostAgent bs false

/-- HOST_CXL_ACCESS (R413, R414): reads and writes of device memory are home-side accesses, cached lines are MOESI requests,
a write to a launch window submits (R371), and a write to a read-only region is dropped. (DEDUCED, log 70.) -/
def execHostCxlAccess (a : HostAcc) (s : State) : Res :=
  match a with
  | .memRead pa n bad => .next (if s.exported pa n then s.portAccess hostAgent pa n (.read n bad) else s)
  | .memWrite pa bytes =>
    .next (if s.exported pa bytes.length then s.portAccess hostAgent pa bytes.length (.write bytes) else s)
  | .cache line req => .next (if s.exported (64 * line) 64 then s.portAccess hostAgent (64 * line) 64 (.line req) else s)
  | .barRead off n => .next (s.barRead off n)
  | .barWrite off bytes =>
    if 0x100000 ≤ off && off < 0x500000 then
      execLaunchWindowWrite ((off - 0x100000) / 4096) ((off - 0x100000) % 4096) bytes s
    else .next s
  | .cfgRead off n => .next (s.hostRead hostAgent ((List.range n).map fun i => Config.cfgByte (off + i)) false)
  | .cfgWrite _ _ => .next s

/-- The bytes of the package's memory: eight stacks of 48 GiB (R8, R19), at device physical addresses from 0 on.
(DESIGN CHOICE, log 118.) -/
def packageBytes : Nat := 8 * 48 * 2 ^ 30

/-- CONTROL_CORE_ACCESS (R303, R309): one of the eight control cores asks for a line of the package's memory (R8, R19). -/
def execControlCoreAccess (core line : Nat) (req : LineReq) (s : State) : Res :=
  .next (if core < 8 && decide (64 * line < packageBytes) then s.portAccess core (64 * line) 64 (.line req) else s)

/-- INVALIDATION_ACKNOWLEDGE (R311, R312). -/
def execInvalidationAcknowledge (agent line : Nat) (s : State) : Res := .next (s.acknowledge agent line)

/-! ### Buckets -/

/-- A bucket at the boundary of an interval (R317, R318): its level rises by its rate up to its burst, and what was
lent lapses. -/
def Bucket.refill (b : Bucket) : Bucket := { b with level := min b.burst (b.level + b.rate), borrowed := 0 }

/-- BUCKET_REFILL (R317). (DEDUCED, log 37.) -/
def execBucketRefill (die : Nat) (s : State) : Res :=
  .next { s with
    mem := { s.mem with
      buckets := s.mem.buckets.map fun (k, b) => if k / 1024 = die then (k, b.map Bucket.refill) else (k, b)
      ports := s.mem.ports.map fun (k, u) => if k = die then (k, { u with inIn := 0, outIn := 0 }) else (k, u) } }

/-- The rates set on a die's port, but for one context (R317). -/
def MemSt.ratesBut (m : MemSt) (die ctx : Nat) : Nat :=
  (m.buckets.map fun (k, b) =>
    match b with
    | some b => if k / 1024 = die && k % 1024 ≠ ctx then b.rate else 0
    | none => 0).sum

/-- The setting of a bucket (R317). -/
def State.setBucket (s : State) (die ctx rate burst : Nat) (borrower : Bool) : State :=
  if die < 8 && decide (ctx < 1024) && decide (s.mem.ratesBut die ctx + rate ≤ 114688) then
    let level := match sget none s.mem.buckets (bucketKey die ctx) with
      | some b => min b.level burst
      | none => burst
    { s with
      mem := { s.mem with
        buckets := sset none s.mem.buckets (bucketKey die ctx) (some ⟨rate, burst, level, 0, borrower⟩) } }
  else s

/-! ### Contexts -/

/-- Whether what a new context is to hold exists (R8, R19, R287, R289, R369, R384). -/
def cfgOk (c : ContextCfg) : Bool :=
  decide (c.ctx < 1024) && c.counters.all (fun n => decide (n < 4096)) && c.barriers.all (fun n => decide (n < 16384))
    && c.hostGroups.all (fun n => decide (n < 4096)) && c.linkGroups.all (fun n => decide (n < 4096))
    && decide (c.maxPrio < 4) && c.root % 2 ^ 13 == 0 && decide (c.root < packageBytes) && c.ringBase % 64 == 0
    && decide (1 ≤ c.ringSlots) && decide (c.ringSlots ≤ 1024)
    && decide (c.ringBase + 32768 * (c.ringSlots + 1) ≤ packageBytes)

/-- Creates a context (R287, R384, R427, R434): its counters start at 0 and its ring's header is written. -/
def State.createContext (s : State) (c : ContextCfg) : State :=
  if s.running && cfgOk c && (s.sched.context? c.ctx).isNone then
    let s := c.counters.foldl (fun s n => s.setCounter n 0) s
    let x : Context := ⟨c, 1, 0, 0⟩
    let s := s.ownWrite c.ringBase (ringHeader x)
    { s with sched := { s.sched with contexts := s.sched.contexts ++ [x] } }
  else s

/-- Destroys a context that has no live launch (R287). -/
def State.destroyContext (s : State) (ctx : Nat) : State :=
  if s.sched.launches.any fun l => l.ctx == ctx && l.state != .ended then s
  else
    { s with
      sched := { s.sched with
        contexts := s.sched.contexts.filter fun c => c.cfg.ctx != ctx
        launches := s.sched.launches.filter fun l => l.ctx != ctx } }

/-! ### Frames and host ranges -/

/-- A frame of zeros, with no line of it held and none of its words marked (R323). -/
def MemSt.zeroFrame (m : MemSt) (frame : Nat) : MemSt :=
  { m with
    bytes := m.bytes.filter fun c => c.1 / 2 ^ 16 != frame
    poison := m.poison.filter fun w => w / 2 ^ 14 != frame
    dir := m.dir.filter fun d => d.1 / 2 ^ 10 != frame
    order := m.order ++ (List.range 1024).map fun i => ⟨1024 * frame + i, m.performs, true⟩ }

/-- The lines of a frame that the directory knows. -/
def MemSt.frameLines (m : MemSt) (frame : Nat) : List Nat := (m.dir.map (·.1)).filter fun l => l / 2 ^ 10 == frame

/-- Whether the home copies of a frame can be written now (R309, R312, R350). -/
def State.frameReady (s : State) (frame : Nat) : Bool :=
  !s.scanBlocks (frame * 2 ^ 16) (2 ^ 16)
    && (s.mem.frameLines frame).all fun l => s.claimable (s.mem.typeOf l) (64 * l) 64 none

/-- A frame is zeroed as a write of its home copies (R309, R323, R353): window words are recalled first, and the rows of live
declarations in it change with it. -/
def State.zeroFrame (s : State) (frame : Nat) : State :=
  let s := (s.mem.frameLines frame).foldl (fun s l => s.overlapRecall (s.mem.typeOf l) (64 * l) 64 none none) s
  { s with
    mem := s.mem.zeroFrame frame
    drv := s.drv.map fun d => d.stored s.mem.bytes (s.mem.zeroFrame frame).bytes s.mem.poison (frame * 2 ^ 16) (2 ^ 16) }

/-- The frames of the package's memory (R8, R19, R322). -/
def packageFrames : Nat := packageBytes / 2 ^ 16

/-- The entry of a frame written into the frame table; of one that passes to another owner nothing is known any more. -/
def MemSt.putFrame (m : MemSt) (frame : Nat) (owner : Option Nat) (ro derived : Bool) (leaf : Option Nat) : MemSt :=
  let old := sget noFrame m.frames frame
  let moves := owner != old.owner
  let ent : FrameEnt :=
    if moves then ⟨owner, ro, derived, false, false, leaf⟩
    else { old with ro := ro, derived := derived, leaf := leaf.orElse fun _ => old.leaf }
  { m with
    frames := sset noFrame m.frames frame ent
    cold := if moves then m.cold.filter fun c => c.2 != frame else m.cold }

/-- Writes an entry of the frame table (R322, R323, R397), with the page-table entry that maps the frame: a frame that passes
to a new owner is zeroed first, which waits as any write of its home copies does (R312, R350). (DESIGN CHOICE, log 118.) -/
def State.setFrame (s : State) (frame : Nat) (owner : Option Nat) (ro derived : Bool) (leaf : Option Nat) : State :=
  let zeroes := owner.isSome && owner != (sget noFrame s.mem.frames frame).owner
  if packageFrames ≤ frame then s
  else if zeroes && !s.frameReady frame then s.sendFor ((s.mem.frameLines frame).map (64 * ·))
  else
    let t := if zeroes then s.zeroFrame frame else s
    { t with mem := t.mem.putFrame frame owner ro derived leaf }

/-- Writes an entry of the host range table (R416). -/
def State.setHostRange (s : State) (idx : Nat) (r : Option HostRange) : State :=
  let ok := match r with
    | some x => x.base % 2 ^ 16 == 0 && x.limit % 2 ^ 16 == 0 && isHost x.base && decide (x.base < x.limit)
        && decide (x.limit ≤ 2 ^ 52)
    | none => true
  if 4096 ≤ idx || !ok then s
  else
    let rest := s.mem.hostRanges.filter fun x => x.1 != idx
    { s with
      mem := { s.mem with
        hostRanges := match r with
          | some x => insertBy (·.1) (idx, x) rest
          | none => rest } }

/-! ### Reduction groups -/

/-- Whether a format may be reduced in a mode (R422). -/
def groupFormat (rec : Word) (exact : Bool) : Bool :=
  if exact then
    rec == recINT32 || rec == recFP16 ||
      (match Fmt.ofRecord rec with
       | some f => f.cls != .slice && decide (2 ≤ f.width) && decide (f.width ≤ 8) && (f.cls != .float || sumsFit .rowsum f)
       | none => false)
  else rec == recFP32 || rec == recBF16

/-- The fields of a group record as its 32 bytes hold them (R421); none where one is outside its legal values. -/
def groupParse? (bs : List Byte) : Option GroupRec :=
  let f (o n : Nat) : Nat := fieldOf bs o n
  if bs.length = 32 && decide (f 4 1 ≤ 1) && decide (f 8 4 < 2 ^ 24) && (decide (f 12 1 ≤ 23) || f 12 1 == 0xFF)
      && decide (f 13 1 ≤ 1) && f 24 8 == 0 then
    some
      { fmt := BitVec.ofNat 32 (f 0 4), exact := f 4 1 == 1, op := f 5 1, length := f 6 1, vlane := f 7 1
        children := BitVec.ofNat 24 (f 8 4), parent := if f 12 1 = 0xFF then none else some (f 12 1)
        localMember := f 13 1 == 1, linkGroup := f 14 2, endpoint := f 16 4, ctx := f 20 4 }
  else none

/-- Whether a group record is one that the device operating system may write (R421, R422). -/
def State.groupOk (s : State) (r : GroupRec) : Bool :=
  groupFormat r.fmt r.exact && decide (r.op ≤ 2) && decide (1 ≤ r.length) && decide (r.length ≤ 128)
    && decide (r.vlane ≤ 7)
    && (match r.parent with
        | some p => decide (p < 24)
        | none => true)
    && (r.localMember || r.endpoint == 0)
    && (match s.sched.context? r.ctx with
        | some c => c.cfg.linkGroups.contains r.linkGroup
        | none => false)

/-- Writes or removes a group record (R421, R422, R426): a change voids the open rounds, whose REDRs still fail. A RED that is
pending while its group has no record fails with code 4 when one is written. (DEDUCED, log 47.) -/
def State.putGroupRecord (s : State) (n : Nat) (r : Option GroupRec) : State :=
  let put (s : State) : State := { s with link := { s.link with groups := sset none s.link.groups n (r.map fun x => ⟨x, []⟩) } }
  match s.link.group? n with
  | none => if r = none then s else put (s.voidGroup n)
  | some g => if r = some g.record then s else put (s.voidGroup n)

/-- The write of a group record's 32 bytes, or its removal (R421); one that must be refused changes nothing. -/
def State.setGroupRecord (s : State) (n : Nat) (r : Option (List Byte)) : State :=
  if 4096 ≤ n then s
  else
    match r with
    | none => s.putGroupRecord n none
    | some bs =>
      match groupParse? bs with
      | none => s
      | some x => if s.groupOk x then s.putGroupRecord n (some x) else s

/-! ### The time-triggered table -/

/-- Whether an entry of the table is legal (R373). -/
def timeOk (e : TimeEnt) : Bool :=
  (e.period == 0 || (decide (1000 ≤ e.period) && decide (e.period ≤ 2 ^ 62))) && decide (e.offset < 2 ^ 64)
    && decide (e.rule ≤ 2)

/-- The first start of an entry that is not before a time (R373). (DEDUCED, log 64.) -/
def firstStart (e : TimeEnt) (now : Nat) : Nat :=
  if e.period = 0 || decide (now ≤ e.offset) then 0 else (now - e.offset + e.period - 1) / e.period

/-- An entry of the table for a context as its 88 bytes hold it (R369, R373). -/
def timeParse? (ctx : Nat) (bs : List Byte) : Option TimeEnt :=
  let e : TimeEnt := ⟨ctx, launchRec (bs.take 64), fieldOf bs 64 8, fieldOf bs 72 8, fieldOf bs 80 1⟩
  if bs.length = 88 && fieldOf bs 81 7 == 0 && timeOk e then some e else none

/-- Writes an entry of the time-triggered table for its owning context, or removes it (R373). -/
def State.setTimeEntry (s : State) (idx : Nat) (e : Option (Nat × List Byte)) : State :=
  let put (x : Option TimeEnt) : State :=
    { s with
      sched := { s.sched with
        table := sset none s.sched.table idx (x.map fun x => ⟨x, firstStart x s.clock.toNat, 0⟩) } }
  if 256 ≤ idx then s
  else
    match e with
    | none => put none
    | some (ctx, bs) => if (timeParse? ctx bs).isSome then put (timeParse? ctx bs) else s

/-! ### The walker region -/

/-- Whether a reply that bears a generation of a region slot is still outstanding (R324). -/
def MemSt.genInUse (m : MemSt) (r : Nat) (gen : BitVec 12) : Bool :=
  let hit (a : Access) : Bool := a.r == r && a.gen == gen
  m.reqs.any hit || m.replays.any hit || m.egress.any hit || (m.replies.any fun y => hit y.acc)
    || m.held.any fun h => h.held.any hit

/-- The first generation of a region slot, of `n` from one on, that no outstanding reply bears (R324). -/
def MemSt.freeGen (m : MemSt) (r : Nat) : (n : Nat) → BitVec 12 → Option (BitVec 12)
  | 0, _ => none
  | n + 1, g => if m.genInUse r g then m.freeGen r n (g + 1) else some g

/-- The next generation of a region slot (R324), passing over those still in use; none while all of them are. -/
def MemSt.nextGen (m : MemSt) (r : Nat) (gen : BitVec 12) : Option (BitVec 12) := m.freeGen r 4096 (gen + 1)

/-- The device operating system configures the page-walk graph of a die (R16): the free walker region starts to load the
image at a physical address, once a generation is free (R324). It belongs to no context and no launch. -/
def State.loadWalker (s : State) (die image : Nat) (pl : Placement) : State :=
  match s.region? (128 + die) with
  | some reg =>
    if s.running && decide (die < 8) && reg.state == .free then
      match s.mem.nextGen (128 + die) reg.gen with
      | some gen =>
        s.setRegion (128 + die) { Region.empty with state := .loading, gen := gen, ctx := 1024, image := some image, pl := pl }
      | none => s
    else s
  | none => s

/-! ### Service -/

/-- What service undoes of the actions of R432: conservative timings, and a cluster mapped out; a slow mark stays (R438). -/
def PlatSt.serviced (p : PlatSt) : Service → PlatSt
  | .timings => { p with conservative := false }
  | .cluster n => { p with clusters := sset 0 p.clusters n (sget 0 p.clusters n % 2), mapOutNext := setDel n p.mapOutNext }

/-! ### CONFIG_REGISTER_WRITE -/

/-- CONFIG_REGISTER_WRITE: the device operating system writes one of its tables, configures a walker region (R16), or service
undoes an action (R432); a record that must be refused changes nothing. -/
def execConfigRegisterWrite (w : ConfigWrite) (s : State) : Res :=
  match w with
  | .createContext c => .next (s.createContext c)
  | .destroyContext ctx => .next (s.destroyContext ctx)
  | .frame frame owner ro derived leaf => .next (s.setFrame frame owner ro derived leaf)
  | .hostRange idx r => .next (s.setHostRange idx r)
  | .groupRecord group r => .next (s.setGroupRecord group r)
  | .bucket die ctx rate burst borrower => .next (s.setBucket die ctx rate burst borrower)
  | .timeEntry idx e => .next (s.setTimeEntry idx e)
  | .ageLimit die ns =>
    .next (if die < 8 then { s with sched := { s.sched with ageLimits := sset 0 s.sched.ageLimits die ns } } else s)
  | .externalWaitLimit ns => .next { s with sched := { s.sched with extLimit := ns } }
  | .badgerWatermark n => .next { s with mem := { s.mem with badgerMark := n } }
  | .exportSize gib => .next (if gib ≤ 384 then { s with plat := { s.plat with exportGib := gib } } else s)
  | .walkerGraph die image pl => .next (s.loadWalker die image pl)
  | .service x => .next ({ s with plat := s.plat.serviced x } : State).mailed

/-! ### SHOOTDOWN -/

/-- The translation nodes of a graph without the entries of a context that cover a VA (R397). -/
def GraphSt.shoot (g : GraphSt) (ctx va : Nat) : GraphSt :=
  { g with
    elems := g.elems.map fun el =>
      match el.ks with
      | .e x => el.setE { x with tlb := x.tlb.filter fun t => !(t.ctx == ctx && decide (t.va ≤ va) && decide (va < t.va + t.size)) }
      | _ => el }

/-- SHOOTDOWN (R397, R404): every translation node drops the page, saved images with them, and the walks under way for the context
answer nothing more. (DEDUCED, log 127.) -/
def execShootdown (ctx va : Nat) (s : State) : Res :=
  .next { s with
    regions := s.regions.map fun x =>
      { x with g := x.g.map fun g => if x.ctx = ctx then g.unask.shoot ctx va else g.shoot ctx va }
    sched := { s.sched with
      launches := s.sched.launches.map fun l => { l with saved := l.saved.map fun g => g.shoot ctx va }
      checkpoints := s.sched.checkpoints.map fun (l, g) => (l, g.shoot ctx va) } }

/-! ### BADGER_VISIT -/

/-- The die of a frame: the die of the home slice of its first line, with 512 slices to a die (R19).
(DESIGN CHOICE, log 61.) -/
def MemSt.frameDie (m : MemSt) (frame : Nat) : Nat := (m.homeOf (frame * 1024)).val / 512

/-- Whether a frame holds pinned shadows: bytes of a base row of a declaration lie in it (R340, R355). -/
def State.pinned (s : State) (frame : Nat) : Bool :=
  s.drv.any fun d => d.rows.any fun w => d.touches w (frame * 2 ^ 16) (2 ^ 16)

/-- Where a page table of `level` has the leaf that maps a frame (R319). -/
def MemSt.findPte (m : MemSt) (frame : Nat) : (level table : Nat) → Option Nat
  | level, table =>
    (List.range 1024).findSome? fun i =>
      let a := table + 8 * i
      let x := m.pteOf a
      if !x.getLsbD 0 || !pteOk level x then none
      else if x.getLsbD 1 then
        match level with
        | 0 => none
        | l + 1 => m.findPte frame l (pteAddr x)
      else if m.maps a frame then some a
      else none

/-- Where the page-table entry that maps a frame stands (R319, R322): the one that is known, or one that the page tables of its
owner hold. -/
def State.framePte? (s : State) (frame : Nat) : Option Nat :=
  (s.mem.leafPtr? frame).orElse fun _ =>
    ((sget noFrame s.mem.frames frame).owner.bind s.root?).bind fun root => s.mem.findPte frame 3 root

/-- Whether a frame is of device memory type (R319): the entry that maps it says so. (DEDUCED, log 63.) -/
def State.deviceFrame (s : State) (frame : Nat) : Bool :=
  match s.framePte? frame with
  | some a => pte (s.mem.pteOf a) 3 2 == 2
  | none => false

/-- The page-table entry at an address with its A bit clear (R405). -/
def State.clearA (s : State) (leaf : Option Nat) : State :=
  match leaf with
  | some a => s.ownAmend (a + 2) 0x7F 0
  | none => s

/-- BADGER_VISIT (R405): each visit clears the frame's accessed bit and the A bit of the entry that maps it.
(DEDUCED, log 63.) -/
def execBadgerVisit (frame : Nat) (s : State) : Res :=
  let f := sget noFrame s.mem.frames frame
  let die := s.mem.frameDie frame
  let joins := f.owner.isSome && f.swept && !f.accessed && !s.pinned frame && !s.deviceFrame frame
    && !(s.mem.cold.any fun c => c.2 == frame) && decide ((s.mem.cold.filter fun c => c.1 == die).length < s.mem.badgerMark)
  let t := s.clearA (s.framePte? frame)
  .next { t with
    mem := { t.mem with
      frames := sset noFrame t.mem.frames frame { f with accessed := false, swept := f.owner.isSome }
      cold := if joins then t.mem.cold ++ [(die, frame)] else t.mem.cold } }

end Sys2Proof.Machine
end

