-- ==== Sys2Proof/Machine/Admit.lean ====
section
/-! DEFINITION. Which region a launch gets (R376 to R378): the sites an image needs, shapes and rectangles, age promotion,
and admission. -/

namespace Sys2Proof.Machine

/-! ### Fitting -/

/-- The cluster mark of R435: 0 usable, 1 slow, 2 mapped out. -/
def State.clusterMark (s : State) (cl : Nat) : Nat := s.plat.mark cl

/-- Whether a region's rectangle holds a cluster. -/
def Region.covers (x : Region) (cx cy : Nat) : Bool :=
  x.state != .free && decide (x.x ≤ cx) && decide (cx < x.x + x.w) && decide (x.y ≤ cy) && decide (cy < x.y + x.h)

/-- The region slots of a die (R17). -/
def dieSlots (die : Nat) : List Nat := (List.range 16).map fun k => 16 * die + k

/-- Whether a cluster of a die is usable and in no region but the given one. -/
def State.clusterFree (s : State) (die cx cy : Nat) (but : Option Nat) : Bool :=
  s.clusterMark (64 * die + 8 * cy + cx) == 0 &&
    (dieSlots die).all fun r =>
      some r == but ||
        (match s.region? r with
         | some x => !x.covers cx cy
         | none => true)

/-- Whether a rectangle of clusters is free. -/
def State.rectFree (s : State) (die x y w h : Nat) (but : Option Nat) : Bool :=
  decide (x + w ≤ 8) && decide (y + h ≤ 8) &&
    (List.range h).all fun j => (List.range w).all fun i => s.clusterFree die (x + i) (y + j) but

/-- A free region slot of a die, one that has a generation to give (R324). -/
def State.freeSlot? (s : State) (die : Nat) : Option Nat :=
  (dieSlots die).find? fun r =>
    match s.region? r with
    | some x => x.state == .free && (s.mem.nextGen r x.gen).isSome
    | none => false

/-! ### The sites an image needs -/

/-- Counts of elements by kind. -/
structure KindCount where
  c : Nat
  m : Nat
  l : Nat
  s : Nat
  x : Nat
  e : Nat
deriving DecidableEq, Repr, Inhabited

/-- Whether each count of one stays within another's. -/
def KindCount.within (a b : KindCount) : Bool :=
  decide (a.c ≤ b.c) && decide (a.m ≤ b.m) && decide (a.l ≤ b.l) && decide (a.s ≤ b.s) && decide (a.x ≤ b.x) && decide (a.e ≤ b.e)

/-- What the partitions of an image need of each kind: one partition runs at a time (R82, R378). (DEDUCED, log 87.) -/
def ImageRec.need (x : ImageRec) : KindCount :=
  let most (k : ElemKind) : Nat :=
    (List.range x.parts).foldl (fun n p => max n (x.elems.filter fun (r : ElemRec) => r.kind == k && r.part == p).length) 0
  ⟨most .C, most .M, most .L, most .S, most .X, most .E⟩

/-- The sites of a rectangle of clusters (R14, R16, R17): sixteen in each cluster, the E elements beside its edge
clusters, four to a cluster side, and in column 0 without those of the walker region. -/
def rectSites (x y w h : Nat) : KindCount :=
  let west := if x = 0 then 1 else 0
  let side (b : Bool) : Nat := if b then 1 else 0
  ⟨6 * w * h - west * h, 4 * w * h, 2 * w * h, 3 * w * h, w * h,
    4 * w * (side (y == 0) + side (y + h == 8)) + 4 * h * side (x + w == 8) + 3 * h * west⟩

/-! ### Shapes -/

/-- What a record's image asks of a rectangle (R378): its least and preferred width and height, and the sites. -/
structure ShapeRange where
  w0 : Nat
  w1 : Nat
  h0 : Nat
  h1 : Nat
  need : KindCount
deriving DecidableEq, Repr, Inhabited

/-- Every width and height of a rectangle on a die. -/
def allShapes : List (Nat × Nat) := (List.range 8).flatMap fun i => (List.range 8).map fun j => (i + 1, j + 1)

/-- Whether a rectangle of a shape somewhere on a die has the sites. -/
def placeable (n : KindCount) (w h : Nat) : Bool :=
  (List.range 64).any fun o => decide (o % 8 + w ≤ 8) && decide (o / 8 + h ≤ 8) && n.within (rectSites (o % 8) (o / 8) w h)

/-- The smallest shape on which the mapper places an image, among those that meet a least width and height: least area,
then lesser width (R378). -/
def smallest? (n : KindCount) (lw lh : Nat) : Option (Nat × Nat) :=
  (sortBy (fun (w, h) => w * h * 16 + w)
    (allShapes.filter fun (w, h) => decide (lw ≤ w) && decide (lh ≤ h) && placeable n w h)).head?

/-- The resolved shapes of R378: the smallest shape's dimensions replace a least dimension of 0, a preferred dimension of
0 takes the least in force, and one below it is raised to it. None where the mapper can place the image nowhere. -/
def resolveShape (lw lh pw ph : Nat) (n : KindCount) : Option ShapeRange :=
  let fin (w0 h0 : Nat) : ShapeRange := ⟨w0, max w0 pw, h0, max h0 ph, n⟩
  if lw = 0 || lh = 0 then
    (smallest? n lw lh).map fun (w, h) => fin (if lw = 0 then w else lw) (if lh = 0 then h else lh)
  else some (fin lw lh)

/-- The candidate shapes, the largest area first, then the wider (R378). -/
def ShapeRange.shapes (r : ShapeRange) : List (Nat × Nat) :=
  sortBy (fun (w, h) => (64 - w * h) * 16 + (8 - w))
    (allShapes.filter fun (w, h) => decide (r.w0 ≤ w) && decide (w ≤ r.w1) && decide (r.h0 ≤ h) && decide (h ≤ r.h1))

/-- The rectangle that the scheduler takes on a die (R378): x, y, width, height. -/
def State.fit? (s : State) (die : Nat) (r : ShapeRange) (but : Option Nat) : Option (Nat × Nat × Nat × Nat) :=
  r.shapes.findSome? fun (w, h) =>
    ((List.range 64).find? fun o =>
      s.rectFree die (o % 8) (o / 8) w h but && r.need.within (rectSites (o % 8) (o / 8) w h)).map
      fun o => (o % 8, o / 8, w, h)

/-- The bytes of a launch's image where its fields are legal (R117). -/
def State.imageOk? (s : State) (l : Launch) : Option (List Byte) :=
  match s.readVa l.ctx l.record.imageVa.toNat 64 with
  | some head =>
    if (firstBad (headerChecks head)).isSome then none
    else
      (s.readVa l.ctx l.record.imageVa.toNat (fieldOf head 8 4)).bind fun bs => if (imageBad bs).isSome then none else some bs
  | none => none

/-- The shape range of a record's image (R111, R378). An image that R117 refuses asks for one cluster and is refused
there when it loads. -/
def State.shapeOf (s : State) (l : Launch) : Option ShapeRange :=
  match s.imageOk? l with
  | some bs => resolveShape (fieldOf bs 52 1) (fieldOf bs 53 1) (fieldOf bs 54 1) (fieldOf bs 55 1) (readImage bs).need
  | none => some ⟨1, 1, 1, 1, ⟨0, 0, 0, 0, 0, 0⟩⟩

/-- The rectangle that a die has for a launch, or none. An image whose largest partition no rectangle of any die can hold stays
READY, and holds back those behind it as any oldest record does. (DESIGN CHOICE, log 130.) -/
def State.fitOn? (s : State) (die : Nat) (l : Launch) (but : Option Nat) : Option (Nat × Nat × Nat × Nat) :=
  (s.shapeOf l).bind fun r => s.fit? die r but

/-! ### Age promotion -/

/-- The launch of a region, running below priority 3, whose region would make room on its die (R377). -/
def State.makesRoom (s : State) (x : Launch) (l : Launch) : Bool :=
  match l.region with
  | some q =>
    l.state == .running && decide (l.prio < 3) && decide (q < 128) && (s.fitOn? (dieOf q) x (some q)).isSome
      && (match s.region? q with
          | some x => x.state == .armed && x.preempt == .none
          | none => false)
  | none => false

/-- Whether a READY record has waited longer than a die's age limit (R377). -/
def State.overAge (s : State) (x : Launch) (die : Nat) : Bool :=
  decide (die < 8) && decide (x.readyAt + sget 0 s.sched.ageLimits die < s.clock.toNat)

/-- The launch to pre-empt, on a die whose age limit has passed: of the lowest priority, the youngest (R377). -/
def State.victim? (s : State) (x : Launch) : Option Launch :=
  let there (l : Launch) : Bool :=
    match l.region with
    | some q => s.overAge x (dieOf q)
    | none => false
  (sortBy (fun l => l.prio * 2 ^ 128 + (2 ^ 128 - 1 - l.ageKey))
    (s.sched.launches.filter fun l => there l && s.makesRoom x l)).head?

/-- AGE_PROMOTION (R377). A READY record is offered to every die (R378), and the first age limit that passes promotes it.
One of priority 3 causes one pre-emption. (DEDUCED, log 111.) -/
def execAgePromotion (l : Nat) (s : State) : Res :=
  match s.sched.launch? l with
  | none => .next s
  | some x =>
    if x.state ≠ .ready || !(List.range 8).any (s.overAge x) then .next s
    else if recPrio x.record = 3 then
      if x.waited then .next s
      else
        match s.victim? x with
        | none => .next s
        | some v =>
          let s := { s with sched := s.sched.modLaunch l fun y => { y with waited := true } }
          match v.region with
          | some q => .next (s.modRegion q fun g => g.request false)
          | none => .next s
    else if x.prio < 2 then
      .next { s with sched := s.sched.modLaunch l fun y => { y with prio := y.prio + 1, readyAt := s.clock.toNat } }
    else .next s

/-! ### Admission -/

/-- The oldest READY record of a priority (R376). -/
def SchedSt.oldest? (d : SchedSt) (prio : Nat) : Option Launch :=
  (sortBy Launch.ageKey (d.launches.filter fun l => l.state == .ready && l.prio == prio)).head?

/-- The records that a die considers, in order (R376). (DEDUCED, log 52.) -/
def SchedSt.candidates (d : SchedSt) : List Launch := [3, 2, 1, 0].filterMap d.oldest?

/-- Whether a die takes a record: a region slot is free and a rectangle fits. -/
def State.dieTakes (s : State) (l : Launch) (die : Nat) : Bool := (s.freeSlot? die).isSome && (s.fitOn? die l none).isSome

/-- The record that a die's scheduler admits, with its rectangle (R376, R378): the first in the die's order whose region
fits there. Records are offered to dies in ascending number, so it fits on no die below. -/
def State.admits? (s : State) (die : Nat) : Option (Launch × Nat × Nat × Nat × Nat) :=
  s.sched.candidates.findSome? fun l =>
    if (List.range die).any (s.dieTakes l) then none else (s.fitOn? die l none).map fun f => (l, f)

/-- The hashes and the placement of a launch's image on a rectangle (R78, R118); an image that R117 refuses is placed nowhere
and refused as it loads. -/
def State.placeImage (s : State) (l : Launch) (x y w h : Nat) (pl : Placement) :
    Option (BitVec 384 × BitVec 384) × Option (Except Nat Placement) :=
  match s.imageOk? l with
  | none => (none, some (.ok pl))
  | some bs =>
    let img := readImage bs
    (some (imageKey bs), s.placeOn img.elems img.edges (some (cacheKey (imageKey bs) x y w h)) w h pl)

/-- The region of a launch that starts to load, on a rectangle with a placement. -/
def Launch.loading (l : Launch) (gen : BitVec 12) (x y w h : Nat) (pl : Placement) : Region :=
  { Region.empty with
    state := .loading, gen := gen, launch := l.id, ctx := l.ctx, x := x, y := y, w := w, h := h, pl := pl }

/-- ADMISSION (R376, R378): the first record in the die's order whose region fits enters LOADING, placed by the mapper (R78);
the region takes its next generation (R324). An image for which the mapper lacks reorder space is reported (R250).
(DESIGN CHOICE, log 50.) -/
def execAdmission (die : Nat) (pl : Placement) (s : State) : Res :=
  if !s.running || decide (8 ≤ die) then .next s
  else
    match s.freeSlot? die, s.admits? die with
    | some r, some (l, x, y, w, h) =>
      match s.placeImage l x y w h pl with
      | (_, none) => .next s
      | (_, some (.error e)) => .next (s.endLaunch l.id 2 0 (leBytes 4 e ++ [0xFF] ++ List.replicate 3 0) [])
      | (key, some (.ok pl)) =>
        match s.region? r with
        | none => .next s
        | some old =>
          match s.mem.nextGen r old.gen with
          | none => .next s
          | some gen =>
            let s := s.cachePut (key.map fun k => cacheKey k x y w h) pl
            let s := s.setRegion r (l.loading gen x y w h pl)
            .next { s with
              sched := s.sched.modLaunch l.id fun z => { z with state := .loading, region := some r, key := key } }
    | _, _ => .next s

end Sys2Proof.Machine
end

