-- ==== Sys2Proof/Machine/Lookup.lean ====
section
/-! DEFINITION. Opcodes 0xC0 to 0xC9 (R217, R239 to R245, R356 to R364): lookup elements. -/

namespace Sys2Proof.Machine

/-- Runs a meaning on the state of an L element. -/
def Ctx.withL (c : Ctx) (f : LSt → Res) : Res :=
  match c.el.ks with
  | .l x => f x
  | _ => .refused .rejectedAtLoad

/-- Writes the state of an L element. -/
def Elem.setL (el : Elem) (x : LSt) : Elem := { el with ks := .l x }

/-- The slice tag and the INT16 tag (R217). -/
def GraphSt.sliceTag (g : GraphSt) : BitVec 3 := (g.tagOf? recSlice).getD 0
def GraphSt.int16Tag (g : GraphSt) : BitVec 3 := (g.tagOf? recINT16).getD 0

/-- A source of a cell (R239): 0 to 255 the window, 256 to 1,279 the outputs of the last pass. -/
def LSt.source (x : LSt) (n : Nat) : Payload := if n < 256 then sget 0 x.x n else sget 0 x.p (n - 256)

/-- One cell over all samples (R241): bit s is the table bit that the pins select. -/
def cellOut (table : BitVec 64) (pins : List Payload) : Payload :=
  ofLanes 1 (fun s =>
    let b := ((List.range 6).map fun j => if (pins.getD j 0).getLsbD s then 2 ^ j else 0).sum
    BitVec.ofBool (table.getLsbD b)) 256

/-- A pass with a context (R241, R356, R357): every cell reads X and P as they stood before it. -/
def LSt.pass (x : LSt) (c : Nat) (cycle : Nat) : LSt :=
  let q := (List.range 1024).map fun i =>
    let cell := 1024 * c + i
    cellOut (sget 0 x.tables cell) ((List.range 6).map fun j => x.source (sget 0 x.wires (6 * cell + j)).toNat)
  { x with p := ssetMany 0 [] 0 q, ctx := Fin.ofNat 8 c, passAt := some cycle }

/-- Whether the lookup unit is free (R359): at most one pass starts in 4 cycles. -/
def LSt.unitFree (x : LSt) (cycle : Nat) : Bool :=
  match x.passAt with
  | some t => decide (t + 4 ≤ cycle)
  | none => true

/-- The context an IMM or CNT field names (R98). -/
def ctxOf (n : BitVec 8) : Nat := n.toNat % 8

/-- Whether an engine of a kind runs into a context (R241, R360). -/
def Elem.engineInto (el : Elem) (k : EngKind) (c : Nat) : Bool := el.engines.any fun x => x.kind == k && x.ctx == c

/-- XPOSE (R243): takes its samples from SA. -/
def execXpose (f : XForm) (s : State) : Res :=
  withCtx s fun c =>
    match outOf? f.dst with
    | none => .refused .rejectedAtLoad
    | some _ => c.stream s (.xpose f) f.sa

/-- The 256 tokens of a transposition (R243): bit s of token f is bit f of sample s. -/
def transposed (tag : BitVec 3) (rows : List Payload) : List Token :=
  (List.range 256).map fun f =>
    dataTok tag (f == 255) f (ofLanes 1 (fun s => BitVec.ofBool ((rows.getD s 0).getLsbD f)) 256)

/-- A token of XPOSE (R243). -/
def takeXpose (el : Elem) (g : GraphSt) (f : Firing) (o : Fin 4) (t : Token) : Take :=
  if t.poison then .trap trapPOISON
  else if t.kind ≠ .data then .trap trapFORMAT
  else
    let toks := f.toks ++ [t]
    if t.last || toks.length = 256 then
      .push el { f with toks := [] } ((transposed g.sliceTag (toks.map (·.payload))).map fun t => (o, t))
    else .more el { f with toks := toks }

/-- The result of XTHR (R244): bit 16f + j says that feature f reaches threshold j. -/
def resXthr (f : Fmt) (a : Payload) (ks : Vector Payload 16) : Payload :=
  ofLanes 1 (fun n =>
    let x := f.value (lane a 16 (n / 16)).toNat
    let t := f.value (lane (ks.get (Fin.ofNat 16 (n / 16))) 16 (n % 16)).toNat
    BitVec.ofBool (t.lt x || t.eq x)) 256

/-- XTHR (R244). -/
def execXthr (f : RForm) (s : State) : Res :=
  ordinaryR s f fun c _ a _ =>
    let fm := (c.g.fmt? (c.el.img.ctags.get 0)).getD fp16
    let r := resXthr fm a c.el.img.consts
    ⟨r, defaultCond r, some c.g.sliceTag⟩

/-- LTAB (R240): the table engine. -/
def execLtab (f : XForm) (s : State) : Res :=
  withCtx s fun c => c.withL fun _ => c.load s (.ltab f) .table f.sa f.pop (ctxOf f.cnt) false id

/-- LWIRE (R240): the wiring engine. -/
def execLwire (f : XForm) (s : State) : Res :=
  withCtx s fun c => c.withL fun _ => c.load s (.lwire f) .wiring f.sa f.pop (ctxOf f.cnt) false id

/-- One token of the table engine (R240, R362). -/
def Elem.tableToken (el : Elem) (x : LSt) (g : Engine) (t : Token) : Except Nat Elem :=
  if t.poison then .error trapPOISON
  else if t.kind ≠ .data then .error trapFORMAT
  else
    let cells := (List.range 4).map fun i => lane t.payload 64 i
    let el := el.setL { x with tables := ssetMany 0 x.tables (1024 * g.ctx + 4 * g.n) cells }
    if t.last || g.n = 255 then .ok (el.endEngine g) else .ok (el.setEngine { g with n := g.n + 1 })

/-- The pin sources of the cells a wiring token carries (R362). -/
def wiringPins (n : Nat) (v : Payload) : List (BitVec 11) :=
  ((List.range (if n = 341 then 1 else 3)).map fun i =>
    (List.range 6).map fun j => v.extractLsb' (66 * i + 11 * j) 11).flatten

/-- One token of the wiring engine (R240, R360, R362): an index above 1,279 raises PARAM; an end without a
trap makes the context valid. -/
def Elem.wiringToken (el : Elem) (x : LSt) (g : Engine) (t : Token) : Except Nat Elem :=
  if t.poison then .error trapPOISON
  else if t.kind ≠ .data then .error trapFORMAT
  else
    let pins := wiringPins g.n t.payload
    if pins.any fun p => decide (1279 < p.toNat) then .error trapPARAM
    else
      let x := { x with wires := ssetMany 0 x.wires (6 * (1024 * g.ctx + 3 * g.n)) pins }
      if t.last || g.n = 341 then
        .ok ((el.setL { x with invalid := setPred x.invalid g.ctx false }).endEngine g)
      else .ok ((el.setL x).setEngine { g with n := g.n + 1 })

/-- The element after an engine's trap, which ends the load: a bad wiring index makes the context invalid (R215, R240,
R360). -/
def Elem.engineFailed (el : Elem) (g : Engine) (code : Nat) : Elem :=
  let el := el.endEngine g
  match g.kind, el.ks with
  | .wiring, .l x => if code = trapPARAM then el.setL { x with invalid := setPred x.invalid g.ctx true } else el
  | _, _ => el

/-- LEVAL (R241, R359, R360): raises PARAM on an invalid context, and waits while an engine runs into its context or the
unit is busy. -/
def execLeval (f : XForm) (s : State) : Res :=
  withCtx s fun c =>
    c.withL fun x =>
      let n := ctxOf f.cnt
      if x.invalid.getLsbD n then c.trap s trapPARAM
      else if c.el.engineInto .table n || c.el.engineInto .wiring n || !x.unitFree s.cycle then
        c.hold s c.el (.start c.slot (.leval f) .wait)
      else c.complete s (c.el.setL (x.pass n s.cycle)) [] f.pop 0

/-- LEMIT (R245). -/
def execLemit (f : XForm) (s : State) : Res :=
  withCtx s fun c =>
    c.withL fun x =>
      match outOf? f.dst with
      | none => .refused .rejectedAtLoad
      | some o =>
        let a := (lane32 (c.src 0 f.sa) 0).toNat
        let n := f.cnt.toNat
        if c.poisoned f.sa then c.trap s trapPOISON
        else if a + n > 1024 then c.trap s trapPARAM
        else
          let ts := (List.range n).map fun j => dataTok c.g.sliceTag (j + 1 == n) (a + j) (sget 0 x.p (a + j))
          c.pushList s c.el (.start c.slot (.lemit f) .push) (ts.map fun t => (o, t)) f.pop (readMask [f.sa])

/-- The sixteen count tokens of LPOP (R245). -/
def countTokens (x : LSt) (tag : BitVec 3) (a g : Nat) : List Token :=
  (List.range 16).map fun j =>
    dataTok tag (j == 15) j (allLanes 16 fun m =>
      BitVec.ofNat 16 ((List.range g).filter fun i => (sget 0 x.p (a + i)).getLsbD (16 * j + m)).length)

/-- LPOP (R245). -/
def execLpop (f : XForm) (s : State) : Res :=
  withCtx s fun c =>
    c.withL fun x =>
      match outOf? f.dst with
      | none => .refused .rejectedAtLoad
      | some o =>
        let a := (lane32 (c.src 0 f.sa) 0).toNat
        let g := (lane32 (c.src 0 f.sa) 1).toNat
        if c.poisoned f.sa then c.trap s trapPOISON
        else if g = 0 || decide (a + g > 1024) then c.trap s trapPARAM
        else
          c.pushList s c.el (.start c.slot (.lpop f) .push) ((countTokens x c.g.int16Tag a g).map fun t => (o, t)) f.pop
            (readMask [f.sa])

/-- LUNX (R243). -/
def execLunx (f : XForm) (s : State) : Res :=
  withCtx s fun c =>
    c.withL fun x =>
      match outOf? f.dst with
      | none => .refused .rejectedAtLoad
      | some o =>
        let a := (lane32 (c.src 0 f.sa) 0).toNat
        if c.poisoned f.sa then c.trap s trapPOISON
        else if a > 768 then c.trap s trapPARAM
        else
          let rows := (List.range 256).map fun i => sget 0 x.p (a + i)
          c.pushList s c.el (.start c.slot (.lunx f) .push) ((transposed c.g.sliceTag rows).map fun t => (o, t)) f.pop
            (readMask [f.sa])

/-- LCTX (R245, R360). -/
def execLctx (f : IForm) (s : State) : Res :=
  withCtx s fun c =>
    c.withL fun x =>
      let n := ctxOf f.imm
      let tab := c.el.engineInto .table n
      let wir := c.el.engineInto .wiring n
      let bad := x.invalid.getLsbD n
      let ready := !bad && !tab && !wir
      let bit (b : Bool) (k : Nat) : Nat := if b then 2 ^ k else 0
      let res := ofWords [BitVec.ofNat 32 (bit ready 0 + bit tab 1 + bit wir 2 + bit bad 3)]
      c.ordinary s [] f.dst 0 f.pop f.pw (Out.withCond res ready)

/-- LIN (R242): takes its slices from SA. -/
def execLin (f : XForm) (s : State) : Res := withCtx s fun c => c.withL fun _ => c.stream s (.lin f) f.sa

/-- A token of LIN (R242): token j goes to X[CNT + j]. -/
def takeLin (el : Elem) (x : LSt) (f : Firing) (first : Nat) (t : Token) : Take :=
  if t.poison then .trap trapPOISON
  else if t.kind ≠ .data then .trap trapFORMAT
  else
    let n := first + f.i
    let el := el.setL { x with x := sset 0 x.x n t.payload }
    if t.last || decide (255 ≤ n) then .done el none else .more el { f with i := f.i + 1 }

end Sys2Proof.Machine
end

