-- ==== Sys2Proof/Machine/Flow.lean ====
section
/-! DEFINITION. The steps that move tokens between firings (R25, R67, R70, R74, R83, R213 to R216, R230, R280, R281,
R291, R379, R407): arrival, the intersection pair, streams and engines, and drain markers. -/

namespace Sys2Proof.Machine

/-- An element of the running partition of a region that runs. -/
def State.live? (s : State) (r e : Nat) : Option Ctx :=
  match s.at? r e 0 with
  | some c => if c.reg.runs && c.g.isActive c.el then some c else none
  | none => none

/-- Whether an input's edge is a feedback edge, or, with no edge, none (R406). -/
def GraphSt.feedbackIn (g : GraphSt) (e : Nat) (i : Fin 4) : Bool :=
  match g.feed? e i with
  | some d => d.feedback
  | none => false

/-- Whether a pre-emption marker stands in an input (R407). -/
def Input.hasPreempt (n : Input) : Bool := n.fifo.any fun t => t == preemptMarker

/-- Whether an input is blocked: a pre-emption marker is at its head (R407). -/
def Elem.blocked (el : Elem) (i : Fin 4) : Bool := el.head? i == some preemptMarker

/-! ### TOKEN_ARRIVE -/

/-- A token reaches its FIFO, or the record of a saved element (R249, R407). -/
def Input.arrive (n : Input) (t : Token) (rest : List Token) (save : Bool) (cycle : Nat) : Input :=
  let n := { n with inflight := rest }
  if save && !isMarker t && !n.hasPreempt then { n with recorded := n.recorded ++ [t] }
  else { n with fifo := n.fifo ++ [t], headAt := if n.fifo.isEmpty then cycle else n.headAt }

/-- The parking channel of an input of a cut edge, above the channels of PARK (R83). (DEDUCED, log 35.) -/
def cutChan (e : Nat) (i : Fin 4) : Nat := 65536 + 4 * e + i.val

/-! ### PAIR_STEP -/

/-- The front of one side of the pair (R74). (DEDUCED, log 22.) -/
def Elem.front (el : Elem) (i : Fin 4) : Option Token := (el.ins.get i).fifo.head?

/-- Whether a data token is out of order on its side (R73, R74). -/
def outOfOrder (last : Option (BitVec 16)) (t : Token) : Bool :=
  match last with
  | some c => decide (t.coord.toNat ≤ c.toNat)
  | none => false

/-- Takes the front of a side away. -/
def Elem.dropFront (el : Elem) (i : Fin 4) : Elem := el.modInput i Input.dropFront

/-- Presents a token at a head (R74). -/
def Elem.present1 (el : Elem) (i : Fin 4) (t : Token) (cycle : Nat) : Elem :=
  el.modInput i fun n => { n with pres := some t, headAt := cycle }

/-- The last coordinate of a side after a data token of it has gone. -/
def lastOf (t : Token) : Option (BitVec 16) := if t.last then none else some t.coord

/-- The pair after a data token of a side has been taken. -/
def Pair.took (p : Pair) (i : Fin 4) (t : Token) : Pair :=
  if i = 0 then { p with last0 := lastOf t } else { p with last1 := lastOf t }

/-- Discards the front of a side and counts it (R74, R235). -/
def Elem.discardFront (el : Elem) (i : Fin 4) (t : Token) : Elem :=
  let p := el.pair.took i t
  let p := if i = 0 then { p with disc0 := satInc p.disc0 } else { p with disc1 := satInc p.disc1 }
  let el := el.dropFront i
  { el with pair := p, poisonDiscard := if t.poison then satInc el.poisonDiscard else el.poisonDiscard }

/-- A drain step (R74). -/
def Elem.drainStep (el : Elem) (i : Fin 4) (t : Token) (cycle : Nat) : Elem :=
  let el := el.discardFront i t
  if t.last then
    { el.present1 0 (controlTok 0xFFFF 0) cycle with pair := { el.pair with drain := none, drains := satInc el.pair.drains } }
  else el

/-- A match step or a discard of the smaller coordinate (R74). -/
def Elem.matchStep (el : Elem) (a b : Token) (cycle : Nat) : Elem :=
  if a.coord = b.coord then
    let last := a.last || b.last
    let p := (el.pair.took 0 a).took 1 b
    let p := { p with
      matched := satInc p.matched
      drain := if !last then p.drain else if !a.last then some 0 else if !b.last then some 1 else p.drain }
    let el := ((el.dropFront 0).dropFront 1).present1 0 { a with last := last } cycle
    { el.present1 1 { b with last := last } cycle with pair := p }
  else if a.coord.toNat < b.coord.toNat then
    let el := el.discardFront 0 a
    if a.last then { el with pair := { el.pair with drain := some 1 } } else el
  else
    let el := el.discardFront 1 b
    if b.last then { el with pair := { el.pair with drain := some 0 } } else el

/-- Whether a front is present and not data (R74); a marker waits at its FIFO's front. -/
def loneFront (t : Option Token) : Bool :=
  match t with
  | some t => t.kind != .data && !isMarker t
  | none => false

/-- Whether a front is a data token. -/
def dataFront (t : Option Token) : Bool :=
  match t with
  | some t => t.kind == .data
  | none => false

/-- Whether a front is a data token out of order (R74). -/
def badFront (last : Option (BitVec 16)) (t : Option Token) : Bool :=
  match t with
  | some t => t.kind == .data && outOfOrder last t
  | none => false

/-- Whether the pair can step (R74). -/
def Elem.pairDue (el : Elem) : Bool :=
  let fa := el.front 0
  let fb := el.front 1
  el.img.isect && el.pair.active && !el.saved && (el.ins.get 0).pres.isNone && (el.ins.get 1).pres.isNone
    && (loneFront fa || loneFront fb || badFront el.pair.last0 fa || badFront el.pair.last1 fb
      || (match el.pair.drain with
          | some k => dataFront (if k = 0 then fa else fb)
          | none => dataFront fa && dataFront fb))

/-- PAIR_STEP (R74), or the trap ISECT_ORDER. -/
def execPairStep (r e : Nat) (s : State) : Res :=
  match s.live? r e with
  | none => .next s
  | some c =>
    let el := c.el
    if !el.pairDue then .next s
    else
      let fa := el.front 0
      let fb := el.front 1
      if loneFront fa then .next (c.put s ((el.dropFront 0).present1 0 (fa.getD default) s.cycle))
      else if loneFront fb then .next (c.put s ((el.dropFront 1).present1 1 (fb.getD default) s.cycle))
      else if badFront el.pair.last0 fa || badFront el.pair.last1 fb then .next (s.raiseTrap r e 0xFF trapISECT 0)
      else
        match el.pair.drain with
        | some k =>
          let i : Fin 4 := if k = 0 then 0 else 1
          match el.front i with
          | some t => if t.kind == .data then .next (c.put s (el.drainStep i t s.cycle)) else .next s
          | none => .next s
        | none =>
          match fa, fb with
          | some a, some b =>
            if a.kind == .data && b.kind == .data then .next (c.put s (el.matchStep a b s.cycle)) else .next s
          | _, _ => .next s

/-! ### STREAM_TOKEN_TAKE -/

/-- The stream input that a firing takes its next token from (R213, R264). -/
def streamInput? : Instr → Option (Fin 4)
  | .mrow _ f => headOf? f.sa
  | .mrows _ f => headOf? f.sa
  | .mchain f => headOf? f.sa
  | .mbias f => headOf? f.sa
  | .wjoin f => headOf? f.sa
  | .xpose f => headOf? f.sa
  | .lin f => headOf? f.sa
  | .mgrp f => headOf? f.sb
  | .wmap f => headOf? f.sb
  | _ => none

/-- What a firing does with its next token. -/
def Ctx.takeNext (c : Ctx) (f : Firing) (t : Token) : Option Take :=
  let el := c.el
  match f.instr, el.ks with
  | .mrow q x, .m m => some (takeRow el c.g m f (rowOf x.cnt) (aBits q) false t)
  | .mrows q x, .m m => some (takeRow el c.g m f (rowOf x.cnt) (aBits q) true t)
  | .mchain x, .m m => some (takeChain el m f (rowOf x.cnt) t)
  | .mbias x, .m m => some (takeBias el m f (rowOf x.cnt) t)
  | .mgrp x, .m m =>
    match outOf? x.dst with
    | some o => some (takeGroup el c.g m f o t)
    | none => none
  | .wjoin x, _ => some (takeJoin el f (pieceBytes x.cnt) t)
  | .xpose x, _ =>
    match outOf? x.dst with
    | some o => some (takeXpose el c.g f o t)
    | none => none
  | .lin x, .l l => some (takeLin el l f x.cnt.toNat t)
  | .wmap x, .s st => if f.n ≠ 0 && t.kind == .control && !t.poison then none else some (takeMap el st f (winOf x.cnt) t)
  | _, _ => none

/-- DST of a firing whose last token gives its result. -/
def resultDst : Instr → Dst
  | .wjoin f => f.dst
  | _ => .discard

/-- POP of a firing, and the inputs whose heads it read at issue (R94). -/
def firingPop : Instr → BitVec 4 × BitVec 4
  | .mrow _ f => (f.pop, 0)
  | .mrows _ f => (f.pop, 0)
  | .mchain f => (f.pop, 0)
  | .mbias f => (f.pop, 0)
  | .mgrp f => (f.pop, 0)
  | .mout f => (f.pop, 0)
  | .moutq f => (f.pop, readMask [f.sa])
  | .wjoin f => (f.pop, 0)
  | .wsplit f => (f.pop, readMask [f.sa])
  | .swemit f => (f.pop, 0)
  | .xpose f => (f.pop, 0)
  | .lin f => (f.pop, 0)
  | .lemit f => (f.pop, readMask [f.sa])
  | .lpop f => (f.pop, readMask [f.sa])
  | .lunx f => (f.pop, readMask [f.sa])
  | .lrecv f => (f.pop, readMask [f.sa])
  | .wmap f => (f.pop, readMask [f.sa])
  | _ => (0, 0)

/-- A firing takes the token at its stream input's head (R213, R215). -/
def Ctx.takeStream (c : Ctx) (s : State) (f : Firing) (i : Fin 4) (t : Token) : Res :=
  let c := { c with slot := f.slot }
  let (pop, read) := firingPop f.instr
  match c.takeNext f t with
  | none => .next s
  | some (.trap k) => c.trap s k
  | some (.more el f) => c.hold s (el.takeHead s.cycle i) f
  | some (.push el f q) => c.hold s (el.takeHead s.cycle i) { f with stage := .push, q := q }
  | some (.done el res) =>
    let el := el.takeHead s.cycle i
    match res with
    | none => c.complete s el [] pop read
    | some (v, t) => c.complete s (el.writeDst (resultDst f.instr) v) (pushesOf (resultDst f.instr) t) pop read

/-- Whether a send engine's token is one it accepts (R291, R294). -/
def State.sendTrap (s : State) (c : Ctx) (x : SendEng) (t : Token) : Option Nat :=
  if t.poison then some trapPOISON
  else if t.kind ≠ .data then some trapFORMAT
  else if x.opc = 0xF3 then
    match s.redGroup? c.reg.ctx c.e (lane32 x.a 0).toNat with
    | some g => if c.g.record t.tag = g.record.fmt then none else some trapFORMAT
    | none => none
  else none

/-- A link send engine takes a token (R291); with the last one the packet joins the issue queue. -/
def Ctx.takeSend (c : Ctx) (s : State) (x : ESt) (g : SendEng) : Res :=
  match c.el.present g.input, c.el.head? g.input with
  | true, some t =>
    match s.sendTrap c g t with
    | some k => .next (s.raiseTrap c.r c.e g.slot k 0)
    | none =>
      let g' := { g with toks := g.toks ++ [t] }
      let el := c.el.takeHead s.cycle g.input
      if t.last || g'.toks.length = 128 then
        let el := (el.setE { x with sends := x.sends.filter fun y => y.id != g.id }).modInput g.input
          fun n => { n with claimed := false }
        let a := { c.access s.nextId g.id g.opc .link ⟨0, 0, 0, 0, 0, 0⟩ 0 with
          slot := g.slot, seq := g.seq, a := g.a, cnt := g.cnt, toks := g'.toks, va := pair64 g.a 0, cost := 0
          tva := if g.opc = 0xF0 || g.opc = 0xF1 then g.a.setWidth 64 else 0 }
        .next { c.put s { el with issueQ := el.issueQ ++ [a] } with nextId := s.nextId + 1 }
      else .next (c.put s (el.setE { x with sends := x.sends.map fun y => if y.id = g.id then g' else y }))
  | _, _ => .next s

/-- STREAM_TOKEN_TAKE (R213, R291). -/
def execStreamTokenTake (r e : Nat) (t : Taker) (s : State) : Res :=
  match s.live? r e with
  | none => .next s
  | some c =>
    match t with
    | .firing =>
      match c.el.firing with
      | none => .next s
      | some f =>
        match (if !c.el.saved && (f.stage = .take || f.stage = .skip) then streamInput? f.instr else none) with
        | none => .next s
        | some i =>
          match c.el.present i, c.el.head? i with
          | true, some t => c.takeStream s f i t
          | _, _ => .next s
    | .send id =>
      match c.el.ks with
      | .e x =>
        match x.sends.find? fun y => y.id == id with
        | some g => if c.el.saved then .next s else c.takeSend s x g
        | none => .next s
      | _ => .next s

/-! ### Engines and further pushes -/

/-- LOAD_ENGINE_TOKEN (R214, R215): an engine takes the head of its claimed input, or raises its trap there. -/
def execLoadEngineToken (r e : Nat) (k : EngKind) (s : State) : Res :=
  match s.live? r e with
  | none => .next s
  | some c =>
    match c.el.engine? k with
    | none => .next s
    | some x =>
      match c.el.present x.input, c.el.head? x.input with
      | true, some t =>
        if c.el.saved then .next s
        else
          let res : Except Nat Elem := match k, c.el.ks with
            | .weights, .m m => c.el.weightToken c.g m x t
            | .scales, .m m => c.el.scaleToken m x t
            | .table, .l l => c.el.tableToken l x t
            | .wiring, .l l => c.el.wiringToken l x t
            | _, _ => .ok c.el
          match res with
          | .ok el => .next (c.put s (el.takeHead s.cycle x.input))
          | .error code => .next ((c.put s (c.el.engineFailed x code)).raiseTrap r e x.slot code 0)
      | _, _ => .next s

/-- What follows the last push of a firing: MGRP goes on with its group (R230), every other firing is complete. -/
def Ctx.afterPush (c : Ctx) (s : State) (f : Firing) : Res :=
  let (pop, read) := firingPop f.instr
  match f.instr with
  | .mgrp x =>
    if f.toks ≠ [] then
      if f.n < f.g then c.trap s trapGRPOVER else c.complete s c.el [] pop read
    else
      match outOf? x.dst with
      | none => .next s
      | some o =>
        match groupNext c.el f o with
        | .more el f => c.hold s el f
        | .push el f q => c.hold s el { f with stage := .push, q := q }
        | _ => .next s
  | _ => c.complete s c.el [] pop read

/-- Whether a pre-emption holds a firing's pushes back: the endpoint has stopped delivering to LRECV (R406). -/
def Ctx.pushPaused (c : Ctx) (f : Firing) : Bool :=
  c.reg.preempt == .running &&
    (match f.instr with
     | .lrecv _ => true
     | _ => false)

/-- FURTHER_TOKEN_PUSH (R67): the next token of a firing as its output has space. -/
def execFurtherTokenPush (r e : Nat) (s : State) : Res :=
  match s.live? r e with
  | none => .next s
  | some c =>
    match c.el.firing with
    | none => .next s
    | some f =>
      match f.stage, f.q with
      | .push, (o, t) :: rest =>
        if c.el.saved || c.pushPaused f || !c.g.hasSpace e c.el o 1 then .next s
        else if !c.g.tagOk e o t then .next (s.raiseTrap r e f.slot trapFORMAT 0)
        else
          let f := { f with q := rest }
          let s := s.setGraph r ((c.g.setElem e { c.el with firing := some f }).push e o t)
          if rest ≠ [] then .next s
          else
            match s.at? r e f.slot with
            | some c => c.afterPush s f
            | none => .next s
      | _, _ => .next s

/-- The meaning that a waiting firing takes up again, with its focus (R214, R223, R241, R268, R280). -/
def resumeOf (i : Instr) (s : State) : Option Res :=
  match i with
  | .mswap f => some (execMswap f s)
  | .mldb f => some (execMldb f s)
  | .mlds f => some (execMlds f s)
  | .ltab f => some (execLtab f s)
  | .lwire f => some (execLwire f s)
  | .leval f => some (execLeval f s)
  | .wmap f => some (execWmap f s)
  | .agstr f => some (execAgstr f s)
  | .put f => some (execPut f s)
  | .puts f => some (execPuts f s)
  | .red f => some (execRed f s)
  | .lsend f => some (execLsend f s)
  | _ => none

/-- INCOMPLETE_FIRING_RESUME: a waiting firing goes on once its engine, claim or unit is free. -/
def execIncompleteFiringResume (r e : Nat) (s : State) : Res :=
  match s.live? r e with
  | none => .next s
  | some c =>
    match c.el.firing with
    | none => .next s
    | some f =>
      if f.stage ≠ .wait || c.el.saved then .next s
      else (resumeOf f.instr { s with focus := ⟨r, e, f.slot⟩ }).getD (.next s)

/-! ### Address streams -/

/-- A stream's index run: how many addresses from index `i` on follow one another by the access size within one 64 KiB
block (R281). -/
def ESt.runLen (x : ESt) (st total size : Nat) : (fuel i n : Nat) → Nat
  | 0, _, n => n
  | fuel + 1, i, n =>
    let a := x.genAddr st i
    let b := x.genAddr st (i + 1)
    if i + 1 < total && b == a + size && a / 2 ^ 16 == b / 2 ^ 16 then x.runLen st total size fuel (i + 1) (n + 1) else n

/-- Ends a stream; its claim is released (R214). -/
def Ctx.endStream (_ : Ctx) (x : ESt) (t : Stream) (el : Elem) (drop : Bool) : Elem :=
  let el := match t.input with
    | some i => el.modInput i fun n => { n with claimed := false }
    | none => el
  el.setE { x with
    streams := if drop then x.streams.filter fun y => y.id != t.id
      else x.streams.map fun y => if y.id = t.id then { t with ended := true } else y }

/-- Advances a stream past what it has just made, or ends it (R281). -/
def Ctx.stepStream (c : Ctx) (x : ESt) (t : Stream) (el : Elem) (n : Nat) (last : Bool) : Elem :=
  if last then c.endStream x { t with idx := t.idx + n, run := t.run + 1 } el false
  else
    el.setE { x with
      streams := x.streams.map fun y => if y.id = t.id then { t with idx := t.idx + n, run := t.run + 1 } else y }

/-- The address word of a stream's access (R255, R281), by an entry of its element's translation node, with the size code of the
descriptor. -/
def ESt.streamWord (x : ESt) (t : TlbEnt) (st va : Nat) (intent : Bool) : Except Nat Payload :=
  match leafResult t.leaf va intent with
  | .ok v => .ok (v ||| (BitVec.ofNat 256 (x.sizeCode st) <<< 160))
  | .error k => .error k

/-- The accesses outstanding on an element (R258). -/
def State.accCount (s : State) (c : Ctx) : Nat :=
  c.el.issueQ.length
    + ((s.mem.reqs ++ s.mem.replays ++ s.mem.egress).filter fun a => a.isOf c.r c.e c.reg.gen).length
    + (s.mem.replies.filter fun y => y.acc.isOf c.r c.e c.reg.gen).length

/-- Whether a stream in mode 2 or 3 makes its next access now (R281): it has space for the token it loads, or the data token
it stores. -/
def Ctx.streamReady (c : Ctx) (x : ESt) (t : Stream) : Bool :=
  if x.mode t.num = 2 then
    match t.out with
    | some o => c.g.hasSpace c.e c.el o 1
    | none => false
  else
    match t.input with
    | some i =>
      c.el.present i && (match c.el.head? i with
        | some tok => !tok.poison && tok.kind == .data
        | none => false)
    | none => false

/-- A stream whose next page no entry of its node covers has its miss outstanding (R281, R396); after a fault it waits for the
freeze (R400). -/
def Ctx.streamMiss (c : Ctx) (s : State) (t : Stream) (va : Nat) : Res :=
  if t.fault.isSome || c.el.outs.any fun (o : OutF) => o.miss && o.cls == 10 + t.num then .next s
  else
    let out := { OutF.new s.nextId t.slot 0xE5 c.el.seq with va := BitVec.ofNat 64 va, cls := 10 + t.num, miss := true }
    .next { c.put s { c.el with outs := c.el.outs ++ [out] } with nextId := s.nextId + 1 }

/-- A stream's access in modes 2 and 3 (R281). A load whose tag its edge does not take stops before the access is formed (R71;
DEDUCED, log 112), a miss goes to the walker region (R396), and a translation fault is left to FREEZE (R400). -/
def Ctx.streamAccess (c : Ctx) (s : State) (x : ESt) (t : Stream) (va : Nat) (last : Bool) (data : Payload) (el : Elem) :
    Res :=
  let isStore := x.mode t.num == 3
  if !isStore && !c.loadTagOk t.out (dataTok (x.loadTag t.num) last t.idx 0) then .next (s.raiseTrap c.r c.e t.slot trapFORMAT 0)
  else
    match x.tlbHit? c.reg.ctx va with
    | none => c.streamMiss s t va
    | some ent =>
      let s' := s.touchTlb ent va
      match x.streamWord ent t.num va isStore with
      | .error _ => .next s'
      | .ok v =>
        match addrCheck v with
        | .error k => .next (s'.raiseTrap c.r c.e t.slot k 0)
        | .ok a =>
          let id := s'.nextId
          let kind : AccKind := if isStore then .store else .load
          let out := { OutF.new id t.slot 0xE5 el.seq with
            va := BitVec.ofNat 64 va, cls := 10 + t.num, dst := if isStore then none else t.out
            hd := some (dataTok (x.loadTag t.num) last t.idx 0) }
          let acc := { c.access (id + 1) id 0xE5 kind a data with slot := t.slot }
          let el := { c.stepStream x t el 1 last with outs := el.outs ++ [out], issueQ := el.issueQ ++ [acc] }
          .next { c.put s' el with nextId := id + 2 }

/-- STREAM_ENGINE_PUSH (R280, R281). A stream whose address reaches 2^56 ends with a fault token on D, in mode 3 too.
(DEDUCED, log 73.) (DEDUCED, log 92.) -/
def execStreamEnginePush (r e stream : Nat) (s : State) : Res :=
  match s.live? r e with
  | none => .next s
  | some c =>
    match c.el.ks with
    | .e x =>
      match x.streams.find? fun (t : Stream) => t.num == stream && !t.ended with
      | none => .next s
      | some t =>
        if c.el.saved || c.reg.preempt == .running then .next s
        else
          let total := x.total stream
          let va := x.genAddr stream t.idx
          let mode := x.mode stream
          let isLast := decide (total ≤ t.idx + 1)
          let space := match t.out with
            | some o => c.g.hasSpace e c.el o 1
            | none => false
          let size := (sizeOf? (x.sizeCode stream)).getD 32
          if 2 ^ 56 ≤ va then
            let n := if mode = 1 then x.runLen stream total size 65536 t.idx 1 else 1
            let coord := if mode = 1 then t.run else t.idx
            match t.out with
            | some o =>
              if !space || (c.el.outs.any fun (y : OutF) => y.cls == 10 + stream) then .next s
              else
                c.pushLate s (c.endStream x t c.el true) t.slot o
                  (faultTok 3 va (mode == 3) (decide (total ≤ t.idx + n)) (BitVec.ofNat 16 coord))
            | none => .next (c.put s (c.endStream x t c.el true))
          else if mode = 0 then
            match t.out with
            | some o =>
              if space then
                c.pushLate s (c.stepStream x t c.el 1 isLast) t.slot o
                  (dataTok 1 isLast t.idx (ofWords [lo32 va, hi32 va]))
              else .next s
            | none => .next s
          else if mode = 1 then
            let n := x.runLen stream total size 65536 t.idx 1
            let last := decide (total ≤ t.idx + n)
            match t.out with
            | some o =>
              if space then
                c.pushLate s (c.stepStream x t c.el n last) t.slot o
                  (dataTok 1 last t.run (ofWords [lo32 va, hi32 va, BitVec.ofNat 32 n, 0, lo32 t.idx, hi32 t.idx]))
              else .next s
            | none => .next s
          else if mode = 2 then
            if c.streamReady x t then c.streamAccess s x t va isLast 0 c.el else .next s
          else
            match t.input with
            | none => .next s
            | some i =>
              match c.el.present i, c.el.head? i with
              | true, some tok =>
                if tok.poison then .next (s.raiseTrap r e t.slot trapPOISON 0)
                else if tok.kind ≠ .data then .next (s.raiseTrap r e t.slot trapFORMAT 0)
                else c.streamAccess s x t va (isLast || tok.last) tok.payload (c.el.takeHead s.cycle i)
              | _, _ => .next s
    | _ => .next s

/-! ### Drain markers -/

/-- The inputs of an element that an edge feeds (R379). -/
def GraphSt.fedInputs (g : GraphSt) (e : Nat) : List (Fin 4) :=
  ([0, 1, 2, 3] : List (Fin 4)).filter fun i => (g.feed? e i).isSome

/-- The fed inputs of an element whose producer belongs to the running partition: the inputs that markers reach (R83). -/
def GraphSt.liveFed (g : GraphSt) (e : Nat) : List (Fin 4) :=
  (g.fedInputs e).filter fun i =>
    match g.feed? e i with
    | some d =>
      (match g.elems[d.prod]? with
       | some p => g.isActive p
       | none => false)
    | none => false

/-- Whether a drain marker stands at the head of an input. -/
def Elem.drainAt (el : Elem) (i : Fin 4) : Bool := el.head? i == some drainMarker

/-- Removes the markers at the heads of inputs. -/
def Elem.dropMarkers (el : Elem) (l : List (Fin 4)) : Elem := l.foldl (fun el i => el.dropFront i) el

/-- Whether an element has pushed everything it owes (R165, R379). -/
def Elem.owesNothing (el : Elem) : Bool :=
  el.outs.isEmpty && el.dues.isEmpty && el.firing.isNone &&
    (match el.ks with
     | .e x => !x.streams.any fun (t : Stream) => !t.ended
     | _ => true)

/-- Pushes one marker on each output that drives an edge (R165, R379, R406). -/
def GraphSt.pushMarkers (g : GraphSt) (e : Nat) (m : Token) (but : BitVec 4) : GraphSt :=
  ([0, 1, 2, 3] : List (Fin 4)).foldl (fun g o => if but.getLsbD o.val then g else g.push e o m) g

/-- Whether drain markers stand at the heads of all the inputs that they reach, and there is one: the element stops
issuing (R379). -/
def Ctx.drainHeld (c : Ctx) : Bool := c.g.liveFed c.e != [] && (c.g.liveFed c.e).all c.el.drainAt

/-- Whether an element has passed its drain markers on (R379). -/
def Stop.isDrained : Stop → Bool
  | .drained => true
  | .haltedDrained => true
  | _ => false

/-- An element that stands with its drain markers passed on (R162, R379). -/
def Stop.passOn : Stop → Stop
  | .halted => .haltedDrained
  | _ => .drained

/-- Whether DRAIN_MARKER_PASS has something to do at an element (R379). -/
def Ctx.drainDue (c : Ctx) : Bool :=
  let some_ := (c.g.liveFed c.e).any c.el.drainAt
  !c.el.saved &&
    (match c.el.stop with
     | .none => c.drainHeld && c.el.firing.isNone
     | .halted => c.drainHeld && c.el.owesNothing
     | .draining => c.el.owesNothing || some_
     | .drained => some_
     | .haltedDrained => some_)

/-- DRAIN_MARKER_PASS (R165, R379): an element stops once every fed input has a drain marker at its head, the markers
are removed, and when it owes nothing more its own markers go out. -/
def execDrainMarkerPass (r e : Nat) (s : State) : Res :=
  match s.live? r e with
  | none => .next s
  | some c =>
    let el := c.el.dropMarkers ((c.g.liveFed e).filter c.el.drainAt)
    if !c.drainDue then .next s
    else if c.el.stop.isDrained then .next (c.put s el)
    else if el.owesNothing then
      .next (s.setGraph r ((c.g.setElem e { el with stop := el.stop.passOn }).pushMarkers e drainMarker 0))
    else .next (c.put s { el with stop := .draining })

end Sys2Proof.Machine
end

