-- ==== Sys2Proof/Machine/Loader.lean ====
section
/-! DEFINITION. The loader (R31, R57, R61, R62, R68 to R73, R76, R79, R85, R109, R338, R339, R380) and REGION_ARM. -/

namespace Sys2Proof.Machine

/-! ### Reports -/

/-- What the loader refuses an image for (R383): the step, and where. -/
inductive LoadErr where
  | offset (o : Nat)
  | unbound (e slot : Nat)
  | format (idx : Nat)
  | slot (step e slot : Nat)
  | edge (step num : Nat)
  | race (a b : Nat)
deriving DecidableEq, Repr, Inhabited

/-- Status byte 5 of a refusal at load (R383). -/
def LoadErr.step : LoadErr → Nat
  | .offset _ => 0
  | .unbound _ _ => 8
  | .format _ => 1
  | .slot n _ _ => n
  | .edge n _ => n
  | .race _ _ => 7

/-- The detail bytes of a refusal at load (R383). -/
def LoadErr.detail : LoadErr → List Byte
  | .offset o => leBytes 4 o ++ List.replicate 4 0
  | .unbound e k => leBytes 4 e ++ leBytes 1 k ++ List.replicate 3 0
  | .format i => leBytes 1 i ++ List.replicate 7 0
  | .slot _ e k => leBytes 4 e ++ leBytes 1 k ++ List.replicate 3 0
  | .edge _ n => leBytes 2 n ++ List.replicate 6 0
  | .race a b => leBytes 4 a ++ leBytes 4 b

/-! ### Steps 1 to 3 -/

/-- An ill-formed format record (R31). -/
def ImageRec.badFormat? (x : ImageRec) : Option LoadErr :=
  ((List.finRange 8).find? fun k => x.fmts.get k != 0 && (Fmt.ofRecord (x.fmts.get k)).isNone).map fun k => .format k.val

/-- The first slot of an image that satisfies a property, in ascending element and slot. -/
def ImageRec.findSlot? (x : ImageRec) (p : Nat → ElemRec → Slot → Bool) : Option (Nat × Nat) :=
  x.elems.zipIdx.findSome? fun (el, e) =>
    ((List.finRange 32).find? fun k => p e el (el.slots.get k)).map fun k => (e, k.val)

/-- What the slot checks of an element read; `walker` says that the graph is the page-walk graph (R108). -/
def ImageRec.slotCtx (x : ImageRec) (walker : Bool) (e : Nat) (el : ElemRec) : SlotCtx := ⟨el, e, x.fmts, x.edges, walker⟩

/-- Whether the declared tag of each constant names a used entry (R31). -/
def ImageRec.constsOk (x : ImageRec) (el : ElemRec) : Bool :=
  (List.finRange 16).all fun k => !el.declared.getLsbD k.val || usedTag x.fmts (el.ctags.get k)

/-- Step 2 of one element (R73, R109): its record, its constants, then its slots. (DEDUCED, log 59.) -/
def ImageRec.step2 (x : ImageRec) (walker : Bool) (e : Nat) (el : ElemRec) : Option LoadErr :=
  if (el.isect && el.kind != .C && el.kind != .M) || !x.constsOk el then some (.slot 2 e 0xFF)
  else
    ((List.finRange 32).find? fun k => !(x.slotCtx walker e el).slotOk (el.slots.get k)).map fun k => .slot 2 e k.val

/-- Step 3 (R61, R62). -/
def ImageRec.step3 (x : ImageRec) : Option LoadErr :=
  (x.findSlot? fun e el s => !(x.slotCtx false e el).slotEdgesOk s).map fun p => .slot 3 p.1 p.2

/-! ### Steps 4 to 6 -/

/-- Step 4 of one edge, with the edges before it (R68, R69, R72). (DEDUCED, log 90.) -/
def edgeOk (fmts : Vector Word 8) (before : List Edge) (d : Edge) : Bool :=
  let fed (k : Consumer) (l : List Consumer) : Bool := l.any fun j => j.elem == k.elem && j.input == k.input
  let twice := d.cons.zipIdx.any fun (k, i) => fed k (d.cons.take i) || before.any fun b => fed k b.cons
  !(before.any fun b => b.num == d.num || (b.prod == d.prod && b.out == d.out)) && !twice
    && decide (d.init.length ≤ d.cap)
    && d.init.all fun t => t.kind != .data || (usedTag fmts t.tag && d.tags.getLsbD t.tag.toNat)

/-- Step 4: the first edge that fails, in the order of the section. -/
def ImageRec.step4 (x : ImageRec) : Option LoadErr :=
  (x.edges.zipIdx.find? fun (d, i) => !edgeOk x.fmts (x.edges.take i) d).map fun p => .edge 4 p.1.num

/-- Whether the sets of an edge name used entries, and the producer's is inside every consumer's (R31, R71). -/
def setsOk (fmts : Vector Word 8) (d : Edge) : Bool :=
  let used (s : BitVec 8) : Bool :=
    (List.range 8).all fun t => !s.getLsbD t || usedTag fmts (BitVec.ofNat 3 t)
  used d.tags && d.cons.all fun k => used k.tags && d.tags &&& ~~~k.tags == 0

/-- Step 5 (R71). -/
def ImageRec.step5 (x : ImageRec) : Option LoadErr :=
  (x.edges.find? fun d => !setsOk x.fmts d).map fun d => .edge 5 d.num

/-- The arcs of a graph: one from the producer to each consumer (R76). -/
def arcsOf (edges : List Edge) : List (Nat × Nat) := edges.flatMap fun d => d.cons.map fun k => (d.prod, k.elem)

/-- The nodes that arcs reach from a set of nodes in at most `fuel` rounds. -/
def reachGo (arcs : List (Nat × Nat)) : (fuel : Nat) → (seen front : List Nat) → List Nat
  | 0, seen, _ => seen
  | fuel + 1, seen, front =>
    let next := ((arcs.filter fun a => front.contains a.1).map (·.2)).eraseDups.filter fun n => !seen.contains n
    if next = [] then seen else reachGo arcs fuel (seen ++ next) next

/-- The nodes that arcs reach from a node, by one arc or more. -/
def reach (arcs : List (Nat × Nat)) (n : Nat) : List Nat := reachGo arcs (arcs.length + 1) [] [n]

/-- Whether an edge lies on a directed cycle of a graph (R76, R406). -/
def onCycle (arcs : List (Nat × Nat)) (d : Edge) : Bool :=
  d.cons.any fun k => k.elem == d.prod || (reach arcs k.elem).contains d.prod

/-- Step 6: the lowest-numbered edge on a cycle without an initial token (R76). -/
def ImageRec.step6 (x : ImageRec) : Option LoadErr :=
  let bare := x.edges.filter fun d => d.init == []
  let arcs := arcsOf bare
  ((bare.filter fun d => onCycle arcs d).map (·.num)).min?.map fun n => .edge 6 n

/-! ### Step 7 -/

/-- The memory opcodes of R338, and the atomics among them. -/
def isMemoryOp (opc : Nat) : Bool := (0xD0 ≤ opc && opc ≤ 0xDE) || opc == 0xE5 || (0xF0 ≤ opc && opc ≤ 0xF2)
def isAtomicOp (opc : Nat) : Bool := 0xD8 ≤ opc && opc ≤ 0xDE

/-- The opcodes in the valid slots of an element. (DESIGN CHOICE, log 124.) -/
def ElemRec.opcodes (el : ElemRec) : List Nat :=
  (el.slots.toList.filter fun s => validOf s.trig).map fun s => (s.act.extractLsb' 24 8).toNat

/-- Whether an element is atomic-only (R338). (DESIGN CHOICE, log 124.) -/
def ElemRec.atomicOnly (el : ElemRec) : Bool :=
  let l := el.opcodes.filter isMemoryOp
  l != [] && l.all isAtomicOp

/-- Whether declared ranges of two elements overlap in a byte, one of them being written (R338). -/
def ImageRec.rangesMeet (x : ImageRec) (a b : Nat) : Bool :=
  (x.ranges.filter fun r => r.elem == a).any fun r =>
    (x.ranges.filter fun q => q.elem == b).any fun q =>
      decide (r.base < q.base + q.len) && decide (q.base < r.base + r.len) && (r.access != 0 || q.access != 0)

/-- Whether an ordering path runs from one element to another (R338). -/
def ImageRec.ordered (x : ImageRec) (arcs : List (Nat × Nat)) (a b : Nat) : Bool :=
  (reach arcs a).contains b ||
    (match x.elems[a]?, x.elems[b]? with
     | some p, some q => decide (p.part < q.part)
     | _, _ => false)

/-- The conflicting pairs in ascending index of the lower and then the higher element (R338, R339). -/
def ImageRec.conflicts (x : ImageRec) : List (Nat × Nat) :=
  let arcs := arcsOf x.edges ++ x.order
  let nodes := (List.range x.elems.length).filter fun e => x.ranges.any fun r => r.elem == e
  let atomic (e : Nat) : Bool :=
    match x.elems[e]? with
    | some el => el.atomicOnly
    | none => false
  nodes.flatMap fun a =>
    (nodes.filter fun b =>
      decide (a < b) && x.rangesMeet a b && !(atomic a && atomic b) && !x.ordered arcs a b && !x.ordered arcs b a).map
        fun b => (a, b)

/-- Whether a slot reads or pops an input. -/
def consumes (s : Slot) (n : Fin 4) : Bool :=
  validOf s.trig &&
    (match decode s.act with
     | .ok i => (formHeads i.form ||| formPop i.form).getLsbD n.val
     | .error _ => false)

/-- Whether PW of a form is disabled. -/
def pwOff : Form → Bool
  | .R f => f.pw == 0
  | .I f => f.pw == 0
  | _ => true

/-- Whether an instruction may fold the output of a MERGE under DET (R380). -/
def mergeOp (fmts : Vector Word 8) (el : ElemRec) (i : Instr) : Bool :=
  let wraps (t : BitVec 3) : Bool :=
    match Fmt.ofRecord (fmts.get (Fin.ofNat 8 t.toNat)) with
    | some f => f.cls != .float && f.ovf == 1
    | none => false
  match i with
  | .add _ f => hasConst f || f.md == 0
  | .min _ _ => true
  | .max _ _ => true
  | .fminF32 _ => true
  | .fminF16 _ => true
  | .fminBF16 _ => true
  | .fmaxF32 _ => true
  | .fmaxF16 _ => true
  | .fmaxBF16 _ => true
  | .xadd _ => true
  | .xsq f => f.sb == .zero
  | .aadd f => wraps (f.cnt.extractLsb' 0 3) && el.opcodes.contains 0xDF
  | .amax _ => el.opcodes.contains 0xDF
  | .amin _ => el.opcodes.contains 0xDF
  | .aor _ => el.opcodes.contains 0xDF
  | .aand _ => el.opcodes.contains 0xDF
  | _ => false

/-- Whether a slot that consumes a merged input may do so under DET (R380). -/
def ImageRec.mergeSlotOk (x : ImageRec) (e : Nat) (el : ElemRec) (k : Fin 32) (n : Fin 4) : Bool :=
  let s := el.slots.get k
  x.exact.contains (e, k.val) && condOf s.trig n == 2 &&
    (match decode s.act with
     | .ok i =>
       (match formDst i.form with
        | .out _ => false
        | _ => true) && pwOff i.form && mergeOp x.fmts el i
     | .error _ => false)

/-- Whether every consumer of an output may take a merged stream under DET (R380). -/
def ImageRec.mergeOk (x : ImageRec) (e : Nat) (o : Fin 4) : Bool :=
  match x.edges.find? fun d => d.prod == e && d.out == o with
  | none => true
  | some d => d.cons.all fun k =>
      match x.elems[k.elem]? with
      | none => true
      | some el => (List.finRange 32).all fun j => !consumes (el.slots.get j) k.input || x.mergeSlotOk k.elem el j k.input

/-- The merge rule (R380): the first MERGE whose output is not consumed exactly. -/
def ImageRec.mergeBad? (x : ImageRec) : Option LoadErr :=
  (x.findSlot? fun e _ s =>
    validOf s.trig &&
      (match decode s.act with
       | .ok (.merge f) =>
         (match f.dst with
          | .out o => !x.mergeOk e o
          | _ => false)
       | _ => false)).map fun p => .slot 7 p.1 p.2

/-! ### The whole check -/

/-- The first slot whose level the launch record leaves unbound (R85). -/
def State.unbound? (s : State) (launch : Nat) (x : ImageRec) : Option LoadErr :=
  (x.findSlot? fun _ _ k =>
    match slotLevel? k with
    | some n => !s.boundLevel launch n
    | none => false).map fun p => .unbound p.1 p.2

/-- Steps 1 to 6 of R79. -/
def ImageRec.graphErr? (x : ImageRec) (walker : Bool) : Option LoadErr :=
  x.badFormat?.orElse fun _ =>
    (x.elems.zipIdx.findSome? fun (el, e) => x.step2 walker e el).orElse fun _ =>
      x.step3.orElse fun _ => x.step4.orElse fun _ => x.step5.orElse fun _ => x.step6

/-- The first step of R79 that fails. In flag mode a conflict does not refuse (R339). (DEDUCED, log 69.) -/
def State.loadErr? (s : State) (launch : Nat) (det flag : Bool) (x : ImageRec) : Option LoadErr :=
  let race := if flag then none else x.conflicts.head?.map fun p => LoadErr.race p.1 p.2
  (s.unbound? launch x).orElse fun _ =>
    (x.graphErr? false).orElse fun _ => race.orElse fun _ => if det then x.mergeBad? else none

/-! ### Arming -/

/-- An element at arm (R55, R56). -/
def Elem.arm (r : ElemRec) : Elem :=
  { img := r, d := Vector.replicate 8 0, p := r.predInit, ins := Vector.replicate 4 .empty
    outLimit := Vector.replicate 4 0, stop := .none, endCt := 0, declared := 1, joinCt := Vector.replicate 32 0
    joinToks := [], emptyPop := 0, poisonDiscard := 0, perf := [], ks := KindSt.arm r.kind, pair := Pair.arm, firing := none
    engines := [], seq := 0, issueQ := [], outs := [], dues := [], saved := false, issuer := none, marked := 0 }

/-- The graph with the initial tokens of a partition's edges in their consumers' FIFOs (R72). -/
def GraphSt.placeTokens (g : GraphSt) (cycle : Nat) : GraphSt :=
  { g with
    elems := g.elems.zipIdx.map fun (el, e) =>
      if el.img.part ≠ g.part then el
      else
        ([0, 1, 2, 3] : List (Fin 4)).foldl (fun el i =>
          let init := match g.feed? e i with
            | some d => d.init
            | none => []
          el.modInput i fun n => { n with fifo := init, headAt := cycle }) el }

/-- The parking channels of a placement, those of PARK and those of the inputs of cut edges, with nothing parked (R83, R282). -/
def placeChannels (pl : Placement) : List Chan :=
  (pl.chans.map fun (n, e, cap) => ⟨n, e, cap, [], []⟩)
    ++ pl.cuts.map fun (e, i, sElem, cap) => ⟨cutChan e i, sElem, cap, [], []⟩

/-- The graph of a fresh load (R57, R77), at its first partition, with feedback edges marked (R406). -/
def ImageRec.fresh (x : ImageRec) (reg : Region) (spill cycle : Nat) : GraphSt :=
  let arcs := arcsOf x.edges
  let g : GraphSt :=
    { fmts := x.fmts, elems := x.elems.map Elem.arm
      edges := x.edges.map fun d => { d with feedback := d.init != [] && onCycle arcs d }
      parts := x.parts, part := 0, chans := placeChannels reg.pl, spillCap := spill
      exact := x.exact, sites := placeSites reg.pl x.elems reg.x reg.y reg.w, collected := [] }
  g.placeTokens cycle

/-- The graph of a later partition (R57, R83): the parking channels, with them the tokens of cut edges, stay, and every other
item takes its value at arm. -/
def GraphSt.nextPart (g : GraphSt) (part cycle : Nat) : GraphSt :=
  { g with part := part, elems := g.elems.map fun (el : Elem) => Elem.arm el.img }.placeTokens cycle

/-- The region armed with a graph, and its launch running (R81, R375). -/
def State.armRegion (s : State) (r : Nat) (reg : Region) (g : GraphSt) : State :=
  let s := s.setRegion r { reg with
    state := .armed, g := some g, restoring := false, switching := false, quietAt := none, armedAt := s.cycle }
  { s with sched := s.sched.modLaunch reg.launch fun l => { l with state := .running } }

/-- The spill pool of a region in tokens of 32 bytes: the frames that its context was given (R282). (DEDUCED, log 66.) -/
def State.spillOf (s : State) (ctx : Nat) : Nat :=
  match s.sched.context? ctx with
  | some c => c.cfg.spillFrames * 2048
  | none => 0

/-- The load of a launch's image (R79): it arms the region, or the launch ends with end state 2 (R383). Its reads translate,
the header first (R319, R320). (DEDUCED, log 57.) -/
def State.loadImage (s : State) (r : Nat) (reg : Region) (l : Launch) : State :=
  let refuse (s : State) (e : LoadErr) : State := s.endLaunch l.id 2 e.step e.detail []
  let va := l.record.imageVa.toNat
  let t := s.touchRead (dieOf r) l.ctx va 64
  match s.readVa l.ctx va 64 with
  | none => refuse t (.offset 0)
  | some head =>
    match firstBad (headerChecks head) with
    | some o => refuse t (.offset o)
    | none =>
      let t := t.touchRead (dieOf r) l.ctx va (fieldOf head 8 4)
      match s.readVa l.ctx va (fieldOf head 8 4) with
      | none => refuse t (.offset 0)
      | some bs =>
        match imageBad bs with
        | some o => refuse t (.offset o)
        | none =>
          let x := readImage bs
          match s.loadErr? l.id (recDet l.record) (recFlag l.record) x with
          | some e => refuse t e
          | none =>
            let s := { t with sched := s.sched.modLaunch l.id fun y => { y with flagged := x.conflicts } }
            s.armRegion r reg (x.fresh reg (s.spillOf l.ctx) s.cycle)

/-- The page-walk graph of the image at a physical address (R16, R79, R108): its fields and the checks of steps 1 to 6, on
eight C and eight E elements. -/
def State.walkerImage? (s : State) (pa : Nat) : Option ImageRec :=
  let head := readBytes s.mem.bytes pa 64
  let bs := readBytes s.mem.bytes pa (fieldOf head 8 4)
  if (firstBad (headerChecks head)).isSome || (imageBad bs).isSome then none
  else
    let x := readImage bs
    if (x.graphErr? true).isSome || !x.need.within ⟨8, 0, 0, 0, 0, 8⟩ then none else some x

/-- The load of the page-walk graph into a walker region (R16); one that is refused leaves the region free. It belongs to no
launch, so nothing is reported. -/
def State.loadWalkerImage (s : State) (r : Nat) (reg : Region) (pa : Nat) : State :=
  match s.walkerImage? pa with
  | some x => s.setRegion r { reg with state := .armed, g := some (x.fresh reg 0 s.cycle), quietAt := none, armedAt := s.cycle }
  | none => s.releaseRegion r

/-- REGION_ARM (R16, R57, R79, R81): a restore, a later partition, the page-walk graph, or a fresh load. -/
def execRegionArm (r : Nat) (s : State) : Res :=
  match s.region? r with
  | none => .next s
  | some reg =>
    if reg.state ≠ .loading then .next s
    else
      match reg.restoring, reg.image, reg.g with
      | true, _, some g => .next (s.armRegion r reg g)
      | true, _, none => .next s
      | false, some pa, _ => .next (s.loadWalkerImage r reg pa)
      | false, none, g =>
        if reg.loadPart = 0 then
          match s.sched.launch? reg.launch with
          | some l => .next (s.loadImage r reg l)
          | none => .next (s.releaseRegion r)
        else
          match g with
          | some g => .next (s.armRegion r reg (g.nextPart reg.loadPart s.cycle))
          | none => .next s

end Sys2Proof.Machine
end

