-- ==== Sys2Proof/Machine/Issue.lean ====
section
/-! DEFINITION. Which slot of an element issues (R64, R214, R258, R407): its trigger, the space
of the outputs, the limits, and the conditions that an instruction's own description adds. -/

namespace Sys2Proof.Machine

/-! ### Space and limits -/

/-- Whether the output that a STEER chooses by its operand has space (R246); none is asked where the firing will trap or
discard. -/
def Ctx.steerSpace (c : Ctx) (i : Instr) : Bool :=
  match i with
  | .steer f =>
    match c.srcTok? f.sa with
    | none => true
    | some t =>
      let md := (modOf f).toNat
      (t.poison && (md == 0 || md == 3)) || c.poisoned f.sb ||
        (match c.steerTo md t (c.src f.md f.sb) with
         | some o => c.g.hasSpace c.e c.el o 1
         | none => true)
  | _ => true

/-- Whether every output that an action writes has space (R64, R246, R258): one place for DST and one for the completion. -/
def Ctx.spaceFor (c : Ctx) (i : Instr) : Bool :=
  let d := match formDst i.form with
    | .out o => some o
    | _ => none
  let k := formCmpOut i.info i.form
  let has (o : Option (Fin 4)) (n : Nat) : Bool :=
    match o with
    | some o => c.g.hasSpace c.e c.el o n
    | none => true
  c.steerSpace i && if d.isSome && d == k then has d 2 else has d 1 && has k 1

/-- The outstanding firings of an element whose opcodes satisfy a property. -/
def Elem.outsOf (el : Elem) (p : Nat → Bool) : Nat := (el.outs.filter fun (o : OutF) => p o.opc).length

/-- The opcodes that count as accesses (R258). -/
def isAccessOp (opc : Nat) : Bool :=
  (0xD0 ≤ opc && opc ≤ 0xD3) || (0xD5 ≤ opc && opc ≤ 0xDE) || opc == 0xE0 || opc == 0xE8 || opc == 0xFE

/-- The opcodes of the last row of R258. -/
def isServiceOp (opc : Nat) : Bool :=
  (0xEB ≤ opc && opc ≤ 0xEE) || opc == 0xE9 || (0xF8 ≤ opc && opc ≤ 0xFA)

/-- Whether an opcode is a link operation of R258. -/
def isLinkOp (opc : Nat) : Bool := 0xF0 ≤ opc && opc ≤ 0xF5

/-- Whether the 16 misses of an element leave room for a firing (R258): only an XLAT that would miss needs a place.
(DEDUCED, log 65.) -/
def Ctx.missFree (c : Ctx) (i : Instr) : Bool :=
  match i with
  | .xlat f => !c.xlatMisses f || decide ((c.el.outs.filter fun (o : OutF) => o.miss).length < 16)
  | _ => true

/-- Whether a firing stays inside the limits of R258. (DEDUCED, log 65.) -/
def Ctx.underLimit (c : Ctx) (i : Instr) : Bool :=
  let opc := i.info.opc
  if isAccessOp opc then
    decide (c.el.outsOf isAccessOp < if c.el.img.kind = .S then 32 else 64) && c.missFree i
  else if isLinkOp opc then decide (c.el.outsOf isLinkOp < 16)
  else if isServiceOp opc then decide (c.el.outsOf isServiceOp < 8)
  else true

/-! ### The instructions' own conditions -/

/-- Whether the endpoint has stopped delivering to an instruction during a pre-emption (R406). -/
def Ctx.linkPaused (c : Ctx) (i : Instr) : Bool :=
  c.reg.preempt == .running &&
    (match i with
     | .lrecv _ => true
     | .get _ => true
     | .redr _ => true
     | _ => false)

/-- What an instruction's own description asks before its slot qualifies; an operand that will trap does not wait
(R249, R251, R252, R282, R288, R289, R293, R294). -/
def State.ownCondition (s : State) (c : Ctx) (i : Instr) : Bool :=
  match i, c.el.ks with
  | .cwait f, _ =>
    let a := c.src f.md f.sa
    c.poisoned f.sa || !s.holdsCounter c.reg.ctx (lane32 a 0).toNat || s.cwaitMet a
  | .barw f, _ =>
    let a := c.src f.md f.sa
    c.poisoned f.sa || !s.barOk c a || s.barwMet a
  | .unpark f, _ => (c.g.unpark f.cnt.toNat).isSome
  | .merge f, _ => (c.el.mergeFrom f.pop).isSome
  | .reord f, .x x =>
    match c.srcTok? f.sa with
    | some t =>
      let b := x.bufs.get (Fin.ofNat 8 (f.cnt.toNat % 8))
      !b.tooFar t && ((t.kind == .control && t.poison) ||
        (match b.insert t with
         | .wait => false
         | _ => true))
    | none => true
  | .rels f, .x x => sget .free (x.bufs.get (Fin.ofNat 8 (f.cnt.toNat % 8))).cells 0 != .free
  | .red f, _ =>
    let n := (lane32 (c.src 0 f.sa) 0).toNat
    c.poisoned f.sa ||
      (match s.redGroup? c.reg.ctx c.e n with
       | some g => g.record.op != f.cnt.toNat / 64 || g.redFree
       | none => true)
  | .redr f, _ =>
    let n := (lane32 (c.src 0 f.sa) 0).toNat
    c.poisoned f.sa ||
      (match s.redGroup? c.reg.ctx c.e n with
       | some g => s.link.owesVoid n c.reg.launch c.e || g.record.op != f.cnt.toNat / 64 ||
           (match g.rounds with
            | x :: _ => x.result.isSome
            | [] => false)
       | none => true)
  | .lrecv f, .e x =>
    let n := (lane32 (c.src 0 f.sa) 0).toNat
    c.poisoned f.sa || decide (7 < n) || x.rx.get (Fin.ofNat 8 n) != []
  | _, _ => true

/-! ### Qualifying -/

/-- A slot of an element. -/
def Elem.slot (el : Elem) (k : Fin 32) : Slot := el.img.slots.get k

/-- Whether a slot qualifies but for output space (R64). A slot whose word is no action word qualifies by its trigger
alone. -/
def State.qualifiesButSpace (s : State) (c : Ctx) (k : Fin 32) : Bool :=
  c.el.triggers (c.el.slot k).trig &&
    (match decode (c.el.slot k).act with
     | .error _ => true
     | .ok i => c.underLimit i && !c.linkPaused i && s.ownCondition c i)

/-- Whether a slot qualifies (R64, R258). -/
def State.qualifies (s : State) (c : Ctx) (k : Fin 32) : Bool :=
  s.qualifiesButSpace c k &&
    (match decode (c.el.slot k).act with
     | .error _ => true
     | .ok i => c.spaceFor i)

/-- Whether an element may issue at all (R67, R162, R165, R407). -/
def Elem.mayIssue (el : Elem) : Bool := el.stop == .none && el.firing.isNone && !el.saved

/-- Whether an element in its region may issue: none whose drain markers have all reached their heads does (R379). -/
def Ctx.mayIssue (c : Ctx) : Bool := c.el.mayIssue && !c.drainHeld

/-- The lowest-indexed slot that qualifies (R64). -/
def State.nextSlot? (s : State) (c : Ctx) : Option (Fin 32) :=
  if c.mayIssue then (List.finRange 32).find? fun k => s.qualifies c k else none

/-- The firing that an element issues next: the state with that firing under way, in which the region is no longer
quiet (R381), and what its action word says. -/
def State.issue? (s : State) (r e : Nat) : Option (State × Except DecodeErr Instr) :=
  match s.live? r e with
  | none => none
  | some c =>
    match s.nextSlot? c with
    | none => none
    | some k => some ({ (s.modRegion r fun x => { x with quietAt := none }) with focus := ⟨r, e, k.val⟩ }, decode (c.el.slot k).act)

/-! ### A cycle -/

/-- The slot for which an element's engine, firing or pending access acts (R399): 0xFF for a step that no firing started. -/
def State.eventSlot (s : State) (r e : Nat) (i : Instr) : Nat :=
  match s.live? r e with
  | none => 0xFF
  | some c =>
    let ofOut (id : Nat) : Option Nat := (c.el.outs.find? fun (o : OutF) => o.id == id).map fun (o : OutF) => o.slot
    let ofFiring : Option Nat := c.el.firing.map fun (f : Firing) => f.slot
    let slot : Option Nat := match i, c.el.ks with
    | .loadEngineToken _ _ k, _ => (c.el.engine? k).map fun (x : Engine) => x.slot
    | .streamTokenTake _ _ (.send id), .e x => (x.sends.find? fun (y : SendEng) => y.id == id).map fun (y : SendEng) => y.slot
    | .streamEnginePush _ _ n, .e x => (x.streams.find? fun (t : Stream) => t.num == n && !t.ended).map fun (t : Stream) => t.slot
    | .push _ _ (some id), _ => ofOut id
    | .streamTokenTake _ _ .firing, _ => ofFiring
    | .furtherTokenPush _ _, _ => ofFiring
    | .incompleteFiringResume _ _, _ => ofFiring
    | .joinfRelease _ _, _ => ofFiring
    | .declarationAccept _ _, _ => ofFiring
    | _, _ => none
    slot.getD 0xFF

/-- The element for which a token arrives: at a cut edge the producer, which a full parking area traps (R83, R282). -/
def State.arriveElem (s : State) (r e : Nat) (i : Fin 4) : Nat :=
  match s.at? r e 0 with
  | some c => if c.g.isActive c.el then e else ((c.g.feed? e i).map (·.prod)).getD e
  | none => e

/-- Whether one place comes no later than another: by region, then element, then slot. -/
def keyLe (a b : Nat × Nat × Nat) : Bool :=
  decide (a.1 < b.1) || (a.1 == b.1 && (decide (a.2.1 < b.2.1) || (a.2.1 == b.2.1 && decide (a.2.2 ≤ b.2.2))))

/-- The first of some places, or that of no element. -/
def firstKey : List (Nat × Nat × Nat) → Nat × Nat × Nat
  | [] => (0, 0, 0)
  | k :: l => l.foldl (fun a b => if keyLe a b then a else b) k

/-- The element that a recall of a line, but for the given window, traps first (R309): the lowest of those with a window that has
a dirty word that fails check 4 or 5 of R256. An act that no element does counts in a cycle as an act of the element that its
recall traps, where it traps one (R399). (DEDUCED, log 125.) -/
def State.recallKey (s : State) (line : Nat) (but : Option (Nat × Nat × Nat)) : Nat × Nat × Nat :=
  firstKey ((s.recallTraps line but).map fun x => (((s.sched.launch? x.1).bind (·.region)).getD 0, x.2.1, 0xFF))

/-- The element that the next write of a packet of another package traps first by its recall (R292, R309). -/
def State.packetKeyOf (s : State) (p : Packet) : Nat × Nat × Nat :=
  match p with
  | .put _ _ ctx va (_ :: _) _ =>
    match s.remoteAt ctx va true with
    | .ok (pa, _) => s.recallKey (pa / 64) none
    | .error _ => (0, 0, 0)
  | _ => (0, 0, 0)

/-- The element that an access of the host traps first by its recall (R309, R414). -/
def State.hostKey (s : State) (a : HostAcc) : Nat × Nat × Nat :=
  match a with
  | .memWrite pa _ => s.recallKey (pa / 64) none
  | .cache line _ => s.recallKey line none
  | _ => (0, 0, 0)

/-- The element that the next APPLY of a line traps: the issuer of the update, where it is refused, or the one that the recall
traps; else the issuer (R309, R337, R353). -/
def State.applyKey (s : State) (x : HeldAt) : Nat × Nat × Nat :=
  match (s.mem.heldAt? x.line).bind fun h => s.mem.nextHeld? h x.ctx x.group with
  | some a =>
    let own := (a.r, a.e, a.slot)
    if (s.mem.homeCheck a.ctx a.pa a.size true).isSome then own
    else
      let k := s.recallKey (a.pa / 64) none
      if k = (0, 0, 0) then own else k
  | none => (0, 0, 0)

/-- The region, element and slot for which an act is done; an act of no element that traps none comes first. -/
def State.actKey (s : State) (x : Act) : Nat × Nat × Nat :=
  match x with
  | .fire r e => (r, e, ((s.live? r e).bind fun c => (s.nextSlot? c).map (·.val)).getD 0xFF)
  | .event i =>
    match i with
    | .tokenArrive r e i _ => (r, s.arriveElem r e i, 0xFF)
    | .pairStep r e => (r, e, 0xFF)
    | .streamTokenTake r e _ => (r, e, s.eventSlot r e i)
    | .loadEngineToken r e _ => (r, e, s.eventSlot r e i)
    | .furtherTokenPush r e => (r, e, s.eventSlot r e i)
    | .incompleteFiringResume r e => (r, e, s.eventSlot r e i)
    | .streamEnginePush r e _ => (r, e, s.eventSlot r e i)
    | .push r e _ => (r, e, s.eventSlot r e i)
    | .joinfRelease r e => (r, e, s.eventSlot r e i)
    | .memoryReply k =>
      match s.mem.replies.find? fun y => y.acc.id == k with
      | some y => (y.acc.r, y.acc.e, y.acc.slot)
      | none =>
        match s.collectedReply k with
        | some (r, _, y) => (r, y.acc.e, y.acc.slot)
        | none =>
          match s.findOut k with
          | some (r, e, o) => (r, e, o.slot)
          | none => (0, 0, 0)
    | .declarationAccept r e => (r, e, s.eventSlot r e i)
    | .apply x => s.applyKey x
    | .perform k _ =>
      match s.mem.reqs.find? fun a => a.id == k with
      | some a => s.recallKey (a.pa / 64) a.window?
      | none =>
        match s.link.inbound.find? fun x => x.id == k with
        | some x => s.packetKeyOf x.pkt
        | none => (0, 0, 0)
    | .controlCoreAccess _ line _ => s.recallKey line none
    | .hostCxlAccess a => s.hostKey a
    | .linkPacketArrival p => s.packetKeyOf p
    | .configRegisterWrite (.frame frame _ _ _ _) =>
      firstKey (((s.mem.frameLines frame).map fun l => s.recallKey l none).filter (· != (0, 0, 0)))
    | _ => (0, 0, 0)

/-- Puts an act into its place. -/
def insAct (k : Nat × Nat × Nat) (x : Act) : List ((Nat × Nat × Nat) × Act) → List ((Nat × Nat × Nat) × Act)
  | [] => [(k, x)]
  | y :: l => if keyLe k y.1 then (k, x) :: y :: l else y :: insAct k x l

/-- The acts of one cycle, lowest element first and within it lowest slot, so that of several traps that one ends the
launch (R399). (DEDUCED, log 12.) -/
def State.inOrder (s : State) (l : List Act) : List Act :=
  (l.foldr (fun x acc => insAct (s.actKey x) x acc) []).map (·.2)

/-! ### Time -/

/-- Whether some slot of an element qualifies except for output space (R171), whether or not another one issues. -/
def State.lacksSpace (s : State) (c : Ctx) : Bool :=
  c.mayIssue && (List.finRange 32).any fun k => s.qualifiesButSpace c k && !s.qualifies c k

/-- The counters of R171 that count cycles, after `n` cycles of an element: no slot qualifies of an element that may not
issue, and none of its slots qualifies but for space either. (DEDUCED, log 103.) -/
def State.countCycles (s : State) (n r e : Nat) (el : Elem) : Elem :=
  match s.live? r e with
  | none => el
  | some c =>
    let ready := (s.nextSlot? c).isSome
    let add (p : List (Nat × BitVec 64)) (k : Nat) : List (Nat × BitVec 64) :=
      sset 0 p k (sget 0 p k + BitVec.ofNat 64 n)
    let p := add el.perf 0
    let p := if ready then p else add p 3
    { el with perf := if s.lacksSpace c then add p 4 else p }

/-- Time passes by `n` cycles of 1 ns (R7, R13). (DESIGN CHOICE, log 14.) -/
def State.tick (s : State) (n : Nat) : State :=
  { s with
    cycle := s.cycle + n
    clock := s.clock + BitVec.ofNat 64 n
    regions := s.regions.zipIdx.map fun (x, r) =>
      if x.runs then
        { x with g := x.g.map fun g => { g with elems := g.elems.zipIdx.map fun (el, e) => s.countCycles n r e el } }
      else x }

/-- An uncorrectable error that a dirty eviction reveals (R411): the words are marked, and each context that owns one
of their frames is charged. (DESIGN CHOICE, log 83.) -/
def State.evictError (s : State) (words : List Nat) : State :=
  let owners := (words.filterMap fun w => (s.mem.frame (4 * w)).owner).eraseDups
  { s with
    mem := { s.mem with poison := markWords s.mem.poison words }
    plat := { s.plat with
      errors := owners.foldl (fun m c => sset 0 m c (min (sget 0 m c + 1) 0xFFFF)) s.plat.errors } }

/-- An uncorrectable error in words of an S element's SRAM (R411): they are poisoned. (DESIGN CHOICE, log 83.) -/
def State.sramError (s : State) (r e : Nat) (words : List Nat) : State :=
  match s.at? r e 0 with
  | none => s
  | some c =>
    match c.el.ks with
    | .s x => c.put s (c.el.setS { x with poison := markWords x.poison words })
    | _ => s

end Sys2Proof.Machine
end

