-- ==== Sys2Proof/Machine/Preempt.lean ====
section
/-! DEFINITION. Pre-emption by markers, freezes and the service of faults (R262, R297, R298, R400 to R404, R406 to
R408, R410), and TOKEN_ARRIVE, which can bring a pre-emption to its end. -/

namespace Sys2Proof.Machine

/-! ### Parking -/

/-- Whether every element of the running partition has saved and every marker has arrived (R407). -/
def GraphSt.allParked (g : GraphSt) : Bool :=
  g.elems.zipIdx.all fun (el, e) =>
    !g.isActive el || (el.saved && (g.liveFed e).all fun i => (el.ins.get i).hasPreempt)

/-- An input of a parked region: the markers go, and the recorded tokens stand before any later one (R408). -/
def Input.park (n : Input) (cycle : Nat) : Input :=
  let rest := n.fifo.filter fun t => t != preemptMarker
  match n.recorded with
  | [] => { n with fifo := rest }
  | l => { n with fifo := l ++ rest, held := l.length - 1, recorded := [], headAt := cycle }

/-- An element of a parked region. -/
def Elem.park (el : Elem) (cycle : Nat) : Elem :=
  { el with ins := el.ins.map fun n => n.park cycle, saved := false, marked := 0 }

/-- A graph whose translation nodes hold nothing, and whose misses go to the walker region anew (R395, R396). -/
def GraphSt.clearTlb (g : GraphSt) : GraphSt :=
  { g.unask with
    elems := g.unask.elems.map fun el =>
      match el.ks with
      | .e x => { el with ks := .e { x with tlb := [] } }
      | _ => el }

/-- The end of a pre-emption (R298, R407): the region is PARKED. The launch counts its pre-emptions. (DESIGN CHOICE, log 123.) -/
def State.parkRegion (s : State) (r : Nat) (reg : Region) (g : GraphSt) : State :=
  let g := { g with elems := g.elems.map fun el => if g.isActive el then el.park s.cycle else el }
  let reg := { reg with g := some g, preempt := .none, ckpt := false, quietAt := none }
  let s := s.setRegion r { reg with state := .parked }
  { s with sched := s.sched.modLaunch reg.launch fun l => { l with state := .parked, preempts := l.preempts + 1 } }

/-- The checkpoint of a region that has reached the end of its pre-emption (R298): its image is kept, and it is armed again
under a new generation, or, while none is free (R324), under its own. The launch counts its checkpoints. (DEDUCED, log 82.)
(DESIGN CHOICE, log 123.) -/
def State.checkpoint (s : State) (r : Nat) (reg : Region) (g : GraphSt) : State :=
  let g := { g with elems := g.elems.map fun el => if g.isActive el then el.park s.cycle else el }
  let gen := (s.mem.nextGen r reg.gen).getD reg.gen
  let s := s.setRegion r { reg with
    g := some g.clearTlb, preempt := .none, ckpt := false, quietAt := none, gen := gen, armedAt := s.cycle }
  { s with
    sched := { s.sched.modLaunch reg.launch fun l => { l with ckpts := l.ckpts + 1 } with
      checkpoints := (s.sched.checkpoints.filter fun c => c.1 != reg.launch) ++ [(reg.launch, g.clearTlb)] } }

/-- Ends a pre-emption whose last element has saved and last marker has arrived (R407). -/
def State.checkParked (s : State) (r : Nat) : State :=
  match s.region? r with
  | some reg =>
    match reg.g with
    | some g =>
      if reg.preempt = .running && reg.runs && g.allParked then
        if reg.ckpt then s.checkpoint r reg g else s.parkRegion r reg g
      else s
    | none => s
  | none => s

/-! ### TOKEN_ARRIVE -/

/-- A token of a cut edge is parked (R83): a drain marker ends there, and with storage and pool full SPILL is raised for the
producer (R282). (DEDUCED, log 35.) -/
def Ctx.parkCut (c : Ctx) (s : State) (i : Fin 4) (t : Token) (rest : List Token) : State :=
  let g := c.g.setElem c.e (c.el.modInput i fun n => { n with inflight := rest })
  if isMarker t then s.setGraph c.r g
  else
    match g.park (cutChan c.e i) t with
    | some g => s.setGraph c.r g
    | none => s.raiseTrap c.r (((g.feed? c.e i).map (·.prod)).getD c.e) 0xFF trapSPILL 0

/-- Whether the FIFO of an input has a free place. -/
def GraphSt.inputFree (g : GraphSt) (e : Nat) (i : Fin 4) : Bool :=
  match g.feed? e i with
  | some d => d.cons.any fun k => k.elem == e && k.input == i && decide (0 < g.freeAt d k)
  | none => false

/-- The oldest token parked for an input of a cut edge, where its FIFO can take it (R83). -/
def Ctx.cutNext? (c : Ctx) (i : Fin 4) : Option (Token × GraphSt) :=
  if c.g.isActive c.el && !c.el.saved && c.g.inputFree c.e i then c.g.unpark (cutChan c.e i) else none

/-- TOKEN_ARRIVE (R70, R83): the oldest token on its way to an input arrives, at a cut edge in the parking area, and in the
consumer's partition from there; a failed parity check poisons it (R27). The last marker of a pre-emption parks the region
(R407). -/
def execTokenArrive (r e : Nat) (i : Fin 4) (parityBad : Bool) (s : State) : Res :=
  let check (t : Token) : Token := if parityBad && !isMarker t then { t with poison := true } else t
  match s.at? r e 0 with
  | none => .next s
  | some c =>
    if !c.reg.runs then .next s
    else
      match (c.el.ins.get i).inflight with
      | t :: rest =>
        if c.g.isActive c.el then
          let save := c.el.saved && c.reg.preempt == .running
          .next ((c.put s (c.el.modInput i fun n => n.arrive (check t) rest save s.cycle)).checkParked r)
        else .next (c.parkCut s i (check t) rest)
      | [] =>
        match c.cutNext? i with
        | some (t, g) => .next (s.setGraph r (g.modIn e i fun n => n.arrive (check t) [] false s.cycle))
        | none => .next s

/-! ### PREEMPTION_START -/

/-- The outputs that an element's running address streams and its LRECV, GET and REDR slots drive (R406). -/
def Elem.ingressOuts (el : Elem) : BitVec 4 :=
  let streams := match el.ks with
    | .e x => (x.streams.filter fun (t : Stream) => !t.ended).filterMap fun (t : Stream) => t.out
    | _ => []
  let slots := el.img.slots.toList.filterMap fun k =>
    if validOf k.trig then
      match decode k.act with
      | .ok (.lrecv f) => outOf? f.dst
      | .ok (.get f) => outOf? f.dst
      | .ok (.redr f) => outOf? f.dst
      | _ => none
    else none
  (streams ++ slots).foldl (fun m o => m ||| BitVec.ofNat 4 (2 ^ o.val)) 0

/-- The outputs on which an ingress of an element still owes tokens that count as ahead of its marker (R262, R406): those of
loads of address streams, of GETs and of REDRs under way. -/
def Elem.ingressOwed (el : Elem) : BitVec 4 :=
  (el.outs.filter fun (o : OutF) => o.opc == 0xE5 || o.opc == 0xF2 || o.opc == 0xF4).foldl
    (fun m (o : OutF) =>
      match o.dst with
      | some k => m ||| BitVec.ofNat 4 (2 ^ k.val)
      | none => m) 0

/-- Pushes pre-emption markers on a set of outputs that carry none yet (R406, R407). -/
def GraphSt.preMark (g : GraphSt) (e : Nat) (outs : BitVec 4) : GraphSt :=
  match g.elems[e]? with
  | some el =>
    (g.setElem e { el with marked := el.marked ||| outs }).pushMarkers e preemptMarker (~~~outs ||| el.marked)
  | none => g

/-- The markers of a pre-emption enter at the ingresses of every element that has not saved, each once it owes no token ahead
of its marker (R262, R406). -/
def GraphSt.enterMarkers (g : GraphSt) : GraphSt :=
  (List.range g.elems.length).foldl (fun g e =>
    match g.elems[e]? with
    | some el => if g.isActive el && !el.saved then g.preMark e (el.ingressOuts &&& ~~~el.ingressOwed) else g
    | none => g) g

/-- PREEMPTION_START (R298, R406, R410): a requested pre-emption enters its markers at the ingresses, and goes on entering
those that had to wait; a first load is cancelled instead. (DEDUCED, log 68.) -/
def execPreemptionStart (r : Nat) (s : State) : Res :=
  match s.region? r with
  | none => .next s
  | some reg =>
    if reg.preempt = .none then .next s
    else if reg.state = .loading && reg.loadPart = 0 && !reg.restoring then
      let s := s.freeRegion r reg
      .next { s with
        sched := s.sched.modLaunch reg.launch fun l =>
          { l with state := .ready, region := none, readyAt := s.clock.toNat } }
    else
      match reg.g with
      | some g =>
        if reg.runs then .next (s.setRegion r { reg with g := some g.enterMarkers, preempt := .running, quietAt := none })
        else .next s
      | none => .next s

/-! ### ELEMENT_SAVE -/

/-- The tokens of a FIFO ahead of its pre-emption marker. -/
def aheadOf (l : List Token) : List Token := l.takeWhile fun t => t != preemptMarker

/-- An unblocked input of a saving element: what stands ahead of its marker is recorded (R407). -/
def Input.record (n : Input) : Input :=
  let a := aheadOf n.fifo
  { n with recorded := n.recorded ++ a, fifo := n.fifo.drop a.length, held := 0 }

/-- The save of an element (R407): it stops issuing, the tokens on its unblocked inputs are recorded, and its markers
go out. -/
def GraphSt.save (g : GraphSt) (e : Nat) : GraphSt :=
  match g.elems[e]? with
  | some el =>
    let el' := (g.liveFed e).foldl (fun el i => if el.blocked i then el else el.modInput i fun n => n.record) el
    (g.setElem e { el' with saved := true }).preMark e 0xF
  | none => g

/-- The outstanding firings of an element but for those whose send engine still takes tokens: that saves its position
(R262, R291). -/
def Elem.owed (el : Elem) : List OutF :=
  match el.ks with
  | .e x => el.outs.filter fun (o : OutF) => !x.sends.any fun g => g.id == o.id
  | _ => el.outs

/-- Whether an element has an issued JOINF that has not pushed (R179). -/
def Elem.inJoinf (el : Elem) : Bool :=
  match el.firing with
  | some f =>
    (match f.instr with
     | .joinf _ => true
     | _ => false)
  | none => false

/-- Whether an element owes no asynchronous firing any more (R262, R407). -/
def State.ownsNothing (s : State) (c : Ctx) : Bool := c.el.owed.isEmpty && c.el.dues.isEmpty && s.accCount c == 0

/-- Whether an element may save by itself (R179, R406, R407): a marker source at once, any other once its fed inputs that
are not feedback inputs are blocked. -/
def State.maySave (s : State) (c : Ctx) : Bool :=
  c.reg.preempt == .running && !c.el.saved && s.ownsNothing c && !c.el.inJoinf
    && ((c.g.liveFed c.e).filter fun i => !c.g.feedbackIn c.e i).all c.el.blocked

/-- ELEMENT_SAVE (R407). -/
def execElementSave (r e : Nat) (s : State) : Res :=
  match s.live? r e with
  | none => .next s
  | some c => if s.maySave c then .next ((s.setGraph r (c.g.save e)).checkParked r) else .next s

/-! ### FREEZE -/

/-- Whether an output of an element is an XLAT output (R400). -/
def Elem.xlatOut (el : Elem) (o : Fin 4) : Bool :=
  el.img.slots.toList.any fun k =>
    validOf k.trig &&
      (match decode k.act with
       | .ok (.xlat f) => f.dst == .out o
       | _ => false)

/-- Whether some valid slot of an element puts condition 001 or 110 on an input (R400). -/
def Elem.takesControl (el : Elem) (i : Fin 4) : Bool :=
  el.img.slots.toList.any fun k => validOf k.trig && (condOf k.trig i == 1 || condOf k.trig i == 6)

/-- The fault that a fault token reports (R283, R284). -/
def faultOf (e : Nat) (at_ : FaultAt) (t : Token) : FaultRec :=
  ⟨e, at_, t.coord.toNat, pair64 t.payload 0, (lane32 t.payload 2).getLsbD 0⟩

/-- The faults at the heads of an element's inputs (R400). -/
def Ctx.headFaults (c : Ctx) : List FaultRec :=
  ([0, 1, 2, 3] : List (Fin 4)).filterMap fun i =>
    match c.g.feed? c.e i, c.el.head? i with
    | some d, some t =>
      let fromXlat := match c.g.elems[d.prod]? with
        | some p => p.xlatOut d.out
        | none => false
      if t.kind == .control && fromXlat && !c.el.takesControl i then some (faultOf c.e (.head i) t) else none
    | _, _ => none

/-- The fault token at which WMAP stands (R268, R400): any control token among its address words. (DEDUCED, log 110.) -/
def Ctx.windowFault (c : Ctx) : List FaultRec :=
  match c.el.firing with
  | some f =>
    match f.instr, streamInput? f.instr with
    | .wmap _, some i =>
      (match c.el.head? i with
       | some t => if f.stage = .take && f.n ≠ 0 && t.kind == .control && !t.poison then [faultOf c.e .window t] else []
       | none => [])
    | _, _ => []
  | none => []

/-- The translation faults that the address streams in modes 2 and 3 meet (R281, R400): those of the streams that go on (R406)
and have an access to make, by an entry of their node or as the walker region has answered. -/
def Ctx.streamFaults (c : Ctx) : List FaultRec :=
  match c.el.ks with
  | .e x =>
    if !c.reg.runs || c.el.saved || c.reg.preempt == .running then []
    else
      (x.streams.filter fun (t : Stream) => !t.ended && decide (2 ≤ x.mode t.num) && c.streamReady x t).filterMap
        fun (t : Stream) =>
          let va := x.genAddr t.num t.idx
          let isStore := x.mode t.num == 3
          let code := match x.tlbHit? c.reg.ctx va with
            | some ent =>
              (match x.streamWord ent t.num va isStore with
               | .error k => some k
               | .ok _ => none)
            | none => t.fault
          if 2 ^ 56 ≤ va then none else code.map fun k => ⟨c.e, .stream t.num, k, va, isStore⟩
  | _ => []

/-- Whether a region may freeze (R81): armed, or parked by a pre-emption. -/
def Region.mayFreeze (x : Region) : Bool := !x.freezing && (x.state == .armed || (x.state == .parked && !x.switching))

/-- Every fault of a region, in ascending element index (R400, R402). -/
def State.regionFaults (s : State) (r : Nat) : List FaultRec :=
  match s.region? r with
  | some reg =>
    match reg.g with
    | some g =>
      if reg.mayFreeze then
        (List.range g.elems.length).flatMap fun e =>
          match s.at? r e 0 with
          | some c => if g.isActive c.el then c.headFaults ++ c.windowFault ++ c.streamFaults else []
          | none => []
      else []
    | none => []
  | none => []

/-- FREEZE (R81, R400, R401): the region's clock stops. -/
def execFreeze (r : Nat) (s : State) : Res :=
  let l := s.regionFaults r
  if l = [] then .next s else .next (s.modRegion r fun reg => { reg with freezing := true, faults := l, quietAt := none })

/-- Whether an access that a region has sent awaits its reply (R401). -/
def MemSt.awaitsReply (m : MemSt) (r : Nat) (gen : BitVec 12) : Bool :=
  let mine (a : Access) : Bool := a.r == r && a.gen == gen
  m.reqs.any mine || m.replays.any mine || m.egress.any mine || m.replies.any fun y => mine y.acc

/-- FREEZE_SCAN (R401): every reply is collected and the region is FROZEN. -/
def execFreezeScan (r : Nat) (s : State) : Res :=
  match s.region? r with
  | some reg =>
    if reg.freezing && !s.mem.awaitsReply r reg.gen then
      .next (s.setRegion r { reg with state := .frozen, freezing := false })
    else .next s
  | none => .next s

/-! ### SCAN_OUT -/

/-- Whether a region is parked by a pre-emption, and nothing else is under way there (R81, R410). -/
def Region.rests (x : Region) : Bool := x.state == .parked && !x.switching && !x.freezing

/-- SCAN_OUT (R407): the image of a parked region goes to memory, and the launch keeps no region. -/
def execScanOut (r : Nat) (s : State) : Res :=
  match s.region? r with
  | some reg =>
    match reg.g with
    | some g =>
      if reg.rests then
        let s := s.setRegion r { reg with g := none }
        .next { s with
          sched := s.sched.modLaunch reg.launch fun l => { l with saved := some g.clearTlb, region := none } }
      else .next s
    | none => .next s
  | none => .next s

/-! ### FAULT_SERVICE -/

/-- The address word that stands for a serviced fault token (R402): TAG 1, POISON 0, with the LAST and COORD of
payload lanes 3 and 4. -/
def servicedTok (t : Token) (word : Payload) : Token :=
  ⟨1, .data, (lane32 t.payload 3).getLsbD 0, false, (lane32 t.payload 4).extractLsb' 0 16, word⟩

/-- The head of an input with another token in its place. -/
def Input.setHead (n : Input) (f : Token → Token) : Input :=
  match n.pres, n.fifo with
  | some t, _ => { n with pres := some (f t) }
  | none, t :: l => { n with fifo := f t :: l }
  | none, [] => n

/-- The scanned graph with a serviced fault repaired (R402). -/
def GraphSt.repair (g : GraphSt) (f : FaultRec) (word : Payload) : GraphSt :=
  let fix (i : Fin 4) : GraphSt := g.modIn f.elem i fun n => n.setHead fun t => servicedTok t word
  match f.at_ with
  | .head i => fix i
  | .window =>
    match g.elems[f.elem]? with
    | some el =>
      (match el.firing with
       | some x =>
         (match streamInput? x.instr with
          | some i => fix i
          | none => g)
       | none => g)
    | none => g
  | .stream n =>
    { g with
      elems := g.elems.modify f.elem fun el =>
        match el.ks with
        | .e x => { el with ks := .e { x with streams := x.streams.map fun t => if t.num = n then { t with fault := none } else t } }
        | _ => el }

/-- The region whose scan has every fault serviced (R402): its image waits for the restore. -/
def State.serviced (s : State) (r : Nat) (reg : Region) (g : GraphSt) : State :=
  let s := s.setRegion r { reg with g := none, faults := [] }
  { s with sched := s.sched.modLaunch reg.launch fun l => { l with saved := some g.clearTlb, state := .parked } }

/-- FAULT_SERVICE (R402): the control cores take up the first fault of a scan that is not serviced yet. It is serviced once
its translation gives an address word; one that is declined, or whose code is not 1, ends the launch with end state 6. After
the last the image waits for its restore. -/
def execFaultService (r : Nat) (decline : Bool) (s : State) : Res :=
  match s.region? r with
  | none => .next s
  | some reg =>
    match reg.state, reg.g, reg.faults with
    | .frozen, some g, f :: rest =>
      if decline || f.code != 1 then
        .next (s.endLaunch reg.launch 6 0 (leBytes 4 f.elem ++ leBytes 1 f.code ++ List.replicate 3 0) [])
      else
        match s.translate (dieOf r) reg.ctx f.va f.intent with
        | (s, .ok w, _) =>
          let g := g.repair f w
          if rest = [] then .next (s.serviced r reg g) else .next (s.setRegion r { reg with g := some g, faults := rest })
        | (s, .error _, _) => .next s
    | _, _, _ => .next s

/-- FLTH_REPLY (R297, R403): the control cores answer a fault handed over: serviced, and what a translation now
gives, or declined. -/
def execFlthReply (r e id : Nat) (decline : Bool) (s : State) : Res :=
  match s.at? r e 0 with
  | none => .next s
  | some c =>
    match c.el.outs.find? fun (o : OutF) => o.id == id with
    | none => .next s
    | some o =>
      if o.opc ≠ 0xFA || o.ready || !c.reg.runs then .next s
      else
        let answer (s : State) (k : Nat) : Res :=
          let t : Token := { o.hd.getD (controlTok 0 0) with coord := BitVec.ofNat 16 k }
          .next (c.put s (c.el.setOut { o with data := if o.dst.isSome then [t] else [], ready := true }))
        if decline then answer s 1
        else
          match s.translate c.die c.reg.ctx (pair64 o.arg 0) ((lane32 o.arg 2).getLsbD 0) with
          | (s', .ok _, _) => answer s' 0
          | (s', .error k, _) => if k = 1 then .next s' else answer s' k

/-! ### Retention, gating, release and restore -/

/-- RESUME_FROM_RETENTION (R57, R84): a parked region is armed again with no load. -/
def execResumeFromRetention (r : Nat) (s : State) : Res :=
  match s.region? r with
  | some reg =>
    if reg.rests && reg.g.isSome then
      let s := s.setRegion r { reg with state := .armed, quietAt := none }
      .next { s with sched := s.sched.modLaunch reg.launch fun l => { l with state := .running } }
    else .next s
  | none => .next s

/-- GATE_REGION (R81, R84, R438): power is removed and nothing is kept. -/
def execGateRegion (r : Nat) (s : State) : Res :=
  match s.region? r with
  | some reg =>
    if reg.rests then
      let s := (s.setRegion r { reg with state := .gated, g := none }).dropMasks reg.launch
      .next { s with volt := s.volt.settle (reg.clusters r) }
    else .next s
  | none => .next s

/-- Whether the launch of a region has its state elsewhere (R81). -/
def State.heldElsewhere (s : State) (r : Nat) (reg : Region) : Bool :=
  match s.sched.launch? reg.launch with
  | some l => l.region != some r
  | none => true

/-- REGION_RELEASE (R81, R323, R409): a parked, frozen or gated region whose launch stands elsewhere is freed. -/
def execRegionRelease (r : Nat) (s : State) : Res :=
  match s.region? r with
  | some reg =>
    if (reg.state = .parked || reg.state = .frozen || reg.state = .gated) && s.heldElsewhere r reg then
      .next (s.releaseRegion r)
    else .next s
  | none => .next s

/-- The region slot and rectangle on which a launch is restored (R378, R408): its own region counts as free. A READY
record of higher priority that fits there goes before it (R376, R377; DEDUCED). (DEDUCED, log 86.) -/
def State.restoreAt? (s : State) (l : Launch) (die : Nat) : Option (Nat × Nat × Nat × Nat × Nat) :=
  let own := match l.region with
    | some r => if dieOf r = die then some r else none
    | none => none
  if s.sched.candidates.any fun x => decide (l.prio < x.prio) && (s.fitOn? die x own).isSome then none
  else
    match s.fitOn? die l own, own.orElse (fun _ => s.freeSlot? die) with
    | some (x, y, w, h), some r => some (r, x, y, w, h)
    | _, _ => none

/-- What a restore writes: the saved image, that of a region in retention, or after gating none, which makes it a full
load (R81, R84, R408). -/
def State.imageOf (s : State) (l : Launch) : Option GraphSt :=
  l.saved.orElse fun _ =>
    match l.region with
    | some r =>
      (match s.region? r with
       | some reg => reg.g.map GraphSt.clearTlb
       | none => none)
    | none => none

/-- Whether a launch's region holds its image back from a restore: a freeze is under way, or faults of its scan are not
serviced (R402, R410). -/
def State.imageHeld (s : State) (l : Launch) : Bool :=
  match l.region.bind s.region? with
  | some x => x.freezing || x.switching || (x.state == .frozen && x.g.isSome)
  | none => false

/-- The placement of a launch that is restored on a rectangle (R78, R408); with no image to restore it loads afresh (R84). -/
def State.placeAgain (s : State) (l : Launch) (g : Option GraphSt) (x y w h : Nat) (pl : Placement) :
    Option (BitVec 384 × BitVec 384) × Option (Except Nat Placement) :=
  match g with
  | some g => (l.key, s.placeOn (g.elems.map (·.img)) g.edges (l.key.map fun k => cacheKey k x y w h) w h pl)
  | none => s.placeImage l x y w h pl

/-- The clusters that a region slot leaves when it takes another rectangle pass through FREE (R438). -/
def VoltSt.leave (v : VoltSt) (old new : Region) (r : Nat) : VoltSt :=
  v.settle ((old.clusters r).filter fun n => !(new.clusters r).contains n)

/-- RESTORE (R78, R81, R324, R408, R438): a parked launch is admitted to a region, which takes its next generation and loads. A
pre-emption that a freeze outranked goes on from where it stood (R410). -/
def execRestore (l die : Nat) (pl : Placement) (s : State) : Res :=
  match s.sched.launch? l with
  | none => .next s
  | some x =>
    if x.state ≠ .parked || !s.running || decide (8 ≤ die) || s.imageHeld x then .next s
    else
      match s.restoreAt? x die with
      | none => .next s
      | some (r, px, py, w, h) =>
        let g := s.imageOf x
        match s.placeAgain x g px py w h pl, s.mem.nextGen r ((s.region? r).getD Region.empty).gen with
        | (key, some (.ok pl)), some gen =>
          let old := match x.region with
            | some q => (s.region? q).getD Region.empty
            | none => Region.empty
          let reg := { x.loading gen px py w h pl with
            g := g.map fun g => { g with sites := placeSites pl (g.elems.map (·.img)) px py w }
            restoring := g.isSome, preempt := old.preempt, ckpt := old.ckpt }
          let s := s.cachePut (key.map fun k => cacheKey k px py w h) pl
          let s := match x.region with
            | some q => if q = r then { s with volt := s.volt.leave old reg r } else s.freeRegion q old
            | none => s
          let s := s.setRegion r reg
          .next { s with
            sched := s.sched.modLaunch l fun y => { y with state := .loading, region := some r, saved := none, key := key } }
        | _, _ => .next s

end Sys2Proof.Machine
end

