-- ==== Sys2Proof/Machine/Owl.lean ====
section
/-! DEFINITION. The Owl detector (R381, R382): quiescence, the completion of a partition, external waits, deadlock
reports, and the saves that quiescence forces during a pre-emption (R407). -/

namespace Sys2Proof.Machine

/-! ### Quiescence -/

/-- Whether the completion of an incomplete firing is still to come by itself, or a token or space lets it go on
(R381, R382). -/
def State.firingMoves (s : State) (c : Ctx) (f : Firing) : Bool :=
  match f.stage with
  | .push =>
    match f.q with
    | (o, _) :: _ => c.g.hasSpace c.e c.el o 1
    | [] => false
  | .wait =>
    match f.instr with
    | .fence x => !s.fenceWaits c f.n (fenceLevel x)
    | .joinf x =>
      let space := match outOf? x.dst with
        | some o => c.g.hasSpace c.e c.el o 1
        | none => true
      space && !(decide (5 ≤ x.cnt.toNat / 32) &&
        (c.el.joinToks.filter fun y => y.1 == f.slot).any fun y => s.undelivered c.reg.launch y.2)
    | .drv x =>
      match outOf? x.dst with
      | some o => c.g.hasSpace c.e c.el o 1
      | none => true
    | _ => true
  | _ =>
    match streamInput? f.instr with
    | some i => c.el.present i
    | none => false

/-- Whether an incomplete firing of an element moves. -/
def State.elemMoves (s : State) (c : Ctx) : Bool :=
  match c.el.firing with
  | some f => !c.el.saved && !c.pushPaused f && s.firingMoves c f
  | none => false

/-- Whether an element has an engine of R214, R281 or R291 outstanding. -/
def Elem.engineBusy (el : Elem) : Bool :=
  !el.engines.isEmpty ||
    (match el.ks with
     | .e x => !(x.streams.isEmpty && x.sends.isEmpty)
     | _ => false)

/-- Whether an engine of an element can take its next token; a stopped stream cannot (R406). -/
def Elem.engineMoves (el : Elem) : Bool :=
  !el.saved && ((el.engines.any fun x => el.present x.input) ||
    (match el.ks with
     | .e x => x.sends.any fun y => el.present y.input
     | _ => false))

/-- Whether a token is in flight on an edge of a graph, or can come from the parking area of a cut edge (R83). -/
def GraphSt.inFlight (g : GraphSt) : Bool :=
  g.elems.zipIdx.any fun (el, e) => ([0, 1, 2, 3] : List (Fin 4)).any fun i =>
    (el.ins.get i).inflight != [] ||
      (g.isActive el && !el.saved && g.inputFree e i && (g.unpark (cutChan e i)).isSome)

/-- The elements of the running partition of a region that runs. -/
def State.liveElems (s : State) (r : Nat) : List Ctx :=
  match s.region? r with
  | some reg =>
    match reg.g with
    | some g => (List.range g.elems.length).filterMap fun e => s.live? r e
    | none => []
  | none => []

/-- Whether some step of an element is at hand: a slot, a firing, the pair, or a drain marker. -/
def State.stepsLeft (s : State) (c : Ctx) : Bool :=
  (s.nextSlot? c).isSome || s.elemMoves c || c.el.pairDue || c.drainDue

/-- Quiescence of a region (R381). `engines` says whether an element's outstanding engines count. -/
def State.still (s : State) (r : Nat) (engines : Elem → Bool) : Bool :=
  match s.region? r with
  | some reg =>
    match reg.g with
    | some g =>
      reg.runs && !g.inFlight && s.regionFaults r == [] && (g.collected.all fun y => g.savedAt y.acc.e)
        && (s.liveElems r).all fun c => !s.stepsLeft c && (c.el.saved || s.ownsNothing c) && !engines c.el
    | none => false
  | none => false

/-- R381: no slot qualifies, no token is in flight, nothing is outstanding. (DEDUCED, log 67.) -/
def State.quiescent (s : State) (r : Nat) : Bool := s.still r Elem.engineBusy

/-! ### Completion -/

/-- Whether a slot holds DONE, which makes its element a sink (R164). -/
def isDone (k : Slot) : Bool :=
  validOf k.trig &&
    (match decode k.act with
     | .ok (.done _) => true
     | _ => false)

/-- Whether an element is a sink (R164). -/
def Elem.isSink (el : Elem) : Bool := el.img.slots.toList.any isDone

/-- Whether a partition has drained (R379): every element has stopped and no marker is left. -/
def State.drained (s : State) (r : Nat) : Bool :=
  (s.liveElems r).all fun c =>
    c.el.stop.isDrained && ([0, 1, 2, 3] : List (Fin 4)).all fun i => !(c.el.ins.get i).fifo.contains drainMarker

/-- Whether a quiescent partition is complete (R381). -/
def State.partDone (s : State) (r : Nat) : Bool :=
  ((s.liveElems r).all fun c => !c.el.isSink || decide (c.el.declared.toNat ≤ c.el.endCt.toNat)) || s.drained r

/-- The completion of a partition (R81, R82, R375, R381): the last ends the launch with end state 0; before it the region is
parked for the switch to the next one. -/
def State.endPart (s : State) (r : Nat) (reg : Region) (g : GraphSt) : State :=
  if g.parts ≤ g.part + 1 then s.endLaunch reg.launch 0 0 (List.replicate 8 0) []
  else
    let s := s.setRegion r { reg with
      state := .parked, loadPart := g.part + 1, restoring := false, switching := true, quietAt := none }
    { s with sched := s.sched.modLaunch reg.launch fun l => { l with state := .parked } }

/-- The next partition of a parked region is loaded (R81, R375, R409): what R409 names is discarded and counted.
(DEDUCED, log 72.) -/
def State.switchPart (s : State) (r : Nat) (reg : Region) (g : GraphSt) : State :=
  let s := s.setRegion r { reg with state := .loading }
  let s := s.dropMasks reg.launch
  { s with
    mem := { s.mem with replaceDiscard := bumpBy s.mem.replaceDiscard (dieOf r) g.discardCount }
    sched := s.sched.modLaunch reg.launch fun l => { l with state := .loading } }

/-! ### The blocker of an element -/

/-- Whether an instruction is one of the external waits of R381. -/
def isExternal : Instr → Bool
  | .cwait _ => true
  | .barw _ => true
  | .lrecv _ => true
  | .redr _ => true
  | _ => false

/-- Whether a slot waits outside the region (R381): its trigger holds and its own condition does not.
(DEDUCED, log 74.) -/
def State.slotWaits (s : State) (c : Ctx) (k : Slot) : Bool :=
  c.el.triggers k.trig &&
    (match decode k.act with
     | .ok i => isExternal i && !s.ownCondition c i
     | .error _ => false)

/-- Whether an element waits in CWAIT, BARW, LRECV or REDR (R381). -/
def State.waitsOutside (s : State) (c : Ctx) : Bool := c.mayIssue && c.el.img.slots.toList.any (s.slotWaits c)

/-- An entry of a deadlock report (R382). -/
structure Blocker where
  reason : Nat
  index : Nat
  edge : Option Nat
deriving DecidableEq, Repr, Inhabited

/-- The edge number of an input. -/
def Ctx.inEdge (c : Ctx) (i : Fin 4) : Option Nat := (c.g.feed? c.e i).map (·.num)
/-- The edge number of an output. -/
def Ctx.outEdge (c : Ctx) (o : Fin 4) : Option Nat := (c.g.edge? c.e o).map (·.num)

/-- Whether a drain marker stands at an input behind at least one token (R382). -/
def Input.drainBehind (n : Input) : Bool :=
  let l := n.pres.toList ++ n.fifo ++ n.recorded
  l.contains drainMarker && (l.takeWhile fun t => t != drainMarker).any fun t => !isMarker t

/-- The output of an instruction's DST, or the one that STEER chooses (R246). -/
def Ctx.dstOut? (c : Ctx) (i : Instr) : Option (Fin 4) :=
  match i with
  | .steer f =>
    (match c.srcTok? f.sa with
     | some t => if c.poisoned f.sb then none else c.steerTo (modOf f).toNat t (c.src f.md f.sb)
     | none => none)
  | _ =>
    match formDst i.form with
    | .out o => some o
    | _ => none

/-- The outputs that an instruction writes and that lack space, in ascending order. -/
def Ctx.fullOuts (c : Ctx) (i : Instr) : List (Fin 4) :=
  let d := c.dstOut? i
  let k := formCmpOut i.info i.form
  ([0, 1, 2, 3] : List (Fin 4)).filter fun o =>
    let n := (if d = some o then 1 else 0) + if k = some o then 1 else 0
    n != 0 && !c.g.hasSpace c.e c.el o n

/-- The input that a form names as SA. -/
def formSaHead : Form → Option (Fin 4)
  | .R f => headOf? f.sa
  | .I f => headOf? f.sa
  | .X f => headOf? f.sa
  | _ => none

/-- The first unmet condition of a slot (item 4 and 5 of R382). -/
def Ctx.slotBlocker (c : Ctx) (k : Slot) : Blocker :=
  match ([0, 1, 2, 3] : List (Fin 4)).find? fun n => !c.el.condHolds k.trig n with
  | some n => ⟨if (c.el.ins.get n).drainBehind then 5 else 1, n.val, c.inEdge n⟩
  | none =>
    match decode k.act with
    | .error _ => ⟨8, 0, none⟩
    | .ok i =>
      match c.fullOuts i with
      | o :: _ => ⟨2, o.val, c.outEdge o⟩
      | [] =>
        if isExternal i then ⟨6, 0, none⟩
        else
          match formSaHead i.form with
          | some n => ⟨8, n.val, c.inEdge n⟩
          | none => ⟨8, 0, none⟩

/-- The blocker of an element (R382). -/
def Ctx.blocker (c : Ctx) : Blocker :=
  let el := c.el
  if el.stop = .halted || el.stop = .haltedDrained then ⟨3, 0, none⟩
  else if el.stop ≠ .none then ⟨9, 0, none⟩
  else
    match el.firing with
    | some f =>
      match (if f.stage = .take || f.stage = .skip then streamInput? f.instr else none) with
      | some n => ⟨7, n.val, c.inEdge n⟩
      | none => ⟨7, 0, none⟩
    | none =>
      match el.img.slots.toList.find? fun k =>
        validOf k.trig && el.p &&& pmaskOf k.trig == pvalOf k.trig &&& pmaskOf k.trig with
      | some k => c.slotBlocker k
      | none =>
        match ([0, 1, 2, 3] : List (Fin 4)).find? fun n => (el.ins.get n).drainBehind with
        | some n => ⟨5, n.val, c.inEdge n⟩
        | none => ⟨4, 0, none⟩

/-- Whether the element's parking area holds a channel with a token, in its storage or spilled (R282, R382). -/
def Ctx.parksToken (c : Ctx) : Bool := c.g.chans.any fun ch => ch.elem == c.e && (ch.store != [] || ch.spill != [])

/-- Whether a deadlock report lists an element (R382). -/
def Ctx.listed (c : Ctx) : Bool :=
  let el := c.el
  (([0, 1, 2, 3] : List (Fin 4)).any fun i =>
    let n := el.ins.get i
    n.pres.isSome || n.fifo != [] || n.recorded != [])
  || (match el.ks with
      | .x x => x.bufs.toList.any fun b => b.cells.any fun y =>
          match y.2 with
          | .tok _ => true
          | _ => false
      | _ => false)
  || c.parksToken
  || el.stop != .none

/-- The 8 bytes of an entry (R382). -/
def Ctx.entry (c : Ctx) : List Byte :=
  let b := c.blocker
  leBytes 4 c.e ++ leBytes 1 b.reason ++ leBytes 1 b.index ++ leBytes 2 (b.edge.getD 0xFFFF)

/-- The elements that a deadlock report considers, in ascending index (R382): those of the running partition, and the S
elements of the others, whose parking areas outlast their partition (R282). -/
def State.reportElems (s : State) (r : Nat) : List Ctx :=
  match (s.region? r).bind (·.g) with
  | some g => (List.range g.elems.length).filterMap fun e =>
      (s.live? r e).orElse fun _ => (s.at? r e 0).filter fun c => c.el.img.kind == .S && c.parksToken
  | none => []

/-- The entries of a deadlock report (R382). -/
def State.deadlockEntries (s : State) (r : Nat) : List (List Byte) := ((s.reportElems r).filter Ctx.listed).map Ctx.entry

/-- The end of a deadlocked launch (R381). -/
def State.deadlock (s : State) (r : Nat) (reg : Region) : State :=
  s.endLaunch reg.launch 1 0 (List.replicate 8 0) (s.deadlockEntries r)

/-! ### OWL_QUIESCENCE -/

/-- The saves that a stalled pre-emption forces (R407): the unsaved elements with a blocked input, or, with none,
every unsaved element. (DEDUCED, log 81.) -/
def State.forceSaves (s : State) (r : Nat) : State :=
  let left := (s.liveElems r).filter fun c => !c.el.saved && !c.el.inJoinf
  let some_ := left.filter fun c => (c.g.liveFed c.e).any c.el.blocked
  let l := if some_.isEmpty then left else some_
  (l.foldl (fun s c =>
    match s.at? r c.e 0 with
    | some c => s.setGraph r (c.g.save c.e)
    | none => s) s).checkParked r

/-- OWL_QUIESCENCE (R381, R407): completion, an external wait, or a deadlock; during a pre-emption, the saves that a
stall forces; and at a region parked for the switch to its next partition, the start of that load (R82). -/
def execOwlQuiescence (r : Nat) (s : State) : Res :=
  match s.region? r with
  | none => .next s
  | some reg =>
    match reg.g with
    | none => .next s
    | some g =>
      if reg.state = .parked && reg.switching then .next (s.switchPart r reg g)
      else if reg.preempt = .running then
        if s.still r Elem.engineMoves && !((s.liveElems r).any s.maySave) then .next (s.forceSaves r) else .next s
      else if !s.quiescent r then .next s
      else if s.partDone r then .next (s.endPart r reg g)
      else if (s.liveElems r).any s.waitsOutside then
        match reg.quietAt with
        | some _ => .next s
        | none => .next (s.setRegion r { reg with quietAt := some s.clock.toNat })
      else .next (s.deadlock r reg)

/-- EXTERNAL_WAIT_EXPIRY (R381): a region that has been quiescent for the external-wait limit has deadlocked. -/
def execExternalWaitExpiry (r : Nat) (s : State) : Res :=
  match s.region? r with
  | none => .next s
  | some reg =>
    match reg.quietAt with
    | none => .next s
    | some t =>
      if reg.preempt ≠ .running && s.quiescent r && !s.partDone r && (s.liveElems r).any s.waitsOutside
          && decide (t + s.sched.extLimit ≤ s.clock.toNat) then .next (s.deadlock r reg)
      else .next s

end Sys2Proof.Machine
end

