-- ==== Sys2Proof/Machine/Platform.lean ====
section
/-! DEFINITION. Boot, security and service life (R427 to R440): the boot chain and its journal, the safe state, the
status mailbox, attestation, margins, temperature and supply, and the device clock (R13). -/

namespace Sys2Proof.Machine

/-! ### Flash copies -/

/-- The header of a copy less its signature fields: stage, security version, body length (R428). -/
def FlashCopy.header (c : FlashCopy) : List Byte := leBytes 4 c.stage ++ leBytes 4 c.version ++ leBytes 4 c.bytes.length

/-- Whether a copy is accepted (R428): both signatures verify and the version is not below the fused minimum. -/
def PlatSt.accepts (p : PlatSt) (c : FlashCopy) : Bool :=
  let m := c.header ++ c.bytes
  Config.rsaVerify p.keyRsa m c.rsaSig && Config.slhVerify p.keySlh m c.slhSig
    && decide (p.minVer.get (Fin.ofNat 5 c.stage) ≤ c.version)

/-- The measurement of a copy (R430): SHA-384 of its header and body. -/
def FlashCopy.measure (c : FlashCopy) : BitVec 384 := Config.sha384 (c.header ++ c.rsaSig ++ c.slhSig ++ c.bytes)

/-- A copy of a stage. -/
def PlatSt.copy? (p : PlatSt) (stage : Nat) (b : Bool) : Option FlashCopy :=
  p.flash.find? fun c => c.stage == stage && c.copyB == b

/-- A copy of a stage, if it is accepted. -/
def PlatSt.tryCopy (p : PlatSt) (stage : Nat) (b : Bool) : Option FlashCopy :=
  match p.copy? stage b with
  | some c => if p.accepts c then some c else none
  | none => none

/-- The copy that the journal names for a stage; A when it names none (R429). -/
def PlatSt.namedCopy (p : PlatSt) (stage : Nat) : Bool := (p.named.lookup stage).getD false

/-- The first accepted of a stage's two copies, the named one first (R429), with the platform: a named copy that is refused
is named no longer (R432). -/
def PlatSt.pick? (p : PlatSt) (stage : Nat) : PlatSt × Option FlashCopy :=
  let b := p.namedCopy stage
  match p.tryCopy stage b with
  | some c => (p, some c)
  | none => ({ p with named := p.named.filter fun x => x.1 != stage }, p.tryCopy stage (!b))

/-! ### The boot journal -/

/-- The bytes of a journal entry that its CRC covers (R431): with the CRC an entry has 64. -/
def JournalEnt.bytes (e : JournalEnt) : List Byte :=
  leBytes 4 e.seq ++ leBytes 1 e.stage ++ leBytes 4 e.step
    ++ leBytes 1 ((if e.isIntent then 1 else 0) + (if e.failed then 2 else 0) + if e.skipped then 4 else 0)
    ++ leBytes 1 e.action ++ leBytes 2 e.cluster ++ List.replicate 47 0

/-- Whether an entry's CRC holds; one whose CRC fails is ignored (R431). -/
def JournalEnt.valid (e : JournalEnt) : Bool := e.crc == Config.crc32 e.bytes

/-- Writes a journal entry with its sequence number; `crcOff` is 0 unless power is lost in the write. The ring drops its oldest
entry when it is full (R431). -/
def PlatSt.journalise (p : PlatSt) (e : JournalEnt) (crcOff : Word) : PlatSt :=
  let e := { e with seq := match p.journal.getLast? with
    | some l => l.seq + 1
    | none => 0 }
  let l := p.journal ++ [{ e with crc := Config.crc32 e.bytes + crcOff }]
  { p with journal := l.drop (l.length - (Config.journalSpare + 2)) }

/-- An intent entry, of a step that is run or skipped. -/
def PlatSt.intent (p : PlatSt) (stage step : Nat) (skipped : Bool) (crcOff : Word) : PlatSt :=
  p.journalise ⟨0, stage, step, true, false, skipped, 0, 0, 0⟩ crcOff
/-- An outcome entry of a step that ended well or was skipped. -/
def PlatSt.outcome (p : PlatSt) (stage step : Nat) (skipped : Bool) (crcOff : Word) : PlatSt :=
  p.journalise ⟨0, stage, step, false, false, skipped, 0, 0, 0⟩ crcOff
/-- An outcome entry of a step that failed. -/
def PlatSt.failure (p : PlatSt) (stage step action cluster : Nat) : PlatSt :=
  p.journalise ⟨0, stage, step, false, true, false, action, cluster, 0⟩ 0

/-- The journal's entries of a step that passes, or that this boot skips (R431, R432). -/
def PlatSt.passStep (p : PlatSt) (stage step : Nat) : PlatSt :=
  let sk := p.skip.contains (stage, step)
  (p.intent stage step sk 0).outcome stage step sk 0

/-- The step of an intent that stands without its outcome (R431). -/
def PlatSt.openStep? (p : PlatSt) : Option (Nat × Nat) :=
  match (p.journal.filter JournalEnt.valid).getLast? with
  | some e => if e.isIntent then some (e.stage, e.step) else none
  | none => none

/-- What a reset or a loss of power at a step of a stage leaves of it in the journal (R431). -/
def PlatSt.cut (p : PlatSt) (stage : Nat) : CutAt → PlatSt
  | .clean => p
  | .inIntent k => p.intent stage k false 1
  | .inStep k => p.intent stage k false 0
  | .inOutcome k => (p.intent stage k false 0).outcome stage k false 1

/-! ### The safe state -/

/-- The device enters its safe state (R434); one that is there stays there with its first reason. A boot that ends so before
stage 3 runs has failed (R432). (DEDUCED, log 78.) -/
def State.safe (s : State) (reason step : Nat) : State :=
  if s.plat.boot = .safe then s
  else
    { s with plat := { s.plat with
        boot := .safe, safeReason := reason, failStep := step, mailState := 2, bootOpen := false, lastUpdate := s.clock
        failedBoots := if s.plat.bootOpen then s.plat.failedBoots + 1 else s.plat.failedBoots } }

/-- Whether the fabric clocks are off (R434). -/
def State.asleep (s : State) : Bool := s.plat.boot == .safe

/-- The events that reach a device in its safe state (R434): a reset, the mailbox and the readings in it, configuration
space, service (R432), and the device clock. -/
def wakesAsleep : Instr → Bool
  | .reset => true
  | .mailboxUpdate _ _ _ => true
  | .thermalThreshold _ => true
  | .supplyFault => true
  | .deviceClockDiscipline _ => true
  | .hostCxlAccess a =>
    match a with
    | .barRead _ _ => true
    | .cfgRead _ _ => true
    | .cfgWrite _ _ => true
    | _ => false
  | .configRegisterWrite w =>
    match w with
    | .service _ => true
    | _ => false
  | _ => false

/-! ### Boot stages -/

/-- A boot that failed (R431, R432, R435): it counts if stage 3 has not run, and the third in a row that counts ends in the safe
state with reason 3. -/
def State.bootFailed (s : State) (step : Nat) : State :=
  let n := s.plat.failedBoots + if s.plat.bootOpen then 1 else 0
  let t := ({ s with plat := { s.plat with failedBoots := n, failStep := step, bootOpen := false } } : State).mailed
  if s.plat.bootOpen && decide (3 ≤ n) then t.safe 3 step else { t with plat := { t.plat with boot := .stage 0 } }

/-- The actions in force after a failed step (R432). -/
def PlatSt.takeAction (p : PlatSt) (stage : Nat) (f : BootFail) (a : Nat) : PlatSt :=
  if a = 1 then
    { p with named := (p.named.filter fun x => x.1 != stage) ++ [(stage, !p.namedCopy stage)] }
  else if a = 2 then { p with conservative := true }
  else if a = 3 then { p with mapOutNext := setIns f.cluster p.mapOutNext }
  else { p with skipNext := p.skipNext ++ [(stage, f.step)] }

/-- Whether an action of R432 can absorb a failure. -/
def absorbs (f : BootFail) (a : Nat) : Bool := a == 1 || a == 2 || a == 3 || (a == 4 && f.isOptional)

/-- A step of a stage that failed (R431 to R433). -/
def State.stepFailed (s : State) (stage : Nat) (f : BootFail) : State :=
  let give : State := { s with plat := s.plat.failure stage f.step 0 0 }.safe 2 f.step
  match f.action with
  | some a =>
    if absorbs f a then
      { s with plat := (s.plat.failure stage f.step a f.cluster).takeAction stage f a }.bootFailed f.step
    else give
  | none => give

/-- The load of the next stage's image (R428 to R430), which is measured as it is accepted, and starts; with none accepted, the
safe state with reason 1. A boot in which stage 3 runs has not failed before it (R432). -/
def State.loadStage (s : State) (stage : Nat) : State :=
  match s.plat.pick? stage with
  | (p, some c) =>
    { s with
      plat := { p with
        boot := .stage stage, highest := max p.highest stage, lastUpdate := s.clock
        bootOpen := p.bootOpen && stage != 3, failedBoots := if stage = 3 then 0 else p.failedBoots
        ver := p.ver.set (Fin.ofNat 4 stage) c.version
        meas := p.meas.set (Fin.ofNat 4 stage) c.measure } }
  | (p, none) => ({ s with plat := p } : State).safe 1 0

/-- Stage 1 verifies the firmware of I/O 1's security block, which then starts (R11, R427). (DESIGN CHOICE, log 75.) -/
def State.startIo1 (s : State) : State :=
  match s.plat.pick? 4 with
  | (p, some _) => { s with plat := { p with io1 := true } }
  | (p, none) => ({ s with plat := p } : State).safe 1 0

/-- The power limit in force (R439). -/
def PlatSt.limit (p : PlatSt) : Nat :=
  if p.isModule then 2400
  else
    match p.flashLimit with
    | some n => if 600 ≤ n && n ≤ 2400 then n else 600
    | none => 600

/-- What stage 0 makes of the boot before (R431 to R433): a step whose intent stands without its outcome has failed, with the
action that `f` names or none; a boot that a reset cut short between two steps has failed as well. (DEDUCED, log 76.) -/
def State.lastBoot (s : State) (f : Option BootFail) : State :=
  match s.plat.openStep? with
  | some (stage, step) => s.stepFailed stage { f.getD ⟨step, false, none, 0⟩ with step := step }
  | none => if s.plat.bootOpen then s.bootFailed 0 else s

/-- The start of a boot (R430 to R432, R435): stage 0 counts it, writes the mailbox, measures the boot ROM, and takes up the
steps that this boot skips. (DESIGN CHOICE, log 101.) -/
def State.startBoot (s : State) : State :=
  let p := s.plat
  { s with
    plat := { p with
      bootCount := min (p.bootCount + 1) 0xFFFFFFFF, mailState := 0, highest := 0, safeReason := 0, bootOpen := true
      skip := p.skipNext, skipNext := [], lastUpdate := s.clock
      meas := (Vector.replicate 4 0).set 0 (Config.sha384 Config.bootRom) } }

/-- What stage 2 does (R432, R437 to R439): HBM is trained, clusters are mapped out, memory is zeroed, the margins of every
cluster are planned and in force, and the power limit is set. -/
def State.stage2 (s : State) (margins : List (Nat × Nat)) : State :=
  let p := s.plat
  let marks := (p.mapOutNext.foldl (fun p n => p.addMark n 2) p).clusters
  { s with
    mem := { s.mem with bytes := [], poison := [] }
    plat := { p with
      clusters := marks, mapOutNext := [], powerLimit := p.limit, hbmConservative := p.conservative }
    volt := ⟨margins.foldl (fun m x => sset 0 m x.1 x.2) s.volt.margins, []⟩ }

/-- Stage 3 runs (R430, R432): M3 is extended with each part, and the count of failed boots starts anew. -/
def State.stage3 (s : State) (parts : List (List Byte)) : State :=
  let m := parts.foldl (fun m q => Config.sha384 (leBytes 48 m.toNat ++ leBytes 48 (Config.sha384 q).toNat))
    (s.plat.meas.get 3)
  { s with
    plat := { s.plat with
      boot := .running, mailState := 1, failedBoots := 0, failStep := 0, bootOpen := false, ioUp := s.plat.io1
      lastUpdate := s.clock, meas := s.plat.meas.set 3 m } }

/-- Stage 0 (R427, R431): it takes up the boot before, starts this one and verifies stage 1. -/
def State.stage0 (s : State) (f : Option BootFail) : State :=
  let t := s.lastBoot f
  if t.asleep then t else t.startBoot.loadStage 1

/-- The work of a stage after stage 0 that ends well (R427). -/
def State.stageDone (s : State) (stage : Nat) (run : StageRun) : State :=
  match stage with
  | 1 =>
    let t := s.startIo1
    if t.asleep then t else t.loadStage 2
  | 2 => (s.stage2 run.margins).loadStage 3
  | _ => s.stage3 run.parts

/-! ### RESET -/

/-- The platform at a reset: fuses, flash, the journal, the marks and the actions in force stay. -/
def PlatSt.again (p : PlatSt) : PlatSt :=
  { PlatSt.reset with
    keyRsa := p.keyRsa, keySlh := p.keySlh, secret := p.secret, minVer := p.minVer, flash := p.flash
    journal := p.journal, bootCount := p.bootCount, failedBoots := p.failedBoots, failStep := p.failStep
    clusters := p.clusters, mapOutNext := p.mapOutNext, named := p.named, skipNext := p.skipNext, bootOpen := p.bootOpen
    conservative := p.conservative, flashLimit := p.flashLimit, isModule := p.isModule, powerLimit := p.powerLimit
    power := p.power, coolant := p.coolant, hottest := p.hottest, reports := p.reports, lastUpdate := p.lastUpdate }

/-- The machine as a reset leaves it, but for what fuses and flash keep (R427, R434). (DEDUCED, log 76.) -/
def State.restarted (s : State) : State :=
  { State.reset with
    agenda := s.agenda, choiceCtr := s.choiceCtr, freeCtr := s.freeCtr, nextId := s.nextId, clock := s.clock
    mem := { MemSt.reset with bytes := s.mem.bytes, poison := s.mem.poison }, plat := s.plat.again }

/-- RESET (R427, R434), between the steps of a boot stage or at any other time. -/
def execReset (s : State) : Res := .next s.restarted

/-! ### BOOT_STAGE -/

/-- BOOT_STAGE (R427 to R433): the next stage runs its journalled steps; a failed step that this boot does not skip ends the
boot, and a reset or a loss of power in the stage leaves the entries that it has written by then. Stage 0, the boot ROM, has
no journalled step: a failure there is that of the step which the boot before left open. -/
def execBootStage (fin : StageEnd) (run : StageRun) (s : State) : Res :=
  match s.plat.boot with
  | .stage 0 =>
    match fin with
    | .done => .next (s.stage0 none)
    | .failed f => .next (s.stage0 (some f))
    | .cut _ => .next s.restarted
  | .stage n =>
    let s := { s with plat := run.steps.foldl (fun p k => p.passStep n k) s.plat }
    match fin with
    | .done => .next (s.stageDone n run)
    | .failed f =>
      if s.plat.skip.contains (n, f.step) then .next ({ s with plat := s.plat.passStep n f.step }.stageDone n run)
      else .next ({ s with plat := s.plat.intent n f.step false 0 }.stepFailed n f)
    | .cut x => .next ({ s with plat := s.plat.cut n x } : State).restarted
  | _ => .next s

/-! ### The status mailbox -/

/-- MAILBOX_UPDATE (R435): the readings and the device clock at the update. -/
def execMailboxUpdate (power coolant hottest : Nat) (s : State) : Res :=
  .next ({ s with plat := { s.plat with power := power, coolant := coolant, hottest := hottest } } : State).mailed

/-! ### Attestation -/

/-- What an attestation report says (R436). -/
def Report.content (x : Report) : List Byte :=
  x.nonce ++ (x.m.flatMap fun m => leBytes 48 m.toNat) ++ (x.versions.flatMap (leBytes 4))
    ++ (x.clusters.flatMap fun c => leBytes 2 c.1 ++ leBytes 1 c.2) ++ leBytes 4 x.boots

/-- The report for a nonce, signed by both identity keys (R436). -/
def PlatSt.attest (p : PlatSt) (nonce : List Byte) : Report :=
  let x : Report := ⟨nonce, p.meas.toList, p.ver.toList, p.clusters.map fun c => (c.1, min 2 c.2), p.bootCount, [], []⟩
  { x with rsaSig := Config.rsaSign p.secret x.content, slhSig := Config.slhSign p.secret x.content }

/-- ATTESTATION_REQUEST (R436): the device operating system obtains a report for a 32-byte nonce. -/
def execAttestationRequest (nonce : List Byte) (s : State) : Res :=
  if s.running && nonce.length == 32 then
    .next { s with plat := { s.plat with reports := s.plat.reports ++ [s.plat.attest nonce] } }
  else .next s

/-! ### Ageing, temperature and supply -/

/-- A cluster marked slow (R438). (DEDUCED, log 77.) -/
def PlatSt.markSlow (p : PlatSt) (cluster : Nat) : PlatSt := p.addMark cluster 1

/-- Whether a cluster stands in a region that is neither FREE nor GATED (R438). -/
def State.clusterBusy (s : State) (cluster : Nat) : Bool :=
  s.regions.zipIdx.any fun (x, r) => x.state != .free && x.state != .gated && (x.clusters r).contains cluster

/-- The voltage margin planned for a cluster, in force at once where the cluster is FREE or GATED (R438). -/
def State.planMargin (s : State) (cluster margin : Nat) : State :=
  let v := { s.volt with planned := (s.volt.planned.filter fun x => x.1 != cluster) ++ [(cluster, margin)] }
  { s with volt := if s.clusterBusy cluster then v else v.settle [cluster] }

/-- MARGIN_REPLAN (R438): the margin of one cluster, and what its ageing monitors say. -/
def execMarginReplan (plan : MarginPlan) (slack : Slack) (s : State) : Res :=
  if 512 ≤ plan.cluster then .next s
  else
    let s := s.planMargin plan.cluster plan.margin
    match slack with
    | .ok => .next s
    | .slow => .next ({ s with plat := s.plat.markSlow plan.cluster } : State).mailed
    | .failed =>
      let p := (s.plat.markSlow plan.cluster).failure 2 0 3 plan.cluster
      .next ({ s with plat := { p with mapOutNext := setIns plan.cluster p.mapOutNext } } : State).mailed

/-- Ends every launch that has a region (R440). -/
def State.abortAll (s : State) : State :=
  ((s.regions.filter fun x => x.state != .free).map (·.launch)).foldl (fun s l => s.endLaunch l 4 0 (List.replicate 8 0) []) s

/-- THERMAL_THRESHOLD (R440): the hottest die's reading. -/
def execThermalThreshold (deciC : Nat) (s : State) : Res :=
  let s := ({ s with plat := { s.plat with hottest := deciC } } : State).mailed
  if 1150 ≤ deciC then .next (s.abortAll.safe 4 0)
  else if 1050 ≤ deciC then .next { s with plat := { s.plat with throttled := true } }
  else if deciC < 1000 then .next { s with plat := { s.plat with throttled := false } }
  else .next s

/-- SUPPLY_FAULT (R440). -/
def execSupplyFault (s : State) : Res := .next (s.safe 5 0)

/-- DEVICE_CLOCK_DISCIPLINE (R13): the device clock follows the time it is disciplined to. (DEDUCED, log 53.) -/
def execDeviceClockDiscipline (ns : Nat) (s : State) : Res :=
  .next { s with clock := BitVec.ofNat 64 (max s.clock.toNat (min ns (2 ^ 64 - 1))) }

end Sys2Proof.Machine
end

