-- ==== Sys2Proof/Machine/Dispatch.lean ====
section
/-! DEFINITION. The dispatch: one arm per constructor of Instr, each a direct call of that instruction's meaning. -/

namespace Sys2Proof.Machine

def exec (i : Instr) (s : State) : Host.Outcome State Fault Refusal :=
  match i with
  | .nop f => Sys2Proof.Machine.execNop f s
  | .mov f => Sys2Proof.Machine.execMov f s
  | .movk f => Sys2Proof.Machine.execMovk f s
  | .movi f => Sys2Proof.Machine.execMovi f s
  | .sel f => Sys2Proof.Machine.execSel f s
  | .pset f => Sys2Proof.Machine.execPset f s
  | .pget f => Sys2Proof.Machine.execPget f s
  | .pput f => Sys2Proof.Machine.execPput f s
  | .fwd f => Sys2Proof.Machine.execFwd f s
  | .emitc f => Sys2Proof.Machine.execEmitc f s
  | .retag f => Sys2Proof.Machine.execRetag f s
  | .sendl f => Sys2Proof.Machine.execSendl f s
  | .crdget f => Sys2Proof.Machine.execCrdget f s
  | .crdset f => Sys2Proof.Machine.execCrdset f s
  | .cnti f => Sys2Proof.Machine.execCnti f s
  | .bcast f => Sys2Proof.Machine.execBcast f s
  | .shuf f => Sys2Proof.Machine.execShuf f s
  | .pack f => Sys2Proof.Machine.execPack f s
  | .unpkl f => Sys2Proof.Machine.execUnpkl f s
  | .unpkh f => Sys2Proof.Machine.execUnpkh f s
  | .halt f => Sys2Proof.Machine.execHalt f s
  | .trap f => Sys2Proof.Machine.execTrap f s
  | .done f => Sys2Proof.Machine.execDone f s
  | .drain f => Sys2Proof.Machine.execDrain f s
  | .join f => Sys2Proof.Machine.execJoin f s
  | .joinf f => Sys2Proof.Machine.execJoinf f s
  | .time f => Sys2Proof.Machine.execTime f s
  | .stat f => Sys2Proof.Machine.execStat f s
  | .perf f => Sys2Proof.Machine.execPerf f s
  | .addx f => Sys2Proof.Machine.execAddx f s
  | .ltok f => Sys2Proof.Machine.execLtok f s
  | .mulx f => Sys2Proof.Machine.execMulx f s
  | .add sh f => Sys2Proof.Machine.execAdd sh f s
  | .sub sh f => Sys2Proof.Machine.execSub sh f s
  | .mul sh f => Sys2Proof.Machine.execMul sh f s
  | .mulh sh f => Sys2Proof.Machine.execMulh sh f s
  | .and sh f => Sys2Proof.Machine.execAnd sh f s
  | .or sh f => Sys2Proof.Machine.execOr sh f s
  | .xor sh f => Sys2Proof.Machine.execXor sh f s
  | .shl sh f => Sys2Proof.Machine.execShl sh f s
  | .shr sh f => Sys2Proof.Machine.execShr sh f s
  | .sra sh f => Sys2Proof.Machine.execSra sh f s
  | .min sh f => Sys2Proof.Machine.execMin sh f s
  | .max sh f => Sys2Proof.Machine.execMax sh f s
  | .ceq sh f => Sys2Proof.Machine.execCeq sh f s
  | .clt sh f => Sys2Proof.Machine.execClt sh f s
  | .cltu sh f => Sys2Proof.Machine.execCltu sh f s
  | .addi sh f => Sys2Proof.Machine.execAddi sh f s
  | .faddF32 f => Sys2Proof.Machine.execFaddF32 f s
  | .faddF16 f => Sys2Proof.Machine.execFaddF16 f s
  | .faddBF16 f => Sys2Proof.Machine.execFaddBF16 f s
  | .fsubF32 f => Sys2Proof.Machine.execFsubF32 f s
  | .fsubF16 f => Sys2Proof.Machine.execFsubF16 f s
  | .fsubBF16 f => Sys2Proof.Machine.execFsubBF16 f s
  | .fmulF32 f => Sys2Proof.Machine.execFmulF32 f s
  | .fmulF16 f => Sys2Proof.Machine.execFmulF16 f s
  | .fmulBF16 f => Sys2Proof.Machine.execFmulBF16 f s
  | .ffmaF32 f => Sys2Proof.Machine.execFfmaF32 f s
  | .ffmaF16 f => Sys2Proof.Machine.execFfmaF16 f s
  | .ffmaBF16 f => Sys2Proof.Machine.execFfmaBF16 f s
  | .fminF32 f => Sys2Proof.Machine.execFminF32 f s
  | .fminF16 f => Sys2Proof.Machine.execFminF16 f s
  | .fminBF16 f => Sys2Proof.Machine.execFminBF16 f s
  | .fmaxF32 f => Sys2Proof.Machine.execFmaxF32 f s
  | .fmaxF16 f => Sys2Proof.Machine.execFmaxF16 f s
  | .fmaxBF16 f => Sys2Proof.Machine.execFmaxBF16 f s
  | .fceqF32 f => Sys2Proof.Machine.execFceqF32 f s
  | .fceqF16 f => Sys2Proof.Machine.execFceqF16 f s
  | .fceqBF16 f => Sys2Proof.Machine.execFceqBF16 f s
  | .fcltF32 f => Sys2Proof.Machine.execFcltF32 f s
  | .fcltF16 f => Sys2Proof.Machine.execFcltF16 f s
  | .fcltBF16 f => Sys2Proof.Machine.execFcltBF16 f s
  | .fcleF32 f => Sys2Proof.Machine.execFcleF32 f s
  | .fcleF16 f => Sys2Proof.Machine.execFcleF16 f s
  | .fcleBF16 f => Sys2Proof.Machine.execFcleBF16 f s
  | .fabsF32 f => Sys2Proof.Machine.execFabsF32 f s
  | .fabsF16 f => Sys2Proof.Machine.execFabsF16 f s
  | .fabsBF16 f => Sys2Proof.Machine.execFabsBF16 f s
  | .fnegF32 f => Sys2Proof.Machine.execFnegF32 f s
  | .fnegF16 f => Sys2Proof.Machine.execFnegF16 f s
  | .fnegBF16 f => Sys2Proof.Machine.execFnegBF16 f s
  | .fcvtF32 f => Sys2Proof.Machine.execFcvtF32 f s
  | .fcvtF16 f => Sys2Proof.Machine.execFcvtF16 f s
  | .fcvtBF16 f => Sys2Proof.Machine.execFcvtBF16 f s
  | .ftoiF32 f => Sys2Proof.Machine.execFtoiF32 f s
  | .ftoiF16 f => Sys2Proof.Machine.execFtoiF16 f s
  | .ftoiBF16 f => Sys2Proof.Machine.execFtoiBF16 f s
  | .itofF32 f => Sys2Proof.Machine.execItofF32 f s
  | .itofF16 f => Sys2Proof.Machine.execItofF16 f s
  | .itofBF16 f => Sys2Proof.Machine.execItofBF16 f s
  | .fnarrowF32 f => Sys2Proof.Machine.execFnarrowF32 f s
  | .fnarrowF16 f => Sys2Proof.Machine.execFnarrowF16 f s
  | .fnarrowBF16 f => Sys2Proof.Machine.execFnarrowBF16 f s
  | .fwidenF32 f => Sys2Proof.Machine.execFwidenF32 f s
  | .fwidenF16 f => Sys2Proof.Machine.execFwidenF16 f s
  | .fwidenBF16 f => Sys2Proof.Machine.execFwidenBF16 f s
  | .exp2 f => Sys2Proof.Machine.execExp2 f s
  | .log2 f => Sys2Proof.Machine.execLog2 f s
  | .rcp f => Sys2Proof.Machine.execRcp f s
  | .sqrt f => Sys2Proof.Machine.execSqrt f s
  | .rsqrt f => Sys2Proof.Machine.execRsqrt f s
  | .exp f => Sys2Proof.Machine.execExp f s
  | .tanh f => Sys2Proof.Machine.execTanh f s
  | .sigm f => Sys2Proof.Machine.execSigm f s
  | .gelu f => Sys2Proof.Machine.execGelu f s
  | .rand f => Sys2Proof.Machine.execRand f s
  | .xclr f => Sys2Proof.Machine.execXclr f s
  | .xadd f => Sys2Proof.Machine.execXadd f s
  | .xsq f => Sys2Proof.Machine.execXsq f s
  | .xrd f => Sys2Proof.Machine.execXrd f s
  | .xvar f => Sys2Proof.Machine.execXvar f s
  | .smax f => Sys2Proof.Machine.execSmax f s
  | .mldb f => Sys2Proof.Machine.execMldb f s
  | .mlds f => Sys2Proof.Machine.execMlds f s
  | .mswap f => Sys2Proof.Machine.execMswap f s
  | .mzero f => Sys2Proof.Machine.execMzero f s
  | .mrow q f => Sys2Proof.Machine.execMrow q f s
  | .mrows q f => Sys2Proof.Machine.execMrows q f s
  | .mchain f => Sys2Proof.Machine.execMchain f s
  | .mout f => Sys2Proof.Machine.execMout f s
  | .moutq f => Sys2Proof.Machine.execMoutq f s
  | .mgrp f => Sys2Proof.Machine.execMgrp f s
  | .maccr f => Sys2Proof.Machine.execMaccr f s
  | .maccw f => Sys2Proof.Machine.execMaccw f s
  | .msplit f => Sys2Proof.Machine.execMsplit f s
  | .mbias f => Sys2Proof.Machine.execMbias f s
  | .mstat f => Sys2Proof.Machine.execMstat f s
  | .swcfg f => Sys2Proof.Machine.execSwcfg f s
  | .swpush f => Sys2Proof.Machine.execSwpush f s
  | .swemit f => Sys2Proof.Machine.execSwemit f s
  | .swflush f => Sys2Proof.Machine.execSwflush f s
  | .isect f => Sys2Proof.Machine.execIsect f s
  | .icnt f => Sys2Proof.Machine.execIcnt f s
  | .cmpr f => Sys2Proof.Machine.execCmpr f s
  | .expnd f => Sys2Proof.Machine.execExpnd f s
  | .wsplit f => Sys2Proof.Machine.execWsplit f s
  | .wjoin f => Sys2Proof.Machine.execWjoin f s
  | .argmx f => Sys2Proof.Machine.execArgmx f s
  | .xpose f => Sys2Proof.Machine.execXpose f s
  | .xthr f => Sys2Proof.Machine.execXthr f s
  | .ltab f => Sys2Proof.Machine.execLtab f s
  | .lwire f => Sys2Proof.Machine.execLwire f s
  | .leval f => Sys2Proof.Machine.execLeval f s
  | .lemit f => Sys2Proof.Machine.execLemit f s
  | .lpop f => Sys2Proof.Machine.execLpop f s
  | .lunx f => Sys2Proof.Machine.execLunx f s
  | .lctx f => Sys2Proof.Machine.execLctx f s
  | .lin f => Sys2Proof.Machine.execLin f s
  | .steer f => Sys2Proof.Machine.execSteer f s
  | .slots f => Sys2Proof.Machine.execSlots f s
  | .reord f => Sys2Proof.Machine.execReord f s
  | .rels f => Sys2Proof.Machine.execRels f s
  | .merge f => Sys2Proof.Machine.execMerge f s
  | .seqno f => Sys2Proof.Machine.execSeqno f s
  | .ld f => Sys2Proof.Machine.execLd f s
  | .st f => Sys2Proof.Machine.execSt f s
  | .ldw f => Sys2Proof.Machine.execLdw f s
  | .stw f => Sys2Proof.Machine.execStw f s
  | .wmap f => Sys2Proof.Machine.execWmap f s
  | .wsync f => Sys2Proof.Machine.execWsync f s
  | .winv f => Sys2Proof.Machine.execWinv f s
  | .wclose f => Sys2Proof.Machine.execWclose f s
  | .aadd f => Sys2Proof.Machine.execAadd f s
  | .amax f => Sys2Proof.Machine.execAmax f s
  | .amin f => Sys2Proof.Machine.execAmin f s
  | .axchg f => Sys2Proof.Machine.execAxchg f s
  | .acas f => Sys2Proof.Machine.execAcas f s
  | .aor f => Sys2Proof.Machine.execAor f s
  | .aand f => Sys2Proof.Machine.execAand f s
  | .adet f => Sys2Proof.Machine.execAdet f s
  | .aclose f => Sys2Proof.Machine.execAclose f s
  | .drv f => Sys2Proof.Machine.execDrv f s
  | .drvx f => Sys2Proof.Machine.execDrvx f s
  | .drvq f => Sys2Proof.Machine.execDrvq f s
  | .agen f => Sys2Proof.Machine.execAgen f s
  | .agstr f => Sys2Proof.Machine.execAgstr f s
  | .park f => Sys2Proof.Machine.execPark f s
  | .unpark f => Sys2Proof.Machine.execUnpark f s
  | .xlat f => Sys2Proof.Machine.execXlat f s
  | .xinv f => Sys2Proof.Machine.execXinv f s
  | .fence f => Sys2Proof.Machine.execFence f s
  | .cwait f => Sys2Proof.Machine.execCwait f s
  | .csig f => Sys2Proof.Machine.execCsig f s
  | .bara f => Sys2Proof.Machine.execBara f s
  | .barw f => Sys2Proof.Machine.execBarw f s
  | .bari f => Sys2Proof.Machine.execBari f s
  | .put f => Sys2Proof.Machine.execPut f s
  | .puts f => Sys2Proof.Machine.execPuts f s
  | .get f => Sys2Proof.Machine.execGet f s
  | .red f => Sys2Proof.Machine.execRed f s
  | .redr f => Sys2Proof.Machine.execRedr f s
  | .lsend f => Sys2Proof.Machine.execLsend f s
  | .lrecv f => Sys2Proof.Machine.execLrecv f s
  | .lq f => Sys2Proof.Machine.execLq f s
  | .lnch f => Sys2Proof.Machine.execLnch f s
  | .sysc f => Sys2Proof.Machine.execSysc f s
  | .flth f => Sys2Proof.Machine.execFlth f s
  | .preq f => Sys2Proof.Machine.execPreq f s
  | .ckpt f => Sys2Proof.Machine.execCkpt f s
  | .tbkt f => Sys2Proof.Machine.execTbkt f s
  | .walk f => Sys2Proof.Machine.execWalk f s
  | .walkl f => Sys2Proof.Machine.execWalkl f s
  | .tokenArrive r e n parityBad => Sys2Proof.Machine.execTokenArrive r e n parityBad s
  | .pairStep r e => Sys2Proof.Machine.execPairStep r e s
  | .streamTokenTake r e t => Sys2Proof.Machine.execStreamTokenTake r e t s
  | .loadEngineToken r e k => Sys2Proof.Machine.execLoadEngineToken r e k s
  | .furtherTokenPush r e => Sys2Proof.Machine.execFurtherTokenPush r e s
  | .incompleteFiringResume r e => Sys2Proof.Machine.execIncompleteFiringResume r e s
  | .streamEnginePush r e stream => Sys2Proof.Machine.execStreamEnginePush r e stream s
  | .send r e k => Sys2Proof.Machine.execSend r e k s
  | .perform k bad => Sys2Proof.Machine.execPerform k bad s
  | .egress k => Sys2Proof.Machine.execEgress k s
  | .deliver k res => Sys2Proof.Machine.execDeliver k res s
  | .push r e which => Sys2Proof.Machine.execPush r e which s
  | .memoryReply k => Sys2Proof.Machine.execMemoryReply k s
  | .fill x => Sys2Proof.Machine.execFill x s
  | .apply x => Sys2Proof.Machine.execApply x s
  | .updateReplay k => Sys2Proof.Machine.execUpdateReplay k s
  | .joinfRelease r e => Sys2Proof.Machine.execJoinfRelease r e s
  | .fenceComplete r e => Sys2Proof.Machine.execFenceComplete r e s
  | .counterRaise k => Sys2Proof.Machine.execCounterRaise k s
  | .barrierArrival k => Sys2Proof.Machine.execBarrierArrival k s
  | .scanEnd decl row bad => Sys2Proof.Machine.execScanEnd decl row bad s
  | .declarationAccept r e => Sys2Proof.Machine.execDeclarationAccept r e s
  | .declarationWithdraw decl row => Sys2Proof.Machine.execDeclarationWithdraw decl row s
  | .putsSignal k => Sys2Proof.Machine.execPutsSignal k s
  | .switchReduce group => Sys2Proof.Machine.execSwitchReduce group s
  | .destinationUnreachable dest => Sys2Proof.Machine.execDestinationUnreachable dest s
  | .drainMarkerPass r e => Sys2Proof.Machine.execDrainMarkerPass r e s
  | .owlQuiescence r => Sys2Proof.Machine.execOwlQuiescence r s
  | .externalWaitExpiry r => Sys2Proof.Machine.execExternalWaitExpiry r s
  | .signalCounterAdvance l => Sys2Proof.Machine.execSignalCounterAdvance l s
  | .launchWindowWrite ctx off bytes => Sys2Proof.Machine.execLaunchWindowWrite ctx off bytes s
  | .timeTriggerStart idx => Sys2Proof.Machine.execTimeTriggerStart idx s
  | .launchWaitMet l => Sys2Proof.Machine.execLaunchWaitMet l s
  | .admission die pl => Sys2Proof.Machine.execAdmission die pl s
  | .agePromotion l => Sys2Proof.Machine.execAgePromotion l s
  | .regionArm r => Sys2Proof.Machine.execRegionArm r s
  | .resumeFromRetention r => Sys2Proof.Machine.execResumeFromRetention r s
  | .gateRegion r => Sys2Proof.Machine.execGateRegion r s
  | .regionRelease r => Sys2Proof.Machine.execRegionRelease r s
  | .preemptionStart r => Sys2Proof.Machine.execPreemptionStart r s
  | .elementSave r e => Sys2Proof.Machine.execElementSave r e s
  | .freeze r => Sys2Proof.Machine.execFreeze r s
  | .freezeScan r => Sys2Proof.Machine.execFreezeScan r s
  | .scanOut r => Sys2Proof.Machine.execScanOut r s
  | .faultService r decline => Sys2Proof.Machine.execFaultService r decline s
  | .flthReply r e id decline => Sys2Proof.Machine.execFlthReply r e id decline s
  | .restore l die pl => Sys2Proof.Machine.execRestore l die pl s
  | .shootdown ctx va => Sys2Proof.Machine.execShootdown ctx va s
  | .badgerVisit frame => Sys2Proof.Machine.execBadgerVisit frame s
  | .bucketRefill die => Sys2Proof.Machine.execBucketRefill die s
  | .configRegisterWrite w => Sys2Proof.Machine.execConfigRegisterWrite w s
  | .reset => Sys2Proof.Machine.execReset s
  | .bootStage fin run => Sys2Proof.Machine.execBootStage fin run s
  | .mailboxUpdate power coolant hottest => Sys2Proof.Machine.execMailboxUpdate power coolant hottest s
  | .attestationRequest nonce => Sys2Proof.Machine.execAttestationRequest nonce s
  | .marginReplan plan slack => Sys2Proof.Machine.execMarginReplan plan slack s
  | .thermalThreshold deciC => Sys2Proof.Machine.execThermalThreshold deciC s
  | .supplyFault => Sys2Proof.Machine.execSupplyFault s
  | .hostCxlAccess a => Sys2Proof.Machine.execHostCxlAccess a s
  | .controlCoreAccess core line req => Sys2Proof.Machine.execControlCoreAccess core line req s
  | .invalidationAcknowledge agent line => Sys2Proof.Machine.execInvalidationAcknowledge agent line s
  | .linkPacketArrival p => Sys2Proof.Machine.execLinkPacketArrival p s
  | .deviceClockDiscipline ns => Sys2Proof.Machine.execDeviceClockDiscipline ns s

end Sys2Proof.Machine
end

