-- ==== Sys2Proof/Machine/Step.lean ====
section
/-! DEFINITION. One step of the machine (R64, R65, R326): it takes up the next choice, which is a firing of one
element, an event, time that passes, or an error that an eviction reveals. -/

namespace Sys2Proof.Machine

/-! ### What one element or one event does -/

/-- A firing of an element: its next slot issues; an element none of whose slots qualifies does nothing. -/
def State.fire (s : State) (r e : Nat) : Host.Outcome State Fault Refusal :=
  match s.issue? r e with
  | none => .next s
  | some (_, .error w) => .fault (.badSlot w)
  | some (t, .ok i) => exec i t

/-- A firing or an event; a device asleep takes up nothing but what reaches it there (R434). -/
def State.act (s : State) (x : Act) : Host.Outcome State Fault Refusal :=
  match x with
  | .fire r e => if s.asleep then .next s else s.fire r e
  | .event i => if i.isEvent && (!s.asleep || wakesAsleep i) then exec i s else .next s

/-- Acts one after the other, up to a stop. -/
def State.acts (s : State) : List Act → Host.Outcome State Fault Refusal
  | [] => .next s
  | x :: l =>
    match s.act x with
    | .next t => t.acts l
    | o => o

/-! ### A step -/

/-- A step that takes up one choice. With the fabric clocks off only the device clock goes on, and no cache or SRAM gives
up an error (R434). (DESIGN CHOICE, log 1.) (DESIGN CHOICE, log 2.) -/
def State.take (s : State) (ch : Choice) : Host.Outcome State Fault Refusal :=
  match ch with
  | .fire r e => s.act (.fire r e)
  | .event i => s.act (.event i)
  | .cycle l => s.acts (s.inOrder l)
  | .tick n => .next (if s.asleep then { s with clock := s.clock + BitVec.ofNat 64 n } else s.tick n)
  | .evictError words => .next (if s.asleep then s else (s.evictError words).mailed)
  | .sramError r e words => .next (if s.asleep then s else s.sramError r e words)

/-- One step: the head of the agenda, or with none the next choice of the outside world (R326). -/
def step (s : State) : Host.Outcome State Fault Refusal :=
  match s.agenda with
  | ch :: rest => State.take { s with agenda := rest } ch
  | [] => State.take { s with choiceCtr := s.choiceCtr + 1 } (Config.choice s.choiceCtr)

/-! ### An instruction placed for the next step -/

/-- An element that holds one action word in slot 0, whose trigger asks for nothing (R86, R87). -/
def fetchRec (kind : ElemKind) (w : Word) : ElemRec :=
  { kind := kind, predInit := 0, isect := false, part := 0, declared := 0xFFFF, pword := 0
    slots := (Vector.replicate 32 ⟨0, 0⟩).set 0 ⟨0x80000000, w⟩, ctags := Vector.replicate 16 0
    consts := Vector.replicate 16 0 }

/-- A kind in whose slots an opcode is legal (R108). -/
def fetchKind : KindSet → ElemKind
  | .all => .C
  | .only (k :: _) => k
  | .only [] => .C
  | .walker => .E

/-- The kind-specific state at arm, with what an instruction's own description waits for: a token in each reorder buffer
for RELS, a message in each receive queue for LRECV. -/
def fetchKs (kind : ElemKind) (i : Instr) : KindSt :=
  match i, KindSt.arm kind with
  | .rels _, .x x => .x { x with bufs := x.bufs.map fun b => { b with cells := [(0, .tok ⟨1, .data, false, false, 0, 0⟩)] } }
  | .lrecv _, .e x => .e { x with rx := x.rx.map fun _ => [[⟨0, 1, 0⟩]] }
  | _, k => k

/-- The element that runs an action word: a data token at each input, and the state above. -/
def fetchElem (i : Instr) (w : Word) : Elem :=
  let kind := fetchKind i.info.kinds
  let el := Elem.arm (fetchRec kind w)
  { el with
    ks := fetchKs kind i
    ins := Vector.replicate 4 { Input.empty with fifo := [⟨1, .data, false, false, 0, 0⟩] } }

/-- The graph of one element, with a token in each parking channel that UNPARK can name. -/
def fetchGraph (i : Instr) (w : Word) : GraphSt :=
  let chans : List Chan := match i with
    | .unpark f => [⟨f.cnt.toNat, 0, 1, [⟨1, .data, false, false, 0, 0⟩], []⟩]
    | _ => []
  { fmts := Vector.replicate 8 recFP32, elems := [fetchElem i w], edges := [], parts := 1, part := 0, chans := chans
    spillCap := 0, exact := [], sites := [], collected := [] }

/-- The state with an action word stored where the next step fetches: in slot 0 of the one element of an armed region,
with the element's firing next on the agenda, on a device that runs. (DEDUCED, log 3.) -/
def State.withFetchWord (s : State) (nbits w : Nat) : State :=
  match decodeTableWord nbits w with
  | none => s
  | some i =>
    { s with
      agenda := [.fire 0 0]
      regions := { Region.empty with state := .armed, g := some (fetchGraph i (BitVec.ofNat 32 w)) } :: s.regions.tail
      plat := { s.plat with boot := .running } }

end Sys2Proof.Machine
end

