-- ==== Sys2Proof/Laws/PerInstr.lean ====
section
/-! SUPPORT. The family `Opcode`: the row that the opcode map gives an instruction's opcode builds the instruction back from
the fields of its form (R89, R99 to R107). Events have no word, and none is built. -/

namespace Sys2Proof.Laws.Opcode

/-- What a row builds from the fields of a form; an event has no form. -/
def built : Builder → Form → Option Instr
  | .R b, .R f => some (b f)
  | .I b, .I f => some (b f)
  | .P b, .P f => some (b f)
  | .X b, .X f => some (b f)
  | _, _ => none

/-- The row of an instruction's opcode builds the instruction back; that of an event builds nothing. -/
def Statement (i : Instr) : Prop := built (builder i.opcode) i.form = bif i.isEvent then none else some i

theorem of_R (n : Nat) (b : RForm → Instr) (f : RForm) (h0 : (b f).info.opc = n)
    (h : builder (BitVec.ofNat 8 n) = .R b) (k : (b f).form = .R f) :
    Statement (b f) := by simp [Statement, built, Instr.isEvent, Instr.opcode, h0, h, k]

theorem of_I (n : Nat) (b : IForm → Instr) (f : IForm) (h0 : (b f).info.opc = n)
    (h : builder (BitVec.ofNat 8 n) = .I b) (k : (b f).form = .I f) :
    Statement (b f) := by simp [Statement, built, Instr.isEvent, Instr.opcode, h0, h, k]

theorem of_P (n : Nat) (b : PForm → Instr) (f : PForm) (h0 : (b f).info.opc = n)
    (h : builder (BitVec.ofNat 8 n) = .P b) (k : (b f).form = .P f) :
    Statement (b f) := by simp [Statement, built, Instr.isEvent, Instr.opcode, h0, h, k]

theorem of_X (n : Nat) (b : XForm → Instr) (f : XForm) (h0 : (b f).info.opc = n)
    (h : builder (BitVec.ofNat 8 n) = .X b) (k : (b f).form = .X f) :
    Statement (b f) := by simp [Statement, built, Instr.isEvent, Instr.opcode, h0, h, k]

theorem of_event (i : Instr) (k : i.form = .event) : Statement i := by
  simp only [Statement, Instr.isEvent, k]
  cases builder i.opcode <;> rfl

theorem nop (f : PForm) : Statement (.nop f) := of_P 0 .nop f rfl rfl rfl
theorem mov (f : RForm) : Statement (.mov f) := of_R 1 .mov f rfl rfl rfl
theorem movk (f : IForm) : Statement (.movk f) := of_I 2 .movk f rfl rfl rfl
theorem movi (f : IForm) : Statement (.movi f) := of_I 3 .movi f rfl rfl rfl
theorem sel (f : RForm) : Statement (.sel f) := of_R 4 .sel f rfl rfl rfl
theorem pset (f : PForm) : Statement (.pset f) := of_P 5 .pset f rfl rfl rfl
theorem pget (f : RForm) : Statement (.pget f) := of_R 6 .pget f rfl rfl rfl
theorem pput (f : IForm) : Statement (.pput f) := of_I 7 .pput f rfl rfl rfl
theorem fwd (f : RForm) : Statement (.fwd f) := of_R 8 .fwd f rfl rfl rfl
theorem emitc (f : RForm) : Statement (.emitc f) := of_R 9 .emitc f rfl rfl rfl
theorem retag (f : IForm) : Statement (.retag f) := of_I 10 .retag f rfl rfl rfl
theorem sendl (f : RForm) : Statement (.sendl f) := of_R 11 .sendl f rfl rfl rfl
theorem crdget (f : RForm) : Statement (.crdget f) := of_R 12 .crdget f rfl rfl rfl
theorem crdset (f : RForm) : Statement (.crdset f) := of_R 13 .crdset f rfl rfl rfl
theorem cnti (f : IForm) : Statement (.cnti f) := of_I 14 .cnti f rfl rfl rfl
theorem bcast (f : XForm) : Statement (.bcast f) := of_X 15 .bcast f rfl rfl rfl
theorem shuf (f : RForm) : Statement (.shuf f) := of_R 16 .shuf f rfl rfl rfl
theorem pack (f : RForm) : Statement (.pack f) := of_R 17 .pack f rfl rfl rfl
theorem unpkl (f : RForm) : Statement (.unpkl f) := of_R 18 .unpkl f rfl rfl rfl
theorem unpkh (f : RForm) : Statement (.unpkh f) := of_R 19 .unpkh f rfl rfl rfl
theorem halt (f : PForm) : Statement (.halt f) := of_P 20 .halt f rfl rfl rfl
theorem trap (f : IForm) : Statement (.trap f) := of_I 21 .trap f rfl rfl rfl
theorem done (f : IForm) : Statement (.done f) := of_I 22 .done f rfl rfl rfl
theorem drain (f : PForm) : Statement (.drain f) := of_P 23 .drain f rfl rfl rfl
theorem join (f : XForm) : Statement (.join f) := of_X 24 .join f rfl rfl rfl
theorem joinf (f : XForm) : Statement (.joinf f) := of_X 25 .joinf f rfl rfl rfl
theorem time (f : RForm) : Statement (.time f) := of_R 26 .time f rfl rfl rfl
theorem stat (f : RForm) : Statement (.stat f) := of_R 27 .stat f rfl rfl rfl
theorem perf (f : XForm) : Statement (.perf f) := of_X 28 .perf f rfl rfl rfl
theorem addx (f : RForm) : Statement (.addx f) := of_R 29 .addx f rfl rfl rfl
theorem ltok (f : RForm) : Statement (.ltok f) := of_R 30 .ltok f rfl rfl rfl
theorem mulx (f : RForm) : Statement (.mulx f) := of_R 31 .mulx f rfl rfl rfl
theorem add (sh : Shape) (f : RForm) : Statement (.add sh f) := match sh with
  | .w => of_R 32 (.add .w) f rfl rfl rfl
  | .h => of_R 33 (.add .h) f rfl rfl rfl
  | .b => of_R 34 (.add .b) f rfl rfl rfl
  | .s => of_R 35 (.add .s) f rfl rfl rfl
theorem sub (sh : Shape) (f : RForm) : Statement (.sub sh f) := match sh with
  | .w => of_R 36 (.sub .w) f rfl rfl rfl
  | .h => of_R 37 (.sub .h) f rfl rfl rfl
  | .b => of_R 38 (.sub .b) f rfl rfl rfl
  | .s => of_R 39 (.sub .s) f rfl rfl rfl
theorem mul (sh : Shape) (f : RForm) : Statement (.mul sh f) := match sh with
  | .w => of_R 40 (.mul .w) f rfl rfl rfl
  | .h => of_R 41 (.mul .h) f rfl rfl rfl
  | .b => of_R 42 (.mul .b) f rfl rfl rfl
  | .s => of_R 43 (.mul .s) f rfl rfl rfl
theorem mulh (sh : Shape) (f : RForm) : Statement (.mulh sh f) := match sh with
  | .w => of_R 44 (.mulh .w) f rfl rfl rfl
  | .h => of_R 45 (.mulh .h) f rfl rfl rfl
  | .b => of_R 46 (.mulh .b) f rfl rfl rfl
  | .s => of_R 47 (.mulh .s) f rfl rfl rfl
theorem and (sh : Shape) (f : RForm) : Statement (.and sh f) := match sh with
  | .w => of_R 48 (.and .w) f rfl rfl rfl
  | .h => of_R 49 (.and .h) f rfl rfl rfl
  | .b => of_R 50 (.and .b) f rfl rfl rfl
  | .s => of_R 51 (.and .s) f rfl rfl rfl
theorem or (sh : Shape) (f : RForm) : Statement (.or sh f) := match sh with
  | .w => of_R 52 (.or .w) f rfl rfl rfl
  | .h => of_R 53 (.or .h) f rfl rfl rfl
  | .b => of_R 54 (.or .b) f rfl rfl rfl
  | .s => of_R 55 (.or .s) f rfl rfl rfl
theorem xor (sh : Shape) (f : RForm) : Statement (.xor sh f) := match sh with
  | .w => of_R 56 (.xor .w) f rfl rfl rfl
  | .h => of_R 57 (.xor .h) f rfl rfl rfl
  | .b => of_R 58 (.xor .b) f rfl rfl rfl
  | .s => of_R 59 (.xor .s) f rfl rfl rfl
theorem shl (sh : Shape) (f : RForm) : Statement (.shl sh f) := match sh with
  | .w => of_R 60 (.shl .w) f rfl rfl rfl
  | .h => of_R 61 (.shl .h) f rfl rfl rfl
  | .b => of_R 62 (.shl .b) f rfl rfl rfl
  | .s => of_R 63 (.shl .s) f rfl rfl rfl
theorem shr (sh : Shape) (f : RForm) : Statement (.shr sh f) := match sh with
  | .w => of_R 64 (.shr .w) f rfl rfl rfl
  | .h => of_R 65 (.shr .h) f rfl rfl rfl
  | .b => of_R 66 (.shr .b) f rfl rfl rfl
  | .s => of_R 67 (.shr .s) f rfl rfl rfl
theorem sra (sh : Shape) (f : RForm) : Statement (.sra sh f) := match sh with
  | .w => of_R 68 (.sra .w) f rfl rfl rfl
  | .h => of_R 69 (.sra .h) f rfl rfl rfl
  | .b => of_R 70 (.sra .b) f rfl rfl rfl
  | .s => of_R 71 (.sra .s) f rfl rfl rfl
theorem min (sh : Shape) (f : RForm) : Statement (.min sh f) := match sh with
  | .w => of_R 72 (.min .w) f rfl rfl rfl
  | .h => of_R 73 (.min .h) f rfl rfl rfl
  | .b => of_R 74 (.min .b) f rfl rfl rfl
  | .s => of_R 75 (.min .s) f rfl rfl rfl
theorem max (sh : Shape) (f : RForm) : Statement (.max sh f) := match sh with
  | .w => of_R 76 (.max .w) f rfl rfl rfl
  | .h => of_R 77 (.max .h) f rfl rfl rfl
  | .b => of_R 78 (.max .b) f rfl rfl rfl
  | .s => of_R 79 (.max .s) f rfl rfl rfl
theorem ceq (sh : Shape) (f : RForm) : Statement (.ceq sh f) := match sh with
  | .w => of_R 80 (.ceq .w) f rfl rfl rfl
  | .h => of_R 81 (.ceq .h) f rfl rfl rfl
  | .b => of_R 82 (.ceq .b) f rfl rfl rfl
  | .s => of_R 83 (.ceq .s) f rfl rfl rfl
theorem clt (sh : Shape) (f : RForm) : Statement (.clt sh f) := match sh with
  | .w => of_R 84 (.clt .w) f rfl rfl rfl
  | .h => of_R 85 (.clt .h) f rfl rfl rfl
  | .b => of_R 86 (.clt .b) f rfl rfl rfl
  | .s => of_R 87 (.clt .s) f rfl rfl rfl
theorem cltu (sh : Shape) (f : RForm) : Statement (.cltu sh f) := match sh with
  | .w => of_R 88 (.cltu .w) f rfl rfl rfl
  | .h => of_R 89 (.cltu .h) f rfl rfl rfl
  | .b => of_R 90 (.cltu .b) f rfl rfl rfl
  | .s => of_R 91 (.cltu .s) f rfl rfl rfl
theorem addi (sh : Shape) (f : IForm) : Statement (.addi sh f) := match sh with
  | .w => of_I 92 (.addi .w) f rfl rfl rfl
  | .h => of_I 93 (.addi .h) f rfl rfl rfl
  | .b => of_I 94 (.addi .b) f rfl rfl rfl
  | .s => of_I 95 (.addi .s) f rfl rfl rfl
theorem faddF32 (f : RForm) : Statement (.faddF32 f) := of_R 96 .faddF32 f rfl rfl rfl
theorem faddF16 (f : RForm) : Statement (.faddF16 f) := of_R 97 .faddF16 f rfl rfl rfl
theorem faddBF16 (f : RForm) : Statement (.faddBF16 f) := of_R 98 .faddBF16 f rfl rfl rfl
theorem fsubF32 (f : RForm) : Statement (.fsubF32 f) := of_R 99 .fsubF32 f rfl rfl rfl
theorem fsubF16 (f : RForm) : Statement (.fsubF16 f) := of_R 100 .fsubF16 f rfl rfl rfl
theorem fsubBF16 (f : RForm) : Statement (.fsubBF16 f) := of_R 101 .fsubBF16 f rfl rfl rfl
theorem fmulF32 (f : RForm) : Statement (.fmulF32 f) := of_R 102 .fmulF32 f rfl rfl rfl
theorem fmulF16 (f : RForm) : Statement (.fmulF16 f) := of_R 103 .fmulF16 f rfl rfl rfl
theorem fmulBF16 (f : RForm) : Statement (.fmulBF16 f) := of_R 104 .fmulBF16 f rfl rfl rfl
theorem ffmaF32 (f : RForm) : Statement (.ffmaF32 f) := of_R 105 .ffmaF32 f rfl rfl rfl
theorem ffmaF16 (f : RForm) : Statement (.ffmaF16 f) := of_R 106 .ffmaF16 f rfl rfl rfl
theorem ffmaBF16 (f : RForm) : Statement (.ffmaBF16 f) := of_R 107 .ffmaBF16 f rfl rfl rfl
theorem fminF32 (f : RForm) : Statement (.fminF32 f) := of_R 108 .fminF32 f rfl rfl rfl
theorem fminF16 (f : RForm) : Statement (.fminF16 f) := of_R 109 .fminF16 f rfl rfl rfl
theorem fminBF16 (f : RForm) : Statement (.fminBF16 f) := of_R 110 .fminBF16 f rfl rfl rfl
theorem fmaxF32 (f : RForm) : Statement (.fmaxF32 f) := of_R 111 .fmaxF32 f rfl rfl rfl
theorem fmaxF16 (f : RForm) : Statement (.fmaxF16 f) := of_R 112 .fmaxF16 f rfl rfl rfl
theorem fmaxBF16 (f : RForm) : Statement (.fmaxBF16 f) := of_R 113 .fmaxBF16 f rfl rfl rfl
theorem fceqF32 (f : RForm) : Statement (.fceqF32 f) := of_R 114 .fceqF32 f rfl rfl rfl
theorem fceqF16 (f : RForm) : Statement (.fceqF16 f) := of_R 115 .fceqF16 f rfl rfl rfl
theorem fceqBF16 (f : RForm) : Statement (.fceqBF16 f) := of_R 116 .fceqBF16 f rfl rfl rfl
theorem fcltF32 (f : RForm) : Statement (.fcltF32 f) := of_R 117 .fcltF32 f rfl rfl rfl
theorem fcltF16 (f : RForm) : Statement (.fcltF16 f) := of_R 118 .fcltF16 f rfl rfl rfl
theorem fcltBF16 (f : RForm) : Statement (.fcltBF16 f) := of_R 119 .fcltBF16 f rfl rfl rfl
theorem fcleF32 (f : RForm) : Statement (.fcleF32 f) := of_R 120 .fcleF32 f rfl rfl rfl
theorem fcleF16 (f : RForm) : Statement (.fcleF16 f) := of_R 121 .fcleF16 f rfl rfl rfl
theorem fcleBF16 (f : RForm) : Statement (.fcleBF16 f) := of_R 122 .fcleBF16 f rfl rfl rfl
theorem fabsF32 (f : RForm) : Statement (.fabsF32 f) := of_R 123 .fabsF32 f rfl rfl rfl
theorem fabsF16 (f : RForm) : Statement (.fabsF16 f) := of_R 124 .fabsF16 f rfl rfl rfl
theorem fabsBF16 (f : RForm) : Statement (.fabsBF16 f) := of_R 125 .fabsBF16 f rfl rfl rfl
theorem fnegF32 (f : RForm) : Statement (.fnegF32 f) := of_R 126 .fnegF32 f rfl rfl rfl
theorem fnegF16 (f : RForm) : Statement (.fnegF16 f) := of_R 127 .fnegF16 f rfl rfl rfl
theorem fnegBF16 (f : RForm) : Statement (.fnegBF16 f) := of_R 128 .fnegBF16 f rfl rfl rfl
theorem fcvtF32 (f : RForm) : Statement (.fcvtF32 f) := of_R 129 .fcvtF32 f rfl rfl rfl
theorem fcvtF16 (f : RForm) : Statement (.fcvtF16 f) := of_R 130 .fcvtF16 f rfl rfl rfl
theorem fcvtBF16 (f : RForm) : Statement (.fcvtBF16 f) := of_R 131 .fcvtBF16 f rfl rfl rfl
theorem ftoiF32 (f : RForm) : Statement (.ftoiF32 f) := of_R 132 .ftoiF32 f rfl rfl rfl
theorem ftoiF16 (f : RForm) : Statement (.ftoiF16 f) := of_R 133 .ftoiF16 f rfl rfl rfl
theorem ftoiBF16 (f : RForm) : Statement (.ftoiBF16 f) := of_R 134 .ftoiBF16 f rfl rfl rfl
theorem itofF32 (f : RForm) : Statement (.itofF32 f) := of_R 135 .itofF32 f rfl rfl rfl
theorem itofF16 (f : RForm) : Statement (.itofF16 f) := of_R 136 .itofF16 f rfl rfl rfl
theorem itofBF16 (f : RForm) : Statement (.itofBF16 f) := of_R 137 .itofBF16 f rfl rfl rfl
theorem fnarrowF32 (f : XForm) : Statement (.fnarrowF32 f) := of_X 138 .fnarrowF32 f rfl rfl rfl
theorem fnarrowF16 (f : XForm) : Statement (.fnarrowF16 f) := of_X 139 .fnarrowF16 f rfl rfl rfl
theorem fnarrowBF16 (f : XForm) : Statement (.fnarrowBF16 f) := of_X 140 .fnarrowBF16 f rfl rfl rfl
theorem fwidenF32 (f : RForm) : Statement (.fwidenF32 f) := of_R 141 .fwidenF32 f rfl rfl rfl
theorem fwidenF16 (f : RForm) : Statement (.fwidenF16 f) := of_R 142 .fwidenF16 f rfl rfl rfl
theorem fwidenBF16 (f : RForm) : Statement (.fwidenBF16 f) := of_R 143 .fwidenBF16 f rfl rfl rfl
theorem exp2 (f : RForm) : Statement (.exp2 f) := of_R 144 .exp2 f rfl rfl rfl
theorem log2 (f : RForm) : Statement (.log2 f) := of_R 145 .log2 f rfl rfl rfl
theorem rcp (f : RForm) : Statement (.rcp f) := of_R 146 .rcp f rfl rfl rfl
theorem sqrt (f : RForm) : Statement (.sqrt f) := of_R 147 .sqrt f rfl rfl rfl
theorem rsqrt (f : RForm) : Statement (.rsqrt f) := of_R 148 .rsqrt f rfl rfl rfl
theorem exp (f : RForm) : Statement (.exp f) := of_R 149 .exp f rfl rfl rfl
theorem tanh (f : RForm) : Statement (.tanh f) := of_R 150 .tanh f rfl rfl rfl
theorem sigm (f : RForm) : Statement (.sigm f) := of_R 151 .sigm f rfl rfl rfl
theorem gelu (f : RForm) : Statement (.gelu f) := of_R 152 .gelu f rfl rfl rfl
theorem rand (f : RForm) : Statement (.rand f) := of_R 153 .rand f rfl rfl rfl
theorem xclr (f : IForm) : Statement (.xclr f) := of_I 154 .xclr f rfl rfl rfl
theorem xadd (f : XForm) : Statement (.xadd f) := of_X 155 .xadd f rfl rfl rfl
theorem xsq (f : XForm) : Statement (.xsq f) := of_X 156 .xsq f rfl rfl rfl
theorem xrd (f : XForm) : Statement (.xrd f) := of_X 157 .xrd f rfl rfl rfl
theorem xvar (f : XForm) : Statement (.xvar f) := of_X 158 .xvar f rfl rfl rfl
theorem smax (f : RForm) : Statement (.smax f) := of_R 159 .smax f rfl rfl rfl
theorem mldb (f : XForm) : Statement (.mldb f) := of_X 160 .mldb f rfl rfl rfl
theorem mlds (f : XForm) : Statement (.mlds f) := of_X 161 .mlds f rfl rfl rfl
theorem mswap (f : PForm) : Statement (.mswap f) := of_P 162 .mswap f rfl rfl rfl
theorem mzero (f : IForm) : Statement (.mzero f) := of_I 163 .mzero f rfl rfl rfl
theorem mrow (q : AWidth) (f : XForm) : Statement (.mrow q f) := match q with
  | .a2 => of_X 164 (.mrow .a2) f rfl rfl rfl
  | .a4 => of_X 165 (.mrow .a4) f rfl rfl rfl
  | .a8 => of_X 166 (.mrow .a8) f rfl rfl rfl
  | .a16 => of_X 167 (.mrow .a16) f rfl rfl rfl
theorem mrows (q : AWidth) (f : XForm) : Statement (.mrows q f) := match q with
  | .a2 => of_X 168 (.mrows .a2) f rfl rfl rfl
  | .a4 => of_X 169 (.mrows .a4) f rfl rfl rfl
  | .a8 => of_X 170 (.mrows .a8) f rfl rfl rfl
  | .a16 => of_X 171 (.mrows .a16) f rfl rfl rfl
theorem mchain (f : XForm) : Statement (.mchain f) := of_X 172 .mchain f rfl rfl rfl
theorem mout (f : XForm) : Statement (.mout f) := of_X 173 .mout f rfl rfl rfl
theorem moutq (f : XForm) : Statement (.moutq f) := of_X 174 .moutq f rfl rfl rfl
theorem mgrp (f : XForm) : Statement (.mgrp f) := of_X 175 .mgrp f rfl rfl rfl
theorem maccr (f : XForm) : Statement (.maccr f) := of_X 176 .maccr f rfl rfl rfl
theorem maccw (f : XForm) : Statement (.maccw f) := of_X 177 .maccw f rfl rfl rfl
theorem msplit (f : IForm) : Statement (.msplit f) := of_I 178 .msplit f rfl rfl rfl
theorem mbias (f : XForm) : Statement (.mbias f) := of_X 179 .mbias f rfl rfl rfl
theorem mstat (f : RForm) : Statement (.mstat f) := of_R 180 .mstat f rfl rfl rfl
theorem swcfg (f : RForm) : Statement (.swcfg f) := of_R 181 .swcfg f rfl rfl rfl
theorem swpush (f : RForm) : Statement (.swpush f) := of_R 182 .swpush f rfl rfl rfl
theorem swemit (f : XForm) : Statement (.swemit f) := of_X 183 .swemit f rfl rfl rfl
theorem swflush (f : PForm) : Statement (.swflush f) := of_P 184 .swflush f rfl rfl rfl
theorem isect (f : IForm) : Statement (.isect f) := of_I 185 .isect f rfl rfl rfl
theorem icnt (f : RForm) : Statement (.icnt f) := of_R 186 .icnt f rfl rfl rfl
theorem cmpr (f : RForm) : Statement (.cmpr f) := of_R 187 .cmpr f rfl rfl rfl
theorem expnd (f : RForm) : Statement (.expnd f) := of_R 188 .expnd f rfl rfl rfl
theorem wsplit (f : XForm) : Statement (.wsplit f) := of_X 189 .wsplit f rfl rfl rfl
theorem wjoin (f : XForm) : Statement (.wjoin f) := of_X 190 .wjoin f rfl rfl rfl
theorem argmx (f : RForm) : Statement (.argmx f) := of_R 191 .argmx f rfl rfl rfl
theorem xpose (f : XForm) : Statement (.xpose f) := of_X 192 .xpose f rfl rfl rfl
theorem xthr (f : RForm) : Statement (.xthr f) := of_R 193 .xthr f rfl rfl rfl
theorem ltab (f : XForm) : Statement (.ltab f) := of_X 194 .ltab f rfl rfl rfl
theorem lwire (f : XForm) : Statement (.lwire f) := of_X 195 .lwire f rfl rfl rfl
theorem leval (f : XForm) : Statement (.leval f) := of_X 196 .leval f rfl rfl rfl
theorem lemit (f : XForm) : Statement (.lemit f) := of_X 197 .lemit f rfl rfl rfl
theorem lpop (f : XForm) : Statement (.lpop f) := of_X 198 .lpop f rfl rfl rfl
theorem lunx (f : XForm) : Statement (.lunx f) := of_X 199 .lunx f rfl rfl rfl
theorem lctx (f : IForm) : Statement (.lctx f) := of_I 200 .lctx f rfl rfl rfl
theorem lin (f : XForm) : Statement (.lin f) := of_X 201 .lin f rfl rfl rfl
theorem steer (f : RForm) : Statement (.steer f) := of_R 202 .steer f rfl rfl rfl
theorem slots (f : RForm) : Statement (.slots f) := of_R 203 .slots f rfl rfl rfl
theorem reord (f : XForm) : Statement (.reord f) := of_X 204 .reord f rfl rfl rfl
theorem rels (f : XForm) : Statement (.rels f) := of_X 205 .rels f rfl rfl rfl
theorem merge (f : RForm) : Statement (.merge f) := of_R 206 .merge f rfl rfl rfl
theorem seqno (f : IForm) : Statement (.seqno f) := of_I 207 .seqno f rfl rfl rfl
theorem ld (f : XForm) : Statement (.ld f) := of_X 208 .ld f rfl rfl rfl
theorem st (f : XForm) : Statement (.st f) := of_X 209 .st f rfl rfl rfl
theorem ldw (f : XForm) : Statement (.ldw f) := of_X 210 .ldw f rfl rfl rfl
theorem stw (f : XForm) : Statement (.stw f) := of_X 211 .stw f rfl rfl rfl
theorem wmap (f : XForm) : Statement (.wmap f) := of_X 212 .wmap f rfl rfl rfl
theorem wsync (f : XForm) : Statement (.wsync f) := of_X 213 .wsync f rfl rfl rfl
theorem winv (f : XForm) : Statement (.winv f) := of_X 214 .winv f rfl rfl rfl
theorem wclose (f : XForm) : Statement (.wclose f) := of_X 215 .wclose f rfl rfl rfl
theorem aadd (f : XForm) : Statement (.aadd f) := of_X 216 .aadd f rfl rfl rfl
theorem amax (f : XForm) : Statement (.amax f) := of_X 217 .amax f rfl rfl rfl
theorem amin (f : XForm) : Statement (.amin f) := of_X 218 .amin f rfl rfl rfl
theorem axchg (f : XForm) : Statement (.axchg f) := of_X 219 .axchg f rfl rfl rfl
theorem acas (f : XForm) : Statement (.acas f) := of_X 220 .acas f rfl rfl rfl
theorem aor (f : XForm) : Statement (.aor f) := of_X 221 .aor f rfl rfl rfl
theorem aand (f : XForm) : Statement (.aand f) := of_X 222 .aand f rfl rfl rfl
theorem adet (f : RForm) : Statement (.adet f) := of_R 223 .adet f rfl rfl rfl
theorem aclose (f : XForm) : Statement (.aclose f) := of_X 224 .aclose f rfl rfl rfl
theorem drv (f : RForm) : Statement (.drv f) := of_R 225 .drv f rfl rfl rfl
theorem drvx (f : RForm) : Statement (.drvx f) := of_R 226 .drvx f rfl rfl rfl
theorem drvq (f : RForm) : Statement (.drvq f) := of_R 227 .drvq f rfl rfl rfl
theorem agen (f : RForm) : Statement (.agen f) := of_R 228 .agen f rfl rfl rfl
theorem agstr (f : XForm) : Statement (.agstr f) := of_X 229 .agstr f rfl rfl rfl
theorem park (f : XForm) : Statement (.park f) := of_X 230 .park f rfl rfl rfl
theorem unpark (f : XForm) : Statement (.unpark f) := of_X 231 .unpark f rfl rfl rfl
theorem xlat (f : RForm) : Statement (.xlat f) := of_R 232 .xlat f rfl rfl rfl
theorem xinv (f : RForm) : Statement (.xinv f) := of_R 233 .xinv f rfl rfl rfl
theorem fence (f : IForm) : Statement (.fence f) := of_I 234 .fence f rfl rfl rfl
theorem cwait (f : RForm) : Statement (.cwait f) := of_R 235 .cwait f rfl rfl rfl
theorem csig (f : RForm) : Statement (.csig f) := of_R 236 .csig f rfl rfl rfl
theorem bara (f : RForm) : Statement (.bara f) := of_R 237 .bara f rfl rfl rfl
theorem barw (f : RForm) : Statement (.barw f) := of_R 238 .barw f rfl rfl rfl
theorem bari (f : RForm) : Statement (.bari f) := of_R 239 .bari f rfl rfl rfl
theorem put (f : XForm) : Statement (.put f) := of_X 240 .put f rfl rfl rfl
theorem puts (f : XForm) : Statement (.puts f) := of_X 241 .puts f rfl rfl rfl
theorem get (f : XForm) : Statement (.get f) := of_X 242 .get f rfl rfl rfl
theorem red (f : XForm) : Statement (.red f) := of_X 243 .red f rfl rfl rfl
theorem redr (f : XForm) : Statement (.redr f) := of_X 244 .redr f rfl rfl rfl
theorem lsend (f : XForm) : Statement (.lsend f) := of_X 245 .lsend f rfl rfl rfl
theorem lrecv (f : XForm) : Statement (.lrecv f) := of_X 246 .lrecv f rfl rfl rfl
theorem lq (f : RForm) : Statement (.lq f) := of_R 247 .lq f rfl rfl rfl
theorem lnch (f : RForm) : Statement (.lnch f) := of_R 248 .lnch f rfl rfl rfl
theorem sysc (f : IForm) : Statement (.sysc f) := of_I 249 .sysc f rfl rfl rfl
theorem flth (f : RForm) : Statement (.flth f) := of_R 250 .flth f rfl rfl rfl
theorem preq (f : PForm) : Statement (.preq f) := of_P 251 .preq f rfl rfl rfl
theorem ckpt (f : PForm) : Statement (.ckpt f) := of_P 252 .ckpt f rfl rfl rfl
theorem tbkt (f : RForm) : Statement (.tbkt f) := of_R 253 .tbkt f rfl rfl rfl
theorem walk (f : RForm) : Statement (.walk f) := of_R 254 .walk f rfl rfl rfl
theorem walkl (f : RForm) : Statement (.walkl f) := of_R 255 .walkl f rfl rfl rfl
theorem tokenArrive (r e : Nat) (i : Fin 4) (parityBad : Bool) : Statement (.tokenArrive r e i parityBad) := of_event _ rfl
theorem pairStep (r e : Nat) : Statement (.pairStep r e) := of_event _ rfl
theorem streamTokenTake (r e : Nat) (t : Taker) : Statement (.streamTokenTake r e t) := of_event _ rfl
theorem loadEngineToken (r e : Nat) (k : EngKind) : Statement (.loadEngineToken r e k) := of_event _ rfl
theorem furtherTokenPush (r e : Nat) : Statement (.furtherTokenPush r e) := of_event _ rfl
theorem incompleteFiringResume (r e : Nat) : Statement (.incompleteFiringResume r e) := of_event _ rfl
theorem streamEnginePush (r e : Nat) (stream : Nat) : Statement (.streamEnginePush r e stream) := of_event _ rfl
theorem send (r e k : Nat) : Statement (.send r e k) := of_event _ rfl
theorem perform (k : Nat) (bad : List Nat) : Statement (.perform k bad) := of_event _ rfl
theorem egress (k : Nat) : Statement (.egress k) := of_event _ rfl
theorem deliver (k : Nat) (res : RemoteRes) : Statement (.deliver k res) := of_event _ rfl
theorem push (r e : Nat) (which : Option Nat) : Statement (.push r e which) := of_event _ rfl
theorem memoryReply (k : Nat) : Statement (.memoryReply k) := of_event _ rfl
theorem fill (x : WordRead) : Statement (.fill x) := of_event _ rfl
theorem apply (x : HeldAt) : Statement (.apply x) := of_event _ rfl
theorem updateReplay (k : Nat) : Statement (.updateReplay k) := of_event _ rfl
theorem joinfRelease (r e : Nat) : Statement (.joinfRelease r e) := of_event _ rfl
theorem fenceComplete (r e : Nat) : Statement (.fenceComplete r e) := of_event _ rfl
theorem counterRaise (k : Nat) : Statement (.counterRaise k) := of_event _ rfl
theorem barrierArrival (k : Nat) : Statement (.barrierArrival k) := of_event _ rfl
theorem scanEnd (decl row : Nat) (bad : List Nat) : Statement (.scanEnd decl row bad) := of_event _ rfl
theorem declarationAccept (r e : Nat) : Statement (.declarationAccept r e) := of_event _ rfl
theorem declarationWithdraw (decl row : Nat) : Statement (.declarationWithdraw decl row) := of_event _ rfl
theorem putsSignal (k : Nat) : Statement (.putsSignal k) := of_event _ rfl
theorem switchReduce (group : Nat) : Statement (.switchReduce group) := of_event _ rfl
theorem destinationUnreachable (dest : LinkDest) : Statement (.destinationUnreachable dest) := of_event _ rfl
theorem drainMarkerPass (r e : Nat) : Statement (.drainMarkerPass r e) := of_event _ rfl
theorem owlQuiescence (r : Nat) : Statement (.owlQuiescence r) := of_event _ rfl
theorem externalWaitExpiry (r : Nat) : Statement (.externalWaitExpiry r) := of_event _ rfl
theorem signalCounterAdvance (l : Nat) : Statement (.signalCounterAdvance l) := of_event _ rfl
theorem launchWindowWrite (ctx off : Nat) (bytes : List Byte) : Statement (.launchWindowWrite ctx off bytes) := of_event _ rfl
theorem timeTriggerStart (idx : Nat) : Statement (.timeTriggerStart idx) := of_event _ rfl
theorem launchWaitMet (l : Nat) : Statement (.launchWaitMet l) := of_event _ rfl
theorem admission (die : Nat) (pl : Placement) : Statement (.admission die pl) := of_event _ rfl
theorem agePromotion (l : Nat) : Statement (.agePromotion l) := of_event _ rfl
theorem regionArm (r : Nat) : Statement (.regionArm r) := of_event _ rfl
theorem resumeFromRetention (r : Nat) : Statement (.resumeFromRetention r) := of_event _ rfl
theorem gateRegion (r : Nat) : Statement (.gateRegion r) := of_event _ rfl
theorem regionRelease (r : Nat) : Statement (.regionRelease r) := of_event _ rfl
theorem preemptionStart (r : Nat) : Statement (.preemptionStart r) := of_event _ rfl
theorem elementSave (r e : Nat) : Statement (.elementSave r e) := of_event _ rfl
theorem freeze (r : Nat) : Statement (.freeze r) := of_event _ rfl
theorem freezeScan (r : Nat) : Statement (.freezeScan r) := of_event _ rfl
theorem scanOut (r : Nat) : Statement (.scanOut r) := of_event _ rfl
theorem faultService (r : Nat) (decline : Bool) : Statement (.faultService r decline) := of_event _ rfl
theorem flthReply (r e id : Nat) (decline : Bool) : Statement (.flthReply r e id decline) := of_event _ rfl
theorem restore (l die : Nat) (pl : Placement) : Statement (.restore l die pl) := of_event _ rfl
theorem shootdown (ctx va : Nat) : Statement (.shootdown ctx va) := of_event _ rfl
theorem badgerVisit (frame : Nat) : Statement (.badgerVisit frame) := of_event _ rfl
theorem bucketRefill (die : Nat) : Statement (.bucketRefill die) := of_event _ rfl
theorem configRegisterWrite (w : ConfigWrite) : Statement (.configRegisterWrite w) := of_event _ rfl
theorem reset : Statement .reset := of_event _ rfl
theorem bootStage (fin : StageEnd) (run : StageRun) : Statement (.bootStage fin run) := of_event _ rfl
theorem mailboxUpdate (power coolant hottest : Nat) : Statement (.mailboxUpdate power coolant hottest) := of_event _ rfl
theorem attestationRequest (nonce : List Byte) : Statement (.attestationRequest nonce) := of_event _ rfl
theorem marginReplan (plan : MarginPlan) (slack : Slack) : Statement (.marginReplan plan slack) := of_event _ rfl
theorem thermalThreshold (deciC : Nat) : Statement (.thermalThreshold deciC) := of_event _ rfl
theorem supplyFault : Statement .supplyFault := of_event _ rfl
theorem hostCxlAccess (a : HostAcc) : Statement (.hostCxlAccess a) := of_event _ rfl
theorem controlCoreAccess (core line : Nat) (req : LineReq) : Statement (.controlCoreAccess core line req) := of_event _ rfl
theorem invalidationAcknowledge (agent line : Nat) : Statement (.invalidationAcknowledge agent line) := of_event _ rfl
theorem linkPacketArrival (p : Packet) : Statement (.linkPacketArrival p) := of_event _ rfl
theorem deviceClockDiscipline (ns : Nat) : Statement (.deviceClockDiscipline ns) := of_event _ rfl

end Sys2Proof.Laws.Opcode
end

