-- ==== Sys2Proof/Machine/Foraux.lean ====
section
/-! DEFINITION. The text of the Foraux language up to one slot line (R119 to R121, R127, R130 to R138): words, names, numbers,
payloads, trigger terms, mnemonics with their modifiers, and operands. -/

namespace Sys2Proof.Machine

/-! ### Lines and words -/

/-- A piece of a line: a comma, an arrow, or a run of other characters. -/
inductive Lex where
  | comma
  | arrow
  | word (w : List Char)
deriving DecidableEq, Repr, Inhabited

/-- The parts of a text between marks; `acc` holds the part begun, reversed. -/
def partsFrom (mark : Char) : (acc : List Char) → List Char → List (List Char)
  | acc, [] => [acc.reverse]
  | acc, c :: r => if c == mark then acc.reverse :: partsFrom mark [] r else partsFrom mark (c :: acc) r

/-- The lines of a source (R119). -/
def linesOf (src : List Char) : List (List Char) := partsFrom '\n' [] src

/-- A line without its comment (R119). -/
def uncomment (l : List Char) : List Char := l.takeWhile fun c => c != ';'

/-- The word begun, reversed, before the pieces that follow it. -/
def endWord (acc : List Char) (r : List Lex) : List Lex := if acc = [] then r else .word acc.reverse :: r

/-- The pieces of a line; `acc` holds the word begun, reversed. -/
def lexFrom : (acc : List Char) → List Char → List Lex
  | acc, [] => endWord acc []
  | acc, '-' :: '>' :: r => endWord acc (.arrow :: lexFrom [] r)
  | acc, c :: r =>
    if c == ',' then endWord acc (.comma :: lexFrom [] r)
    else if c == ' ' || c == '\t' || c == '\r' then endWord acc (lexFrom [] r)
    else lexFrom (c :: acc) r

/-- The pieces of the lines of a source without their comments (R119). -/
def sourceLines (src : List Char) : List (List Lex) := (linesOf src).map fun l => lexFrom [] (uncomment l)

/-- The pieces up to the first arrow, and those after it. -/
def cutArrow : List Lex → Option (List Lex × List Lex)
  | [] => none
  | .arrow :: r => some ([], r)
  | x :: r => (cutArrow r).map fun p => (x :: p.1, p.2)

/-- The words between commas; none where an arrow stands. -/
def groups : List Lex → Option (List (List (List Char)))
  | [] => some [[]]
  | .arrow :: _ => none
  | .comma :: r => (groups r).map fun l => [] :: l
  | .word w :: r =>
    match groups r with
    | some (g :: l) => some ((w :: g) :: l)
    | _ => none

/-- The words of a part of a line without commas and arrows. -/
def plainWords (l : List Lex) : Option (List (List Char)) :=
  match groups l with
  | some [g] => some g
  | _ => none

/-- The text before the first mark and the text after it, if the mark stands. -/
def cutAt (mark : Char) (w : List Char) : List Char × Option (List Char) :=
  match w.dropWhile fun c => c != mark with
  | [] => (w, none)
  | _ :: r => (w.takeWhile fun c => c != mark, some r)

/-- A word in lower case (R119). -/
def lower (w : List Char) : List Char := w.map Char.toLower

/-- Whether a word spells a keyword, in any case (R119). -/
def isKw (k : String) (w : List Char) : Bool := lower w == k.toList

/-- The index of a word in a list of spellings, in any case. -/
def spelled? (l : List String) (w : List Char) : Option Nat := l.findIdx? fun k => isKw k w

/-! ### Numbers and names -/

/-- The value of a digit of a base. -/
def digitOf? (base : Nat) (c : Char) : Option Nat :=
  let n := c.toNat
  let v := if 48 ≤ n && n ≤ 57 then n - 48 else if 97 ≤ n && n ≤ 102 then n - 87 else base
  if v < base then some v else none

/-- The value of digits and their count, with one underscore allowed between two digits (R121; DESIGN CHOICE, log 132). -/
def digitsFrom (base : Nat) : (val count : Nat) → (after : Bool) → List Char → Option (Nat × Nat)
  | v, n, after, [] => if after then some (v, n) else none
  | v, n, after, c :: r =>
    if c == '_' then if after then digitsFrom base v n false r else none
    else
      match digitOf? base c with
      | some x => digitsFrom base (base * v + x) (n + 1) true r
      | none => none

/-- The value of digits alone, and their count. -/
def digits? (base : Nat) (w : List Char) : Option (Nat × Nat) := digitsFrom base 0 0 false w

/-- A number without sign (R121). -/
def natOf? (w : List Char) : Option Nat :=
  match lower w with
  | '0' :: 'x' :: r => (digits? 16 r).map (·.1)
  | '0' :: 'b' :: r => (digits? 2 r).map (·.1)
  | w => (digits? 10 w).map (·.1)

/-- A number (R121). -/
def intOf? (w : List Char) : Option Int :=
  match w with
  | '-' :: r => (natOf? r).map fun n => -(n : Int)
  | w => (natOf? w).map fun n => (n : Int)

/-- A number within bounds. -/
def intIn? (lo hi : Int) (w : List Char) : Option Int := (intOf? w).filter fun z => decide (lo ≤ z) && decide (z ≤ hi)

/-- A number from 0 to a bound. -/
def natIn? (hi : Nat) (w : List Char) : Option Nat := (intIn? 0 hi w).map Int.toNat

/-- The number of a word made of a stem and a number up to a bound, such as a register name. -/
def indexed? (stem : String) (hi : Nat) (w : List Char) : Option Nat :=
  let s := stem.toList
  let w := lower w
  if w.take s.length == s then
    (digits? 10 (w.drop s.length)).bind fun p =>
      if p.1 ≤ hi && w.drop s.length == Nat.toDigits 10 p.1 then some p.1 else none
  else none

/-- The registers and operands of R132 and R134, which no name may spell (R120). -/
def isOperand (w : List Char) : Bool :=
  [("d", 7), ("i", 3), ("o", 3), ("k", 15), ("p", 7), ("t", 7), ("lv", 7), ("vl", 7), ("w", 7), ("xa", 1)].any
      (fun (x : String × Nat) => (indexed? x.1 x.2 w).isSome)
    || (spelled? ["zero", "nil", "all", "xa"] w).isSome

/-- The words that open a clause of a directive or of a slot line, which no name may spell (R120). -/
def isClauseWord (w : List Char) : Bool :=
  (spelled? ["least", "pref", "pred", "isect", "fmt", "fifo", "last", "coord", "win", "park", "reord", "slide", "when", "pop",
    "wp", "cmp"] w).isSome

/-- Whether a word is a name (R120). -/
def isName (w : List Char) : Bool :=
  (match w with
   | c :: r => c.isAlpha && r.all fun c => c.isAlphanum || c == '_'
   | [] => false) && decide (w.length ≤ 63) && !isOperand w && !isClauseWord w

/-! ### Payloads -/

/-- The exponent of a float literal; it may carry a plus sign. (DESIGN CHOICE, log 132.) -/
def exponent? (w : List Char) : Option Int :=
  match w with
  | '-' :: r => (digits? 10 r).map fun p => -(p.1 : Int)
  | '+' :: r => (digits? 10 r).map fun p => (p.1 : Int)
  | w => (digits? 10 w).map fun p => (p.1 : Int)

/-- A decimal with a fraction or an exponent, without sign (R121), as a quotient. -/
def decimal? (w : List Char) : Option (Nat × Nat) :=
  let (mant, ex) := cutAt 'e' (lower w)
  let (whole, frac) := cutAt '.' mant
  if frac.isNone && ex.isNone then none
  else do
    let (a, _) ← digits? 10 whole
    let (b, n) ← match frac with
      | some f => digits? 10 f
      | none => some (0, 0)
    let e ← match ex with
      | some x => exponent? x
      | none => some 0
    let num := a * 10 ^ n + b
    return if 0 ≤ e then (num * 10 ^ e.toNat, 10 ^ n) else (num, 10 ^ (n + e.natAbs))

/-- The exact value of a number or a float literal in a float payload (R121). -/
def floatOf? (w : List Char) : Option Val :=
  if isKw "inf" w then some (.inf false)
  else if isKw "-inf" w then some (.inf true)
  else if isKw "nan" w then some .nan
  else
    match intOf? w with
    | some z => some (.ofInt z)
    | none =>
      let (neg, r) := match w with
        | '-' :: r => (true, r)
        | w => (false, w)
      (decimal? r).map fun (n, d) => .fin (neg && n != 0) n d

/-- Values in the lanes of a payload from lane 0 up, the rest zero; none for too many (R127). -/
def laneValues? (w : Nat) (l : List Int) : Option Payload :=
  if l.length ≤ 256 / w then some (allLanes w fun i => BitVec.ofInt w (l.getD i 0)) else none

/-- A payload (R127). -/
def payload? (l : List Lex) : Option Payload :=
  match l with
  | .word f :: r => do
    if r = [] then if isKw "zero" f then return 0 else none
    else
      let gs ← groups r
      let ws ← gs.mapM fun g => match g with
        | [w] => some w
        | _ => none
      let ints (w : Nat) (lo hi : Int) : Option Payload := (ws.mapM (intIn? lo hi)).bind (laneValues? w)
      let floats (g : Fmt) : Option Payload :=
        (ws.mapM fun w => (floatOf? w).map fun v => (roundTo g .rne v : Int)).bind (laneValues? g.width)
      if isKw ".w" f then ints 32 (-(2 ^ 31)) (2 ^ 32 - 1)
      else if isKw ".h" f then ints 16 (-(2 ^ 15)) (2 ^ 16 - 1)
      else if isKw ".b" f then ints 8 (-128) 255
      else if isKw ".f32" f then floats fp32
      else if isKw ".f16" f then floats fp16
      else if isKw ".bf16" f then floats bf16
      else if isKw ".e8" f then
        (ws.mapM fun w => (intIn? (-127) 127 w).map (· + 127)).bind (laneValues? 8)
      else none
  | _ => none

/-! ### Triggers -/

/-- The code of a condition (R60, R131). -/
def condCode? (w : List Char) : Option Nat :=
  (spelled? ["any", "d", "dl", "dn", "s", "c", "empty"] w).map (· + 1)

/-- A trigger word with one more term (R131). -/
def trigTerm? (t : Word) (w : List Char) : Option Word :=
  let put (k v : Nat) : Word := BitVec.ofNat 32 (v * 2 ^ k)
  let onPred (n v : Nat) : Option Word := if t.getLsbD (8 + n) then none else some (t ||| put (8 + n) 1 ||| put n v)
  match w with
  | '!' :: r => (indexed? "p" 7 r).bind fun n => onPred n 0
  | _ =>
    match indexed? "p" 7 w with
    | some n => onPred n 1
    | none => do
      let (inp, cond) := cutAt ':' w
      let n ← indexed? "i" 3 inp
      let (c, tag) := cutAt '/' (← cond)
      let v ← condCode? c
      if t.extractLsb' (16 + 3 * n) 3 != 0 then none
      else
        match tag with
        | none => return t ||| put (16 + 3 * n) v
        | some u =>
          let k ← indexed? "t" 7 u
          if n == 0 && (v == 2 || v == 3 || v == 4) then return t ||| put (16 + 3 * n) v ||| put 28 k else none

/-- The trigger word of a slot line (R130, R131): nothing, or `when` and its terms. -/
def trigger? (l : List Lex) : Option Word := do
  match ← plainWords l with
  | [] => return 0x80000000
  | k :: ts => if isKw "when" k && ts != [] then ts.foldlM trigTerm? 0x80000000 else none

/-! ### Mnemonics -/

/-- The mnemonics of opcodes 0x00 to 0x1F and 0x90 to 0xFF (R137). -/
def mnemonics00 : List String :=
  ["nop", "mov", "movk", "movi", "sel", "pset", "pget", "pput", "fwd", "emitc", "retag", "sendl", "crdget", "crdset",
    "cnti", "bcast"]
def mnemonics10 : List String :=
  ["shuf", "pack", "unpkl", "unpkh", "halt", "trap", "done", "drain", "join", "joinf", "time", "stat", "perf", "addx",
    "ltok", "mulx"]
def mnemonics90 : List String :=
  ["exp2", "log2", "rcp", "sqrt", "rsqrt", "exp", "tanh", "sigm", "gelu", "rand", "xclr", "xadd", "xsq", "xrd", "xvar",
    "smax"]
def mnemonicsA0 : List String :=
  ["mldb", "mlds", "mswap", "mzero", "mrow.a2", "mrow.a4", "mrow.a8", "mrow.a16", "mrows.a2", "mrows.a4", "mrows.a8",
    "mrows.a16", "mchain", "mout", "moutq", "mgrp"]
def mnemonicsB0 : List String :=
  ["maccr", "maccw", "msplit", "mbias", "mstat", "swcfg", "swpush", "swemit", "swflush", "isect", "icnt", "cmpr",
    "expnd", "wsplit", "wjoin", "argmx"]
def mnemonicsC0 : List String :=
  ["xpose", "xthr", "ltab", "lwire", "leval", "lemit", "lpop", "lunx", "lctx", "lin", "steer", "slots", "reord",
    "rels", "merge", "seqno"]
def mnemonicsD0 : List String :=
  ["ld", "st", "ldw", "stw", "wmap", "wsync", "winv", "wclose", "aadd", "amax", "amin", "axchg", "acas", "aor", "aand",
    "adet"]
def mnemonicsE0 : List String :=
  ["aclose", "drv", "drvx", "drvq", "agen", "agstr", "park", "unpark", "xlat", "xinv", "fence", "cwait", "csig",
    "bara", "barw", "bari"]
def mnemonicsF0 : List String :=
  ["put", "puts", "get", "red", "redr", "lsend", "lrecv", "lq", "lnch", "sysc", "flth", "preq", "ckpt", "tbkt", "walk",
    "walkl"]

/-- The integer and the float families (R101, R102, R137). -/
def intFamilies : List String :=
  ["add", "sub", "mul", "mulh", "and", "or", "xor", "shl", "shr", "sra", "min", "max", "ceq", "clt", "cltu", "addi"]
def floatFamilies : List String :=
  ["fadd", "fsub", "fmul", "ffma", "fmin", "fmax", "fceq", "fclt", "fcle", "fabs", "fneg", "fcvt", "ftoi", "itof",
    "fnarrow", "fwiden"]

/-- The opcode of a mnemonic that carries no suffix of its own. -/
def opcodeOfBase? (w : List Char) : Option Nat :=
  let at_ (start : Nat) (l : List String) : Option Nat := (spelled? l w).map (start + ·)
  (at_ 0x00 mnemonics00).orElse fun _ => (at_ 0x10 mnemonics10).orElse fun _ => (at_ 0x90 mnemonics90).orElse fun _ =>
    (at_ 0xA0 mnemonicsA0).orElse fun _ => (at_ 0xB0 mnemonicsB0).orElse fun _ => (at_ 0xC0 mnemonicsC0).orElse fun _ =>
      (at_ 0xD0 mnemonicsD0).orElse fun _ => (at_ 0xE0 mnemonicsE0).orElse fun _ => at_ 0xF0 mnemonicsF0

/-- The opcode of a family with its shape or variant (R101, R102). -/
def opcodeOfFamily? (w sfx : List Char) : Option Nat :=
  match spelled? intFamilies w with
  | some n => (spelled? ["w", "h", "b", "s"] sfx).map fun k => 0x20 + 4 * n + k
  | none => (spelled? floatFamilies w).bind fun n => (spelled? ["f32", "f16", "bf16"] sfx).map fun k => 0x60 + 3 * n + k

/-- The opcode of a mnemonic and the modifiers after it (R136, R137): the opcode's own suffix comes first. -/
def opcodeOf? (w : List Char) : Option (Nat × List (List Char)) :=
  match partsFrom '.' [] w with
  | [] => none
  | b :: r =>
    match opcodeOfBase? b with
    | some n => some (n, r)
    | none =>
      match r with
      | [] => none
      | s :: r =>
        ((opcodeOfBase? (b ++ '.' :: s)).orElse fun _ => opcodeOfFamily? b s).map fun n => (n, r)

/-- The value of the modifiers that a field's legend admits (R134, R136, R138): at most one, and a shape, a piece size or a
reduction operation is always written. -/
def modifier? (fld : Fld) (mods : List (List Char)) : Option Nat :=
  let opt (l : List String) : Option Nat :=
    match mods with
    | [] => some 0
    | [m] => (spelled? l m).map (· + 1)
    | _ => none
  let must (l : List String) : Option Nat :=
    match mods with
    | [m] => spelled? l m
    | _ => none
  match fld with
  | .rnd => opt ["rz", "rd", "ru", "ra", "sr"]
  | .cvt => opt ["rz", "rd", "ru", "ra", "sr"]
  | .cvt4 => opt ["rz", "rd", "ru", "ra", "sr"]
  | .isat => opt ["sat", "usat"]
  | .sgn => opt ["u"]
  | .split => opt ["split"]
  | .shp => must ["w", "h", "b"]
  | .bshp => must ["w", "h", "b"]
  | .piece => must ["p4", "p8", "p16"]
  | .lnkRed => must ["sum", "max", "min"]
  | .lnkRedr => must ["sum", "max", "min"]
  | _ => if mods = [] then some 0 else none

/-! ### Operands -/

/-- A source operand and the index of its constant (R132). -/
def source? (w : List Char) : Option (Src × Option Nat) :=
  if isKw "zero" w then some (.zero, none)
  else
    match indexed? "d" 7 w, indexed? "i" 3 w, indexed? "k" 15 w with
    | some n, _, _ => some (.reg (Fin.ofNat 8 n), none)
    | _, some n, _ => some (.head (Fin.ofNat 4 n), none)
    | _, _, some n => some (.const, some n)
    | _, _, _ => none

/-- A destination operand (R132). -/
def dest? (w : List Char) : Option Dst :=
  if isKw "nil" w then some .discard
  else
    match indexed? "d" 7 w, indexed? "o" 3 w with
    | some n, _ => some (.reg (Fin.ofNat 8 n))
    | _, some n => some (.out (Fin.ofNat 4 n))
    | _, _ => none

/-- The operands of a slot line between its commas. -/
abbrev Operands := List (List (List Char))

/-- The destination, where the instruction names one (R132). -/
def takeDst? (u : OpInfo) (gs : Operands) : Option (Dst × Operands) :=
  if u.dst = .none then some (.discard, gs)
  else
    match gs with
    | [w] :: r => (dest? w).map fun d => (d, r)
    | _ => none

/-- A source, where the instruction names one; one that may be left out is zero where no source stands. -/
def takeSrc? (named may : Bool) (gs : Operands) : Option (Src × Option Nat × Operands) :=
  if !named then some (.zero, none, gs)
  else
    let without : Option (Src × Option Nat × Operands) := if may then some (.zero, none, gs) else none
    match gs with
    | [w] :: r =>
      match source? w with
      | some (x, k) => some (x, k, r)
      | none => without
    | _ => without

/-- A number written #V within bounds (R134). -/
def hash? (lo hi : Int) (w : List Char) : Option Int :=
  match w with
  | '#' :: r => intIn? lo hi r
  | _ => none

/-- A number written #V from 0 to a bound. -/
def hashNat? (hi : Nat) (w : List Char) : Option Nat := (hash? 0 hi w).map Int.toNat

/-- The completion output `cmp oN`, or nothing (R98, R134). -/
def cmpField? (gs : Operands) : Option Nat :=
  match gs with
  | [] => some 0
  | [[k, o]] => if isKw "cmp" k then (indexed? "o" 3 o).map fun n => 8 + 16 * n else none
  | _ => none

/-- A loaded tag, t0 when omitted, and a completion output (R98, R134). -/
def memField? (gs : Operands) : Option Nat :=
  match gs with
  | [t] :: r =>
    match indexed? "t" 7 t with
    | some n => (cmpField? r).map (n + ·)
    | none => none
  | gs => cmpField? gs

/-- A virtual lane and a completion output (R98, R134). -/
def lnkField? (gs : Operands) : Option Nat :=
  match gs with
  | [v] :: r => (indexed? "vl" 7 v).bind fun n => (cmpField? r).map (n + ·)
  | _ => none

/-- The accumulator a word names. -/
def accOf? (w : List Char) : Option Nat := spelled? ["xa0", "xa1"] w

/-- The value of MOD, IMM or CNT that the field operands and the modifier `m` give (R97, R98, R134). -/
def fieldOperands? (fld : Fld) (m : Nat) (gs : Operands) : Option Nat :=
  let one (f : List Char → Option Nat) : Option Nat :=
    match gs with
    | [[w]] => f w
    | _ => none
  let two (f g : List Char → Option Nat) (join : Nat → Nat → Nat) : Option Nat :=
    match gs with
    | [[v], [w]] => (f v).bind fun a => (g w).map (join a)
    | _ => none
  let done : Option Nat := if gs = [] then some m else none
  match fld with
  | .pidx => one (indexed? "p" 7)
  | .oidx => one (indexed? "o" 3)
  | .sel _ => one (hashNat? 15)
  | .simm => one fun w => (hash? (-128) 127 w).map fun z => (z % 256).toNat
  | .uimm => one (hashNat? 255)
  | .idx => one (hashNat? 255)
  | .cnt _ _ => one (hashNat? 255)
  | .row => one (hashNat? 255)
  | .ctx => one (hashNat? 255)
  | .bit => one (hashNat? 255)
  | .seqc => one (hashNat? 255)
  | .rowx => one fun w => if isKw "all" w then some 255 else hashNat? 255 w
  | .tag => one (indexed? "t" 7)
  | .lvl => one (indexed? "lv" 7)
  | .joinf => two (indexed? "lv" 7) (hashNat? 31) fun l n => 32 * l + n
  | .mem => memField? gs
  | .atom => memField? gs
  | .memSt => cmpField? gs
  | .lnk => lnkField? gs
  | .lnkRed => (lnkField? gs).map (64 * m + ·)
  | .lnkRedr => done.map (64 * ·)
  | .cvt => two accOf? (indexed? "t" 7) fun x t => 32 * t + 16 * x + m
  | .cvt4 => one fun w => (indexed? "t" 7 w).map fun t => 32 * t + m
  | .win => two (indexed? "w" 7) (indexed? "lv" 7) fun w l => w + 8 * l
  | .bshp => one fun w => (hashNat? 63 w).map (64 * m + ·)
  | .acc => one accOf?
  | .xclr => one (spelled? ["xa0", "xa1", "xa"])
  | .winMap => done
  | .k => done
  | .rnd => done
  | .isat => done
  | .sgn => done
  | .shp => done
  | .piece => done
  | .split => done
  | .zero => done
  | .kidx => done
  | .preds => done
  | .nopPreds => done

/-- One predicate term of a P-form line (R135), added to SET and CLR. -/
def predTerm? (sc : BitVec 8 × BitVec 8) (w : List Char) : Option (BitVec 8 × BitVec 8) :=
  match w with
  | c :: r => do
    let n ← indexed? "p" 7 r
    let b : BitVec 8 := BitVec.ofNat 8 (2 ^ n)
    if c == '+' then return (sc.1 ||| b, sc.2)
    else if c == '-' then return (sc.1, sc.2 ||| b)
    else if c == '^' then return (sc.1 ||| b, sc.2 ||| b)
    else none
  | [] => none

/-- MOD of an R form: the field's value, or the index of the constants, which leaves no room for another (R92, R133). -/
def modOrConst? (v : Nat) (a b : Option Nat) : Option Nat :=
  match a, b with
  | none, none => some v
  | some k, none => if v = 0 then some k else none
  | none, some k => if v = 0 then some k else none
  | some k, some j => if v = 0 && k = j then some k else none

/-- The instruction of an opcode with its operands, POP and PW (R130 to R136). (DEDUCED, log 96.) -/
def operands? (opc : Nat) (mods : List (List Char)) (ops : List Lex) (pop : BitVec 4) (wp : Option Nat) : Option Instr := do
  let b := builder (BitVec.ofNat 8 opc)
  let u := opcodeInfo (BitVec.ofNat 8 opc)
  let m ← modifier? u.fld mods
  let pw : BitVec 4 := match wp with
    | some n => BitVec.ofNat 4 (8 + n)
    | none => 0
  match b with
  | .P mk =>
    if wp.isSome || m != 0 then none
    else
      let (set, clr) ← (← plainWords ops).foldlM predTerm? (0, 0)
      return mk ⟨set, clr, pop⟩
  | _ =>
    let gs ← if ops = [] then some [] else groups ops
    let (win, gs) ← if u.fld = .winMap then
        match gs with
        | [w] :: r => (indexed? "w" 7 w).map fun n => (n, r)
        | _ => none
      else some (0, gs)
    let (dst, gs) ← takeDst? u gs
    let (sa, ka, gs) ← takeSrc? (u.sa != .none) (u.sa == .optHead) gs
    let (sb, kb, gs) ← takeSrc? (u.sb != .none) (u.sb == .steerB || opc == 0x9C) gs
    let v ← fieldOperands? u.fld m gs
    match b with
    | .R mk => return mk ⟨dst, sa, sb, pop, pw, BitVec.ofNat 4 (← modOrConst? v ka kb)⟩
    | .I mk =>
      if u.fld = .kidx then return mk ⟨dst, sa, BitVec.ofNat 8 (← ka), pop, pw⟩
      else if ka.isSome then none
      else return mk ⟨dst, sa, BitVec.ofNat 8 v, pop, pw⟩
    | .X mk =>
      if ka.isSome || kb.isSome || wp.isSome then none else return mk ⟨dst, sa, sb, pop, BitVec.ofNat 8 (v + win)⟩
    | .P _ => none

/-! ### Slot lines -/

/-- POP of the words of a pop clause (R130). -/
def popWords? (ws : List (List Char)) : Option (BitVec 4) :=
  if ws = [] then none
  else ws.foldlM (fun p w => (indexed? "i" 3 w).map fun n => p ||| BitVec.ofNat 4 (2 ^ n)) 0

/-- The clauses after the operands: `pop` and its inputs, then `wp` and its predicate (R130). -/
def clauses? (ws : List (List Char)) : Option (BitVec 4 × Option Nat) := do
  let notWp (w : List Char) : Bool := !isKw "wp" w
  let pop ← match ws.takeWhile notWp with
    | [] => some 0
    | k :: r => if isKw "pop" k then popWords? r else none
  match ws.dropWhile notWp with
  | [] => return (pop, none)
  | [_, p] => return (pop, some (← indexed? "p" 7 p))
  | _ => none

/-- The instruction after the arrow of a slot line (R130). -/
def action? (l : List Lex) : Option Instr :=
  match l with
  | .word m :: r => do
    let isClause (x : Lex) : Bool :=
      match x with
      | .word w => isKw "pop" w || isKw "wp" w
      | _ => false
    let (opc, mods) ← opcodeOf? m
    let (pop, wp) ← clauses? (← plainWords (r.dropWhile fun x => !isClause x))
    operands? opc mods (r.takeWhile fun x => !isClause x) pop wp
  | _ => none

/-- A slot: `[when TERMS] -> MNEMONIC[SUFFIXES] [OPERANDS] [pop INPUTS] [wp pN]` (R130). -/
def slotText? (l : List Lex) : Option (Word × Instr) := do
  let (t, a) ← cutArrow l
  return (← trigger? t, ← action? a)

/-- The two words of a slot written in Foraux (R87, R89, R130), if the line is well written. -/
def assembleSlot (text : String) : Option Slot :=
  (slotText? (lexFrom [] (uncomment text.toList))).map fun (t, i) => ⟨t, encode i⟩

end Sys2Proof.Machine
end

