-- ==== Sys2Proof/Machine/Foras.lean ====
section
/-! DEFINITION. The assembler foras (R122 to R129, R139, R140): directives, the checks that the source alone decides, and the
images and launch templates it writes. -/

namespace Sys2Proof.Machine

/-! ### What a source describes -/

/-- An element with the lines of its parts: its .element line, its .window line, and those of its constants and slots. -/
structure AsmElem where
  name : List Char
  el : ElemRec
  line : Nat
  windowLine : Option Nat
  constLines : List (Nat × Nat)
  slotLines : List (Nat × Nat)

/-- An edge; a format set not written accepts every used entry (R126). -/
structure AsmEdge where
  line : Nat
  num : Nat
  cap : Nat
  prod : Nat
  out : Fin 4
  tags : Option (BitVec 8)
  cons : List (Nat × Fin 4 × Option (BitVec 8))

/-- An initial token. -/
structure AsmInit where
  line : Nat
  num : Nat
  tok : Token

/-- A graph of a source: `shape` holds the hints of R111, `fmts` the records written with their lines, `part` the partition
of the elements to come, `parts` the partition count (R125), `launch` the fields of the template. -/
structure AsmGraph where
  name : List Char
  line : Nat
  shape : Nat × Nat × Nat × Nat
  fmts : List (Nat × Word × Nat)
  part : Nat
  parts : Nat
  elems : List AsmElem
  edges : List AsmEdge
  inits : List AsmInit
  order : List (Nat × Nat × Nat)
  ranges : List (RangeRec × Nat)
  exact : List (Nat × Nat)
  launch : List (String × Nat)

/-- The index of a declared element (R122, R125). -/
def AsmGraph.elem? (g : AsmGraph) (w : List Char) : Option Nat := g.elems.findIdx? fun x => x.name == w

/-- The element and the number of a port such as `gen.o1` (R123). -/
def AsmGraph.port? (g : AsmGraph) (stem : String) (w : List Char) : Option (Nat × Fin 4) := do
  let (n, p) := cutAt '.' w
  return (← g.elem? n, Fin.ofNat 4 (← indexed? stem 3 (← p)))

/-- A graph with one of its elements changed. -/
def AsmGraph.modElem (g : AsmGraph) (e : Nat) (f : AsmElem → AsmElem) : AsmGraph := { g with elems := g.elems.modify e f }

/-! ### Directives -/

/-- A shape `WxH` in clusters (R123), in decimal digits. (DESIGN CHOICE, log 120.) -/
def shapeOf? (w : List Char) : Option (Nat × Nat) := do
  let (a, b) := cutAt 'x' (lower w)
  return (← indexed? "" 8 a |>.filter (· != 0), ← indexed? "" 8 (← b) |>.filter (· != 0))

/-- `.graph NAME [least WxH] [pref WxH]`. Two graphs of one source may have one name. (DESIGN CHOICE, log 97.) -/
def graphLine? (line : Nat) (ws : List (List Char)) : Option AsmGraph :=
  match ws with
  | n :: r => do
    let (least, r) ← match r with
      | k :: s :: r => if isKw "least" k then (shapeOf? s).map fun p => (p, r) else some ((0, 0), k :: s :: r)
      | r => some ((0, 0), r)
    let pref ← match r with
      | [] => some (0, 0)
      | [k, s] => if isKw "pref" k then shapeOf? s else none
      | _ => none
    if isName n then
      return ⟨n, line, (least.1, least.2, pref.1, pref.2), [], 0, 1, [], [], [], [], [], [], []⟩
    else none
  | [] => none

/-- The record of a short name of `.format` (R32, R124). -/
def shortRecord? (w : List Char) : Option Word :=
  (spelled? ["fp16", "bf16", "fp8e4", "int8", "int4", "slice"] w).map fun n =>
    [recFP16, recBF16, 0x1101D800, 0x30000000, 0x28000000, recSlice].getD n 0

/-- `.format tT RECORD` or `.format tT SHORT` (R124). -/
def formatLine? (g : AsmGraph) (line : Nat) (ws : List (List Char)) : Option AsmGraph :=
  match ws with
  | [t, r] => do
    let k ← indexed? "t" 7 t
    let rec ← (shortRecord? r).orElse fun _ => (natIn? (2 ^ 32 - 1) r).map (BitVec.ofNat 32)
    if k < 2 || g.fmts.any (fun x => x.1 == k) then none else return { g with fmts := g.fmts ++ [(k, rec, line)] }
  | _ => none

/-- The kind a letter names (R123). -/
def kindLetter? (w : List Char) : Option ElemKind := (spelled? ["c", "m", "l", "s", "x", "e"] w).map kindOf

/-- `.element NAME KIND [pred BYTE] [isect]` (R123, R125). -/
def elementLine? (g : AsmGraph) (line : Nat) (ws : List (List Char)) : Option AsmGraph :=
  match ws with
  | n :: k :: r => do
    let kind ← kindLetter? k
    let (pred, r) ← match r with
      | p :: b :: r => if isKw "pred" p then (natIn? 255 b).map fun v => (v, r) else some (0, p :: b :: r)
      | r => some (0, r)
    let isect ← match r with
      | [] => some false
      | [i] => if isKw "isect" i then some true else none
      | _ => none
    if !isName n || (g.elem? n).isSome || (isect && kind != .C && kind != .M) then none
    else
      let el : ElemRec :=
        { kind := kind, predInit := BitVec.ofNat 8 pred, isect := isect, part := g.part, declared := 0, pword := 0
          slots := Vector.replicate 32 ⟨0, 0⟩, ctags := Vector.replicate 16 0, consts := Vector.replicate 16 0 }
      return { g with elems := g.elems ++ [⟨n, el, line, none, [], []⟩] }
  | _ => none

/-- `.const EL kN tT PAYLOAD` (R123, R127). (DESIGN CHOICE, log 97.) -/
def constLine? (g : AsmGraph) (line : Nat) (l : List Lex) : Option AsmGraph :=
  match l with
  | .word n :: .word k :: .word t :: r => do
    let e ← g.elem? n
    let x ← g.elems[e]?
    let i ← indexed? "k" 15 k
    let tag ← indexed? "t" 7 t
    let v ← payload? r
    if x.el.declared.getLsbD i then none
    else
      let el := { x.el with
        declared := x.el.declared ||| BitVec.ofNat 16 (2 ^ i)
        ctags := x.el.ctags.set! i (BitVec.ofNat 3 tag), consts := x.el.consts.set! i v }
      return g.modElem e fun y => { y with el := el, constLines := (i, line) :: y.constLines }
  | _ => none

/-- `.slot EL N [when TERMS] -> …` (R130). -/
def slotLine? (g : AsmGraph) (line : Nat) (l : List Lex) : Option AsmGraph :=
  match l with
  | .word n :: .word k :: r => do
    let e ← g.elem? n
    let x ← g.elems[e]?
    let i ← natIn? 31 k
    let (t, a) ← slotText? r
    if x.slotLines.any fun p => p.1 == i then none
    else
      return g.modElem e fun y =>
        { y with el := { y.el with slots := y.el.slots.set! i ⟨t, encode a⟩ }, slotLines := (i, line) :: y.slotLines }
  | _ => none

/-- The set of a list of tags (R126). -/
def tagSet? (ws : List (List Char)) : Option (BitVec 8) :=
  if ws = [] then none
  else ws.foldlM (fun s w => (indexed? "t" 7 w).map fun t => s ||| BitVec.ofNat 8 (2 ^ t)) 0

/-- An optional `fmt TAGS` (R126). -/
def fmtClause? (ws : List (List Char)) : Option (Option (BitVec 8)) :=
  match ws with
  | [] => some none
  | k :: ts => if isKw "fmt" k then (tagSet? ts).map some else none

/-- `.edge N PROD.oK [fmt TAGS] -> CONS.iK [fmt TAGS], … [fifo C]` (R123, R126). -/
def edgeLine? (g : AsmGraph) (line : Nat) (l : List Lex) : Option AsmGraph := do
  let (a, b) ← cutArrow l
  let notFifo (x : Lex) : Bool :=
    match x with
    | .word w => !isKw "fifo" w
    | _ => true
  let cap ← match b.dropWhile notFifo with
    | [] => some 0
    | [_, .word c] => (intIn? 2 32 c).map Int.toNat
    | _ => none
  let cons ← (← groups (b.takeWhile notFifo)).mapM fun ws =>
    match ws with
    | c :: r => do
      let (e, i) ← g.port? "i" c
      return (e, i, ← fmtClause? r)
    | [] => none
  match ← plainWords a with
  | n :: p :: r =>
    let (e, o) ← g.port? "o" p
    return { g with edges := g.edges ++ [⟨line, ← natIn? 65535 n, cap, e, o, ← fmtClause? r, cons⟩] }
  | _ => none

/-- The kind of an initial token (R123). -/
def initKind? (w : List Char) : Option TokKind :=
  if isKw "d" w then some .data else if isKw "s" w then some .scale else if isKw "c" w then some .control else none

/-- `.init N KIND [tT] [last] [coord V] PAYLOAD` (R123, R128). -/
def initLine? (g : AsmGraph) (line : Nat) (l : List Lex) : Option AsmGraph :=
  match l with
  | .word n :: .word k :: r => do
    let num : Nat ← natIn? 65535 n
    let kind : TokKind ← initKind? k
    let (tag, r) := match r with
      | .word t :: r' =>
        match indexed? "t" 7 t with
        | some v => if kind == TokKind.data then (v, r') else (0, r)
        | none => (0, r)
      | r => (0, r)
    let (last, r) := match r with
      | .word t :: r' => if isKw "last" t then (true, r') else (false, r)
      | r => (false, r)
    let (coord, r) ← match r with
      | .word t :: .word v :: r' => if isKw "coord" t then (natIn? 65535 v).map fun c => (c, r') else some (0, r)
      | r => some (0, r)
    let p ← payload? r
    let tok : Token := ⟨BitVec.ofNat 3 tag, kind, last, false, BitVec.ofNat 16 coord, p⟩
    return { g with inits := g.inits ++ [AsmInit.mk line num tok] }
  | _ => none

/-- `.order EL -> EL`. -/
def orderLine? (g : AsmGraph) (line : Nat) (l : List Lex) : Option AsmGraph :=
  match l with
  | [.word a, .arrow, .word b] => do return { g with order := g.order ++ [(← g.elem? a, ← g.elem? b, line)] }
  | _ => none

/-- `.range EL r|w|rw BASE, LENGTH`. -/
def rangeLine? (g : AsmGraph) (line : Nat) (l : List Lex) : Option AsmGraph :=
  match l with
  | [.word n, .word k, .word b, .comma, .word len] => do
    let nat (w : List Char) : Option Nat := ((intOf? w).filter fun z => decide (0 ≤ z)).map Int.toNat
    let r : RangeRec := ⟨← g.elem? n, ← spelled? ["r", "w", "rw"] k, ← nat b, ← nat len⟩
    return { g with ranges := g.ranges ++ [(r, line)] }
  | _ => none

/-- `.exact EL SLOT`. -/
def exactLine? (g : AsmGraph) (ws : List (List Char)) : Option AsmGraph :=
  match ws with
  | [n, k] => do return { g with exact := g.exact ++ [(← g.elem? n, ← natIn? 31 k)] }
  | _ => none

/-- `.window EL win A park B reord C slide D` (R123, R304), for an S element. -/
def windowLine? (g : AsmGraph) (line : Nat) (ws : List (List Char)) : Option AsmGraph :=
  match ws with
  | [n, k1, a, k2, b, k3, c, k4, d] => do
    let e ← g.elem? n
    let x ← g.elems[e]?
    let area (w : List Char) : Option Nat := natIn? 255 w
    let v := (← area a) * 2 ^ 24 + (← area b) * 2 ^ 16 + (← area c) * 2 ^ 8 + (← area d)
    if isKw "win" k1 && isKw "park" k2 && isKw "reord" k3 && isKw "slide" k4 && x.el.kind == .S && x.windowLine.isNone then
      return g.modElem e fun y => { y with el := { y.el with pword := BitVec.ofNat 32 v }, windowLine := some line }
    else none
  | _ => none

/-- `.partition N`: at most 256 partitions (R111, R125). -/
def partitionLine? (g : AsmGraph) (ws : List (List Char)) : Option AsmGraph :=
  match ws with
  | [n] => (natIn? 255 n).map fun k => { g with part := k, parts := max g.parts (k + 1) }
  | _ => none

/-- Whether a value lies in the range of a launch-record field (R129, R369). -/
def launchRange (key : String) (v : Nat) : Bool :=
  match key with
  | "image" => decide (v < 2 ^ 56) && v % 8 == 0
  | "priority" => decide (v ≤ 3)
  | "det" => decide (v ≤ 1)
  | "rcm" => decide (v ≤ 1)
  | "nwait" => decide (v ≤ 4)
  | "level7" => decide (v ≤ 1)
  | "ctl" => decide (v < 128) && decide (v / 16 ≤ 4)
  | "signal" => decide (v ≤ 4095) || v == 0xFFFF
  | "level5" => decide (v ≤ 4095) || v == 0xFFFF
  | "level6" => decide (v ≤ 4095) || v == 0xFFFF
  | "tensor0" => decide (v < 2 ^ 32)
  | "tensor1" => decide (v < 2 ^ 32)
  | _ => decide (v < 2 ^ 64)

/-- The keys of `.launch`, after the fields of R369. (DESIGN CHOICE, log 99.) -/
def launchKeys : List String :=
  ["image", "ctl", "priority", "det", "rcm", "nwait", "level7", "signal", "level5", "level6", "seed", "tensor0", "tensor1", "wait0",
    "wait1", "wait2", "wait3"]

/-- The keys that name the fields within CTL (R369). -/
def ctlKeys : List String := ["priority", "det", "rcm", "nwait"]

/-- Whether a key gives a field that an earlier line gave, CTL and its fields being one another's (R129). -/
def AsmGraph.launchTwice (g : AsmGraph) (key : String) : Bool :=
  g.launch.any fun x => x.1 == key || (key == "ctl" && ctlKeys.contains x.1) || (x.1 == "ctl" && ctlKeys.contains key)

/-- The value of a field of the template, or its value where no line gives it. -/
def AsmGraph.launchField (g : AsmGraph) (key : String) (dflt : Nat) : Nat := (g.launch.lookup key).getD dflt

/-- CTL of the template (R369). -/
def AsmGraph.launchCtl (g : AsmGraph) : Nat :=
  let f (key : String) : Nat := g.launchField key 0
  f "ctl" + f "priority" + 4 * f "det" + 8 * f "rcm" + 16 * f "nwait"

/-- Whether the waits at or above NWAIT are zero (R369). An error there stands at the .endg line. -/
def AsmGraph.waitsOk (g : AsmGraph) : Bool :=
  ["wait0", "wait1", "wait2", "wait3"].zipIdx.all fun (k, i) =>
    decide (i < g.launchCtl / 16) || g.launchField k 0 == 0

/-- `.launch KEY VALUE` (R129). -/
def launchLine? (g : AsmGraph) (ws : List (List Char)) : Option AsmGraph :=
  match ws with
  | [k, v] => do
    let key ← launchKeys.find? fun x => isKw x k
    let n ← natIn? (2 ^ 64 - 1) v
    if launchRange key n && !g.launchTwice key then return { g with launch := (key, n) :: g.launch } else none
  | _ => none

/-- A directive inside a graph (R123). -/
def directive? (g : AsmGraph) (line : Nat) (d : List Char) (r : List Lex) : Option AsmGraph :=
  let words (f : List (List Char) → Option AsmGraph) : Option AsmGraph := (plainWords r).bind f
  if isKw ".format" d then words (formatLine? g line)
  else if isKw ".element" d then words (elementLine? g line)
  else if isKw ".const" d then constLine? g line r
  else if isKw ".slot" d then slotLine? g line r
  else if isKw ".edge" d then edgeLine? g line r
  else if isKw ".init" d then initLine? g line r
  else if isKw ".order" d then orderLine? g line r
  else if isKw ".range" d then rangeLine? g line r
  else if isKw ".exact" d then words (exactLine? g)
  else if isKw ".window" d then words (windowLine? g line)
  else if isKw ".partition" d then words (partitionLine? g)
  else if isKw ".launch" d then words (launchLine? g)
  else none

/-- The graphs closed so far and the one that is open (R122). -/
structure Asm where
  done : List AsmGraph
  cur : Option AsmGraph

/-- One line of a source (R119, R122). -/
def Asm.line? (a : Asm) (line : Nat) (l : List Lex) : Option Asm :=
  match l with
  | [] => some a
  | .word d :: r =>
    match a.cur with
    | none => if isKw ".graph" d then ((plainWords r).bind (graphLine? line)).map fun g => { a with cur := some g } else none
    | some g =>
      if isKw ".endg" d then if r = [] && g.waitsOk then some ⟨a.done ++ [g], none⟩ else none
      else (directive? g line d r).map fun g => { a with cur := some g }
  | _ => none

/-- The lines of a source from a number on, up to the first error of the language. -/
def Asm.lines (a : Asm) : (line : Nat) → List (List Lex) → Except Nat Asm
  | _, [] => .ok a
  | n, l :: r =>
    match a.line? n l with
    | some a => a.lines (n + 1) r
    | none => .error n

/-- The graphs of a source, or the line of the first error of the language (R119 to R138): a graph left open is an error at
its .graph line, a source without a graph one at its last line (R122). -/
def parseLines (ls : List (List Lex)) : Except Nat (List AsmGraph) :=
  match Asm.lines ⟨[], none⟩ 1 ls with
  | .error n => .error n
  | .ok ⟨_, some g⟩ => .error g.line
  | .ok ⟨gs, none⟩ => if gs = [] then .error ls.length else .ok gs

/-! ### The graph -/

/-- The format table (R28, R124). -/
def AsmGraph.table (g : AsmGraph) : Vector Word 8 :=
  Vector.ofFn fun k =>
    if k.val = 0 then recFP32 else if k.val = 1 then recINT32
    else
      match g.fmts.find? fun x => x.1 == k.val with
      | some x => x.2.1
      | none => 0

/-- The set of every used entry (R126). -/
def AsmGraph.usedSet (g : AsmGraph) : BitVec 8 :=
  (List.finRange 8).foldl (fun s k => if g.table.get k != 0 then s ||| BitVec.ofNat 8 (2 ^ k.val) else s) 0

/-- An edge of the graph with its initial tokens (R69, R72, R126). -/
def AsmGraph.edgeOf (g : AsmGraph) (d : AsmEdge) : Edge :=
  { num := d.num
    cap := if d.cap = 0 then 4 else d.cap
    prod := d.prod
    out := d.out
    tags := d.tags.getD g.usedSet
    cons := d.cons.map fun (e, i, t) => ⟨e, i, t.getD g.usedSet⟩
    init := (g.inits.filter fun t => t.num == d.num).map (·.tok)
    feedback := false }

/-- The graph as the loader reads it (R77). -/
def AsmGraph.graph (g : AsmGraph) : ImageRec :=
  { fmts := g.table
    parts := g.parts
    elems := g.elems.map (·.el)
    edges := g.edges.map g.edgeOf
    order := g.order.map fun x => (x.1, x.2.1)
    ranges := g.ranges.map (·.1)
    exact := g.exact }

/-! ### Checks -/

/-- The line of the first check that fails. -/
def firstLine (l : List (Nat × Bool)) : Option Nat := (l.find? fun x => !x.2).map (·.1)

/-- The length of the image in bytes (R111 to R116): the header, a directory entry for each section, and the records. -/
def AsmGraph.size (g : AsmGraph) : Nat :=
  let entry (l : Nat) : Nat := if l = 0 then 0 else 16
  64 + 32 + entry g.edges.length + entry g.inits.length + entry g.order.length + entry g.ranges.length + entry g.exact.length
    + 864 * g.elems.length + (g.edges.map fun d => 80 + 8 * d.cons.length).sum + 40 * g.inits.length + 8 * g.order.length
    + 24 * g.ranges.length + 8 * g.exact.length + 64

/-- The legal values of R111 to R116 and R304 that the form of a directive leaves open, in the order of R117. -/
def AsmGraph.legalLine? (g : AsmGraph) : Option Nat :=
  let (lw, lh, pw, ph) := g.shape
  firstLine ([(g.line, decide (g.size < 2 ^ 32)),
      (g.line, decide (1 ≤ g.elems.length) && decide (g.elems.length ≤ 9216)),
      (g.line, pw == 0 || decide (lw ≤ pw)), (g.line, ph == 0 || decide (lh ≤ ph))]
    ++ g.elems.map (fun x => (x.windowLine.getD x.line, decide (pwordKiB x.el.pword.toNat ≤ 256)))
    ++ g.edges.zipIdx.flatMap (fun (d, i) =>
      [(d.line, (g.edges.take i).all fun b => b.num != d.num), (d.line, decide (d.cons.length ≤ 64))])
    ++ g.inits.map (fun t => (t.line, g.edges.any fun d => d.num == t.num))
    ++ g.order.map (fun x => (x.2.2, x.1 != x.2.1))
    ++ g.ranges.flatMap fun (r, n) =>
      [(n, decide (r.base < 2 ^ 56)), (n, decide (1 ≤ r.len) && decide (r.base + r.len ≤ 2 ^ 56))])

/-- The line a report of steps 1 to 3 points at (R139): the .format line of an entry, the .const line of a constant whose
tag is unused, the .slot line of a slot. -/
def AsmGraph.reportLine (g : AsmGraph) : LoadErr → Nat
  | .format k => ((g.fmts.find? fun x => x.1 == k).map (·.2.2)).getD g.line
  | .slot _ e k =>
    match g.elems[e]? with
    | some x =>
      if k = 0xFF then
        (((List.finRange 16).find? fun i => x.el.declared.getLsbD i.val && !usedTag g.table (x.el.ctags.get i)).bind
          fun i => x.constLines.lookup i.val).getD x.line
      else (x.slotLines.lookup k).getD x.line
    | none => g.line
  | _ => g.line

/-- Steps 1 to 3 of R79, as the loader makes them (R139). -/
def AsmGraph.slotErr? (g : AsmGraph) : Option LoadErr :=
  let x := g.graph
  x.badFormat?.orElse fun _ => (x.elems.zipIdx.findSome? fun (el, e) => x.step2 false e el).orElse fun _ => x.step3

/-- The part of step 4 that R72 and R31 give: the initial tokens of each edge. -/
def AsmGraph.edgeLine4? (g : AsmGraph) : Option Nat :=
  firstLine (g.edges.flatMap fun d =>
    let x := g.edgeOf d
    let ts := g.inits.filter fun t => t.num == d.num
    (ts.drop x.cap).map (fun t => (t.line, false))
      ++ ts.map fun t => (t.line, t.tok.kind != .data || (usedTag g.table t.tok.tag && x.tags.getLsbD t.tok.tag.toNat)))

/-- The part of step 5 that R31 gives: a format set names used entries. -/
def AsmGraph.setLine5? (g : AsmGraph) : Option Nat :=
  firstLine (g.edges.map fun d =>
    let inside (t : Option (BitVec 8)) : Bool := t.getD 0 &&& ~~~g.usedSet == 0
    (d.line, inside d.tags && d.cons.all fun c => inside c.2.2))

/-- The line of the first check that fails after those of the language (R139). -/
def AsmGraph.badLine? (g : AsmGraph) : Option Nat :=
  g.legalLine?.orElse fun _ => (g.slotErr?.map g.reportLine).orElse fun _ => g.edgeLine4?.orElse fun _ => g.setLine5?

/-! ### The image -/

/-- A slot in storage (R86). -/
def slotBytes (s : Slot) : List Byte := leBytes 4 s.trig.toNat ++ leBytes 4 s.act.toNat

/-- The code of a kind (R113). -/
def kindByte : ElemKind → Nat
  | .C => 0
  | .M => 1
  | .L => 2
  | .S => 3
  | .X => 4
  | .E => 5

/-- An element record (R113). -/
def elemBytes (x : ElemRec) : List Byte :=
  leBytes 1 (kindByte x.kind) ++ [x.predInit] ++ leBytes 1 (if x.isect then 1 else 0) ++ leBytes 1 x.part
    ++ leBytes 2 x.declared.toNat ++ leBytes 2 0 ++ leBytes 4 x.pword.toNat ++ leBytes 4 0
    ++ x.slots.toList.flatMap slotBytes ++ x.ctags.toList.flatMap (fun t => leBytes 1 t.toNat)
    ++ x.consts.toList.flatMap fun v => leBytes 32 v.toNat

/-- An edge record (R114). -/
def AsmGraph.edgeBytes (g : AsmGraph) (d : AsmEdge) : List Byte :=
  leBytes 2 d.num ++ leBytes 1 d.cap ++ leBytes 1 d.out.val ++ leBytes 4 d.prod ++ [d.tags.getD g.usedSet]
    ++ leBytes 1 d.cons.length ++ leBytes 6 0
    ++ d.cons.flatMap fun (e, i, t) => leBytes 4 e ++ leBytes 1 i.val ++ [t.getD g.usedSet] ++ leBytes 2 0

/-- An initial-token record (R115). -/
def initBytes (t : AsmInit) : List Byte :=
  let kind := match t.tok.kind with
    | .data => 0
    | .scale => 1
    | .control => 2
    | .marker _ => 3
  leBytes 2 t.num ++ leBytes 2 t.tok.coord.toNat
    ++ leBytes 1 (t.tok.tag.toNat + 8 * kind + if t.tok.last then 32 else 0) ++ leBytes 3 0 ++ leBytes 32 t.tok.payload.toNat

/-- The name of a graph, an element or an edge in section 7: 64 bytes. -/
def nameBytes (w : List Char) : List Byte := (List.range 64).map fun i => BitVec.ofNat 8 ((w.map Char.toNat).getD i 0)

/-- The sections of the image that have records, with their record counts, in ascending type (R112, R140). -/
def AsmGraph.sections (g : AsmGraph) : List (Nat × Nat × List Byte) :=
  let names := g.name :: g.elems.map (·.name) ++ g.edges.map fun d => Nat.toDigits 10 d.num
  let all : List (Nat × Nat × List Byte) :=
    [(1, g.elems.length, g.elems.flatMap fun x => elemBytes x.el), (2, g.edges.length, g.edges.flatMap g.edgeBytes),
      (3, g.inits.length, g.inits.flatMap initBytes),
      (4, g.order.length, g.order.flatMap fun x => leBytes 4 x.1 ++ leBytes 4 x.2.1),
      (5, g.ranges.length, g.ranges.flatMap fun (r, _) =>
        leBytes 4 r.elem ++ leBytes 1 r.access ++ leBytes 3 0 ++ leBytes 8 r.base ++ leBytes 8 r.len),
      (6, g.exact.length, g.exact.flatMap fun x => leBytes 4 x.1 ++ leBytes 1 x.2 ++ leBytes 3 0),
      (7, names.length, names.flatMap nameBytes)]
  all.filter fun x => x.2.1 != 0

/-- The directory entries of sections that follow one another from an offset (R112). -/
def dirBytes : (off : Nat) → List (Nat × Nat × List Byte) → List Byte
  | _, [] => []
  | off, (t, n, bs) :: r => leBytes 2 t ++ leBytes 2 0 ++ leBytes 4 n ++ leBytes 8 off ++ dirBytes (off + bs.length) r

/-- The image of a graph (R111 to R116, R140). (DESIGN CHOICE, log 98.) -/
def AsmGraph.image (g : AsmGraph) : List Byte :=
  let ss := g.sections
  let body := ss.flatMap (·.2.2)
  let (lw, lh, pw, ph) := g.shape
  leBytes 4 0x4947384B ++ leBytes 2 1 ++ leBytes 2 0 ++ leBytes 4 (64 + 16 * ss.length + body.length) ++ leBytes 2 ss.length
    ++ leBytes 2 0 ++ (g.table.toList.drop 2).flatMap (fun w => leBytes 4 w.toNat) ++ leBytes 4 g.elems.length
    ++ leBytes 4 g.edges.length ++ leBytes 2 g.parts ++ leBytes 2 0 ++ leBytes 1 lw ++ leBytes 1 lh ++ leBytes 1 pw
    ++ leBytes 1 ph ++ leBytes 8 0 ++ dirBytes (64 + 16 * ss.length) ss ++ body

/-- The launch-record template (R129, R369): a field without a .launch line is zero, or none or unbound where the record has
a value for that. -/
def AsmGraph.template (g : AsmGraph) : List Byte :=
  let f := g.launchField
  leBytes 8 (f "image" 0) ++ leBytes 1 g.launchCtl
    ++ leBytes 1 (f "level7" 0) ++ leBytes 2 (f "signal" 0xFFFF) ++ leBytes 2 (f "level5" 0xFFFF)
    ++ leBytes 2 (f "level6" 0xFFFF) ++ leBytes 8 (f "seed" 0) ++ leBytes 4 (f "tensor0" 0) ++ leBytes 4 (f "tensor1" 0)
    ++ leBytes 8 (f "wait0" 0) ++ leBytes 8 (f "wait1" 0) ++ leBytes 8 (f "wait2" 0) ++ leBytes 8 (f "wait3" 0)

/-- What foras writes for one graph: its image, and the template beside it (R122, R129). -/
structure AsmOut where
  name : List Char
  image : List Byte
  template : List Byte
deriving DecidableEq, Repr

/-- The graphs of a source in order, or the line of the first check that fails (R139). -/
def checkGraphs : List AsmGraph → Except Nat (List AsmOut)
  | [] => .ok []
  | g :: r =>
    match g.badLine?, checkGraphs r with
    | some n, _ => .error n
    | none, .error n => .error n
    | none, .ok l => .ok (⟨g.name, g.image, g.template⟩ :: l)

/-- foras (R122, R139): one image for each graph of a source, or the line of the first failing check and no image.
(DEDUCED, log 15.) (DEDUCED, log 95.) -/
def assemble (src : List Char) : Except Nat (List AsmOut) :=
  match parseLines (sourceLines src) with
  | .error n => .error n
  | .ok gs => checkGraphs gs

end Sys2Proof.Machine
end

