-- ==== Sys2Proof/WellFormed.lean ====
section
/-! DEFINITION. Well-formed instructions: what a checked slot may hold (R91 to R98, R213, R249, R251, R264). The checks
themselves stand in Machine/Check.lean. Events stand in no slot, so none is well formed. -/

namespace Sys2Proof

/-- Whether an instruction is one that the loader accepts in a slot, by its own fields. -/
def Instr.wellFormed (i : Instr) : Bool := Machine.instrOk i

end Sys2Proof
end

