-- ==== Sys2Proof/Safety.lean ====
section
/-! DEFINITION. What counts as a safe run, and the invariant that every step keeps. -/

namespace Sys2Proof.Machine

/-- The invariant of the machine: device memory is in its canonical form, and every die has its sixteen region slots
and its walker region (R16, R17). -/
def State.Inv (s : State) : Prop := Memory.wf s.mem.bytes = true ∧ s.regions.length = regionSlots

/-- A run of `n` steps is safe when it stops with no fault and no refusal. -/
def State.SafeFor (n : Nat) (s : State) : Prop := ∃ t, core.run n s = .next t

end Sys2Proof.Machine
end

