-- ==== Sys2Proof/Certificates/Slice0/Obligations.lean ====
section
/-! DEFINITION. The statements for the provers, from the manual's numbered rules. A firing under way in context `c` of a
state `s` is `s.ctx? = some c`. -/

namespace Sys2Proof.Machine

/-! ### Words for the statements -/

/-- No source of a firing is a poisoned head (R27). -/
def Ctx.clean (c : Ctx) (l : List Src) : Prop := l.any c.poisoned = false

/-- Every data token that a firing pushes has a tag of its producer's format set (R71). -/
def Ctx.inSets (c : Ctx) (l : List (Fin 4 × Token)) : Prop := c.g.tagsOk c.e l = true

/-- The state after steps 3 to 5 of R65: the element as the firing leaves it, then its pops, its pushes, and the
counters of R171. `read` holds the inputs whose heads the firing read. -/
def Ctx.fired (c : Ctx) (s : State) (el : Elem) (pushes : List (Fin 4 × Token)) (pop read : BitVec 4) : State :=
  s.setGraph c.r (c.g.finish c.e c.slot s.cycle el pushes pop read)

/-- What an R-form firing that computes `o` pushes (R143). -/
def Ctx.pushR (c : Ctx) (f : RForm) (o : Out) : List (Fin 4 × Token) :=
  pushesOf f.dst (c.tok f.md [f.sa, f.sb] o.tag o.res)

/-- The state after an R-form firing that computes `o` (R65, R95, R144). -/
def Ctx.firedR (c : Ctx) (s : State) (f : RForm) (o : Out) : State :=
  c.fired s ((c.el.writeDst f.dst o.res).withPw f.pw o.cond) (c.pushR f o) f.pop (readMask [f.sa, f.sb])

/-- An R-form firing may push a result with a tag of its own, or with that of R143: the tag is in the producer's set,
and no source is poisoned. -/
def Ctx.readyR (c : Ctx) (f : RForm) (tag : Option (BitVec 3)) : Prop :=
  c.clean [f.sa, f.sb] ∧ c.inSets (c.pushR f ⟨0, false, tag⟩)

/-- A and B of an R-form firing (R141). -/
def Ctx.opA (c : Ctx) (f : RForm) : Payload := c.src f.md f.sa
def Ctx.opB (c : Ctx) (f : RForm) : Payload := c.src f.md f.sb

/-- The index of the constant that an I form reads (R93). -/
def idxI (f : IForm) : BitVec 4 := f.imm.extractLsb' 0 4

/-- What an I-form firing that computes `o` pushes (R143). -/
def Ctx.pushI (c : Ctx) (f : IForm) (o : Out) : List (Fin 4 × Token) :=
  pushesOf f.dst (c.tok (idxI f) [f.sa] o.tag o.res)

/-- The state after an I-form firing that computes `o`. -/
def Ctx.firedI (c : Ctx) (s : State) (f : IForm) (o : Out) : State :=
  c.fired s ((c.el.writeDst f.dst o.res).withPw f.pw o.cond) (c.pushI f o) f.pop (readMask [f.sa])

/-- As `Ctx.readyR`, for an I form. -/
def Ctx.readyI (c : Ctx) (f : IForm) (tag : Option (BitVec 3)) : Prop :=
  c.clean [f.sa] ∧ c.inSets (c.pushI f ⟨0, false, tag⟩)

/-- The state after an X-form firing that reads `srcs`, whose result is `res` under the tag `tag`; an X form writes no
predicate (R95). -/
def Ctx.firedX (c : Ctx) (s : State) (f : XForm) (srcs : List Src) (tag : Option (BitVec 3)) (res : Payload) : State :=
  c.fired s (c.el.writeDst f.dst res) (pushesOf f.dst (c.tok 0 srcs tag res)) f.pop (readMask srcs)

/-- As `Ctx.readyR`, for an X form. -/
def Ctx.readyX (c : Ctx) (f : XForm) (srcs : List Src) (tag : Option (BitVec 3)) : Prop :=
  c.clean srcs ∧ c.inSets (pushesOf f.dst (c.tok 0 srcs tag 0))

/-- The condition of R95 on a result: its bits [31:0] are not all zero. -/
def lowNonzero (v : Payload) : Bool := v.extractLsb' 0 32 != 0

/-- Every computed lane of a shape holds what `R` asks of the two operand lanes, and every other lane is zero (R174). -/
def LanesRel (sh : Shape) (r a b : Payload)
    (R : BitVec (shWidth sh) → BitVec (shWidth sh) → BitVec (shWidth sh) → Prop) : Prop :=
  (∀ l, l < shLanes sh → R (lane a (shWidth sh) l) (lane b (shWidth sh) l) (lane r (shWidth sh) l)) ∧
    ∀ l, shLanes sh ≤ l → lane r (shWidth sh) l = 0

/-- SAT of R176 for an operation on integers. -/
def SatRel (w isat : Nat) (op : Int → Int → Int) (a b z : BitVec w) : Prop :=
  (isat = 1 → z.toInt = clampInt (op a.toInt b.toInt) (-(2 ^ (w - 1))) (2 ^ (w - 1) - 1)) ∧
    (isat = 2 → (z.toNat : Int) = clampInt (op a.toNat b.toNat) 0 (2 ^ w - 1)) ∧
    (isat ≠ 1 → isat ≠ 2 → z = BitVec.ofInt w (op a.toNat b.toNat) ∧ z = BitVec.ofInt w (op a.toInt b.toInt))

/-- An integer instruction of the R form runs and its lanes satisfy `R`; the condition is that of R95. -/
def IntRuns (s : State) (c : Ctx) (sh : Shape) (i : Instr) (f : RForm)
    (R : BitVec (shWidth sh) → BitVec (shWidth sh) → BitVec (shWidth sh) → Prop) : Prop :=
  ∃ r, exec i s = .next (c.firedR s f ⟨r, lowNonzero r, none⟩) ∧ LanesRel sh r (c.opA f) (c.opB f) R

end Sys2Proof.Machine

open Sys2Proof Sys2Proof.Machine

/-! ### Integer families -/

/-- ADD, SUB, MUL, MULH, MIN, MAX and ADDI (R174 to R176, R178): each runs in every shape, with the lanes the rules
give; under R92 a constant operand makes MOD 0. -/
def Obligations.IntegerArithmeticRuns : Prop :=
  ∀ (s : State) (c : Ctx) (sh : Shape), s.ctx? = some c →
    (∀ f : RForm, c.readyR f none →
      IntRuns s c sh (.add sh f) f (SatRel _ (modOf f).toNat (· + ·)) ∧
      IntRuns s c sh (.sub sh f) f (SatRel _ (modOf f).toNat (· - ·)) ∧
      IntRuns s c sh (.mul sh f) f (SatRel _ (modOf f).toNat (· * ·)) ∧
      IntRuns s c sh (.mulh sh f) f (fun a b z =>
        if modOf f = 1 then z.toNat = a.toNat * b.toNat / 2 ^ shWidth sh
        else z.toInt = a.toInt * b.toInt / 2 ^ shWidth sh) ∧
      IntRuns s c sh (.min sh f) f (fun a b z =>
        if modOf f = 1 then z.toNat = min a.toNat b.toNat else z.toInt = min a.toInt b.toInt) ∧
      IntRuns s c sh (.max sh f) f (fun a b z =>
        if modOf f = 1 then z.toNat = max a.toNat b.toNat else z.toInt = max a.toInt b.toInt)) ∧
    ∀ f : IForm, c.readyI f none →
      ∃ r, exec (.addi sh f) s = .next (c.firedI s f ⟨r, lowNonzero r, none⟩) ∧
        LanesRel sh r (c.src (idxI f) f.sa) 0 fun a _ z => z = a + f.imm.signExtend (shWidth sh)

/-- AND, OR, XOR and the comparisons (R175, R178): each runs; a comparison's condition is its outcome in lane 0. -/
def Obligations.IntegerLogicRuns : Prop :=
  ∀ (s : State) (c : Ctx) (sh : Shape) (f : RForm), s.ctx? = some c → c.readyR f none →
    IntRuns s c sh (.and sh f) f (fun a b z => z = a &&& b) ∧
    IntRuns s c sh (.or sh f) f (fun a b z => z = a ||| b) ∧
    IntRuns s c sh (.xor sh f) f (fun a b z => z = a ^^^ b) ∧
    (∃ r k, exec (.ceq sh f) s = .next (c.firedR s f ⟨r, k, none⟩) ∧
      (k = true ↔ lane (c.opA f) (shWidth sh) 0 = lane (c.opB f) (shWidth sh) 0) ∧
      LanesRel sh r (c.opA f) (c.opB f) fun a b z => z = if a = b then BitVec.allOnes _ else 0) ∧
    (∃ r k, exec (.clt sh f) s = .next (c.firedR s f ⟨r, k, none⟩) ∧
      (k = true ↔ (lane (c.opA f) (shWidth sh) 0).toInt < (lane (c.opB f) (shWidth sh) 0).toInt) ∧
      LanesRel sh r (c.opA f) (c.opB f) fun a b z => z = if a.toInt < b.toInt then BitVec.allOnes _ else 0) ∧
    ∃ r k, exec (.cltu sh f) s = .next (c.firedR s f ⟨r, k, none⟩) ∧
      (k = true ↔ (lane (c.opA f) (shWidth sh) 0).toNat < (lane (c.opB f) (shWidth sh) 0).toNat) ∧
      LanesRel sh r (c.opA f) (c.opB f) fun a b z => z = if a.toNat < b.toNat then BitVec.allOnes _ else 0

/-- SHL, SHR and SRA (R177): the count is the whole lane of B, unmasked. -/
def Obligations.ShiftCountsUnmasked : Prop :=
  ∀ (s : State) (c : Ctx) (sh : Shape) (f : RForm), s.ctx? = some c → c.readyR f none →
    IntRuns s c sh (.shl sh f) f (fun a b z =>
      z.toNat = if b.toNat < shWidth sh then a.toNat * 2 ^ b.toNat % 2 ^ shWidth sh else 0) ∧
    IntRuns s c sh (.shr sh f) f (fun a b z =>
      z.toNat = if b.toNat < shWidth sh then a.toNat / 2 ^ b.toNat else 0) ∧
    IntRuns s c sh (.sra sh f) f (fun a b z =>
      if b.toNat < shWidth sh then z.toInt = a.toInt / 2 ^ b.toNat
      else z = if a.toInt < 0 then BitVec.allOnes _ else 0)

/-! ### Control -/

/-- MOV, MOVK and MOVI (R146): each runs with the result the rule gives, under the default condition of R95; what MOVI
writes to a predicate is 1 exactly when IMM is not 0, and a token it pushes has tag 1, LAST 0 and COORD 0. -/
def Sys2Proof.Machine.MovesRun : Prop :=
  ∀ (s : State) (c : Ctx), s.ctx? = some c →
    (∀ f : RForm, c.readyR f none → exec (.mov f) s = .next (c.firedR s f ⟨c.opA f, lowNonzero (c.opA f), none⟩)) ∧
    (∀ f : IForm, f.sa = .const → c.readyI f none →
      exec (.movk f) s = .next (c.firedI s f
        ⟨c.el.img.consts.get (Fin.ofNat 16 (idxI f).toNat),
          lowNonzero (c.el.img.consts.get (Fin.ofNat 16 (idxI f).toNat)), none⟩)) ∧
    ∀ f : IForm, f.sa = .zero → c.inSets (pushesOf f.dst ⟨1, .data, false, false, 0, 0⟩) →
      ∃ r, (∀ l, l < 8 → lane32 r l = f.imm.signExtend 32) ∧
        exec (.movi f) s = .next (c.fired s ((c.el.writeDst f.dst r).withPw f.pw (f.imm != 0))
          (pushesOf f.dst ⟨1, .data, false, false, 0, r⟩) f.pop 0)

/-- PGET and PPUT (R149, R150): PGET reads the predicate byte; PPUT writes the predicates its mask selects, and an
enabled PW changes nothing. -/
def Sys2Proof.Machine.PredicateReadsAndWrites : Prop :=
  ∀ (s : State) (c : Ctx), s.ctx? = some c →
    (∀ f : RForm, c.readyR f none →
      ∃ r : Payload, (∀ n, n < 8 → r.getLsbD n = c.el.p.getLsbD n) ∧ (∀ n, 8 ≤ n → r.getLsbD n = false) ∧
        exec (.pget f) s = .next (c.firedR s f ⟨r, lowNonzero r, none⟩)) ∧
    ∀ f : IForm, c.clean [f.sa] →
      ∃ p : BitVec 8,
        (∀ n, n < 8 → p.getLsbD n = if f.imm.getLsbD n then (c.src 0 f.sa).getLsbD n else c.el.p.getLsbD n) ∧
        exec (.pput f) s = .next (c.fired s { c.el with p := p } [] f.pop (readMask [f.sa]))

/-- SET and CLR (R96) in NOP, PSET, HALT, DRAIN, SWFLUSH and MSWAP: pn is unchanged, set, cleared or inverted, then the
pops. HALT and DRAIN stop the element (R162, R165), SWFLUSH empties the ring (R233), and MSWAP, with no weight or scale
engine running, changes the active bank (R223). -/
def Obligations.PFormsRun : Prop :=
  ∀ (s : State) (c : Ctx) (f : PForm), s.ctx? = some c →
    ∃ p : BitVec 8,
      (∀ n, n < 8 → p.getLsbD n =
        if f.set.getLsbD n then (if f.clr.getLsbD n then !c.el.p.getLsbD n else true)
        else if f.clr.getLsbD n then false else c.el.p.getLsbD n) ∧
      exec (.nop f) s = .next (c.fired s { c.el with p := p } [] f.pop 0) ∧
      exec (.pset f) s = .next (c.fired s { c.el with p := p } [] f.pop 0) ∧
      exec (.halt f) s = .next (c.fired s { c.el with p := p, stop := .halted } [] f.pop 0) ∧
      exec (.drain f) s = .next (c.fired s { c.el with p := p, stop := .draining } [] f.pop 0) ∧
      (∀ x, c.el.ks = .s x →
        exec (.swflush f) s = .next (c.fired s { c.el with p := p, ks := .s { x with ring := [] } } [] f.pop 0)) ∧
      ∀ m, c.el.ks = .m m → c.el.engine? .weights = none → c.el.engine? .scales = none →
        exec (.mswap f) s = .next (c.fired s
          { c.el with p := p, ks := .m { m with active := !m.active }, firing := none } [] f.pop 0)

/-- Lane arrangement (R158 to R160): BCAST, SHUF, PACK, UNPKL and UNPKH run, lane by lane. -/
def Sys2Proof.Machine.LaneArrangementRuns : Prop :=
  ∀ (s : State) (c : Ctx), s.ctx? = some c →
    (∀ (f : XForm) (w : Nat), w = shapeWidth (f.cnt.toNat / 64) → c.readyX f [f.sa, f.sb] none →
      ∃ r, (∀ l, l < 256 / w → lane r w l = lane (c.src 0 f.sa) w (f.cnt.toNat % 64)) ∧
        exec (.bcast f) s = .next (c.firedX s f [f.sa, f.sb] none r)) ∧
    ∀ f : RForm, c.readyR f none →
      (∃ r, (∀ j, j < 32 → lane r 8 j =
          if 128 ≤ (lane (c.opB f) 8 j).toNat then 0 else lane (c.opA f) 8 ((lane (c.opB f) 8 j).toNat % 32)) ∧
        exec (.shuf f) s = .next (c.firedR s f ⟨r, lowNonzero r, none⟩)) ∧
      ∀ w h : Nat, w = shapeWidth (modOf f).toNat → h = w / 2 →
        (∃ r, (∀ l, l < 256 / w → lane r h l = (lane (c.opA f) w l).setWidth h ∧
            lane r h (256 / w + l) = (lane (c.opB f) w l).setWidth h) ∧
          exec (.pack f) s = .next (c.firedR s f ⟨r, lowNonzero r, none⟩)) ∧
        (∃ r, (∀ l, l < 256 / w → lane r w l = (lane (c.opA f) h l).signExtend w) ∧
          exec (.unpkl f) s = .next (c.firedR s f ⟨r, lowNonzero r, none⟩)) ∧
        ∃ r, (∀ l, l < 256 / w → lane r w l = (lane (c.opA f) h (256 / w + l)).signExtend w) ∧
          exec (.unpkh f) s = .next (c.firedR s f ⟨r, lowNonzero r, none⟩)

/-- CNTI (R161): the next count in lane 0, every other lane zero, and the condition that it wrapped. -/
def Sys2Proof.Machine.CounterInstructionCounts : Prop :=
  ∀ (s : State) (c : Ctx) (f : IForm) (x : Nat), s.ctx? = some c → c.readyI f none →
    x = ((lane32 (c.src (idxI f) f.sa) 0).toNat + 1) % 2 ^ 32 →
    ∃ r, (lane32 r 0).toNat = (if f.imm.toNat ≤ x then 0 else x) ∧ (∀ l, 0 < l → lane32 r l = 0) ∧
      exec (.cnti f) s = .next (c.firedI s f ⟨r, decide (f.imm.toNat ≤ x), none⟩)

/-- ADDX and MULX (R173): four 64-bit lanes modulo 2^64; the conditions are an address out of range and product
overflow. -/
def Sys2Proof.Machine.AddressArithmetic : Prop :=
  ∀ (s : State) (c : Ctx) (f : RForm), s.ctx? = some c → c.readyR f none →
    (∃ r, (∀ j, j < 4 → (lane r 64 j).toNat = ((lane (c.opA f) 64 j).toNat + (lane (c.opB f) 64 j).toNat) % 2 ^ 64) ∧
      exec (.addx f) s = .next (c.firedR s f ⟨r, decide (2 ^ 56 ≤ (lane r 64 0).toNat), none⟩)) ∧
    ∃ r, (∀ j, j < 4 → (lane r 64 j).toNat = (lane (c.opA f) 64 j).toNat * (lane (c.opB f) 64 j).toNat % 2 ^ 64) ∧
      exec (.mulx f) s = .next (c.firedR s f
        ⟨r, decide (2 ^ 64 ≤ (lane (c.opA f) 64 0).toNat * (lane (c.opB f) 64 0).toNat), none⟩)

/-- TIME, STAT, PERF and CRDGET (R156, R169 to R171): each reads what its rule names and zero elsewhere. By how much PERF 2, the
count of squashed firings, has risen is left open (log entry 6): it is read as it then stands, and stays so in the element. -/
def Obligations.StatusReadsRun : Prop :=
  ∀ (s : State) (c : Ctx), s.ctx? = some c →
    (∀ f : RForm, c.readyR f none →
      (∃ r : Payload, r.extractLsb' 0 64 = s.clock ∧ (∀ l, 2 ≤ l → lane32 r l = 0) ∧
        exec (.time f) s = .next (c.firedR s f ⟨r, lowNonzero r, none⟩)) ∧
      (∃ r, (modOf f = 0 → lane32 r 0 = BitVec.ofNat 32 c.e ∧ lane32 r 1 = BitVec.ofNat 32 (elemKindCode c.el.img.kind) ∧
            lane32 r 2 = BitVec.ofNat 32 c.el.img.part) ∧
          (modOf f = 1 → lane32 r 0 = c.el.emptyPop ∧ lane32 r 1 = c.el.poisonDiscard ∧ lane32 r 2 = 0) ∧
          (modOf f = 2 → lane32 r 0 = c.el.endCt.setWidth 32 ∧ lane32 r 1 = c.el.declared.setWidth 32 ∧
            lane32 r 2 = 0) ∧
          (∀ l, 3 ≤ l → lane32 r l = 0) ∧ exec (.stat f) s = .next (c.firedR s f ⟨r, lowNonzero r, none⟩)) ∧
      ∃ r, lane32 r 0 = BitVec.ofNat 32 (c.g.freePlaces c.e (Fin.ofNat 4 (modOf f).toNat)) ∧
        (∀ l, 0 < l → lane32 r l = 0) ∧ exec (.crdget f) s = .next (c.firedR s f ⟨r, lowNonzero r, none⟩)) ∧
    ∀ f : XForm, c.readyX f [f.sa, f.sb] none →
      (f.cnt ≠ 2 → ∃ r : Payload, r.extractLsb' 0 64 = sget 0 c.el.perf f.cnt.toNat ∧ (∀ l, 2 ≤ l → lane32 r l = 0) ∧
        exec (.perf f) s = .next (c.firedX s f [f.sa, f.sb] none r)) ∧
      (f.cnt = 2 → ∃ (r : Payload) (el : Elem) (t : State), r.extractLsb' 0 64 = sget 0 el.perf 2 ∧
        (∀ l, 2 ≤ l → lane32 r l = 0) ∧ el = { c.el with perf := sset 0 c.el.perf 2 (sget 0 el.perf 2) } ∧
        t = { s with freeCtr := t.freeCtr } ∧
        exec (.perf f) s = .next (c.fired t (el.writeDst f.dst r) (pushesOf f.dst (c.tok 0 [f.sa, f.sb] none r)) f.pop
          (readMask [f.sa, f.sb])))

/-- SEL, EMITC, RETAG, SENDL and LTOK (R147, R152 to R155): each runs with the result and the sideband its rule gives. That LTOK
does not read the payload of its head, so that a poisoned head which it pops counts in the poison-discard counter, is log entry
18. -/
def Sys2Proof.Machine.SidebandInstructionsRun : Prop :=
  ∀ (s : State) (c : Ctx), s.ctx? = some c →
    (∀ f : RForm,
      (∀ x, x = (if c.el.p.getLsbD ((modOf f).toNat % 8) then f.sa else f.sb) → c.clean [f.sa, f.sb] →
        c.inSets (pushesOf f.dst (c.tok f.md [x] none (c.src f.md x))) →
        exec (.sel f) s = .next (c.fired s ((c.el.writeDst f.dst (c.src f.md x)).withPw f.pw (lowNonzero (c.src f.md x)))
          (pushesOf f.dst (c.tok f.md [x] none (c.src f.md x))) f.pop (readMask [f.sa, f.sb]))) ∧
      (∀ v : BitVec 16, v = (c.opA f).extractLsb' 0 16 → c.clean [f.sa, f.sb] →
        exec (.emitc f) s = .next (c.fired s ((c.el.writeDst f.dst (c.opB f)).withPw f.pw (v != 0))
          (pushesOf f.dst ⟨0, .control, false, false, v, c.opB f⟩) f.pop (readMask [f.sa, f.sb]))) ∧
      (∀ t, t = c.tok f.md [f.sa] none (c.opA f) → c.clean [f.sa] → c.inSets (pushesOf f.dst t) →
        exec (.sendl f) s = .next (c.fired s ((c.el.writeDst f.dst (c.opA f)).withPw f.pw (lowNonzero (c.opA f)))
          (pushesOf f.dst { t with last := true }) f.pop (readMask [f.sa]))) ∧
      (∀ r : Payload, c.inSets (pushesOf f.dst (c.tok f.md [f.sa] none r)) →
        (match c.srcTok? f.sa with
          | some h => lane32 r 0 = h.coord.setWidth 32 ∧
              (lane32 r 1).toNat = h.tag.toNat + 8 * kindCode h.kind + (if h.last then 32 else 0) +
                (if h.poison then 64 else 0) ∧ (∀ l, 2 ≤ l → lane32 r l = 0)
          | none => r = 0) →
        exec (.ltok f) s = .next (c.fired s ((c.el.writeDst f.dst r).withPw f.pw (lowNonzero r))
          (pushesOf f.dst (c.tok f.md [f.sa] none r)) f.pop 0))) ∧
    ∀ f : IForm, c.readyI f (some (f.imm.extractLsb' 0 3)) →
      exec (.retag f) s = .next (c.firedI s f
        ⟨c.src (idxI f) f.sa, lowNonzero (c.src (idxI f) f.sa), some (f.imm.extractLsb' 0 3)⟩)

/-- FWD (R151): a head to an output goes on unchanged, POISON included; a head to a discard goes nowhere and never
traps; every other case is MOV. -/
def Sys2Proof.Machine.ForwardKeepsToken : Prop :=
  ∀ (s : State) (c : Ctx) (f : RForm), s.ctx? = some c →
    (∀ t o, c.srcTok? f.sa = some t → f.dst = .out o → c.inSets [(o, t)] →
      exec (.fwd f) s = .next (c.fired s (c.el.withPw f.pw (lowNonzero t.payload)) [(o, t)] f.pop (readMask [f.sa]))) ∧
    (∀ t, c.srcTok? f.sa = some t → f.dst = .discard →
      exec (.fwd f) s = .next (c.fired s (c.el.withPw f.pw (lowNonzero t.payload)) [] f.pop 0)) ∧
    ((c.srcTok? f.sa = none ∨ ∃ n, f.dst = .reg n) → exec (.fwd f) s = exec (.mov f) s)

/-- CRDSET and DONE (R157, R164): the output's limit, and the end counter with its declared count. -/
def Sys2Proof.Machine.LimitsAndEndCounts : Prop :=
  ∀ (s : State) (c : Ctx), s.ctx? = some c →
    (∀ f : RForm, c.clean [f.sa] →
      exec (.crdset f) s = .next (c.fired s
        ({ c.el with outLimit := c.el.outLimit.set (Fin.ofNat 4 (modOf f).toNat) (lane32 (c.opA f) 0).toNat }.withPw f.pw
          false) [] f.pop (readMask [f.sa]))) ∧
    ∀ (f : IForm) (decl n : BitVec 16), c.clean [f.sa] →
      decl = (if f.imm = 0 then c.el.declared else f.imm.setWidth 16) →
      n.toNat = min (c.el.endCt.toNat + 1) 65535 →
      exec (.done f) s = .next (c.fired s
        ({ c.el with endCt := n, declared := decl }.withPw f.pw (decide (decl.toNat ≤ n.toNat))) [] f.pop
        (readMask [f.sa]))

/-- JOIN and JOINF (R166 to R168): a firing before the last counts; the last of JOIN emits its token and counts anew;
the last of JOINF leaves the firing incomplete, with the count that its token will carry in COORD. -/
def Sys2Proof.Machine.JoinsCount : Prop :=
  ∀ (s : State) (c : Ctx) (f : XForm) (k : Fin 32) (jc : BitVec 8), s.ctx? = some c → k = Fin.ofNat 32 c.slot →
    jc = c.el.joinCt.get k + 1 →
    (jc ≠ f.cnt →
      exec (.join f) s = .next (c.fired s { c.el with joinCt := c.el.joinCt.set k jc } [] f.pop 0)) ∧
    (jc = f.cnt →
      exec (.join f) s = .next (c.fired s ({ c.el with joinCt := c.el.joinCt.set k 0 }.writeDst f.dst 0)
        (pushesOf f.dst ⟨0, .control, false, false, f.cnt.setWidth 16, 0⟩) f.pop 0)) ∧
    (∀ l, l = c.el.joinToks ++ (c.popped f.pop).map (fun t => (c.slot, t)) →
      (jc.toNat ≠ f.cnt.toNat % 32 →
        exec (.joinf f) s = .next (c.fired s { c.el with joinCt := c.el.joinCt.set k jc, joinToks := l } [] f.pop 0)) ∧
      (jc.toNat = f.cnt.toNat % 32 →
        ∃ (t : State) (el : Elem) (fr : Firing), exec (.joinf f) s = .next t ∧
          t = s.setGraph c.r (c.g.setElem c.e el) ∧ el.firing = some fr ∧ fr.instr = .joinf f ∧ fr.slot = c.slot ∧
          fr.stage = .wait ∧ fr.n = f.cnt.toNat % 32 ∧ el.joinCt = c.el.joinCt.set k 0 ∧ el.joinToks = l))

/-- TRAP (R163): the element trap USER with the code IMM, whatever the fields of the word. -/
def Sys2Proof.Machine.TrapRaisesUser : Prop :=
  ∀ (s : State) (c : Ctx) (f : IForm), s.ctx? = some c →
    exec (.trap f) s = .next (s.raiseTrap c.r c.e c.slot 14 f.imm.toNat)
/-! ### Vector floating point -/

namespace Sys2Proof.Machine

/-- FADD in its three variants (R181). -/
def faddOf (v : FVar) (f : RForm) : Instr :=
  match v with
  | .f32 => .faddF32 f
  | .f16 => .faddF16 f
  | .bf16 => .faddBF16 f

/-- FSUB in its three variants (R181). -/
def fsubOf (v : FVar) (f : RForm) : Instr :=
  match v with
  | .f32 => .fsubF32 f
  | .f16 => .fsubF16 f
  | .bf16 => .fsubBF16 f

/-- FMUL in its three variants (R181). -/
def fmulOf (v : FVar) (f : RForm) : Instr :=
  match v with
  | .f32 => .fmulF32 f
  | .f16 => .fmulF16 f
  | .bf16 => .fmulBF16 f

/-- FFMA in its three variants (R181). -/
def ffmaOf (v : FVar) (f : RForm) : Instr :=
  match v with
  | .f32 => .ffmaF32 f
  | .f16 => .ffmaF16 f
  | .bf16 => .ffmaBF16 f

/-- FMIN in its three variants (R181). -/
def fminOf (v : FVar) (f : RForm) : Instr :=
  match v with
  | .f32 => .fminF32 f
  | .f16 => .fminF16 f
  | .bf16 => .fminBF16 f

/-- FMAX in its three variants (R181). -/
def fmaxOf (v : FVar) (f : RForm) : Instr :=
  match v with
  | .f32 => .fmaxF32 f
  | .f16 => .fmaxF16 f
  | .bf16 => .fmaxBF16 f

/-- FCEQ in its three variants (R181). -/
def fceqOf (v : FVar) (f : RForm) : Instr :=
  match v with
  | .f32 => .fceqF32 f
  | .f16 => .fceqF16 f
  | .bf16 => .fceqBF16 f

/-- FCLT in its three variants (R181). -/
def fcltOf (v : FVar) (f : RForm) : Instr :=
  match v with
  | .f32 => .fcltF32 f
  | .f16 => .fcltF16 f
  | .bf16 => .fcltBF16 f

/-- FCLE in its three variants (R181). -/
def fcleOf (v : FVar) (f : RForm) : Instr :=
  match v with
  | .f32 => .fcleF32 f
  | .f16 => .fcleF16 f
  | .bf16 => .fcleBF16 f

/-- FABS in its three variants (R181). -/
def fabsOf (v : FVar) (f : RForm) : Instr :=
  match v with
  | .f32 => .fabsF32 f
  | .f16 => .fabsF16 f
  | .bf16 => .fabsBF16 f

/-- FNEG in its three variants (R181). -/
def fnegOf (v : FVar) (f : RForm) : Instr :=
  match v with
  | .f32 => .fnegF32 f
  | .f16 => .fnegF16 f
  | .bf16 => .fnegBF16 f

/-- FCVT in its three variants (R181). -/
def fcvtOf (v : FVar) (f : RForm) : Instr :=
  match v with
  | .f32 => .fcvtF32 f
  | .f16 => .fcvtF16 f
  | .bf16 => .fcvtBF16 f

/-- FTOI in its three variants (R181). -/
def ftoiOf (v : FVar) (f : RForm) : Instr :=
  match v with
  | .f32 => .ftoiF32 f
  | .f16 => .ftoiF16 f
  | .bf16 => .ftoiBF16 f

/-- ITOF in its three variants (R181). -/
def itofOf (v : FVar) (f : RForm) : Instr :=
  match v with
  | .f32 => .itofF32 f
  | .f16 => .itofF16 f
  | .bf16 => .itofBF16 f

/-- FNARROW in its three variants (R181). -/
def fnarrowOf (v : FVar) (f : XForm) : Instr :=
  match v with
  | .f32 => .fnarrowF32 f
  | .f16 => .fnarrowF16 f
  | .bf16 => .fnarrowBF16 f

/-- FWIDEN in its three variants (R181). -/
def fwidenOf (v : FVar) (f : RForm) : Instr :=
  match v with
  | .f32 => .fwidenF32 f
  | .f16 => .fwidenF16 f
  | .bf16 => .fwidenBF16 f

/-- A float instruction whose result has the variant's format runs: lane `l` holds the code `code l`, the condition is
"a lane is NaN" and a pushed token has the variant tag (R183, R184). -/
def FloatRuns (s : State) (c : Ctx) (v : FVar) (i : Instr) (f : RForm) (code : Nat → Nat) : Prop :=
  ∃ (r : Payload) (k : Bool), (∀ l, l < v.n → lane r v.w l = BitVec.ofNat v.w (code l)) ∧
    (k = true ↔ ∃ l, l < v.n ∧ (v.val r l).isNaN = true) ∧ exec i s = .next (c.firedR s f ⟨r, k, some (c.vtag v)⟩)

/-- A float comparison runs (R189): all ones where it holds; its condition is the outcome in lane 0 and its tag is 1. -/
def CompareRuns (s : State) (c : Ctx) (v : FVar) (i : Instr) (f : RForm) (h : Val → Val → Bool) : Prop :=
  ∃ r : Payload,
    (∀ l, l < v.n → lane r v.w l =
      if h (v.val (c.opA f) l) (v.val (c.opB f) l) then BitVec.allOnes v.w else 0) ∧
    exec i s = .next (c.firedR s f ⟨r, h (v.val (c.opA f) 0) (v.val (c.opB f) 0), some 1⟩)

end Sys2Proof.Machine

/-- FADD, FSUB, FMUL and FFMA (R187): each runs, and every lane is the exact result rounded once. FFMA with no register
destination adds −0, which leaves the product as it is. -/
def Obligations.FloatArithmeticRuns : Prop :=
  ∀ (s : State) (c : Ctx) (v : FVar) (f : RForm) (rm : Nat → RMode), s.ctx? = some c → c.readyR f (some (c.vtag v)) →
    rm = c.rmode s (modOf f).toNat →
    FloatRuns s c v (faddOf v f) f
      (fun l => roundTo v.fmt (rm l) ((v.val (c.opA f) l).add (rm l).zneg (v.val (c.opB f) l))) ∧
    FloatRuns s c v (fsubOf v f) f
      (fun l => roundTo v.fmt (rm l) ((v.val (c.opA f) l).add (rm l).zneg (v.val (c.opB f) l).negate)) ∧
    FloatRuns s c v (fmulOf v f) f (fun l => roundTo v.fmt (rm l) ((v.val (c.opA f) l).mul (v.val (c.opB f) l))) ∧
    FloatRuns s c v (ffmaOf v f) f fun l => roundTo v.fmt (rm l)
      (match f.dst with
        | .reg n => ((v.val (c.opA f) l).mul (v.val (c.opB f) l)).add (rm l).zneg (v.val (c.el.d.get n) l)
        | _ => (v.val (c.opA f) l).mul (v.val (c.opB f) l))

/-- FMIN, FMAX, FABS, FNEG and the comparisons FCEQ, FCLT and FCLE (R188, R189): each runs, lane by lane. -/
def Obligations.FloatSelectionRuns : Prop :=
  ∀ (s : State) (c : Ctx) (v : FVar) (f : RForm), s.ctx? = some c →
    (c.readyR f (some (c.vtag v)) →
      FloatRuns s c v (fminOf v f) f
        (fun l => roundTo v.fmt .rne (Val.minmax false (v.val (c.opA f) l) (v.val (c.opB f) l))) ∧
      FloatRuns s c v (fmaxOf v f) f
        (fun l => roundTo v.fmt .rne (Val.minmax true (v.val (c.opA f) l) (v.val (c.opB f) l))) ∧
      FloatRuns s c v (fabsOf v f) f (fun l => roundTo v.fmt .rne (v.val (c.opA f) l).abs) ∧
      FloatRuns s c v (fnegOf v f) f (fun l => roundTo v.fmt .rne (v.val (c.opA f) l).negate)) ∧
    (c.readyR f (some 1) →
      CompareRuns s c v (fceqOf v f) f Val.eq ∧ CompareRuns s c v (fcltOf v f) f Val.lt ∧
      CompareRuns s c v (fcleOf v f) f fun x y => x.lt y || x.eq y)

/-- FCVT, FTOI, ITOF, FWIDEN and FNARROW (R184, R190 to R195): each runs, lane by lane, with its condition: a lane is NaN for
FCVT and FWIDEN, was out of range for FTOI, and overflowed for ITOF. -/
def Obligations.FloatConversionsRun : Prop :=
  ∀ (s : State) (c : Ctx) (v : FVar), s.ctx? = some c →
    (∀ (f : RForm) (rm : Nat → RMode), rm = c.rmode s (modOf f).toNat →
      (c.readyR f (some (c.vtag v)) →
        FloatRuns s c v (fcvtOf v f) f (fun l =>
          if v = .f32 then roundTo fp32 .rne (integral (rm l) (FVar.f32.val (c.opA f) l))
          else roundTo v.fmt (rm l) (if l < 8 then FVar.f32.val (c.opA f) l else FVar.f32.val (c.opB f) (l - 8))) ∧
        ∃ (r : Payload) (k : Bool),
          (∀ l, l < v.n → lane r v.w l = BitVec.ofNat v.w (roundTo v.fmt (rm l)
            (.ofInt (if l < 8 then (lane32 (c.opA f) l).toInt else (lane32 (c.opB f) (l - 8)).toInt)))) ∧
          (k = true ↔ ∃ l, l < v.n ∧ v.fmt.overflows (rm l)
            (.ofInt (if l < 8 then (lane32 (c.opA f) l).toInt else (lane32 (c.opB f) (l - 8)).toInt)) = true) ∧
          exec (itofOf v f) s = .next (c.firedR s f ⟨r, k, some (c.vtag v)⟩)) ∧
      (c.readyR f (some 1) →
        ∃ (r : Payload) (k : Bool),
          (∀ l, l < 8 → lane32 r l = BitVec.ofNat 32 (roundTo int32 (rm l) (v.val (c.opA f) l))) ∧
          (k = true ↔ ∃ l, l < 8 ∧ outOfInt32 (rm l) (v.val (c.opA f) l) = true) ∧
          exec (ftoiOf v f) s = .next (c.firedR s f ⟨r, k, some 1⟩)) ∧
      (c.readyR f (some 0) →
        ∃ (r : Payload) (k : Bool), (∀ l, l < 8 → lane32 r l = rneFP32 (v.val (c.opA f) l)) ∧
          (k = true ↔ ∃ l, l < 8 ∧ (val32 (lane32 r l)).isNaN = true) ∧
          exec (fwidenOf v f) s = .next (c.firedR s f ⟨r, k, some 0⟩))) ∧
    ∀ (f : XForm) (t : Fmt) (tag : BitVec 3) (rm : Nat → RMode), tag = f.cnt.extractLsb' 5 3 → c.g.fmt? tag = some t →
      rm = c.rmode s (f.cnt.toNat % 16) → c.readyX f [f.sa, f.sb] (some tag) →
      exec (fnarrowOf v f) s = .next (c.firedX s f [f.sa, f.sb] (some tag)
        (packFmt t (2 * v.n) fun j => roundTo t (rm j)
          (if j < v.n then v.val (c.src 0 f.sa) j else v.val (c.src 0 f.sb) (j - v.n))))

/-- The special functions, RAND and SMAX (R196 to R198, R205 to R210): each runs, with the function of its rule in every
lane. Where the bounds of an irrational function do not separate two codes the value is open (log entry 8). -/
def Obligations.SpecialFunctionsRun : Prop :=
  ∀ (s : State) (c : Ctx) (f : RForm), s.ctx? = some c →
    (c.readyR f (some 0) →
      ∀ (i : Instr) (h : Word → Word),
        (i, h) ∈ [(.exp2 f, fnExp2), (.log2 f, fnLog2), (.rcp f, fnRcp), (.sqrt f, fnSqrt), (.rsqrt f, fnRsqrt),
          (.exp f, fnExp), (.tanh f, fnTanh), (.sigm f, fnSigm), (.gelu f, fnGelu)] →
        ∃ (r : Payload) (k : Bool), (∀ l, l < 8 → lane32 r l = h (lane32 (c.opA f) l)) ∧
          (k = true ↔ ∃ l, l < 8 ∧ (val32 (lane32 r l)).isNaN = true) ∧
          exec i s = .next (c.firedR s f ⟨r, k, some 0⟩)) ∧
    (c.readyR f (some 1) →
      ∃ r : Payload,
        (∀ l, l < 8 → lane32 r l =
          (kch (s.seedOf c.reg) (lane32 (c.opB f) 0) (lane32 (c.opB f) 1 ++ lane32 (c.opA f) l)).1) ∧
        exec (.rand f) s = .next (c.firedR s f ⟨r, lowNonzero r, some 1⟩)) ∧
    (modOf f = 1 → c.readyR f (some 0) → exec (.smax f) s = .next (c.firedR s f
      ⟨smaxNorm (c.opA f) (c.opB f), (SMaxSt.ofPayload (c.opB f)).empty?, some 0⟩)) ∧
    ∀ st, modOf f ≠ 1 → c.readyR f (some 1) →
      st = (if modOf f = 2 then smaxMerge (c.opA f) (c.opB f) else smaxAdd (c.opA f) (c.opB f)) →
      exec (.smax f) s = .next (c.firedR s f ⟨st.payload, st.empty?, some 1⟩)

/-- The exact accumulators (R199 to R204): XCLR clears what IMM selects, XADD and XSQ add their values in ascending
order, XRD and XVAR round out and change no accumulator. -/
def Obligations.ExactAccumulatorsRun : Prop :=
  ∀ (s : State) (c : Ctx) (x y : XS), s.ctx? = some c → c.el.ks = .c x y →
    (∀ f : IForm, exec (.xclr f) s = .next (c.fired s
      ({ c.el with ks := .c (if f.imm = 1 then x else ⟨0, 0, 0, 0⟩) (if f.imm = 0 then y else ⟨0, 0, 0, 0⟩) }.withPw f.pw
        false) [] f.pop 0)) ∧
    (∀ (f : XForm) (fm : Fmt) (vs : List Val), c.xvals f.sa = some (fm, vs) →
      (c.clean [f.sa] → exec (.xadd f) s = .next (c.fired s
        { c.el with ks := if f.cnt.getLsbD 0 then .c x (xsAddAll y vs) else .c (xsAddAll x vs) y } [] f.pop
        (readMask [f.sa]))) ∧
      ∀ h : Val → Val, c.clean [f.sa, f.sb] →
        (f.sb = .zero → h = squareFor fm) → (f.sb ≠ .zero → h = centredSquare (val32 (lane32 (c.src 0 f.sb) 0))) →
        exec (.xsq f) s = .next (c.fired s
          { c.el with ks := if f.cnt.getLsbD 0 then .c x (xsAddAll y (vs.map h)) else .c (xsAddAll x (vs.map h)) y } []
          f.pop (readMask [f.sa, f.sb]))) ∧
    ∀ (f : XForm) (t : Fmt) (tag : BitVec 3) (rm : Nat → RMode), tag = f.cnt.extractLsb' 5 3 → c.g.fmt? tag = some t →
      rm = c.rmode s (f.cnt.toNat % 16) →
      (c.readyX f [] (some tag) → exec (.xrd f) s = .next (c.firedX s f [] (some tag)
        (packFmt t 1 fun _ => xsRound (if f.cnt.getLsbD 4 then y else x) 1 t (rm 0)))) ∧
      ∀ n, c.readyX f [f.sa] (some tag) → n = (lane32 (c.src 0 f.sa) 0).toNat →
        exec (.xvar f) s = .next (c.firedX s f [f.sa] (some tag) (packFmt t 2 fun i =>
          if i = 0 then (if n = 0 then roundTo t (rm 0) .nan else xsRound x n t (rm 0))
          else if n = 0 then roundTo t (rm 1) .nan
          else if (lane32 (c.src 0 f.sa) 1).getLsbD 0 then xsRound y n t (rm 1)
          else roundTo t (rm 1) (onePassVar x y n)))

/-! ### Lanes, intersection counters, thresholds -/

namespace Sys2Proof.Machine

/-- How many of the lanes below `l` of a payload are not zero. -/
def below (w : Nat) (b : Payload) (l : Nat) : Nat := ((List.range l).filter fun j => lane b w j != 0).length

end Sys2Proof.Machine

/-- CMPR and EXPND (R236): CMPR gathers the lanes of A that B selects, from lane 0 up, and its token carries their
number in COORD; EXPND puts the lanes of A back where B selects. -/
def Sys2Proof.Machine.CompressAndExpandRun : Prop :=
  ∀ (s : State) (c : Ctx) (f : RForm) (w : Nat), s.ctx? = some c → c.readyR f none → w = shapeWidth (modOf f).toNat →
    (∃ r m, m = below w (c.opB f) (256 / w) ∧
      (∀ l, l < 256 / w → lane (c.opB f) w l ≠ 0 → lane r w (below w (c.opB f) l) = lane (c.opA f) w l) ∧
      (∀ l, m ≤ l → l < 256 / w → lane r w l = 0) ∧
      exec (.cmpr f) s = .next (c.fired s ((c.el.writeDst f.dst r).withPw f.pw (decide (0 < m)))
        (pushesOf f.dst { c.tok f.md [f.sa, f.sb] none r with coord := BitVec.ofNat 16 m }) f.pop
        (readMask [f.sa, f.sb]))) ∧
    ∃ r, (∀ l, l < 256 / w → lane r w l =
        if lane (c.opB f) w l = 0 then 0 else lane (c.opA f) w (below w (c.opB f) l)) ∧
      exec (.expnd f) s = .next (c.firedR s f ⟨r, lowNonzero r, none⟩)

/-- ARGMX, XTHR and SLOTS (R238, R244, R247): ARGMX folds the eight lanes of A into the record of B in ascending order;
bit 16f + j of XTHR says that feature f reaches threshold j; SLOTS reads the free places of the four outputs, then the
widest output and its places. -/
def Sys2Proof.Machine.MaximumThresholdsAndSpaceRun : Prop :=
  ∀ (s : State) (c : Ctx) (f : RForm), s.ctx? = some c →
    (c.readyR f (some 1) →
      exec (.argmx f) s = .next (c.firedR s f
        ⟨resArgmx (c.opA f) (c.opB f), (val32 (lane32 (resArgmx (c.opA f) (c.opB f)) 0)).isNaN, some 1⟩)) ∧
    (∀ fm, c.g.fmt? (c.el.img.ctags.get 0) = some fm → c.readyR f (some c.g.sliceTag) →
      ∃ r, (∀ n j, n < 16 → j < 16 → (r.getLsbD (16 * n + j) = true ↔
          let x := fm.value (lane (c.opA f) 16 n).toNat
          let t := fm.value (lane (c.el.img.consts.get (Fin.ofNat 16 n)) 16 j).toNat
          t.lt x = true ∨ t.eq x = true)) ∧
        exec (.xthr f) s = .next (c.firedR s f ⟨r, lowNonzero r, some c.g.sliceTag⟩)) ∧
    (c.readyR f none →
      ∃ r, (∀ o : Fin 4, lane32 r o.val = BitVec.ofNat 32 (c.g.freePlaces c.e o)) ∧
        (∀ o, c.g.widest? c.e = some o → lane32 r 4 = BitVec.ofNat 32 o.val ∧
          lane32 r 5 = BitVec.ofNat 32 (c.g.freePlaces c.e o)) ∧
        (∀ l, 6 ≤ l → lane32 r l = 0) ∧
        exec (.slots f) s = .next (c.firedR s f
          ⟨r, decide (0 < c.g.freePlaces c.e (Fin.ofNat 4 (modOf f).toNat)), none⟩))

/-- ISECT and ICNT (R234, R235): the pair's activity, and its four counters, which selector 1 clears after reading. That the last
COORD of each side stays while the pair is bypassed is log entry 121. -/
def Sys2Proof.Machine.IntersectionControlRuns : Prop :=
  ∀ (s : State) (c : Ctx), s.ctx? = some c →
    (∀ f : IForm,
      exec (.isect f) s = .next (c.fired s
        ({ c.el with pair := if f.imm.getLsbD 0 then { c.el.pair with active := true }
            else { c.el.pair with active := false, drain := none } }.withPw f.pw false) [] f.pop 0)) ∧
    ∀ (f : RForm) (r : Payload) (p : Pair),
      r = (if c.el.img.isect then ofWords [c.el.pair.disc0, c.el.pair.disc1, c.el.pair.matched, c.el.pair.drains] else 0) →
      p = (if modOf f = 1 then { c.el.pair with disc0 := 0, disc1 := 0, matched := 0, drains := 0 } else c.el.pair) →
      c.inSets (pushesOf f.dst (c.tok f.md [f.sa, f.sb] none r)) →
      exec (.icnt f) s = .next (c.fired s (({ c.el with pair := p }.writeDst f.dst r).withPw f.pw (lowNonzero r))
        (pushesOf f.dst (c.tok f.md [f.sa, f.sb] none r)) f.pop 0)

/-! ### Matrix elements -/

/-- MZERO, MSPLIT, MACCR, MACCW and MSTAT (R223, R226, R229, R231) on an M element, with a column group of at most 15.
The accumulators are a sparse map in its canonical form, which both MZERO and MACCW keep. -/
def Obligations.MatrixAccessRuns : Prop :=
  ∀ (s : State) (c : Ctx) (m : MSt), s.ctx? = some c → c.el.ks = .m m → swf 0 m.acc = true →
    (∀ f : IForm,
      (∃ m', swf 0 m'.acc = true ∧ (∀ r n, r < 64 → n < 128 →
            m'.col r n = if f.imm = 255 ∨ f.imm.toNat = r then 0 else m.col r n) ∧
          (∀ r, r < 64 → let hit := f.imm = 255 ∨ f.imm.toNat = r
            (m'.primed.getLsbD r = true ↔ ¬ hit ∧ m.primed.getLsbD r = true) ∧
            (m'.rowInt.getLsbD r = true ↔ ¬ hit ∧ m.rowInt.getLsbD r = true) ∧
            (m'.sticky.getLsbD r = true ↔ ¬ hit ∧ m.sticky.getLsbD r = true)) ∧
          m' = { m with acc := m'.acc, primed := m'.primed, rowInt := m'.rowInt, sticky := m'.sticky } ∧
          exec (.mzero f) s = .next (c.fired s ({ c.el with ks := .m m' }.withPw f.pw false) [] f.pop 0)) ∧
      exec (.msplit f) s = .next (c.fired s
        ({ c.el with ks := .m { m with half := f.imm.getLsbD 0 } }.withPw f.pw false) [] f.pop 0)) ∧
    (∀ (f : XForm) (r j : Nat), r = f.cnt.toNat % 64 →
      (j = (lane32 (c.src 0 f.sa) 0).toNat → j ≤ 15 → c.clean [f.sa] →
        ∀ v, (∀ i, i < 8 → lane32 v i = m.col r (8 * j + i)) →
          c.inSets (pushesOf f.dst (dataTok (m.rowTag r) false j v)) →
          exec (.maccr f) s = .next (c.fired s (c.el.writeDst f.dst v)
            (pushesOf f.dst (dataTok (m.rowTag r) false j v)) f.pop (readMask [f.sa]))) ∧
      (j = (lane32 (c.src 0 f.sb) 0).toNat → j ≤ 15 → c.clean [f.sa, f.sb] →
        ∃ m', swf 0 m'.acc = true ∧ (∀ i, i < 8 → m'.col r (8 * j + i) = lane32 (c.src 0 f.sa) i) ∧
          (∀ q n, ¬ (∃ i, i < 8 ∧ 128 * q + n = 128 * r + (8 * j + i)) → m'.col q n = m.col q n) ∧
          m' = { m with acc := m'.acc, primed := setRow m.primed r true
                        rowInt := setRow m.rowInt r ((c.srcTok? f.sa).any fun t => t.tag == 1) } ∧
          exec (.maccw f) s = .next (c.fired s { c.el with ks := .m m' } [] f.pop (readMask [f.sa, f.sb])))) ∧
    ∀ f : RForm, c.inSets (c.pushR f ⟨0, false, none⟩) →
      ∃ r : Payload, lane32 r 0 = m.sticky.extractLsb' 0 32 ∧ lane32 r 1 = m.sticky.extractLsb' 32 32 ∧
        ((lane32 r 2).getLsbD 0 = m.active ∧ (lane32 r 2).getLsbD 1 = (c.el.engine? .weights).isSome ∧
          (lane32 r 2).getLsbD 2 = (c.el.engine? .scales).isSome ∧ (lane32 r 2).getLsbD 3 = m.bank.split ∧
          (lane32 r 2).getLsbD 4 = m.idle.split ∧ (lane32 r 2).getLsbD 5 = m.bank.int ∧
          (lane32 r 2).getLsbD 6 = m.half) ∧
        lane32 r 3 = m.groupDiscard ∧ lane32 r 4 = m.aScale.setWidth 32 ∧ lane32 r 5 = m.primed.extractLsb' 0 32 ∧
        lane32 r 6 = m.primed.extractLsb' 32 32 ∧
        exec (.mstat f) s = .next (c.fired s
          (({ c.el with ks := .m (if modOf f = 1 then { m with sticky := 0 } else m) }.writeDst f.dst r).withPw f.pw
            (m.sticky != 0)) (c.pushR f ⟨r, false, none⟩) f.pop 0)

/-! ### Sliding windows -/

/-- SWCFG and SWPUSH (R232, R233): a width of 1 up to the ring's area empties the ring; a push appends an entry, the
oldest going when the ring is full. -/
def Sys2Proof.Machine.SlidingWindowRuns : Prop :=
  ∀ (s : State) (c : Ctx) (x : SSt) (f : RForm), s.ctx? = some c → c.el.ks = .s x → c.clean [f.sa] →
    (∀ w, w = (lane32 (c.opA f) 0).toNat → 1 ≤ w → w ≤ c.el.img.pword.toNat % 256 * 1024 / 32 →
      exec (.swcfg f) s = .next (c.fired s ({ c.el with ks := .s { x with ringW := w, ring := [] } }.withPw f.pw false) []
        f.pop (readMask [f.sa]))) ∧
    ∀ l, 1 ≤ x.ringW → x.ring.length ≤ x.ringW →
      l = (if x.ring.length = x.ringW then x.ring.drop 1 else x.ring) ++ [⟨c.opA f, c.tagOf f.md [f.sa]⟩] →
      exec (.swpush f) s = .next (c.fired s
        ({ c.el with ks := .s { x with ring := l } }.withPw f.pw (decide (l.length = x.ringW))) [] f.pop
        (readMask [f.sa]))

/-! ### Firings that take or push several tokens -/

namespace Sys2Proof.Machine

/-- The state in which a firing has issued and not completed (R67). -/
def Ctx.held (c : Ctx) (s : State) (el : Elem) (f : Firing) : State := c.put s { el with firing := some f }

/-- The state after a firing has pushed the first token of a list: complete after one token or none, else incomplete
with the rest to push (R67). -/
def Ctx.pushes (c : Ctx) (s : State) (i : Instr) (el : Elem) (q : List (Fin 4 × Token)) (pop read : BitVec 4) : State :=
  match q with
  | x :: y :: r =>
    s.setGraph c.r ((c.g.setElem c.e
      { el with firing := some { Firing.start c.slot i .push with q := y :: r } }).push c.e x.1 x.2)
  | _ => c.fired s { el with firing := none } q pop read

/-- A firing that owes the tokens `ts` to output `o` has pushed the first of them; where the output's edge does not take the tag
of some of them, it has raised FORMAT and pushed none (R71, R398; DEDUCED, log entry 112). -/
def PushesRun (s : State) (c : Ctx) (i : Instr) (o : Fin 4) (ts : List Token) (pop read : BitVec 4) : Prop :=
  (c.inSets (ts.map fun t => (o, t)) → exec i s = .next (c.pushes s i c.el (ts.map fun t => (o, t)) pop read)) ∧
    (¬ c.inSets (ts.map fun t => (o, t)) → exec i s = .next (s.raiseTrap c.r c.e c.slot 2 0))

/-- Token `j` of a list of `n` data tokens with a tag, COORD from `base` up, payload `v j`, and LAST on the last. -/
def SeriesOf (ts : List Token) (n : Nat) (tag : Nat → BitVec 3) (base : Nat) (v : Nat → Payload) : Prop :=
  ts.length = n ∧ ∀ j, j < n → ts[j]? = some ⟨tag j, .data, j + 1 == n, false, BitVec.ofNat 16 (base + j), v j⟩

end Sys2Proof.Machine

/-- MROW, MROWS, MCHAIN, MBIAS, WJOIN, XPOSE and LIN (R213): with a head as their stream operand they issue and take
their tokens one at a time; STREAM_TOKEN_TAKE takes each. -/
def Sys2Proof.Machine.StreamFiringsIssue : Prop :=
  ∀ (s : State) (c : Ctx) (f : XForm) (n : Fin 4) (o : Fin 4) (i : Instr), s.ctx? = some c → f.sa = .head n →
    ((∃ m, c.el.ks = .m m) ∧ (i = .mchain f ∨ i = .mbias f ∨ ∃ q, i = .mrow q f ∨ i = .mrows q f)) ∨ i = .wjoin f ∨
      (f.dst = .out o ∧ i = .xpose f) ∨ ((∃ x, c.el.ks = .l x) ∧ i = .lin f) →
    exec i s = .next (c.held s c.el (.start c.slot i .take))

/-- MGRP (R230): it takes its control token from SA; with a row to process it then takes tokens from SB, and with none
it pushes the end token at once. -/
def Sys2Proof.Machine.GroupedRowsIssue : Prop :=
  ∀ (s : State) (c : Ctx) (f : XForm) (m : MSt) (n k o : Fin 4) (t : Token), s.ctx? = some c → c.el.ks = .m m →
    f.sa = .head n → f.sb = .head k → f.dst = .out o → c.el.head? n = some t → t.poison = false → t.kind = .control →
    (t.coord ≠ 0 →
      exec (.mgrp f) s = .next (c.held s (c.el.takeHead s.cycle n)
        { Firing.start c.slot (.mgrp f) (if f.cnt = 0 then .skip else .take) with
            b := t.payload, g := t.coord.toNat, n := f.cnt.toNat })) ∧
    (t.coord = 0 →
      exec (.mgrp f) s = .next (c.fired s { c.el.takeHead s.cycle n with firing := none }
        [(o, ⟨0, .control, false, false, 0, 0⟩)] f.pop 0))

/-- WMAP and DRV (R268, R276, R277): they issue and stay incomplete, WMAP for its address words once its window is free
and its operand passes, DRV for DECLARATION_ACCEPT. -/
def Sys2Proof.Machine.BindingsIssue : Prop :=
  ∀ (s : State) (c : Ctx), s.ctx? = some c →
    (∀ (f : XForm) (x : SSt) (n : Fin 4) (win : Window), c.el.ks = .s x → f.sb = .head n → c.clean [f.sa] →
      x.mapWaits (winOf f.cnt) (c.src 0 f.sa) = false →
      x.mapCheck c.el.img.pword (winOf f.cnt) (c.src 0 f.sa) = some win →
      exec (.wmap f) s = .next (c.held s c.el { Firing.start c.slot (.wmap f) .take with a := c.src 0 f.sa })) ∧
    ∀ f : RForm, c.clean [f.sa, f.sb] →
      exec (.drv f) s = .next (c.held s c.el { Firing.start c.slot (.drv f) .wait with a := c.opA f, b := c.opB f })

/-- MLDB, MLDS, LTAB and LWIRE (R214, R221, R222, R240): each starts its engine, claims its input and completes; it
waits while its engine runs or the input is claimed. MLDS takes its count of tokens from the most recent MLDB. -/
def Obligations.LoadEnginesStart : Prop :=
  ∀ (s : State) (c : Ctx) (f : XForm) (n : Fin 4) (i : Instr) (k : EngKind) (ctx : Nat) (split : Bool) (ks : KindSt),
    s.ctx? = some c → f.sa = .head n →
    (∃ m, c.el.ks = .m m ∧
        (i = .mldb f ∧ k = .weights ∧ ctx = 0 ∧ split = f.cnt.getLsbD 0 ∧
            ks = .m ({ m with split := f.cnt.getLsbD 0 }.setIdle { Bank.empty with split := f.cnt.getLsbD 0 }) ∨
          i = .mlds f ∧ k = .scales ∧ ctx = 0 ∧ split = m.split ∧ ks = .m m)) ∨
      (∃ x, c.el.ks = .l x ∧ ctx = f.cnt.toNat % 8 ∧ split = false ∧ ks = .l x ∧
        (i = .ltab f ∧ k = .table ∨ i = .lwire f ∧ k = .wiring)) →
    (c.el.engine? k = none → (c.el.ins.get n).claimed = false →
      exec i s = .next (c.fired s (Elem.modInput { c.el with
        ks := ks, firing := none, engines := c.el.engines ++ [⟨k, c.slot, n, ctx, split, none, 0, false⟩] } n
          fun x => { x with claimed := true }) [] f.pop 0)) ∧
    ((c.el.engine? k).isSome ∨ (c.el.ins.get n).claimed = true →
      exec i s = .next (c.held s c.el (.start c.slot i .wait)))

/-- LEVAL (R241): with a valid context, no engine into it and a free unit, every cell reads the bit of its table that
its six pins select, all from the window and the outputs as they stood before. -/
def Sys2Proof.Machine.LookupPassRuns : Prop :=
  ∀ (s : State) (c : Ctx) (f : XForm) (x : LSt) (k : Nat), s.ctx? = some c → c.el.ks = .l x → k = f.cnt.toNat % 8 →
    c.el.engineInto .table k = false → c.el.engineInto .wiring k = false → x.unitFree s.cycle = true →
    x.invalid.getLsbD k = false →
    ∃ p, (∀ i n, i < 1024 → n < 256 →
        (sget 0 p i).getLsbD n = (sget 0 x.tables (1024 * k + i)).getLsbD
          ((List.range 6).map fun j =>
            if (x.source (sget 0 x.wires (6 * (1024 * k + i) + j)).toNat).getLsbD n then 2 ^ j else 0).sum) ∧
      exec (.leval f) s = .next (c.fired s { c.el with
        ks := .l { x with p := p, ctx := Fin.ofNat 8 k, passAt := some s.cycle }, firing := none } [] f.pop 0)

/-- MOUT and MOUTQ (R227, R228): sixteen tokens of eight columns each, or the eight tokens of the quantised row. -/
def Sys2Proof.Machine.RowOutputsRun : Prop :=
  ∀ (s : State) (c : Ctx) (f : XForm) (m : MSt) (o : Fin 4) (r : Nat), s.ctx? = some c → c.el.ks = .m m →
    f.dst = .out o → r = f.cnt.toNat % 64 →
    (∃ ts v, (∀ j i, j < 16 → i < 8 → lane32 (v j) i = m.col r (8 * j + i)) ∧
      SeriesOf ts 16 (fun _ => if m.rowInt.getLsbD r then 1 else 0) 0 v ∧ PushesRun s c (.mout f) o ts f.pop 0) ∧
    ∀ tag t mode, c.clean [f.sa] → moutqTarget? c.g (c.src 0 f.sa) = some (tag, t, mode) →
      PushesRun s c (.moutq f) o (m.quantTokens r tag t (c.rmode s mode)) f.pop (readMask [f.sa])

/-- WSPLIT and SWEMIT (R233, R237): the pieces of A in ascending order, and the oldest entries of the ring. -/
def Sys2Proof.Machine.TileOutputsRun : Prop :=
  ∀ (s : State) (c : Ctx) (f : XForm) (o : Fin 4), s.ctx? = some c → f.dst = .out o →
    (∀ p, p = (match f.cnt.toNat % 4 with
        | 0 => 4
        | 1 => 8
        | _ => 16) → c.clean [f.sa] →
      ∃ ts : List Token, ts.length = 32 / p ∧
        (∀ j, j < 32 / p → ∃ v : Payload,
          ts[j]? = some ⟨c.tagOf 0 [f.sa], .data, (c.sideOf [f.sa]).1 && j + 1 == 32 / p, false, BitVec.ofNat 16 j, v⟩ ∧
            (∀ b, b < p → byteOf v b = byteOf (c.src 0 f.sa) (p * j + b)) ∧ ∀ b, p ≤ b → b < 32 → byteOf v b = 0) ∧
        PushesRun s c (.wsplit f) o ts f.pop (readMask [f.sa])) ∧
    ∀ x n, c.el.ks = .s x → n = min f.cnt.toNat x.ring.length →
      ∃ ts, SeriesOf ts n (fun j => (x.ring.getD j default).tag) 0 (fun j => (x.ring.getD j default).payload) ∧
        PushesRun s c (.swemit f) o ts f.pop 0

/-- LEMIT, LPOP and LUNX (R243, R245) on an L element, with their operands in range. -/
def Sys2Proof.Machine.LookupOutputsRun : Prop :=
  ∀ (s : State) (c : Ctx) (f : XForm) (x : LSt) (o : Fin 4) (a g : Nat), s.ctx? = some c → c.el.ks = .l x →
    f.dst = .out o → c.clean [f.sa] → a = (lane32 (c.src 0 f.sa) 0).toNat → g = (lane32 (c.src 0 f.sa) 1).toNat →
    (a + f.cnt.toNat ≤ 1024 →
      ∃ ts, SeriesOf ts f.cnt.toNat (fun _ => c.g.sliceTag) a (fun j => sget 0 x.p (a + j)) ∧
        PushesRun s c (.lemit f) o ts f.pop (readMask [f.sa])) ∧
    (1 ≤ g → a + g ≤ 1024 →
      ∃ ts v, SeriesOf ts 16 (fun _ => c.g.int16Tag) 0 v ∧
        (∀ j m, j < 16 → m < 16 → lane (v j) 16 m =
          BitVec.ofNat 16 ((List.range g).filter fun i => (sget 0 x.p (a + i)).getLsbD (16 * j + m)).length) ∧
        PushesRun s c (.lpop f) o ts f.pop (readMask [f.sa])) ∧
    (a ≤ 768 →
      ∃ ts v, SeriesOf ts 256 (fun _ => c.g.sliceTag) 0 v ∧
        (∀ j n, j < 256 → n < 256 → (v j).getLsbD n = (sget 0 x.p (a + n)).getLsbD j) ∧
        PushesRun s c (.lunx f) o ts f.pop (readMask [f.sa]))

/-- LCTX (R245, R360): whether the context is ready, loading tables, loading wiring, invalid. -/
def Sys2Proof.Machine.ContextStatusRuns : Prop :=
  ∀ (s : State) (c : Ctx) (f : IForm) (x : LSt) (k : Nat), s.ctx? = some c → c.el.ks = .l x → k = f.imm.toNat % 8 →
    c.inSets (pushesOf f.dst (c.tok 0 [] none 0)) →
    ∃ (r : Payload) (ready : Bool),
      (ready = true ↔ x.invalid.getLsbD k = false ∧ c.el.engineInto .table k = false ∧ c.el.engineInto .wiring k = false) ∧
      r.getLsbD 0 = ready ∧ r.getLsbD 1 = c.el.engineInto .table k ∧ r.getLsbD 2 = c.el.engineInto .wiring k ∧
      r.getLsbD 3 = x.invalid.getLsbD k ∧ (∀ n, 4 ≤ n → r.getLsbD n = false) ∧
      exec (.lctx f) s = .next (c.fired s ((c.el.writeDst f.dst r).withPw f.pw ready)
        (pushesOf f.dst (c.tok 0 [] none r)) f.pop 0)

/-! ### Steering -/

/-- STEER (R246): the head goes unchanged to the chosen output, or is dropped and counted. -/
def Sys2Proof.Machine.SteerRoutes : Prop :=
  ∀ (s : State) (c : Ctx) (f : RForm) (t : Token) (md v : Nat) (o : Option (Fin 4)), s.ctx? = some c →
    c.srcTok? f.sa = some t → c.poisoned f.sb = false → md = (modOf f).toNat → md ≤ 3 →
    (t.poison = true → md = 1 ∨ md = 2) → v = (lane32 t.payload 0).toNat →
    (md = 0 → o = if v ≤ 3 ∧ (c.g.edge? c.e (Fin.ofNat 4 v)).isSome then some (Fin.ofNat 4 v) else none) →
    (md = 2 → o = c.g.widest? c.e) →
    (∀ m : Byte, (md = 1 ∧ m = byteOf (c.opB f) t.tag.toNat) ∨ (md = 3 ∧ v < 32 ∧ m = byteOf (c.opB f) v) →
      o = if m.toNat < 128 ∧ (c.g.edge? c.e (Fin.ofNat 4 (m.toNat % 4))).isSome then some (Fin.ofNat 4 (m.toNat % 4))
        else none) →
    (md = 3 → 32 ≤ v → o = none) →
    (∀ k, o = some k → c.inSets [(k, t)] →
      exec (.steer f) s = .next (c.fired s (c.el.withPw f.pw true) [(k, t)] f.pop (readMask [f.sa, f.sb]))) ∧
    (o = none →
      exec (.steer f) s = .next (c.fired s ((c.el.perfInc 8).withPw f.pw false) [] f.pop (readMask [f.sb])))

/-- MERGE (R249): of the present heads that POP names, the earliest at its head goes on unchanged, the lowest index at a
tie, and only its input is popped. -/
def Sys2Proof.Machine.MergeTakesEarliest : Prop :=
  ∀ (s : State) (c : Ctx) (f : RForm) (i : Fin 4) (t : Token), s.ctx? = some c → c.el.head? i = some t →
    (∀ j : Fin 4, f.pop.getLsbD j.val = true → c.el.present j = true → (c.el.ins.get j).claimed = false →
      (c.el.ins.get i).headAt < (c.el.ins.get j).headAt ∨
        ((c.el.ins.get i).headAt = (c.el.ins.get j).headAt ∧ i ≤ j)) →
    f.pop.getLsbD i.val = true → c.el.present i = true → (c.el.ins.get i).claimed = false → c.inSets (pushesOf f.dst t) →
    exec (.merge f) s = .next (c.fired s (c.el.withPw f.pw (lowNonzero t.payload)) (pushesOf f.dst t)
      (BitVec.ofNat 4 (2 ^ i.val)) (BitVec.ofNat 4 (2 ^ i.val)))

/-- SEQNO (R248): the counter that IMM selects goes into COORD and counts; all else of a head is kept. -/
def Sys2Proof.Machine.SequenceNumbersStamp : Prop :=
  ∀ (s : State) (c : Ctx) (f : IForm) (x : XSt) (k : Fin 4) (t : Token), s.ctx? = some c → c.el.ks = .x x →
    k = Fin.ofNat 4 (f.imm.toNat % 4) →
    t = (match c.srcTok? f.sa with
      | some h => { h with coord := x.seqC.get k }
      | none => { c.tok 0 [f.sa] none (c.src 0 f.sa) with coord := x.seqC.get k }) →
    c.inSets (pushesOf f.dst t) →
    exec (.seqno f) s = .next (c.fired s
      (({ c.el with ks := .x { x with seqC := x.seqC.set k (x.seqC.get k + 1) } }.writeDst f.dst (c.src 0 f.sa)).withPw
        f.pw (lowNonzero (c.src 0 f.sa))) (pushesOf f.dst t) f.pop (readMask [f.sa]))

/-- REORD and RELS (R250 to R252): a token goes to the place of its number's distance, a control token marks a gap, a
number behind raises SEQ; RELS releases the token at place 0 and moves the buffer on. -/
def Obligations.ReorderBuffersRun : Prop :=
  ∀ (s : State) (c : Ctx) (f : XForm) (x : XSt) (k : Fin 8), s.ctx? = some c → c.el.ks = .x x →
    k = Fin.ofNat 8 (f.cnt.toNat % 8) →
    (∀ t d, c.srcTok? f.sa = some t → d = (t.coord - (x.bufs.get k).next).toNat →
      (t.kind ≠ .control → d < 64 → sget .free (x.bufs.get k).cells d = .free →
        exec (.reord f) s = .next (c.fired s { c.el with ks := .x { x with
          bufs := x.bufs.set k { x.bufs.get k with cells := sset .free (x.bufs.get k).cells d (.tok t) } } } [] f.pop
          (readMask [f.sa]))) ∧
      (∀ n, t.kind = .control → t.poison = false → n = max (lane32 t.payload 0).toNat 1 → d + n ≤ 64 →
        (∀ i, i < n → sget .free (x.bufs.get k).cells (d + i) = .free) →
        exec (.reord f) s = .next (c.fired s { c.el with ks := .x { x with
          bufs := x.bufs.set k { x.bufs.get k with
            cells := ssetMany .free (x.bufs.get k).cells d (List.replicate n .gap) } } } [] f.pop (readMask [f.sa]))) ∧
      (32768 ≤ d → (t.kind = .control → t.poison = false) →
        exec (.reord f) s = .next (s.raiseTrap c.r c.e c.slot 7 0))) ∧
    ∀ b q, RBuf.release 65 (x.bufs.get k) = (b, q) →
      (∀ t, sget .free (x.bufs.get k).cells 0 = .tok t → b = (x.bufs.get k).shift ∧ q = some t) ∧
      (sget .free (x.bufs.get k).cells 0 ≠ .free → c.inSets ((q.map (pushesOf f.dst)).getD []) →
        exec (.rels f) s = .next (c.fired s { c.el with ks := .x { x with bufs := x.bufs.set k b } }
          ((q.map (pushesOf f.dst)).getD []) f.pop 0))

/-! ### Memory, synchronisation, links and system -/

namespace Sys2Proof.Machine

/-- The state after the issue of an asynchronous firing (R258, R259): the predicates of PW take 0, the pops are made,
the memory sequence number advances, the firing is outstanding and its accesses join the issue queue. -/
def Ctx.issued (c : Ctx) (s : State) (srcs : List Src) (el : Elem) (pop pw : BitVec 4) (outs : List OutF)
    (accs : List Access) : State :=
  let e := ((el.withPw pw false).popAll s.cycle pop (readMask srcs)).completed c.slot
  { c.put s { e with seq := e.seq + 1, outs := e.outs ++ outs, issueQ := e.issueQ ++ accs, firing := none } with
      nextId := s.nextId + 1 + accs.length }

/-- The state after a firing of this chapter that completes at issue (R259). -/
def Ctx.memDone (c : Ctx) (s : State) (el : Elem) (pushes : List (Fin 4 × Token)) (pop read : BitVec 4) : State :=
  c.fired s { el with seq := el.seq + 1, firing := none } pushes pop read

/-- The outstanding firing of a slot under the next identifier. -/
def Ctx.out (c : Ctx) (s : State) (opc : Nat) : OutF := OutF.new s.nextId c.slot opc c.el.seq

/-- The outstanding firing whose token is ready, where the destination is an output. -/
def Ctx.readyOut (c : Ctx) (s : State) (opc : Nat) (dst : Dst) (t : Token) : List OutF :=
  match dst with
  | .out o => [{ c.out s opc with dst := some o, data := [t], ready := true }]
  | _ => []

/-- A control token of this chapter: LAST as R143 copies it. -/
def Ctx.control (c : Ctx) (srcs : List Src) (coord : BitVec 16) (v : Payload) : Token :=
  ⟨0, .control, (c.sideOf srcs).1, false, coord, v⟩

end Sys2Proof.Machine

/-- LD and ST (R256, R258, R265): with an address word that passes the port checks each issues one access; LD owes its
output a data token of the tag that CNT names, and raises FORMAT where its edge's set lacks the tag (R71). That it raises it
at issue, before the access is formed, is log entry 112. -/
def Sys2Proof.Machine.LoadsAndStoresIssue : Prop :=
  ∀ (s : State) (c : Ctx) (f : XForm) (w : AddrWord), s.ctx? = some c → addrCheck (c.src 0 f.sa) = .ok w →
    (∀ o t, f.dst = .out o → c.clean [f.sa] →
      t = ⟨f.cnt.extractLsb' 0 3, .data, (c.sideOf [f.sa]).1, false, (c.sideOf [f.sa]).2, 0⟩ →
      (c.inSets [(o, t)] →
        exec (.ld f) s = .next (c.issued s [f.sa] c.el f.pop 0
          [{ c.out s 0xD0 with
              va := BitVec.ofNat 64 w.va, cls := 1, dst := some o, cmp := cmpOf f.cnt, hd := some t }]
          [c.access s.nextId s.nextId 0xD0 .load w 0])) ∧
      (¬ c.inSets [(o, t)] → exec (.ld f) s = .next (s.raiseTrap c.r c.e c.slot 2 0))) ∧
    (c.clean [f.sa, f.sb] →
      exec (.st f) s = .next (c.issued s [f.sa, f.sb] c.el f.pop 0
        [{ c.out s 0xD1 with va := BitVec.ofNat 64 w.va, cmp := cmpOf f.cnt }]
        [c.access s.nextId s.nextId 0xD1 .store w (c.src 0 f.sb)]))

/-- The port checks of R256 on an address word, in their order: reserved values PARAM, alignment ALIGN, the limit ADDR.
LD traps with the first that fails. -/
def Obligations.PortChecksInOrder : Prop :=
  ∀ (s : State) (c : Ctx) (f : XForm) (o : Fin 4) (a : Payload) (attr pa limit n page : Nat), s.ctx? = some c →
    f.dst = .out o → c.clean [f.sa] → a = c.src 0 f.sa → attr = (lane32 a 4).toNat → pa = pair64 a 0 → limit = pair64 a 2 →
    (6 ≤ (lane32 a 5).toNat ∨ 96 ≤ attr ∨ attr / 2 % 4 = 3 → exec (.ld f) s = .next (s.raiseTrap c.r c.e c.slot 6 0)) ∧
    ((lane32 a 5).toNat ≤ 5 → attr < 96 → attr / 2 % 4 ≠ 3 → n = 32 / 2 ^ (lane32 a 5).toNat →
      page = (if attr < 32 then 2 ^ 16 else if attr < 64 then 2 ^ 21 else 2 ^ 30) →
      (pa % n ≠ 0 → exec (.ld f) s = .next (s.raiseTrap c.r c.e c.slot 8 0)) ∧
      (pa % n = 0 → limit < pa + n ∨ pa + page < limit →
        exec (.ld f) s = .next (s.raiseTrap c.r c.e c.slot 9 0)) ∧
      (pa % n = 0 → pa + n ≤ limit → limit ≤ pa + page →
        addrCheck a = .ok ⟨pa, limit, pair64 a 6, n, page, attr / 2 % 4⟩))

/-- AADD, AMAX, AMIN, AXCHG, ACAS, AOR and AAND (R271, R272, R274): outside a group each issues one access with the format
that CNT names, and raises FORMAT instead where its edge's set lacks the tag (R71); inside one, those that may update a
group issue a numbered update. That FORMAT comes at issue, before the access is formed, is log entry 112. -/
def Sys2Proof.Machine.AtomicsIssue : Prop :=
  ∀ (s : State) (c : Ctx) (f : XForm) (i : Instr) (opc max : Nat) (w : AddrWord) (fmt : Word), s.ctx? = some c →
    c.clean [f.sa, f.sb] → fmt = c.g.record (f.cnt.extractLsb' 0 3) →
    (i, opc, max) ∈ [(.aadd f, 0xD8, 32), (.amax f, 0xD9, 32), (.amin f, 0xDA, 32), (.axchg f, 0xDB, 32),
      (.acas f, 0xDC, 16), (.aor f, 0xDD, 32), (.aand f, 0xDE, 32)] →
    addrCheck (c.src 0 f.sa) = .ok w → 4 ≤ w.size → w.size ≤ max →
    (∀ t, c.el.issuer = none → t = ⟨f.cnt.extractLsb' 0 3, .data, (c.sideOf [f.sa]).1, false, (c.sideOf [f.sa]).2, 0⟩ →
      (c.inSets (pushesOf f.dst t) →
        exec i s = .next (c.issued s [f.sa, f.sb] c.el f.pop 0
          [{ c.out s opc with
              va := BitVec.ofNat 64 w.va, cls := 1, cmp := cmpOf f.cnt
              dst := match f.dst with
                | .out o => some o
                | _ => none
              hd := some t }]
          [c.access s.nextId s.nextId opc (.atomic opc fmt) w (c.src 0 f.sb)])) ∧
      (¬ c.inSets (pushesOf f.dst t) → exec i s = .next (s.raiseTrap c.r c.e c.slot 2 0))) ∧
    ∀ q, c.el.issuer = some q → opc ≠ 0xDB → opc ≠ 0xDC → (∀ o, f.dst ≠ .out o) →
      exec i s = .next (c.issued s [f.sa, f.sb] { c.el with issuer := some { q with useq := q.useq + 1 } } f.pop 0
        [{ c.out s opc with va := BitVec.ofNat 64 w.va, cmp := cmpOf f.cnt }]
        [c.access s.nextId s.nextId opc (.update opc fmt q.group q.issuer q.useq) w (c.src 0 f.sb)])

/-- ADET and ACLOSE (R273, R275): the first issuer creates the group, a later one that names the same size and counter
joins it, and ACLOSE sends the issuer's close. -/
def Obligations.DeterministicGroupsOpenAndClose : Prop :=
  ∀ (s : State) (c : Ctx), s.ctx? = some c →
    (∀ (f : RForm) (g i m k : Nat), c.clean [f.sa] → c.el.issuer = none → g = (lane32 (c.opA f) 0).toNat →
      i = (lane32 (c.opA f) 1).toNat → m = (lane32 (c.opA f) 2).toNat → k = (lane32 (c.opA f) 3).toNat →
      g ≤ 255 → i < m → m ≤ 1024 → s.holdsCounter c.reg.ctx k = true →
      (s.mem.group? c.reg.ctx g = none →
        exec (.adet f) s = .next (c.memDone { s with mem := { s.mem with groups := s.mem.groups ++ [⟨c.reg.ctx, g, m, k, [i], []⟩] } }
          ({ c.el with issuer := some ⟨g, i, 0⟩ }.withPw f.pw false) [] f.pop (readMask [f.sa]))) ∧
      ∀ x, s.mem.group? c.reg.ctx g = some x → x.m = m → x.counter = k → x.opened.contains i = false →
        exec (.adet f) s = .next (c.memDone
          { s with mem := s.mem.modGroup c.reg.ctx g fun y => { y with opened := y.opened ++ [i] } }
          ({ c.el with issuer := some ⟨g, i, 0⟩ }.withPw f.pw false) [] f.pop (readMask [f.sa]))) ∧
    ∀ (f : XForm) (q : Issuer), c.el.issuer = some q →
      exec (.aclose f) s = .next (c.issued s [] { c.el with issuer := none } f.pop 0
        [{ c.out s 0xE0 with cmp := cmpOf f.cnt }]
        [{ c.access s.nextId s.nextId 0xE0 (.close q.group q.issuer) ⟨0, 0, 0, 0, 0, 0⟩ 0 with cost := 0 }])

/-- LDW and STW (R260, R269): with an operand that passes the checks, a load of a word that is invalid and a narrow store to
one send a fill of its line. Else the access waits, with none of its own, behind an earlier one of the element to those words
that waits (R260), and with none the load has its token ready at once, or the store writes the window, which performs it. That
a narrow or a late store writes in one step, and what it does to write-backs under way, are log entries 28 and 85. -/
def Sys2Proof.Machine.WindowAccessesIssue : Prop :=
  ∀ (s : State) (c : Ctx) (f : XForm) (x : SSt) (w : Fin 8) (off n : Nat) (win : Window) (busy : Bool) (out : OutF)
    (t : State), s.ctx? = some c → c.el.ks = .s x → win = x.windows.get w → busy = c.el.wordsBusy (wordsOf off n) →
    t = { s with mem := { s.mem with performs := s.mem.performs + 1 } } →
    (∀ o, f.dst = .out o → c.clean [f.sa] → x.windowCheck (c.src 0 f.sa) false = .ok (w, off, n) →
      c.inSets [(o, c.loadTok f.cnt f.sa)] →
      out = { c.out s 0xD2 with
        va := BitVec.ofNat 64 (win.vaAt off), cls := 1, dst := some o, cmp := cmpOf f.cnt
        hd := some (c.loadTok f.cnt f.sa), arg := c.src 0 f.sa } →
      (x.anyInvalid off n = true →
        exec (.ldw f) s = .next (c.issued s [f.sa] c.el f.pop 0 [out] (c.fillAcc s.nextId s.nextId 0xD2 x win w off))) ∧
      (x.anyInvalid off n = false → busy = true →
        exec (.ldw f) s = .next (c.issued s [f.sa] c.el f.pop 0 [out] [])) ∧
      (x.anyInvalid off n = false → busy = false →
        exec (.ldw f) s = .next (c.issued t [f.sa]
          { c.el with dues := c.el.dues ++
              (out.cmp.map fun k => [⟨s.nextId, k, cmpTok c.el.seq out.va 0xD2 0, s.mem.performs⟩]).getD [] } f.pop 0
          [{ out with data := [x.loadTok (c.loadTok f.cnt f.sa) off n], ready := true }] []))) ∧
    (c.clean [f.sa, f.sb] → x.windowCheck (c.src 0 f.sa) true = .ok (w, off, n) →
      out = { c.out s 0xD3 with
        va := BitVec.ofNat 64 (win.vaAt off), cmp := cmpOf f.cnt, arg := c.src 0 f.sa, arg2 := c.src 0 f.sb } →
      (n < 4 → x.anyInvalid off n = true →
        exec (.stw f) s = .next (c.issued s [f.sa, f.sb] c.el f.pop 0 [out]
          (c.fillAcc s.nextId s.nextId 0xD3 x win w off))) ∧
      (¬ (n < 4 ∧ x.anyInvalid off n = true) → busy = true →
        exec (.stw f) s = .next (c.issued s [f.sa, f.sb] c.el f.pop 0 [out] [])) ∧
      (¬ (n < 4 ∧ x.anyInvalid off n = true) → busy = false →
        ∀ (fix : Access → Access) (el : Elem) (u : State),
          fix = restored (wordsOf off n) c.e c.reg.launch win w.val s.nextId →
          el = { c.el with
            ks := .s (x.storeWords s.nextId off (toBytes (c.src 0 f.sb) n)), issueQ := c.el.issueQ.map fix
            dues := c.el.dues ++
              (out.cmp.map fun k => [⟨s.nextId, k, cmpTok c.el.seq out.va 0xD3 0, s.mem.performs⟩]).getD [] } →
          u = (c.put { t with nextId := s.nextId + 2, mem := { t.mem with reqs := t.mem.reqs.map fix } } el).storeMasks c
              (s.nextId + 1) s.nextId win w off n →
          exec (.stw f) s = .next (((u.at? c.r c.e c.slot).map fun d =>
            d.issued u [f.sa, f.sb] d.el f.pop 0 (if out.cmp.isSome then [{ out with ready := true }] else []) []).getD u)))

/-- WSYNC, WINV and WCLOSE (R270) on a mapped window that is not closing: WSYNC and WCLOSE send one store for each dirty
word, WINV drops the clean words, and WCLOSE unmaps the window for every later check. That a WINV lets the window's fills of
derived words under way start anew is log entry 133. That the VA of their completion tokens
is the window's, where R259 gives 0 to an access with none, is log entry 91; which words WSYNC and WCLOSE write back that an
earlier store has yet to write is log entry 85. -/
def Sys2Proof.Machine.WindowMaintenanceIssues : Prop :=
  ∀ (s : State) (c : Ctx) (f : XForm) (x : SSt) (w : Fin 8) (win : Window) (out : Nat → OutF), s.ctx? = some c →
    c.el.ks = .s x → w = Fin.ofNat 8 (f.cnt.toNat % 8) → win = x.windows.get w → win.mapped = true →
    win.closing = false →
    out = (fun opc => { c.out s opc with
      va := BitVec.ofNat 64 win.va, level := f.cnt.toNat / 8 % 8, arg := BitVec.ofNat 256 w.val
      cmp := match f.dst with
        | .out o => some o
        | _ => none }) →
    exec (.wsync f) s = .next (c.issued s [] c.el f.pop 0 [out 0xD5] (c.wbacks s.nextId 0xD5 x w)) ∧
    exec (.wclose f) s = .next (c.issued s []
      { c.el with ks := .s { x with windows := x.windows.set w { win with closing := true } } } f.pop 0 [out 0xD7]
      (c.wbacks s.nextId 0xD7 x w)) ∧
    ∀ (keep : Nat → Bool) (again : Access → Access),
      keep = (fun k => x.dirty.contains k || decide (4 * k < win.off) || decide (win.off + win.len ≤ 4 * k)) →
      (∀ a off mask, a.kind = .fill w.val off mask → a.r = c.r → a.e = c.e → a.gen = c.reg.gen →
        again a = { a with prog := .start }) →
      (∀ a, ¬ ((∃ off mask, a.kind = .fill w.val off mask) ∧ a.r = c.r ∧ a.e = c.e ∧ a.gen = c.reg.gen) → again a = a) →
      exec (.winv f) s = .next (c.issued { s with mem := { s.mem with
          performs := s.mem.performs + 1, reqs := s.mem.reqs.map again } } []
        { c.el with
          ks := .s { x with valid := x.valid.filter keep, poison := x.poison.filter keep }
          dues := c.el.dues ++ ((out 0xD6).cmp.map fun k =>
            [⟨s.nextId, k, cmpTok c.el.seq (BitVec.ofNat 64 win.va) 0xD6 0, s.mem.performs⟩]).getD [] } f.pop 0
        (if (out 0xD6).cmp.isSome then [{ out 0xD6 with ready := true }] else []) [])

/-- DRVX and DRVQ (R71, R278, R351): the status of a withdrawal and of a query; a result whose tag its edge does not take
raises FORMAT, and nothing is withdrawn. -/
def Sys2Proof.Machine.DerivationQueriesRun : Prop :=
  ∀ (s : State) (c : Ctx) (f : RForm) (h : Nat), s.ctx? = some c → c.clean [f.sa] → h = (lane32 (c.opA f) 0).toNat →
    (¬ c.inSets (pushesOf f.dst (c.tok f.md [f.sa] none 0)) →
      exec (.drvx f) s = .next (s.raiseTrap c.r c.e c.slot 2 0) ∧
      exec (.drvq f) s = .next (s.raiseTrap c.r c.e c.slot 2 0)) ∧
    (c.inSets (pushesOf f.dst (c.tok f.md [f.sa] none 0)) →
    (∀ st ctr r, ctr = counterOf (lane32 (c.opA f) 1) →
      st = (if s.lacksCounter c.reg.ctx ctr then 6 else if (s.declOf? c.reg.ctx h).isNone then 7 else 0) →
      r = drvRes h st →
      exec (.drvx f) s = .next (c.memDone (if st = 0 then s.modDecl h fun d => { d with withdraw := some ctr } else s)
        ((c.el.writeDst f.dst r).withPw f.pw (decide (st ≠ 0))) (pushesOf f.dst (c.tok f.md [f.sa] none r)) f.pop
        (readMask [f.sa]))) ∧
    ∃ r, r = drvqRes (s.declOf? c.reg.ctx h) ∧
      exec (.drvq f) s = .next (c.memDone s ((c.el.writeDst f.dst r).withPw f.pw (lowNonzero r))
        (pushesOf f.dst (c.tok f.md [f.sa] none r)) f.pop (readMask [f.sa])))

/-- AGEN and AGSTR (R279 to R281): AGEN writes one word of the descriptor of a stream that does not run; AGSTR starts the
stream with index 0 where its descriptor passes. -/
def Sys2Proof.Machine.AddressStreamsStart : Prop :=
  ∀ (s : State) (c : Ctx) (x : ESt), s.ctx? = some c → c.el.ks = .e x →
    (∀ (f : RForm) (st w : Nat), c.clean [f.sa, f.sb] → st < 8 → w < 8 → (c.opB f).toNat = st + 16 * w →
      x.runs st = false →
      exec (.agen f) s = .next (c.memDone s
        ({ c.el with ks := .e { x with agen := sset 0 x.agen (8 * st + w) (c.opA f) } }.withPw f.pw false) [] f.pop
        (readMask [f.sa, f.sb]))) ∧
    ∀ (f : XForm) (st : Nat) (o : Fin 4) (input : Option (Fin 4)) (held : Bool), st = f.cnt.toNat % 8 → f.dst = .out o →
      input = headOf? f.sa → x.runs st = false → (∀ i, input = some i → (c.el.ins.get i).claimed = false) →
      held = ((counterOf (x.streamCounter st)).map (s.holdsCounter c.reg.ctx)).getD true →
      x.descOk st held = true → (x.mode st = 3 ↔ input.isSome = true) →
      ∀ el, el = { c.el with ks := .e { x with
        streams := x.streams ++ [⟨s.nextId, st, c.slot, some o, input, 0, 0, false, none⟩] } } →
      exec (.agstr f) s = .next (c.memDone { s with nextId := s.nextId + 1 }
        ((input.map fun i => el.modInput i fun n => { n with claimed := true }).getD el) [] f.pop 0)

/-- PARK and UNPARK (R282): a channel is a queue over its storage and then its spill pool; the token keeps all of its
sideband, the other channels stay as they were, and a full channel and pool raise SPILL. -/
def Obligations.ParkingQueuesTokens : Prop :=
  ∀ (s : State) (c : Ctx) (f : XForm) (n : Nat) (x : Chan), s.ctx? = some c → n = f.cnt.toNat → x = c.g.chan n →
    (∀ t, t = (c.srcTok? f.sa).getD (c.tok 0 [f.sa] none (c.src 0 f.sa)) →
      ((x.spill = [] ∧ x.store.length < x.cap) ∨ c.g.spilled < c.g.spillCap →
        ∃ g, (g.chan n).store ++ (g.chan n).spill = x.store ++ x.spill ++ [t] ∧ (g.chan n).cap = x.cap ∧
          (∀ k, k ≠ n → g.chan k = c.g.chan k) ∧ g = { c.g with chans := g.chans } ∧
          exec (.park f) s = .next (({ c with g := g } : Ctx).memDone s c.el [] f.pop (readMask [f.sa]))) ∧
      (¬ (x.spill = [] ∧ x.store.length < x.cap) → c.g.spillCap ≤ c.g.spilled →
        exec (.park f) s = .next (s.raiseTrap c.r c.e c.slot 12 0))) ∧
    ∀ t r, x.store ++ x.spill = t :: r → c.inSets (pushesOf f.dst t) →
      ∃ g, (g.chan n).store ++ (g.chan n).spill = r ∧ (g.chan n).cap = x.cap ∧ (∀ k, k ≠ n → g.chan k = c.g.chan k) ∧
        g = { c.g with chans := g.chans } ∧
        exec (.unpark f) s = .next (({ c with g := g } : Ctx).memDone s c.el (pushesOf f.dst t) f.pop 0)

/-- XLAT and XINV (R283): a VA of 2^56 or more fails with code 3, a hit has its token at once and its page is accessed, a
miss waits for the walker; a hit whose address word its edge does not take raises FORMAT (R71); XINV, which R258 lists among
the asynchronous instructions, is outstanding with its operand until its reply. That the FORMAT of a hit comes at issue is log
entry 112; that XINV's entries go with its reply is log entry 31; that a hit sets the accessed bits is log entry 62. -/
def Obligations.TranslationIssues : Prop :=
  ∀ (s : State) (c : Ctx) (f : RForm) (x : ESt) (va : Nat), s.ctx? = some c → c.el.ks = .e x → c.clean [f.sa] →
    va = pair64 (c.opA f) 0 →
    (∀ (o : Fin 4) (intent last : Bool) (coord : BitVec 16) (out : State → OutF), f.dst = .out o →
      (lane32 (c.opA f) 2).toNat ≤ 1 → intent = decide ((lane32 (c.opA f) 2).toNat = 1) → (last, coord) = c.sideOf [f.sa] →
      out = (fun u => { c.out u 0xE8 with
        va := BitVec.ofNat 64 va, cls := 2, dst := some o, arg := c.opA f, hd := some ⟨1, .data, last, false, coord, 0⟩ }) →
      (2 ^ 56 ≤ va → exec (.xlat f) s = .next (c.issued s [f.sa] c.el f.pop f.pw
        [{ out s with data := [faultTok 3 va intent last coord], ready := true }] [])) ∧
      (∀ t tok u, va < 2 ^ 56 → x.tlbHit? c.reg.ctx va = some t →
        tok = xlatTok (leafResult t.leaf va intent) va intent last coord → u = s.touchTlb t va →
        (c.inSets [(o, tok)] → exec (.xlat f) s = .next (c.issued u [f.sa] c.el f.pop f.pw
          [{ out u with data := [tok], ready := true }] [])) ∧
        (¬ c.inSets [(o, tok)] → exec (.xlat f) s = .next (s.raiseTrap c.r c.e c.slot 2 0))) ∧
      (va < 2 ^ 56 → x.tlbHit? c.reg.ctx va = none →
        exec (.xlat f) s = .next (c.issued s [f.sa] c.el f.pop f.pw [{ out s with miss := true }] []))) ∧
    exec (.xinv f) s = .next (c.issued s [f.sa] c.el f.pop f.pw [{ c.out s 0xE9 with arg := c.opA f }] [])

/-- FENCE, CWAIT and CSIG (R286 to R288): FENCE completes where nothing of its scope is pending and else stays incomplete
with its mark; CWAIT goes on once its counter has reached the value; CSIG issues its change. What FENCE waits for is log entry 43, and the LAST and COORD of CWAIT's token are log
entry 44. -/
def Sys2Proof.Machine.FencesAndCountersRun : Prop :=
  ∀ (s : State) (c : Ctx), s.ctx? = some c →
    (∀ f : IForm,
      ((f.imm.toNat % 8 = 0 ∨ s.fenceWaits c s.nextId (f.imm.toNat % 8) = false) →
        exec (.fence f) s = .next (c.memDone s (c.el.withPw f.pw false) [] f.pop 0)) ∧
      (s.fenceWaits c s.nextId (f.imm.toNat % 8) = true →
        exec (.fence f) s = .next (c.held s c.el { Firing.start c.slot (.fence f) .wait with n := s.nextId }))) ∧
    ∀ (f : RForm) (n : Nat), c.clean [f.sa] → n = (lane32 (c.opA f) 0).toNat →
      s.holdsCounter c.reg.ctx n = true →
      (∀ v : Payload, pair64 (c.opA f) 2 ≤ (s.mem.counter n).toNat → v.extractLsb' 0 64 = s.mem.counter n →
        (∀ l, 2 ≤ l → lane32 v l = 0) →
        exec (.cwait f) s = .next (c.issued s [f.sa] c.el f.pop f.pw (c.readyOut s 0xEB f.dst (c.control [f.sa] 0 v))
          [])) ∧
      ((lane32 (c.opA f) 1).toNat ≤ 1 → ¬ (lane32 (c.opA f) 1 = 0 ∧ pair64 (c.opA f) 2 = 0) →
        exec (.csig f) s = .next (c.issued s [f.sa] c.el f.pop f.pw [{ c.out s 0xEC with arg := c.opA f }] []))

/-- BARI, BARA and BARW (R289): BARI sets the expected count and phase 0; BARA sends an arrival at an initialised barrier;
BARW goes on once the phase has moved past the one it names, by 1 to 2^31. The LAST and COORD of the tokens of BARA and BARW
are log entry 44. -/
def Sys2Proof.Machine.BarriersRun : Prop :=
  ∀ (s : State) (c : Ctx) (f : RForm) (n e lvl d : Nat), s.ctx? = some c → c.clean [f.sa] →
    n = (lane32 (c.opA f) 0).toNat → e = (lane32 (c.opA f) 1).toNat → lvl = (lane32 (c.opA f) 2).toNat % 8 →
    s.holdsBarrier c.reg.ctx n = true → d = ((s.mem.barrier n).phase - lane32 (c.opA f) 1).toNat →
    (e ≠ 0 → exec (.bari f) s = .next (c.memDone (s.setBarrier n ⟨e, e, 0⟩) (c.el.withPw f.pw false) [] f.pop
      (readMask [f.sa]))) ∧
    (s.boundLevel c.reg.launch lvl = true →
      ((s.mem.barrier n).expected ≠ 0 →
        exec (.bara f) s = .next (c.issued s [f.sa] c.el f.pop f.pw
          [{ c.out s 0xED with
              dst := match f.dst with
                | .out o => some o
                | _ => none
              arg := c.opA f, level := lvl, hd := some (c.control [f.sa] (c.sideOf [f.sa]).2 0) }] [])) ∧
      (1 ≤ d → d ≤ 2 ^ 31 →
        exec (.barw f) s = .next (c.issued s [f.sa] c.el f.pop f.pw
          (c.readyOut s 0xEE f.dst (c.control [f.sa] (c.sideOf [f.sa]).2 0)) [])))

/-- PUT, PUTS, LSEND, RED and GET (R290 to R294): with operands in their limits the first four start a send engine that
claims SB; GET issues its request. That a send engine holds its claim until its last token, and that each token is a step of
it, is log entry 26. -/
def Sys2Proof.Machine.LinkOperationsIssue : Prop :=
  ∀ (s : State) (c : Ctx) (f : XForm) (a : Payload), s.ctx? = some c → c.clean [f.sa] → a = c.src 0 f.sa →
    (∀ (x : ESt) (n : Fin 4) (i : Instr) (opc : Nat) (out : OutF), c.el.ks = .e x → f.sb = .head n →
      (c.el.ins.get n).claimed = false →
      (i = .put f ∧ opc = 0xF0 ∧ remoteOk 0xF0 a = true) ∨ (i = .puts f ∧ opc = 0xF1 ∧ remoteOk 0xF1 a = true) ∨
        (i = .lsend f ∧ opc = 0xF5 ∧ remoteOk 0xF5 a = true) ∨
        (i = .red f ∧ opc = 0xF3 ∧ (lane32 a 0).toNat ≤ 4095 ∧
          ∀ g, s.redGroup? c.reg.ctx c.e (lane32 a 0).toNat = some g → g.record.op = f.cnt.toNat / 64 ∧
            g.redFree = true) →
      out = { c.out s opc with
        va := if opc = 0xF0 ∨ opc = 0xF1 then a.extractLsb' 0 64 else 0, cmp := cmpOf f.cnt, arg := a } →
      exec i s = .next (c.issued s [f.sa] (Elem.modInput { c.el with ks := .e { x with
          sends := x.sends ++ [⟨s.nextId, c.slot, opc, f.cnt, n, a, [], c.el.seq⟩] } } n
            fun k => { k with claimed := true }) f.pop 0 [out] [])) ∧
    (remoteOk 0xF2 a = true → c.inSets (pushesOf f.dst (dataTok ((lane32 a 7).extractLsb' 0 3) false 0 0)) →
      exec (.get f) s = .next (c.issued s [f.sa] c.el f.pop 0
        [{ c.out s 0xF2 with
            va := a.extractLsb' 0 64, cmp := cmpOf f.cnt, arg := a
            dst := match f.dst with
              | .out o => some o
              | _ => none }]
        [{ c.access (s.nextId + 1) s.nextId 0xF2 .link ⟨0, 0, 0, 0, 0, 0⟩ 0 with a := a, cnt := f.cnt, cost := 0 }]))

/-- REDR, LRECV and LQ (R71, R293 to R295, R426): the result of the group's oldest round, or LINK where a void round is owed to
the element, which is then met and counted as a failed operation; the oldest packet of a queue, and the status that MOD selects.
That a REDR that has not issued is owed its group's void round, and raises LINK when it issues, is log entry 47; that all tags of
a packet count at issue is log entry 112. -/
def Sys2Proof.Machine.LinkResultsRun : Prop :=
  ∀ (s : State) (c : Ctx) (x : ESt), s.ctx? = some c → c.el.ks = .e x →
    (∀ (f : XForm) (n : Nat), c.clean [f.sa] → n = (lane32 (c.src 0 f.sa) 0).toNat →
      (∀ (g : GroupSt) (y : Round) (rest : List Round) (res : List Payload) (tag : BitVec 3), n ≤ 4095 →
        s.redGroup? c.reg.ctx c.e n = some g → (n, c.reg.launch, c.e) ∉ s.link.unmet → g.record.op = f.cnt.toNat / 64 → g.rounds = y :: rest →
        y.result = some res → c.g.tagOf? g.record.fmt = some tag → c.inSets (pushesOf f.dst (dataTok tag false 0 0)) →
        exec (.redr f) s = .next (c.issued (s.setGroup n { g with rounds := rest }) [f.sa] c.el f.pop 0
          [{ c.out s 0xF4 with
              dst := match f.dst with
                | .out o => some o
                | _ => none
              data := redTokens tag res, ready := true }] [])) ∧
      (n ≤ 4095 → (n, c.reg.launch, c.e) ∈ s.link.unmet →
        ∃ y : ESt, y.failures = satInc x.failures ∧ y = { x with failures := y.failures } ∧
          exec (.redr f) s = .next (State.raiseTrap (c.put { s with link := { s.link with
            unmet := s.link.unmet.erase (n, c.reg.launch, c.e) } } { c.el with ks := .e y }) c.r c.e c.slot 13 0)) ∧
      ∀ (o : Fin 4) (q : Fin 8) (p : List RxTok) (rest : List (List RxTok)), f.dst = .out o → q.val = n →
        x.rx.get q = p :: rest → c.inSets ((rxTokens p).map fun t => (o, t)) →
        exec (.lrecv f) s = .next (c.pushes s (.lrecv f)
          { c.el with ks := .e { x with rx := x.rx.set q rest }, seq := c.el.seq + 1 }
          ((rxTokens p).map fun t => (o, t)) f.pop (readMask [f.sa]))) ∧
    ∀ f : RForm, c.inSets (pushesOf f.dst (c.tok f.md [] none 0)) →
      ∃ r, (f.md = 0 → ∀ q : Fin 8, lane32 r q.val = BitVec.ofNat 32 (x.rx.get q).length) ∧
        (f.md ≠ 0 → lane32 r 0 = BitVec.ofNat 32 c.el.linkOuts ∧ lane32 r 1 = x.failures ∧ ∀ l, 2 ≤ l → lane32 r l = 0) ∧
        exec (.lq f) s = .next (c.memDone s ((c.el.writeDst f.dst r).withPw f.pw (lowNonzero r))
          (pushesOf f.dst (c.tok f.md [] none r)) f.pop 0)

/-- LNCH, SYSC, FLTH and WALK (R71, R285, R296, R297): each issues with its operands; a fault of code 2 to 4 is answered at
once; WALK reads one page-table entry; and a SYSC whose edge does not take the reply's tag raises FORMAT, at issue as log entry 112
says. The LAST and COORD of the control tokens that answer LNCH and FLTH are log entry 44. -/
def Sys2Proof.Machine.SystemRequestsIssue : Prop :=
  ∀ (s : State) (c : Ctx), s.ctx? = some c →
    (∀ (f : RForm) (o : Option (Fin 4)),
      o = (match f.dst with
        | .out o => some o
        | _ => none) →
      (c.clean [f.sa, f.sb] →
        exec (.lnch f) s = .next (c.issued s [f.sa, f.sb] c.el f.pop f.pw
          [{ c.out s 0xF8 with
              dst := o, arg := c.opA f, arg2 := c.opB f
              hd := some (c.control [f.sa, f.sb] (c.sideOf [f.sa, f.sb]).2 0) }] [])) ∧
      (∀ t, c.srcTok? f.sa = some t → t.poison = false → t.kind = .control →
        (t.coord = 1 →
          exec (.flth f) s = .next (c.issued s [f.sa] c.el f.pop f.pw
            [{ c.out s 0xFA with
                dst := o, arg := t.payload, hd := some (c.control [f.sa] (c.sideOf [f.sa]).2 0) }] [])) ∧
        (2 ≤ t.coord.toNat → t.coord.toNat ≤ 4 →
          exec (.flth f) s = .next (c.issued s [f.sa] c.el f.pop f.pw
            (c.readyOut s 0xFA f.dst (c.control [f.sa] (c.sideOf [f.sa]).2 0)) []))) ∧
      (c.clean [f.sa] → (lane32 (c.opA f) 3).toNat ≤ 3 →
        exec (.walk f) s = .next (c.issued s [f.sa] c.el f.pop f.pw
          [{ c.out s 0xFE with dst := o, arg := c.opA f, hd := some (c.tok f.md [f.sa] none (c.opA f)) }]
          [c.access (s.nextId + 1) s.nextId 0xFE .walk
            ⟨pair64 (c.opA f) 4 + 8 * (pair64 (c.opA f) 0 / 2 ^ (10 * (lane32 (c.opA f) 3).toNat + 16) % 2 ^ 10), 0, 0, 8,
              0, 2⟩ 0]))) ∧
    ∀ (f : IForm) (t : Token), c.clean [f.sa] → t = ⟨1, .data, (c.sideOf [f.sa]).1, false, (c.sideOf [f.sa]).2, 0⟩ →
      (c.inSets (pushesOf f.dst t) →
        exec (.sysc f) s = .next (c.issued s [f.sa] c.el f.pop f.pw
          [{ c.out s 0xF9 with
              dst := match f.dst with
                | .out o => some o
                | _ => none
              arg := c.src 0 f.sa, level := f.imm.toNat, hd := some t }] [])) ∧
      (¬ c.inSets (pushesOf f.dst t) → exec (.sysc f) s = .next (s.raiseTrap c.r c.e c.slot 2 0))

/-- PREQ, CKPT, TBKT and WALKL (R285, R298, R299): a request to pre-empt, the bucket of the region's context, and a
translation released to the firing that the request tag names, with the A bit of its leaf set. That the leaf which WALKL installs
counts as used, so that its A bit is set, is log entry 62; that an answer which nobody awaits is dropped is log entry 127. What
CKPT does beside PREQ is log entry 54; the bucket that nobody has set is log entry 38. -/
def Sys2Proof.Machine.SystemInstructionsComplete : Prop :=
  ∀ (s : State) (c : Ctx), s.ctx? = some c →
    (∀ f : PForm,
      exec (.preq f) s = .next ((c.memDone s (c.el.withSetClr f.set f.clr) [] f.pop 0).modRegion c.r (·.request false)) ∧
      exec (.ckpt f) s = .next ((c.memDone s (c.el.withSetClr f.set f.clr) [] f.pop 0).modRegion c.r (·.request true))) ∧
    (∀ (f : RForm) (x : Bucket), x = (sget none s.mem.buckets (1024 * dieOf c.r + c.reg.ctx)).getD ⟨0, 0, 0, 0, false⟩ →
      c.inSets (pushesOf f.dst (c.tok f.md [] none 0)) →
      ∃ r, (lane32 r 0 = BitVec.ofNat 32 x.rate ∧ lane32 r 1 = BitVec.ofNat 32 x.burst ∧
          lane32 r 2 = BitVec.ofNat 32 x.level ∧ lane32 r 3 = BitVec.ofNat 32 x.borrowed ∧
          lane32 r 4 = (if x.borrower then 1 else 0) ∧ ∀ l, 5 ≤ l → lane32 r l = 0) ∧
        exec (.tbkt f) s = .next (c.memDone s ((c.el.writeDst f.dst r).withPw f.pw (lowNonzero r))
          (pushesOf f.dst (c.tok f.md [] none r)) f.pop 0)) ∧
    ∀ (f : RForm) (t : State) (id : Nat), c.clean [f.sa] → id = (lane32 (c.opA f) 2).toNat →
      t = c.memDone s (c.el.withPw f.pw false) [] f.pop (readMask [f.sa]) →
      ((∃ k, c.srcTok? f.sa = some k ∧ k.kind = .control) →
        exec (.walkl f) s = .next (t.releaseXlat id (fun _ => .error 1) fun _ => none)) ∧
      ((∀ k, c.srcTok? f.sa = some k → k.kind ≠ .control) → lane32 (c.opA f) 3 = 0xFF →
        ∀ leaf va at_ u, leaf = BitVec.ofNat 64 (pair64 (c.opA f) 6) → va = pair64 (c.opA f) 0 → at_ = walkedAt (c.opA f) →
          u = t.releaseXlat id (fun o => leafResult leaf o.va.toNat ((lane32 o.arg 2).getLsbD 0))
            (fun ctx => some (.ofLeaf ctx at_ va leaf)) →
          exec (.walkl f) s = .next (u.setAccessed at_ va leaf))

/-! ### Tokens on their way -/

namespace Sys2Proof.Machine

/-- A token as it arrives (R27): a failed parity check poisons one that is no marker. -/
def arrived (bad : Bool) (t : Token) : Token := if bad = true ∧ isMarker t = false then { t with poison := true } else t

/-- An input that a token joins at the end of its FIFO, with what is still on its way. -/
def Input.joined (n : Input) (rest : List Token) (cycle : Nat) (t : Token) : Input :=
  { n with inflight := rest, fifo := n.fifo ++ [t], headAt := if n.fifo = [] then cycle else n.headAt }

end Sys2Proof.Machine

/-- TOKEN_ARRIVE (R27, R70, R249, R407): the oldest token on its way joins the FIFO of an element of the running partition; a
failed parity check poisons a token that is no marker. At an element that a pre-emption under way has saved, a token that comes
before the pre-emption marker is recorded. The last marker of a pre-emption ends it (`checkParked`), and while none is under way
nothing more happens. -/
def Sys2Proof.Machine.TokensArrive : Prop :=
  ∀ (s : State) (c : Ctx) (i : Fin 4) (bad : Bool) (t : Token) (rest : List Token) (u : State), s.at? c.r c.e 0 = some c →
    c.reg.runs = true → c.g.isActive c.el = true → (c.el.ins.get i).inflight = t :: rest →
    u = c.put s (c.el.modInput i fun n => n.joined rest s.cycle (arrived bad t)) →
    (c.reg.preempt ≠ .running → exec (.tokenArrive c.r c.e i bad) s = .next u) ∧
    (c.el.saved = false ∨ isMarker t = true ∨ preemptMarker ∈ (c.el.ins.get i).fifo →
      exec (.tokenArrive c.r c.e i bad) s = .next (u.checkParked c.r)) ∧
    (c.reg.preempt = .running → c.el.saved = true → isMarker t = false → preemptMarker ∉ (c.el.ins.get i).fifo →
      exec (.tokenArrive c.r c.e i bad) s = .next ((c.put s (c.el.modInput i fun n => { n with
        inflight := rest, recorded := n.recorded ++ [arrived bad t] })).checkParked c.r))

/-- TOKEN_ARRIVE at a cut edge (R83, R282): while the consumer's partition does not run, a token is parked, a drain marker
ends there, and a token that finds storage and pool full raises SPILL for its producer. Once the consumer's partition runs, the
oldest parked token joins the input that has room for it. With nothing on its way and nothing parked, nothing happens. Where
the tokens of a cut edge are parked, and whose trap SPILL is, is log entry 35. -/
def Sys2Proof.Machine.CutEdgesPark : Prop :=
  ∀ (s : State) (c : Ctx) (i : Fin 4) (bad : Bool), s.at? c.r c.e 0 = some c → c.reg.runs = true →
    (∀ (t : Token) (rest : List Token) (g : GraphSt), (c.el.ins.get i).inflight = t :: rest → c.g.isActive c.el = false →
      g = c.g.setElem c.e (c.el.modInput i fun n => { n with inflight := rest }) →
      (isMarker t = true → exec (.tokenArrive c.r c.e i bad) s = .next (s.setGraph c.r g)) ∧
      (∀ p, isMarker t = false → g.park (cutChan c.e i) (arrived bad t) = some p →
        exec (.tokenArrive c.r c.e i bad) s = .next (s.setGraph c.r p)) ∧
      ∀ d, isMarker t = false → g.park (cutChan c.e i) (arrived bad t) = none → c.g.feed? c.e i = some d →
        exec (.tokenArrive c.r c.e i bad) s = .next (s.raiseTrap c.r d.prod 0xFF 12 0)) ∧
    ((c.el.ins.get i).inflight = [] →
      (∀ (t : Token) (g : GraphSt), c.g.isActive c.el = true → c.el.saved = false → c.g.inputFree c.e i = true →
        c.g.unpark (cutChan c.e i) = some (t, g) →
        exec (.tokenArrive c.r c.e i bad) s =
          .next (s.setGraph c.r (g.modIn c.e i fun n => n.joined [] s.cycle (arrived bad t)))) ∧
      (c.g.unpark (cutChan c.e i) = none → exec (.tokenArrive c.r c.e i bad) s = .next s))

namespace Sys2Proof.Machine

/-- An input whose oldest token has left its FIFO (R74). -/
def Input.left (n : Input) : Input := { n with fifo := n.fifo.tail, held := n.held - 1 }

/-- An input whose oldest token has left its FIFO, with a token presented at its head (R74). -/
def Input.presents (n : Input) (t : Token) (cycle : Nat) : Input := { n.left with pres := some t, headAt := cycle }

/-- The element of a context at whose inputs 0 and 1 a pair can step (R74): it runs, and no head is presented. -/
def PairReady (s : State) (c : Ctx) : Prop :=
  s.live? c.r c.e = some c ∧ c.el.img.isect = true ∧ c.el.pair.active = true ∧ c.el.saved = false ∧
    (c.el.ins.get 0).pres = none ∧ (c.el.ins.get 1).pres = none

/-- The front of an input is a token that is presented alone (R74): a scale or a control token. -/
def AloneAt (n : Input) : Prop := ∃ t, n.fifo.head? = some t ∧ t.kind ≠ .data ∧ isMarker t = false

/-- The front of an input is a data token. -/
def DataAt (n : Input) : Prop := ∃ t, n.fifo.head? = some t ∧ t.kind = .data

/-- The front of an input is a data token whose COORD is not above the one before it in its segment (R74). -/
def LateAt (n : Input) (last : Option (BitVec 16)) : Prop :=
  ∃ t x, n.fifo.head? = some t ∧ t.kind = .data ∧ last = some x ∧ t.coord.toNat ≤ x.toNat

/-- No front is presented alone, and none is out of order. -/
def DataPhase (c : Ctx) : Prop :=
  ¬ AloneAt (c.el.ins.get 0) ∧ ¬ AloneAt (c.el.ins.get 1) ∧ ¬ LateAt (c.el.ins.get 0) c.el.pair.last0 ∧
    ¬ LateAt (c.el.ins.get 1) c.el.pair.last1

/-- The COORD that the next data token of a side has to be above, after one of it has gone (R73). -/
def afterTok (t : Token) : Option (BitVec 16) := if t.last = true then none else some t.coord

/-- A pair after the front of a side has been discarded and counted (R74, R235). -/
def Pair.dropped (p : Pair) (side : Fin 2) (t : Token) : Pair :=
  if side = 0 then { p with last0 := afterTok t, disc0 := satInc p.disc0 }
  else { p with last1 := afterTok t, disc1 := satInc p.disc1 }

/-- An element whose pair discards a token of a side (R27, R74): it leaves its FIFO, and a poisoned one is counted as such. -/
def Elem.drops (el : Elem) (side : Fin 2) (t : Token) (drain : Option (Fin 2)) : Elem :=
  { el with
    ins := if side = 0 then el.ins.set 0 (el.ins.get 0).left else el.ins.set 1 (el.ins.get 1).left
    pair := { el.pair.dropped side t with drain := drain }
    poisonDiscard := if t.poison = true then satInc el.poisonDiscard else el.poisonDiscard }

end Sys2Proof.Machine

/-- PAIR_STEP of a front that is not data (R74): it leaves its FIFO and is presented alone, that of input 0 first; nothing
else of the element changes. That a marker at a front is no such token is log entry 22. -/
def Sys2Proof.Machine.PairPresents : Prop :=
  ∀ (s : State) (c : Ctx) (t : Token), PairReady s c → t.kind ≠ .data → isMarker t = false →
    ((c.el.ins.get 0).fifo.head? = some t →
      exec (.pairStep c.r c.e) s = .next (c.put s { c.el with
        ins := c.el.ins.set 0 ((c.el.ins.get 0).presents t s.cycle) })) ∧
    (¬ AloneAt (c.el.ins.get 0) → (c.el.ins.get 1).fifo.head? = some t →
      exec (.pairStep c.r c.e) s = .next (c.put s { c.el with
        ins := c.el.ins.set 1 ((c.el.ins.get 1).presents t s.cycle) }))

/-- PAIR_STEP (R74, R235): two data fronts of equal coordinates leave their FIFOs and become a matched pair, whose LAST is
set when either is, and a side whose front had no LAST is drained then; of two unequal ones the smaller leaves its FIFO and is
counted, and its LAST lets the other side be drained. Nothing else of the element changes. That a marker at a front is no such token is log entry 22. -/
def Sys2Proof.Machine.PairMatches : Prop :=
  ∀ (s : State) (c : Ctx) (a b : Token), PairReady s c → DataPhase c → c.el.pair.drain = none →
    (c.el.ins.get 0).fifo.head? = some a → (c.el.ins.get 1).fifo.head? = some b → a.kind = .data → b.kind = .data →
    (∀ last, last = (a.last || b.last) → a.coord = b.coord →
      exec (.pairStep c.r c.e) s = .next (c.put s { c.el with
        ins := (c.el.ins.set 0 ((c.el.ins.get 0).presents { a with last := last } s.cycle)).set 1
          ((c.el.ins.get 1).presents { b with last := last } s.cycle)
        pair := { c.el.pair with
          last0 := afterTok a, last1 := afterTok b, matched := satInc c.el.pair.matched
          drain := if a.last = b.last then none else if a.last = false then some 0 else some 1 } })) ∧
    (a.coord.toNat < b.coord.toNat →
      exec (.pairStep c.r c.e) s = .next (c.put s (c.el.drops 0 a (if a.last = true then some 1 else none)))) ∧
    (b.coord.toNat < a.coord.toNat →
      exec (.pairStep c.r c.e) s = .next (c.put s (c.el.drops 1 b (if b.last = true then some 0 else none))))

/-- PAIR_STEP while a side is drained (R74, R235): its front leaves its FIFO and is counted, whatever stands at the other
side; the one with LAST ends the drain, which is counted, and a control token with the value 0xFFFF, which stands in COORD
(R25), is presented at input 0. -/
def Sys2Proof.Machine.PairDrains : Prop :=
  ∀ (s : State) (c : Ctx) (k : Fin 2) (n : Input) (t : Token), PairReady s c → DataPhase c → c.el.pair.drain = some k →
    n = (if k = 0 then c.el.ins.get 0 else c.el.ins.get 1) → n.fifo.head? = some t → t.kind = .data →
    (t.last = false → exec (.pairStep c.r c.e) s = .next (c.put s (c.el.drops k t (some k)))) ∧
    ∀ el, t.last = true → el = c.el.drops k t none →
      exec (.pairStep c.r c.e) s = .next (c.put s { el with
        ins := el.ins.set 0 { el.ins.get 0 with
          pres := some ⟨0, .control, false, false, 0xFFFF, 0⟩, headAt := s.cycle }
        pair := { el.pair with drains := satInc c.el.pair.drains } })

/-- PAIR_STEP of a data token out of order raises ISECT_ORDER (R74), and without what a step needs nothing happens: a head
is presented still, the side that is drained has no data token at its front, or, with none drained, one of the two has none. -/
def Sys2Proof.Machine.PairTrapsOrWaits : Prop :=
  (∀ (s : State) (c : Ctx), PairReady s c → ¬ AloneAt (c.el.ins.get 0) → ¬ AloneAt (c.el.ins.get 1) →
    LateAt (c.el.ins.get 0) c.el.pair.last0 ∨ LateAt (c.el.ins.get 1) c.el.pair.last1 →
    exec (.pairStep c.r c.e) s = .next (s.raiseTrap c.r c.e 0xFF 3 0)) ∧
  (∀ (s : State) (c : Ctx), PairReady s c → DataPhase c →
    (c.el.pair.drain = some 0 ∧ ¬ DataAt (c.el.ins.get 0)) ∨ (c.el.pair.drain = some 1 ∧ ¬ DataAt (c.el.ins.get 1)) ∨
      (c.el.pair.drain = none ∧ (¬ DataAt (c.el.ins.get 0) ∨ ¬ DataAt (c.el.ins.get 1))) →
    exec (.pairStep c.r c.e) s = .next s) ∧
  ∀ (s : State) (c : Ctx), s.live? c.r c.e = some c →
    ((c.el.ins.get 0).pres).isSome = true ∨ ((c.el.ins.get 1).pres).isSome = true → exec (.pairStep c.r c.e) s = .next s

/-- STREAM_TOKEN_TAKE (R213, R215): a firing that takes tokens takes the head of its stream input. For LIN the payload
goes to the next place of the window (R242), for MCHAIN to the next eight columns (R225). -/
def Sys2Proof.Machine.StreamTokensTaken : Prop :=
  ∀ (s : State) (c d : Ctx) (f : Firing) (i : Fin 4) (t : Token), s.live? c.r c.e = some c → c.el.firing = some f →
    c.el.saved = false → f.stage = .take → streamInput? f.instr = some i → c.el.present i = true →
    c.el.head? i = some t → d = { c with slot := f.slot } →
    (∀ el g, d.takeNext f t = some (.more el g) →
      exec (.streamTokenTake c.r c.e .firing) s = .next (d.held s (el.takeHead s.cycle i) g)) ∧
    (∀ el g q, d.takeNext f t = some (.push el g q) →
      exec (.streamTokenTake c.r c.e .firing) s =
        .next (d.held s (el.takeHead s.cycle i) { g with stage := .push, q := q })) ∧
    (∀ el, d.takeNext f t = some (.done el none) →
      exec (.streamTokenTake c.r c.e .firing) s = .next (d.fired s { el.takeHead s.cycle i with firing := none } []
        (firingPop f.instr).1 (firingPop f.instr).2)) ∧
    (∀ (x : XForm) (l : LSt), f.instr = .lin x → c.el.ks = .l l → t.poison = false → t.kind = .data →
      ∃ el, (d.takeNext f t = some (.done el none) ∨ ∃ g, d.takeNext f t = some (.more el g)) ∧
        el = { c.el with ks := .l { l with x := sset 0 l.x (x.cnt.toNat + f.i) t.payload } } ∧
        (d.takeNext f t = some (.done el none) ↔ t.last = true ∨ 255 ≤ x.cnt.toNat + f.i)) ∧
    ∀ (x : XForm) (m : MSt), f.instr = .mchain x → c.el.ks = .m m → t.poison = false → t.kind = .data →
      t.tag = 0 ∨ t.tag = 1 → f.i < 16 →
      swf 0 m.acc = true →
      ∃ m', swf 0 m'.acc = true ∧ (d.takeNext f t = some (.done { c.el with ks := .m m' } none) ∧ f.i = 15 ∧
            m'.primed.getLsbD (x.cnt.toNat % 64) = true ∨
          d.takeNext f t = some (.more { c.el with ks := .m m' } { f with i := f.i + 1 }) ∧ f.i < 15) ∧
        (∀ j, j < 8 → m'.col (x.cnt.toNat % 64) (8 * f.i + j) = lane32 t.payload j) ∧
        (m'.rowInt.getLsbD (x.cnt.toNat % 64) = true ↔ t.tag = 1)

/-- BLOCK (R50) on one column: NaN where an operand is NaN, where an infinity meets a zero, or where infinities of both signs
meet; their sign's infinity where they agree; else the exact sum of the integer products, scaled and rounded once, and no
change for a sum of 0. -/
def Sys2Proof.Machine.BlocksAccumulate : Prop :=
  ∀ (av bv : List Val) (ai bi : List Int) (e b : Int) (sa sb : Option Int) (acc nan z : Word) (inf zero : Val × Val → Prop),
    nan = faddRne acc (rneFP32 .nan) → z = floatBlock av bv ai bi e sa sb acc → b = ((ai.zip bi).map fun p => p.1 * p.2).sum →
    inf = (fun p => p.1.isInf = true ∨ p.2.isInf = true) → zero = (fun p => p.1.isZero = true ∨ p.2.isZero = true) →
    ((∃ v, v ∈ av ++ bv ∧ v.isNaN = true) → z = nan) ∧
    ((∀ v, v ∈ av ++ bv → v.isNaN = false) →
      ((∃ p, p ∈ av.zip bv ∧ inf p ∧ zero p) → z = nan) ∧
      ((∃ p q, p ∈ av.zip bv ∧ q ∈ av.zip bv ∧ inf p ∧ inf q ∧ p.1.neg? = p.2.neg? ∧ q.1.neg? ≠ q.2.neg?) → z = nan) ∧
      (∀ sg, (∃ p, p ∈ av.zip bv ∧ inf p) →
        (∀ p, p ∈ av.zip bv → inf p → ¬ zero p ∧ (p.1.neg? != p.2.neg?) = sg) → z = faddRne acc (rneFP32 (.inf sg))) ∧
      ((∀ p, p ∈ av.zip bv → ¬ inf p) →
        (b = 0 → z = acc) ∧ (b ≠ 0 → sa = none ∨ sb = none → z = nan) ∧
        ∀ x y, b ≠ 0 → sa = some x → sb = some y → z = faddRne acc (rneFP32 (.ofDyadic b (e + x + y)))))

/-- MROW (R50, R224) on the float path: a data token of a dense row supplies its values from the row's next position on; of
the blocks, each that is complete then, or every one with the last token, is applied in ascending order to every column of the
half, on +0 where the row starts and is not primed. -/
def Sys2Proof.Machine.MatrixRowsTaken : Prop :=
  ∀ (c : Ctx) (f : Firing) (y : XForm) (q : AWidth) (m : MSt) (t : Token) (fm bf : Fmt) (r pos hi : Nat) (x : Nat → Val)
    (block : Nat → Nat → Word → Word),
    f.instr = .mrow q y → c.el.ks = .m m → r = y.cnt.toNat % 64 → t.poison = false → t.kind = .data →
    c.g.fmt? t.tag = some fm → fm.cls = .float → m.bank.int = false → Fmt.ofRecord m.bank.fmt = some bf →
    swf 0 m.acc = true → swf 0 f.row.codes = true → pos = f.row.pos → pos + fm.lanes ≤ 256 →
    (f.row = .empty ∧ (m.primed.getLsbD r = true → m.rowInt.getLsbD r = false) ∨
      f.row.tag = some t.tag ∧ m.rowInt.getLsbD r = false) →
    x = (fun i => fm.value (if pos ≤ i ∧ i < pos + fm.lanes then (lane t.payload fm.lane (i - pos)).toNat % 2 ^ fm.width
      else sget 0 f.row.codes i)) →
    hi = (if t.last then 8 else (pos + fm.lanes) / 32) →
    block = (fun k n acc =>
      let av := (List.range 32).map fun i => x (32 * k + i)
      let bv := (List.range 32).map fun i => bf.value (sget 0 m.bank.codes (256 * n + 32 * k + i))
      let a := prealign av (aBits q)
      let b := prealign bv (if m.bank.split then 16 else 8)
      floatBlock av bv a.1 b.1 (a.2 + b.2) (scaleExp ((f.row.scales.lookup k).getD m.aScale))
        (scaleExp (sget 127 m.bank.scales (8 * n + k))) acc) →
    ∃ (m' : MSt) (row : RowSt),
      c.takeNext f t = some (if t.last then .done { c.el with ks := .m m' } none
        else .more { c.el with ks := .m m' } { f with row := row }) ∧
      (t.last = false → row.pos = pos + fm.lanes ∧ row.applied = hi ∧ row.tag = some t.tag ∧
        ∀ i, i < 256 → fm.value (sget 0 row.codes i) = x i) ∧
      (t.last = true → m'.primed.getLsbD r = false) ∧ m'.rowInt.getLsbD r = false ∧
      ∀ n k, n < (if m.bank.split then 64 else 128) → k = n + (if m.bank.split = true ∧ m.half = true then 64 else 0) →
        m'.col r k = ((List.range hi).filter fun j => decide (f.row.applied ≤ j)).foldl (fun acc j => block j n acc)
          (if f.row = .empty ∧ m.primed.getLsbD r = false then 0 else m.col r k)

/-- LOAD_ENGINE_TOKEN (R214, R221, R222, R240): an engine that runs takes the head of the input it claims. A table token
goes to four cells (R362). -/
def Sys2Proof.Machine.EngineTokensTaken : Prop :=
  ∀ (s : State) (c : Ctx) (k : EngKind) (x : Engine) (t : Token), s.live? c.r c.e = some c → c.el.engine? k = some x →
    c.el.saved = false → c.el.present x.input = true → c.el.head? x.input = some t →
    (∀ m el, c.el.ks = .m m → k = .weights → c.el.weightToken c.g m x t = .ok el →
      exec (.loadEngineToken c.r c.e k) s = .next (c.put s (el.takeHead s.cycle x.input))) ∧
    (∀ m el, c.el.ks = .m m → k = .scales → c.el.scaleToken m x t = .ok el →
      exec (.loadEngineToken c.r c.e k) s = .next (c.put s (el.takeHead s.cycle x.input))) ∧
    (∀ l el, c.el.ks = .l l → k = .wiring → c.el.wiringToken l x t = .ok el →
      exec (.loadEngineToken c.r c.e k) s = .next (c.put s (el.takeHead s.cycle x.input))) ∧
    ∀ l, c.el.ks = .l l → k = .table → t.poison = false → t.kind = .data → swf 0 l.tables = true →
      ∃ (el : Elem) (l' : LSt), swf 0 l'.tables = true ∧ exec (.loadEngineToken c.r c.e k) s = .next (c.put s (el.takeHead s.cycle x.input)) ∧ el.ks = .l l' ∧
        ∀ j, j < 4 → sget 0 l'.tables (1024 * x.ctx + 4 * x.n + j) = lane t.payload 64 j

/-- FURTHER_TOKEN_PUSH and INCOMPLETE_FIRING_RESUME (R67, R223): a firing that owes tokens pushes the next one as its
output has space and is complete after the last; a waiting MSWAP goes on once no engine runs. -/
def Sys2Proof.Machine.FiringsGoOn : Prop :=
  ∀ (s : State) (c : Ctx) (f : Firing), s.live? c.r c.e = some c → c.el.firing = some f → c.el.saved = false →
    (∀ o t rest u, f.stage = .push → f.q = (o, t) :: rest → c.pushPaused f = false → c.g.hasSpace c.e c.el o 1 = true →
      c.g.tagOk c.e o t = true →
      u = s.setGraph c.r ((c.g.setElem c.e { c.el with firing := some { f with q := rest } }).push c.e o t) →
      (rest ≠ [] → exec (.furtherTokenPush c.r c.e) s = .next u) ∧
      ∀ d, rest = [] → (∀ x, f.instr ≠ .mgrp x) → u.at? c.r c.e f.slot = some d →
        exec (.furtherTokenPush c.r c.e) s =
          .next (d.fired u { d.el with firing := none } [] (firingPop f.instr).1 (firingPop f.instr).2)) ∧
    ∀ (x : PForm) (m : MSt) (d : Ctx), f.stage = .wait → f.instr = .mswap x → c.el.ks = .m m →
      c.el.engine? .weights = none → c.el.engine? .scales = none → d = { c with slot := f.slot } →
      exec (.incompleteFiringResume c.r c.e) s = .next (d.fired { s with focus := ⟨c.r, c.e, f.slot⟩ }
        { (Elem.withSetClr { c.el with ks := .m { m with active := !m.active } } x.set x.clr) with firing := none } []
        x.pop 0)

/-- STREAM_ENGINE_PUSH (R280, R281): a stream of mode 0 pushes its next address in order, with its index in COORD and
LAST on the last, and ends with it. -/
def Sys2Proof.Machine.AddressStreamsPush : Prop :=
  ∀ (s : State) (c : Ctx) (x : ESt) (t : Stream) (o : Fin 4) (n va total : Nat), s.live? c.r c.e = some c →
    c.el.ks = .e x → (x.streams.find? fun y => y.num == n && !y.ended) = some t → c.el.saved = false →
    c.reg.preempt ≠ .running → t.out = some o → t.input = none → x.mode n = 0 → va = x.genAddr n t.idx → va < 2 ^ 56 →
    c.g.hasSpace c.e c.el o 1 = true → total = x.total n → c.g.tagOk c.e o ⟨1, .data, false, false, 0, 0⟩ = true →
    ∃ el v, lane32 v 0 = BitVec.ofNat 32 va ∧ lane32 v 1 = BitVec.ofNat 32 (va / 2 ^ 32) ∧
      (∀ l, 2 ≤ l → lane32 v l = 0) ∧
      el = { c.el with ks := .e { x with streams := x.streams.map fun y =>
        if y.id = t.id then
          { t with idx := t.idx + 1, run := t.run + 1, ended := t.ended || decide (total ≤ t.idx + 1) } else y } } ∧
      exec (.streamEnginePush c.r c.e n) s = .next (s.setGraph c.r ((c.g.setElem c.e el).push c.e o
        ⟨1, .data, decide (total ≤ t.idx + 1), false, BitVec.ofNat 16 t.idx, v⟩))

/-! ### Accesses -/

/-- SEND and UPDATE_REPLAY (R274, R315, R317, R327): an access that nothing of its element holds back leaves the issue
queue for the request queue under the region's generation, and its tokens are taken from the context's bucket and counted at
its die's port, whose direction takes no access once it has carried 896 in a cycle; the stores of a line's write-back go behind
the one that pays for the line, and a link operation passes no port; a refused update is sent again, before its element's
later accesses. Which direction an access moves its tokens in is log entry 38. -/
def Sys2Proof.Machine.AccessesAreSent : Prop :=
  (∀ (s : State) (c : Ctx) (k die : Nat) (a : Access) (b : Bucket) (u : PortUse) (m : MemSt), s.at? c.r c.e 0 = some c →
    (c.el.issueQ.find? fun b => b.id == k) = some a → c.reg.runs = true → a.isAwaiting = false →
    (∀ b, b ∈ c.el.issueQ.takeWhile (fun b => b.id != k) → b.before a = false) → (∀ b, b ∈ c.el.issueQ → b.pays a = false) →
    die = dieOf c.r → u = s.portUse die →
    b = (sget none s.mem.buckets (1024 * die + c.reg.ctx)).getD ⟨0, 0, 0, 0, false⟩ →
    (a.kind = .link ∧ m = s.mem) ∨ (a.kind ≠ .link ∧ a.cost = 0 ∧ u.cyc a.outward < 896 ∧ m = s.mem) ∨
      (a.kind ≠ .link ∧ 0 < a.cost ∧ c.r < 128 ∧ u.cyc a.outward < 896 ∧ a.cost ≤ b.level ∧
      m = { s.mem with
        ports := sset PortUse.zero s.mem.ports die (u.carry a.outward a.cost)
        buckets := sset none s.mem.buckets (1024 * die + c.reg.ctx) (some { b with level := b.level - a.cost }) }) →
    exec (.send c.r c.e k) s = .next { c.put s { c.el with issueQ := c.el.issueQ.filter fun b => b.id != k } with
      mem := { m with reqs := m.reqs ++ [{ a with r := c.r, gen := c.reg.gen }] } }) ∧
  ∀ (s : State) (k : Nat) (a : Access) (l r : List Access), (s.mem.replays.find? fun b => b.id == k) = some a →
    s.mem.reqs = l ++ r → (∀ b, b ∈ l → ¬ (b.r = a.r ∧ b.e = a.e ∧ b.gen = a.gen ∧ a.id < b.id)) →
    (∀ b, b ∈ r.head? → b.r = a.r ∧ b.e = a.e ∧ b.gen = a.gen ∧ a.id < b.id) →
    exec (.updateReplay k) s = .next { s with mem := { s.mem with
      replays := s.mem.replays.filter fun b => b.id != k, reqs := l ++ a :: r } }

/-- PERFORM of a load and of a store at a home in the package (R256, R257, R265, R309, R325, R327): the load's reply carries
the bytes, and it joins the home order of its line; the store's bytes stand in memory afterwards, every other byte is as
before, and its reply is due. -/
def Obligations.AccessesPerform : Prop :=
  ∀ (s : State) (k : Nat) (a : Access), (s.mem.reqs.find? fun b => b.id == k) = some a → a.outside = false →
    s.performBlocked a = false → Memory.wf s.mem.bytes = true →
    (a.kind = .load → s.mem.homeCheck a.ctx a.pa a.size false = none → (s.mem.frame a.pa).derived = false →
      (∀ h, h ∈ (s.mem.dirAt (a.pa / 64)).holders → isDirty h.st = false) →
      exec (.perform k []) s = .next { s with mem := { s.mem with
        reqs := s.mem.reqs.filter fun b => b.id != k
        order := s.mem.order ++ [⟨a.pa / 64, s.mem.performs, false⟩], performs := s.mem.performs + 1
        replies := s.mem.replies ++ [⟨a, .data (ofBytes (readBytes s.mem.bytes a.pa a.size))
          (readsPoison s.mem.poison a.pa a.size), s.mem.performs⟩] } }) ∧
    (a.kind = .store → s.mem.homeCheck a.ctx a.pa a.size true = none → s.writable a.mt a.pa a.size none = true →
      s.mem.overlaps (a.pa / 64) (wordMask a.pa a.size) none = false →
      ∃ t, (∀ bad, exec (.perform k bad) s = .next t) ∧ t.mem.reqs = s.mem.reqs.filter (fun b => b.id != k) ∧
        t.mem.replies = s.mem.replies ++ [⟨a, .done, s.mem.performs⟩] ∧ t.regions = s.regions ∧
        (∀ i, i < a.size → readByte t.mem.bytes (a.pa + i) = (toBytes a.data a.size).getD i 0) ∧
        ∀ b, b < a.pa ∨ a.pa + a.size ≤ b → readByte t.mem.bytes b = readByte s.mem.bytes b)

/-- FILL (R306, R334): with no dirty holder of the line, the words that the fill reads come into the window in one event;
line-granular holders become sharers. -/
def Sys2Proof.Machine.FillsComplete : Prop :=
  ∀ (s : State) (c : Ctx) (k : Nat) (a : Access) (w off : Nat) (mask : BitVec 16) (t : State),
    (s.mem.reqs.find? fun b => b.id == k) = some a →
    a.kind = .fill w off mask → a.outside = false → s.performBlocked a = false → s.at? a.r a.e a.slot = some c →
    c.reg.gen = a.gen → s.mem.homeCheck a.ctx a.pa a.size false = none → (s.mem.frame a.pa).derived = false →
    (∀ h, h ∈ (s.mem.dirAt (a.pa / 64)).holders → isDirty h.st = false) →
    t = { if a.mt = 1 then s else s.shareLine (a.pa / 64) with
      mem := { (if a.mt = 1 then s else s.shareLine (a.pa / 64)).mem with
        order := s.mem.order ++ [⟨a.pa / 64, s.mem.performs, false⟩] } } →
    exec (.fill ⟨k, []⟩) s = .next (t.fillDone c a w off mask (readBytes s.mem.bytes a.pa 64)
      fun i => s.mem.poison.contains (a.pa / 4 + i))

/-- APPLY (R314, R315, R337, R353): the next held update of a group at a line is applied at the home, and a group with nothing
left to apply completes. One whose frame no longer passes checks 4 and 5 of R256 is not applied; that its element traps then
is log entry 117. -/
def Sys2Proof.Machine.HeldUpdatesApply : Prop :=
  ∀ (s : State) (line ctx group : Nat) (h : HeldLine) (a : Access),
    (s.mem.held.find? fun x => x.line == line) = some h → s.mem.nextHeld? h ctx group = some a →
    (s.mem.homeCheck a.ctx a.pa a.size true = none → s.writable a.mt a.pa a.size none = true →
      exec (.apply ⟨line, ctx, group, []⟩) s = .next
        ((State.applyUpdate { s with mem := s.mem.setHeld { h with held := h.held.filter fun b => b.id != a.id } } a).groupDone
          ctx group)) ∧
    ∀ code t, s.mem.homeCheck a.ctx a.pa a.size true = some code →
      t = State.groupDone { s with mem := s.mem.setHeld { h with held := h.held.filter fun b => b.id != a.id } } ctx group →
      exec (.apply ⟨line, ctx, group, []⟩) s = .next
        (if ((t.region? a.r).any fun g => g.gen == a.gen && g.launch == a.launch) = true
          then t.raiseTrap a.r a.e a.slot code 0 else t)

/-- EGRESS and DELIVER (R295, R327, R336): a store to host memory joins the egress buffer and its completion is due; at the
front of its buffer it performs outside, and a link operation gets the answer of its destination, which is that it is done or
one of the failure codes 1 to 4. -/
def Sys2Proof.Machine.OutsideAccessesGo : Prop :=
  (∀ (s : State) (k : Nat) (a : Access), (s.mem.reqs.find? fun b => b.id == k) = some a → a.kind = .store →
    a.outside = true → s.performBlocked a = false → s.mem.homeCheck a.ctx a.pa a.size true = none →
    exec (.egress k) s = .next { s with mem := { s.mem with
      reqs := s.mem.reqs.filter fun b => b.id != a.id, egress := s.mem.egress ++ [a]
      replies := s.mem.replies ++ [⟨a, .done, s.mem.performs⟩], performs := s.mem.performs + 1 } }) ∧
  ∀ (s : State) (k : Nat) (a : Access), (s.mem.egress.find? fun b => b.id == k) = some a →
    (∀ b, b ∈ s.mem.egress.takeWhile (fun b => b.id != k) → a.sameBuffer b = false) →
    (∀ res, a.kind = .store → exec (.deliver k (.done res)) s = .next { s with mem := { s.mem with
      egress := s.mem.egress.filter fun b => b.id != a.id } }) ∧
    ∀ code, a.kind = .link → 1 ≤ code → code ≤ 4 →
      exec (.deliver k (.fail code)) s = .next { s with mem := { s.mem with
        egress := s.mem.egress.filter fun b => b.id != a.id
        replies := s.mem.replies ++ [⟨a, .fail code, s.mem.performs⟩], performs := s.mem.performs + 1 } }

/-! ### What comes back -/

/-- MEMORY_REPLY and PUSH (R258, R259, R262, R265, R270, R407): the data of a load become its token, and its completion is due in
the order of performances, once no reply that a freeze collected stands before it; a reply to an element that a pre-emption has
saved is collected; the oldest due completion and a ready data token leave as their places are free. The completion of a WCLOSE
frees its window. -/
def Sys2Proof.Machine.RepliesAndPushes : Prop :=
  ∀ (s : State) (c : Ctx), c.reg.runs = true →
    (∀ (k slot : Nat) (y : Reply) (o : OutF) (v : Payload) (p : Bool) (m : MemSt),
      (s.mem.replies.find? fun z => z.acc.id == k) = some y → y.val = .data v p →
      earlierReply s.mem.replies y.acc.id (fun b => b.isOf y.acc.r y.acc.e y.acc.gen) = false →
      y.acc.gen = c.reg.gen → m = { s.mem with replies := s.mem.replies.filter fun z => z.no != y.no } →
      State.at? { s with mem := m } y.acc.r y.acc.e y.acc.slot = some { c with slot := slot } →
      (c.el.saved = true → exec (.memoryReply k) s =
        .next ({ s with mem := m }.setGraph y.acc.r { c.g with collected := c.g.collected ++ [y] })) ∧
      (c.el.saved = false → (∀ z, z ∈ c.g.collected → z.acc.e ≠ y.acc.e) →
        (c.el.outs.find? fun z => z.id == y.acc.fid) = some o → o.opc = 0xD0 →
        ∃ el, exec (.memoryReply k) s = .next (c.put { s with mem := m } el) ∧
          el = (c.el.due o 0 y.no).setOut { o with
            ready := true
            data := if o.dst.isSome then
              [{ o.hd.getD ⟨0, .data, false, false, 0, 0⟩ with payload := v, poison := p }] else [] })) ∧
    (s.at? c.r c.e 0 = some c →
      (∀ d rest, c.el.dues = d :: rest → c.g.freePlaces c.e d.out ≠ 0 → s.earlierDue c d.no = false →
        c.g.tagOk c.e d.out d.tok = true →
        ∃ el u, (el, u) = (match c.el.outs.find? fun z => z.id == d.id with
            | some o => c.unmapped s (Elem.setOut { c.el with dues := rest } { o with cmpDone := true }) o
            | none => ({ c.el with dues := rest }, s)) ∧
          exec (.push c.r c.e none) s = .next (u.setGraph c.r ((c.g.setElem c.e el).push c.e d.out d.tok))) ∧
      ∀ id o k t rest, (c.el.outs.find? fun z => z.id == id) = some o → o.opc ≠ 0xF2 → o.ready = true →
        o.dst = some k → o.data = t :: rest → c.g.freePlaces c.e k ≠ 0 →
        c.el.classBlocked o = false → c.g.tagOk c.e k t = true →
        exec (.push c.r c.e (some id)) s =
          .next (s.setGraph c.r ((c.g.setElem c.e (c.el.setOut { o with data := rest })).push c.e k t)))

/-- MEMORY_REPLY of a translation that misses (R283, R285, R396): the request goes to the walker region of the die, where its
page-walk graph runs and can take it and none has come in the same cycle: a token with the VA, the request tag, level 3 and the
root table of the context. That the request tag is the next number of the state is log entry 33. At which input of the page-walk graph it arrives is log entry 126. -/
def Sys2Proof.Machine.MissesReachTheWalker : Prop :=
  ∀ (s : State) (c : Ctx) (k root : Nat) (o : OutF) (w : Region) (g : GraphSt), c.r < 128 → c.reg.runs = true →
    (∀ y, y ∈ s.mem.replies → y.acc.id ≠ k) → s.collectedReply k = none → s.findOut k = some (c.r, c.e, o) →
    s.at? c.r c.e o.slot = some c → o.opc = 0xE8 → o.ready = false → o.miss = true → o.asked = none →
    s.root? c.reg.ctx = some root → s.region? (128 + c.die) = some w → w.g = some g → w.runs = true → g.walkDoors ≠ [] →
    sget none s.mem.taken c.die ≠ some s.cycle → swf none s.mem.taken = true →
    ∃ (t : State) (e : Nat) (i : Fin 4) (tag : BitVec 3) (v : Payload) (d : Ctx), exec (.memoryReply k) s = .next t ∧
      (e, i, tag) ∈ g.walkDoors ∧ lane32 v 0 = o.va.extractLsb' 0 32 ∧ lane32 v 1 = o.va.extractLsb' 32 32 ∧
      lane32 v 2 = BitVec.ofNat 32 s.nextId ∧ lane32 v 3 = 3 ∧ pair64 v 4 = root % 2 ^ 64 ∧ (∀ l, 6 ≤ l → lane32 v l = 0) ∧
      t.region? (128 + c.die) = some { w with g := some (g.modIn e i fun n => { n with
        inflight := n.inflight ++ [⟨tag, .data, false, false, 0, v⟩] }) } ∧
      t.at? c.r c.e o.slot = some d ∧ d.el = c.el.setOut { o with asked := some s.nextId } ∧
      sget none t.mem.taken c.die = some s.cycle

/-- MEMORY_REPLY of an XINV (R258, R283): the entry that covers the VA of its operand is invalid, or every entry, and the firing is
outstanding no more. That the entries go with the reply is log entry 31, and that the node's misses go to the walker region
anew then is log entry 127. -/
def Sys2Proof.Machine.InvalidationsComplete : Prop :=
  ∀ (s : State) (c : Ctx) (k : Nat) (o : OutF) (x : ESt) (goes : TlbEnt → Bool), c.reg.runs = true →
    (∀ y, y ∈ s.mem.replies → y.acc.id ≠ k) → s.collectedReply k = none → s.findOut k = some (c.r, c.e, o) →
    s.at? c.r c.e o.slot = some c → o.opc = 0xE9 → o.ready = false → c.el.ks = .e x →
    (∀ t, goes t = true ↔ (lane32 o.arg 2).getLsbD 0 = true ∨ (t.va ≤ pair64 o.arg 0 ∧ pair64 o.arg 0 < t.va + t.size)) →
    exec (.memoryReply k) s = .next (c.put s { c.el with
      ks := .e { x with tlb := x.tlb.filter fun t => !goes t }
      outs := (c.el.outs.map fun y => { y with asked := none }).filter fun y => y.id != o.id })

/-- JOINF_RELEASE and FENCE_COMPLETE (R168, R286): an incomplete JOINF of a level below 5 pushes its token, and a FENCE
completes once nothing of its scope is pending. That a JOINF has popped its inputs when it is issued, so that nothing is popped at
its release, is log entry 34. -/
def Sys2Proof.Machine.WaitsComplete : Prop :=
  ∀ (s : State) (c : Ctx) (f : Firing), s.at? c.r c.e 0 = some c → c.reg.runs = true → c.el.saved = false →
    c.el.firing = some f → f.stage = .wait →
    (∀ x o, f.instr = .joinf x → x.dst = .out o → x.cnt.toNat < 160 → c.g.hasSpace c.e c.el o 1 = true →
      exec (.joinfRelease c.r c.e) s = .next (Ctx.fired { c with slot := f.slot } s
        { c.el with joinToks := c.el.joinToks.filter fun y => y.1 != f.slot, firing := none }
        [(o, ⟨0, .control, false, false, BitVec.ofNat 16 f.n, 0⟩)] 0 0)) ∧
    ∀ x, f.instr = .fence x → s.fenceWaits c f.n (x.imm.toNat % 8) = false →
      exec (.fenceComplete c.r c.e) s =
        .next (Ctx.memDone { c with slot := f.slot } s (c.el.withPw x.pw false) [] x.pop 0)

/-- COUNTER_RAISE and BARRIER_ARRIVAL (R287, R289): CSIG adds, or raises to at least its value, and saturates; an arrival
counts down, and the last one advances the phase and sets the count anew, its token holding the phase before. -/
def Sys2Proof.Machine.SignalsApply : Prop :=
  ∀ (s : State) (c : Ctx) (k : Nat) (o : OutF) (e : Nat), s.findOut k = some (c.r, e, o) →
    s.at? c.r e o.slot = some c → c.reg.runs = true →
    (o.opc = 0xEC → s.pendingBefore c o.id 4 = false →
      ∀ n v x, n = (lane32 o.arg 0).toNat → v = pair64 o.arg 2 →
        x.toNat = (if lane32 o.arg 1 = 0 then min ((s.mem.counter n).toNat + v) (2 ^ 64 - 1)
          else max (s.mem.counter n).toNat v) →
        exec (.counterRaise k) s = .next ((c.put s (c.el.dropOut k)).setCounter n x)) ∧
    (o.opc = 0xED → o.ready = false → s.pendingBefore c o.id o.level = false →
      ∀ n b b' t, n = (lane32 o.arg 0).toNat → b = s.mem.barrier n →
        b' = (if b.remaining ≤ 1 then ⟨b.expected, b.expected, b.phase + 1⟩
          else { b with remaining := b.remaining - 1 }) →
        t = { o.hd.getD ⟨0, .control, false, false, 0, 0⟩ with payload := ofWords [b.phase] } →
        exec (.barrierArrival k) s = .next ((c.put s (c.el.setOut { o with
          ready := true, data := if o.dst.isSome then [t] else [] })).setBarrier n b'))

/-- DECLARATION_ACCEPT, SCAN_END and DECLARATION_WITHDRAW (R71, R277, R278, R319, R350 to R352): an accepted DRV completes with
the handle and status 0, the pages it translated accessed, or, where its edge does not take the result's tag, raises FORMAT and
declares nothing; a scan that ends makes its row ready, or begins anew where it was extended, and the last initial one
advances the counter; the words that fail their check code are marked, and the row with them; the rows of one home slice
withdraw together, and while another slice has rows that have not, they stay recorded; with the last the handle is free. That an
acceptance sets accessed bits is log entry 27. -/
def Sys2Proof.Machine.DeclarationsRun : Prop :=
  (∀ (s : State) (c d : Ctx) (f : Firing) (x : RForm) (y : Decl) (r : Payload), s.at? c.r c.e 0 = some c →
    c.reg.runs = true → c.el.saved = false → c.el.firing = some f → f.stage = .wait → f.instr = .drv x →
    (∀ o, x.dst = .out o → c.g.hasSpace c.e c.el o 1 = true) → s.declare c.g c.reg.ctx c.reg.launch f.a f.b = .ok y →
    d = { c with slot := f.slot } → r = ofWords [BitVec.ofNat 32 y.handle, 0] →
    (∀ u, u = s.declTouch c.die c.g c.reg.ctx f.a f.b → d.inSets (pushesOf x.dst (d.tok x.md [x.sa, x.sb] none r)) →
      exec (.declarationAccept c.r c.e) s = .next (d.memDone { u with drv := u.drv ++ [y] }
        ((c.el.writeDst x.dst r).withPw x.pw false) (pushesOf x.dst (d.tok x.md [x.sa, x.sb] none r)) x.pop
        (readMask [x.sa, x.sb]))) ∧
    (¬ d.inSets (pushesOf x.dst (d.tok x.md [x.sa, x.sb] none r)) →
      exec (.declarationAccept c.r c.e) s = .next (s.raiseTrap c.r c.e f.slot 2 0))) ∧
  ∀ (s : State) (d : Decl) (h row : Nat) (w : DrvRow), (s.drv.find? fun y => y.handle == h) = some d →
    d.rows[row]? = some w →
    (∀ bad t w' d', w.scan = .initial ∨ w.scan = .scanning ∨ w.scan = .extended →
      t = s.eccMark bad (wordsOf w.pa (rowBytes d.baseFmt d.cols)) →
      w' = { d.scanRow t.mem.bytes w with
        scan := if w.scan = .extended then .scanning else .ready
        poison := readsPoison t.mem.poison w.pa (rowBytes d.baseFmt d.cols) } →
      d' = Decl.saturate { d with rows := d.rows.set row w' } →
      (d.pending = true → (∀ y, y ∈ d'.rows → y.scan ≠ .initial) →
        exec (.scanEnd h row bad) s = .next ((t.modDecl h fun _ => { d' with pending := false }).advance? d.counter)) ∧
      (d.pending = false → exec (.scanEnd h row bad) s = .next (t.modDecl h fun _ => d'))) ∧
    ∀ ctr d', d.withdraw = some ctr → d' = { d with
        rows := d.rows.map fun y => if y.slice = w.slice then { y with scan := .withdrawn } else y } →
      ((∃ y, y ∈ d'.rows ∧ y.scan ≠ .withdrawn) →
        exec (.declarationWithdraw h row) s = .next (s.modDecl h fun _ => d')) ∧
      ((∀ y, y ∈ d'.rows → y.scan = .withdrawn) → s.unmapReady ((s.lostPages d).flatMap (·.2)) = true →
        ∃ t, exec (.declarationWithdraw h row) s = .next t ∧ ∀ y, y ∈ t.drv → y.handle ≠ h)

/-! ### The link -/

/-- What a round waits for, in which order a switch takes it up, and what it forms (R423 to R425): it waits for the local
contribution, if any, and that of every child; the local one comes first, then those of the child ports ascending. Under
ORDERED, and of a maximum or minimum, the first is reduced with each other one in turn, lane by lane; under EXACT with sum each
lane has one record, which starts cleared and takes up each local value and merges each child's record, and the root rounds
it. -/
def Sys2Proof.Machine.ReductionsForm : Prop :=
  (∀ (r : GroupRec) (x : Round), redComplete r x = true ↔
    (r.localMember = true → x.own ≠ none) ∧ ∀ p, p < 24 → r.children.getLsbD p = true → ∃ c, (p, c) ∈ x.kids) ∧
  (∀ (r : GroupRec) (x : Round), redInOrder r x = (x.own.map fun t => [Contrib.toks t]).getD [] ++
    (List.range 24).filterMap fun p =>
      if r.children.getLsbD p = true then (x.kids.find? fun k => k.1 == p).map (·.2) else none) ∧
  (∀ (r : GroupRec) (f : Fmt) (x : Round) (t : List Payload) (rest : List (List Payload)),
    ¬ (r.exact = true ∧ r.op = 0) → redInOrder r x = (t :: rest).map .toks →
    (r.exact = false → redFormed r f x = .toks (rest.foldl (reduceToks f r.op) t)) ∧
    (r.exact = true → redFormed r f x = .toks (rest.foldl (reduceToks f r.op) (reduceToks f r.op t t)))) ∧
  (∀ (f : Fmt) (op j i : Nat) (a b : List Payload) (x y v : Payload), a[j]? = some x → b[j]? = some y →
    (reduceToks f op a b)[j]? = some v → i < f.lanes →
    lane v f.lane i =
      BitVec.ofNat f.lane (reduceOp f op ((unpackCodes f x).getD i 0) ((unpackCodes f y).getD i 0))) ∧
  (∀ (r : GroupRec) (f : Fmt) (x : Round) (j i : Nat) (add : XS → Contrib → XS), r.exact = true → r.op = 0 →
    (∀ t, .toks t ∈ redInOrder r x → t.length = r.length) →
    (∀ l, .recs l ∈ redInOrder r x → l.length = r.length ∧ ∀ z, z ∈ l → z.length = f.lanes) →
    (∀ acc t, add acc (.toks t) = xsAdd acc ((unpack f (t.getD j 0)).getD i .zero) false) →
    (∀ acc l, add acc (.recs l) = xsMerge acc ((l.getD j []).getD i XS.clear)) → j < r.length → i < f.lanes →
    ∃ l, redFormed r f x = .recs l ∧ l.length = r.length ∧
      (l.getD j []).getD i XS.clear = (redInOrder r x).foldl add XS.clear) ∧
  (∀ (f : Fmt) (l : List Payload), redAtRoot f (.toks l) = l) ∧
  ∀ (f : Fmt) (l : List (List XS)) (j i : Nat) (y : List XS) (v : Payload), l[j]? = some y →
    (redAtRoot f (.recs l))[j]? = some v → i < f.lanes →
    lane v f.lane i = BitVec.ofNat f.lane (xsRound (y.getD i XS.clear) 1 f .rne)

/-- PUTS_SIGNAL, DESTINATION_UNREACHABLE, LINK_PACKET_ARRIVAL and SWITCH_REDUCE (R293, R295, R336, R417, R420, R423): a
signal of a held counter advances it and is answered once its packet's data are visible; every operation owed to an
unreachable package, of a send engine, an issue queue, a request queue or an egress buffer, one that waits for its stream input,
and in a saved image too, ends with code 3, which a region at rest and an element that a pre-emption has saved collect with their
image (R407, R408); an LSEND packet
at the front of its flow joins its queue, or waits while that is full; and of the oldest round that it has not passed on a
switch, once it has all of it, sends what it forms to its parent, or, at the root, gives it as the result to its local member and
its children. -/
def Obligations.LinkEventsApply : Prop :=
  (∀ (s : State) (k n src flow ctx va : Nat) (x : Inbound) (v : BitVec 64),
    (s.link.inbound.find? fun q => q.id == k) = some x → x.pkt = .put src flow ctx va [] (some (true, n)) →
    s.hostDataLeft k = false → s.holdsCounter ctx n = true →
    v.toNat = min ((s.mem.counter n).toNat + 1) (2 ^ 64 - 1) →
    exec (.putsSignal k) s = .next { s.setCounter n v with link := { s.link with
      inbound := s.link.inbound.filter fun q => q.id != x.id, acks := s.link.acks ++ [(src, .done [])] } }) ∧
  (∀ (s : State) (lg pkg : Nat) (owed : Nat → Nat → Payload → Prop),
    owed = (fun launch opc a => opc ≠ 0xF3 ∧ (lane32 a 2).toNat = pkg ∧ s.inLinkGroup launch lg = true) →
    ∃ t, exec (.destinationUnreachable ⟨lg, pkg⟩) s = .next t ∧ (lg, pkg) ∈ t.link.unreachable ∧
      t.sched = { s.sched with launches := t.sched.launches } ∧
      (t.sched.launches.map fun l => { l with saved := none }) = (s.sched.launches.map fun l => { l with saved := none }) ∧
      t.mem.bytes = s.mem.bytes ∧
      (∀ l g el x y, l ∈ t.sched.launches → l.saved = some g → el ∈ g.elems → el.ks = .e x → y ∈ x.sends →
        ¬ owed l.id y.opc y.a) ∧
      (∀ r reg g el x y, r < 136 → s.region? r = some reg → reg.g = some g → el ∈ g.elems →
        reg.state = .parked ∨ reg.state = .frozen ∨ el.saved = true → el.ks = .e x → y ∈ x.sends → owed reg.launch y.opc y.a →
        ∃ reg' g' z, t.region? r = some reg' ∧ reg'.g = some g' ∧ z ∈ g'.collected ∧ z.acc.fid = y.id ∧ z.val = .fail 3) ∧
      (∀ a, a ∈ t.mem.reqs ↔ a ∈ s.mem.reqs ∧ ¬ (a.kind = .link ∧ owed a.launch a.opc a.a)) ∧
      (∀ a, a ∈ t.mem.egress ↔ a ∈ s.mem.egress ∧ ¬ (a.kind = .link ∧ owed a.launch a.opc a.a)) ∧
      (∀ a, a ∈ s.mem.reqs ++ s.mem.egress → a.kind = .link → owed a.launch a.opc a.a →
        ∃ no, ⟨a, .fail 3, no⟩ ∈ t.mem.replies) ∧
      ∀ r e c x, r < 136 → t.at? r e 0 = some c → c.el.ks = .e x →
        (∀ g, g ∈ x.sends → ¬ owed c.reg.launch g.opc g.a) ∧
        (∀ f opc y, c.el.firing = some f → heldSend? f = some (opc, y) → ¬ owed c.reg.launch opc (c.src 0 y.sa)) ∧
        ∀ a, a ∈ c.el.issueQ → a.kind = .link → ¬ owed c.reg.launch a.opc a.a) ∧
  (∀ (s : State) (c : Ctx) (x : ESt) (q : Fin 8) (toks : List RxTok) (src flow : Nat) (p : Packet),
    s.at? c.r c.e 0 = some c → c.el.ks = .e x → p = .send src flow c.r c.e q.val toks →
    (∀ y, y ∈ s.link.inbound → y.id ≠ s.nextId ∧ packetKey y.pkt ≠ (0, src, flow)) →
    ((x.rx.get q).length < 16 →
      exec (.linkPacketArrival p) s =
        .next { c.put s { c.el with ks := .e { x with rx := x.rx.set q (x.rx.get q ++ [toks]) } } with
          nextId := s.nextId + 1, link := { s.link with acks := s.link.acks ++ [(src, .done [])] } }) ∧
    (16 ≤ (x.rx.get q).length →
      exec (.linkPacketArrival p) s = .next { s with
        nextId := s.nextId + 1, link := { s.link with inbound := s.link.inbound ++ [⟨s.nextId, p, [], .start⟩] } })) ∧
  (∀ (s : State) (n : Nat) (g : GroupSt) (pre : List Round) (x : Round) (rest : List Round) (f : Fmt) (u : Contrib),
    s.link.group? n = some g → g.rounds = pre ++ x :: rest → (∀ y, y ∈ pre → y.sent = true) → x.sent = false →
    Fmt.ofRecord g.record.fmt = some f → u = redFormed g.record f x →
    (redComplete g.record x = false → exec (.switchReduce n) s = .next s) ∧
    (∀ p t, redComplete g.record x = true → g.record.parent = some p →
      t = s.setGroup n { g with rounds := pre ++ { x with sent := true } :: rest } →
      exec (.switchReduce n) s = .next { t with link := { t.link with sentUp := t.link.sentUp ++ [(n, u)] } }) ∧
    ∀ res t, redComplete g.record x = true → g.record.parent = none → res = redAtRoot f u →
      t = s.setGroup n { g with rounds :=
        pre ++ (if g.record.localMember = true then [{ x with sent := true, result := some res }] else []) ++ rest } →
      (g.record.children = 0 → exec (.switchReduce n) s = .next t) ∧
      (g.record.children ≠ 0 →
        exec (.switchReduce n) s = .next { t with link := { t.link with sentDown := t.link.sentDown ++ [(n, res)] } })) ∧
  ReductionsForm

/-! ### Drains and the Owl detector -/

/-- DRAIN_MARKER_PASS, OWL_QUIESCENCE and EXTERNAL_WAIT_EXPIRY (R81, R162, R165, R379, R381): a draining element that owes
nothing passes its markers on, and a halted one once they stand at every input that an edge feeds; a quiescent region whose
last partition is complete ends its launch with end state 0, one with partitions left is parked for the switch; one that only
waits outside starts its limit, and past the limit it has deadlocked. That an input which a cut edge feeds is none of those, as no
marker crosses the edge (`liveFed`), is log entry 35. -/
def Obligations.QuiescenceEnds : Prop :=
  (∀ (s : State) (c : Ctx) (el : Elem), s.live? c.r c.e = some c → c.el.saved = false →
    c.el.owesNothing = true → el = c.el.dropMarkers ((c.g.liveFed c.e).filter c.el.drainAt) → el.owesNothing = true →
    (c.el.stop = .draining →
      exec (.drainMarkerPass c.r c.e) s =
        .next (s.setGraph c.r ((c.g.setElem c.e { el with stop := .drained }).pushMarkers c.e drainMarker 0))) ∧
    (c.el.stop = .halted → c.g.liveFed c.e ≠ [] → (∀ i, i ∈ c.g.liveFed c.e → c.el.head? i = some drainMarker) →
      exec (.drainMarkerPass c.r c.e) s =
        .next (s.setGraph c.r ((c.g.setElem c.e { el with stop := .haltedDrained }).pushMarkers c.e drainMarker 0)))) ∧
  ∀ (s : State) (r : Nat) (reg : Region) (g : GraphSt), s.region? r = some reg → reg.g = some g →
    reg.preempt ≠ .running → reg.switching = false → s.quiescent r = true →
    (s.partDone r = true → g.parts ≤ g.part + 1 →
      exec (.owlQuiescence r) s = .next (s.endLaunch reg.launch 0 0 (List.replicate 8 0) [])) ∧
    (s.partDone r = true → g.part + 1 < g.parts →
      exec (.owlQuiescence r) s = .next { s.setRegion r { reg with
          state := .parked, loadPart := g.part + 1, restoring := false, switching := true, quietAt := none } with
        sched := s.sched.modLaunch reg.launch fun l => { l with state := .parked } }) ∧
    (s.partDone r = false → (s.liveElems r).any s.waitsOutside = true →
      (reg.quietAt = none →
        exec (.owlQuiescence r) s = .next (s.setRegion r { reg with quietAt := some s.clock.toNat })) ∧
      ∀ t, reg.quietAt = some t → t + s.sched.extLimit ≤ s.clock.toNat →
        exec (.externalWaitExpiry r) s =
          .next (s.endLaunch reg.launch 1 0 (List.replicate 8 0) (s.deadlockEntries r)))

/-! ### Launches -/

/-- LAUNCH_WINDOW_WRITE, LAUNCH_WAIT_MET, SIGNAL_COUNTER_ADVANCE, AGE_PROMOTION and TIME_TRIGGER_START (R371, R373 to
R375, R377). That the first of the dies' age limits that passes promotes a record is log entry 111; that a start of an entry whose
context is gone submits nothing and is a skip is log entry 129. -/
def Sys2Proof.Machine.LaunchesAdvance : Prop :=
  ∀ (s : State),
    (∀ ctx off bytes c, s.sched.context? ctx = some c → bytes.length = 64 → off % 64 = 0 → off < 4096 →
      exec (.launchWindowWrite ctx off bytes) s = .next (s.submit ctx (launchRec bytes) none).1) ∧
    (∀ l x, s.sched.launch? l = some x →
      (x.state = .waiting → s.waitsMet x.record = true →
        exec (.launchWaitMet l) s = .next { s with
          sched := s.sched.modLaunch l fun y => { y with state := .ready, readyAt := s.clock.toNat } }) ∧
      (x.state = .ended → x.sigDue = true → s.launchBusy l = false → x.record.signal ≠ 0xFFFF →
        exec (.signalCounterAdvance l) s = .next (State.advance
          { s with sched := s.sched.modLaunch l fun y => { y with sigDue := false } } x.record.signal.toNat)) ∧
      (∀ die, x.state = .ready → die < 8 → x.readyAt + sget 0 s.sched.ageLimits die < s.clock.toNat →
        x.record.ctl.toNat % 4 ≠ 3 → x.prio < 2 →
        exec (.agePromotion l) s = .next { s with
          sched := s.sched.modLaunch l fun y => { y with prio := y.prio + 1, readyAt := s.clock.toNat } })) ∧
    ∀ idx t (u : Nat → State), sget none s.sched.table idx = some t → t.ent.period ≠ 0 →
      t.ent.offset + t.k * t.ent.period ≤ s.clock.toNat → s.sched.lastOf idx = none →
      u = (fun n => { s with sched := { s.sched with
        table := sset none s.sched.table idx (some { t with k := t.k + 1, skips := t.skips + n }) } }) →
      ((s.sched.context? t.ent.ctx).isSome = true → exec (.timeTriggerStart idx) s =
        .next (State.submit (u 0) t.ent.ctx t.ent.record (some (idx, t.ent.offset + t.k * t.ent.period))).1) ∧
      (s.sched.context? t.ent.ctx = none → exec (.timeTriggerStart idx) s = .next (u 1))

/-- ADMISSION (R78, R118, R250, R324, R376, R378): the first record in a die's order whose region fits, and whose image the
mapper places there, takes a free region slot, whose state is then LOADING under the next generation that no reply still bears;
the placement joins the cache. An image for which the mapper lacks reorder space ends its launch with end state 2. What the
mapper may choose is log entry 100, and that byte 5 is zero then and the detail bytes hold the element first is log entry 50. -/
def Sys2Proof.Machine.AdmissionLoads : Prop :=
  ∀ (s : State) (die : Nat) (pl : Placement) (l : Launch) (x y w h r : Nat) (old : Region)
    (key : Option (BitVec 384 × BitVec 384)), s.plat.boot = .running → die < 8 →
    s.admits? die = some (l, x, y, w, h) →
    s.freeSlot? die = some r → s.region? r = some old →
    (∀ pl' u gen, s.placeImage l x y w h pl = (key, some (.ok pl')) → s.mem.nextGen r old.gen = some gen →
      u = s.cachePut (key.map fun k => cacheKey k x y w h) pl' →
      exec (.admission die pl) s = .next { u.setRegion r { Region.empty with
          state := .loading, gen := gen, launch := l.id, ctx := l.ctx, x := x, y := y, w := w, h := h
          pl := pl' } with
        sched := u.sched.modLaunch l.id fun z => { z with state := .loading, region := some r, key := key } }) ∧
    ∀ e, s.placeImage l x y w h pl = (key, some (.error e)) →
      exec (.admission die pl) s = .next (s.endLaunch l.id 2 0 (leBytes 4 e ++ [0xFF] ++ List.replicate 3 0) [])

/-! ### Regions -/

/-- REGION_ARM (R16, R57, R79, R81, R83): a region that loads is armed, and its launch runs: with the restored graph; with
its next partition, in which every element is at its reset values and the parked tokens stay; or with the fresh graph of a
legal image that passes the load checks, which otherwise ends the launch with end state 2. A walker region is armed with its
page-walk graph. That reading an image sets the accessed bits of its pages (`touchRead`) is log entry 62. -/
def Sys2Proof.Machine.RegionsArm : Prop :=
  ∀ (s : State) (r : Nat) (reg : Region) (armed : GraphSt → Region) (running : SchedSt → SchedSt),
    s.region? r = some reg → reg.state = .loading →
    armed = (fun g => { reg with
      state := .armed, g := some g, restoring := false, switching := false, quietAt := none, armedAt := s.cycle }) →
    running = (fun d => d.modLaunch reg.launch fun l => { l with state := .running }) →
    (∀ g, reg.restoring = true → reg.g = some g →
      exec (.regionArm r) s = .next { s.setRegion r (armed g) with sched := running s.sched }) ∧
    (∀ g g', reg.restoring = false → reg.image = none → reg.loadPart ≠ 0 → reg.g = some g →
      g' = { g with part := reg.loadPart, elems := g.elems.map fun (el : Elem) => Elem.arm el.img } →
      exec (.regionArm r) s = .next { s.setRegion r (armed (g'.placeTokens s.cycle)) with sched := running s.sched }) ∧
    (∀ l head bs u, reg.restoring = false → reg.image = none → reg.loadPart = 0 → s.sched.launch? reg.launch = some l →
      s.readVa l.ctx l.record.imageVa.toNat 64 = some head → firstBad (headerChecks head) = none →
      s.readVa l.ctx l.record.imageVa.toNat (fieldOf head 8 4) = some bs → imageBad bs = none →
      u = (s.touchRead (dieOf r) l.ctx l.record.imageVa.toNat 64).touchRead (dieOf r) l.ctx l.record.imageVa.toNat
        (fieldOf head 8 4) →
      (s.loadErr? l.id (recDet l.record) (recFlag l.record) (readImage bs) = none →
        exec (.regionArm r) s = .next { u.setRegion r (armed ((readImage bs).fresh reg (s.spillOf l.ctx) s.cycle)) with
          sched := running (u.sched.modLaunch l.id fun y => { y with flagged := (readImage bs).conflicts }) }) ∧
      ∀ e, s.loadErr? l.id (recDet l.record) (recFlag l.record) (readImage bs) = some e →
        exec (.regionArm r) s = .next (u.endLaunch l.id 2 e.step e.detail [])) ∧
    ∀ pa x, reg.restoring = false → reg.image = some pa → s.walkerImage? pa = some x →
      exec (.regionArm r) s = .next (s.setRegion r { reg with
        state := .armed, g := some (x.fresh reg 0 s.cycle), quietAt := none, armedAt := s.cycle })

/-- RESUME_FROM_RETENTION, GATE_REGION, REGION_RELEASE and SCAN_OUT (R57, R81, R84, R323, R407, R409, R438): a region that
rests parked by a pre-emption is armed again, gated, or scanned out; and a parked, frozen or gated region whose launch stands
elsewhere is freed, whether or not it holds a graph still: its slot keeps its generation alone, the clusters take the margins
planned for them, and what R409 names is counted. That gating and the end of a launch drop the windows' masks at the homes
(`dropMasks`) is log entry 88, and that a scanned-out image keeps no translation entries (`clearTlb`) is log entry 82. -/
def Sys2Proof.Machine.RegionsChangeState : Prop :=
  ∀ (s : State) (r : Nat) (reg : Region), s.region? r = some reg →
    (reg.state = .parked → reg.switching = false → reg.freezing = false →
      (∀ g, reg.g = some g →
        exec (.resumeFromRetention r) s = .next { s.setRegion r { reg with state := .armed, quietAt := none } with
          sched := s.sched.modLaunch reg.launch fun l => { l with state := .running } } ∧
        exec (.scanOut r) s = .next { s.setRegion r { reg with g := none } with
          sched := s.sched.modLaunch reg.launch fun l => { l with saved := some g.clearTlb, region := none } }) ∧
      exec (.gateRegion r) s =
        .next { (s.setRegion r { reg with state := .gated, g := none }).dropMasks reg.launch with
          volt := s.volt.settle (reg.clusters r) }) ∧
    (reg.state = .parked ∨ reg.state = .frozen ∨ reg.state = .gated →
      (∀ l, s.sched.launch? reg.launch = some l → l.region ≠ some r) →
      exec (.regionRelease r) s = .next { s with
        regions := s.regions.set r { Region.empty with gen := reg.gen }
        volt := s.volt.settle (reg.clusters r)
        mem := { s.mem with
          replaceDiscard := bumpBy s.mem.replaceDiscard (dieOf r) ((reg.g.map GraphSt.discardCount).getD 0) } })

/-- RESTORE (R78, R84, R324, R408, R410): a parked launch is admitted to a region that fits, where the mapper places it, under
its next generation: with its saved image, or that of its region in retention, at the sites of the new placement, or with none,
for a full load; a region that it leaves is freed. What the mapper may choose is log entry 100, and what goes before a restore
is log entry 86. -/
def Sys2Proof.Machine.RestoreLoads : Prop :=
  ∀ (s : State) (l die r x y w h : Nat) (pl pl' : Placement) (z : Launch) (q old : Region) (g : Option GraphSt)
    (gen : BitVec 12) (key : Option (BitVec 384 × BitVec 384)),
    s.sched.launch? l = some z → z.state = .parked → s.plat.boot = .running → die < 8 → s.imageHeld z = false →
    s.restoreAt? z die = some (r, x, y, w, h) → s.region? r = some q → g = s.imageOf z →
    s.placeAgain z g x y w h pl = (key, some (.ok pl')) → s.mem.nextGen r q.gen = some gen → old = ((z.region.bind s.region?).getD Region.empty) →
    ∃ t, exec (.restore l die pl) s = .next t ∧
      t.region? r = some { Region.empty with
        state := .loading, gen := gen, launch := z.id, ctx := z.ctx, x := x, y := y, w := w, h := h
        g := g.map (fun g => { g with sites := placeSites pl' (g.elems.map (·.img)) x y w }), restoring := g.isSome
        pl := pl', preempt := old.preempt, ckpt := old.ckpt } ∧
      t.sched.launch? l = some { z with state := .loading, region := some r, saved := none, key := key } ∧
      (∀ k, z.region = some k → k ≠ r → s.region? k = some old → t.region? k = some { Region.empty with gen := old.gen }) ∧
      (∀ k, k ≠ r → z.region ≠ some k → t.region? k = s.region? k) ∧ t.mem = s.mem ∧ t.plat = s.plat ∧ t.link = s.link

/-- PREEMPTION_START and ELEMENT_SAVE (R406, R407, R410, R438): a first load that is to be pre-empted is cancelled and its
launch is READY again, its clusters free; in a running region the markers enter at the ingresses; an element that may save
stops issuing and its markers go out. -/
def Sys2Proof.Machine.PreemptionRuns : Prop :=
  (∀ (s : State) (r : Nat) (reg : Region), s.region? r = some reg → reg.preempt ≠ .none →
    (reg.state = .loading → reg.loadPart = 0 → reg.restoring = false →
      exec (.preemptionStart r) s = .next { s.setRegion r { Region.empty with gen := reg.gen } with
        volt := s.volt.settle (reg.clusters r)
        sched := s.sched.modLaunch reg.launch fun l =>
          { l with state := .ready, region := none, readyAt := s.clock.toNat } }) ∧
    ∀ g, reg.g = some g → reg.runs = true →
      exec (.preemptionStart r) s = .next (s.setRegion r { reg with
        g := some g.enterMarkers, preempt := .running, quietAt := none })) ∧
  ∀ (s : State) (c : Ctx), s.live? c.r c.e = some c → s.maySave c = true →
    exec (.elementSave c.r c.e) s = .next ((s.setGraph c.r (c.g.save c.e)).checkParked c.r)

/-- FREEZE, FREEZE_SCAN, FAULT_SERVICE and FLTH_REPLY (R400 to R403): a region with a fault freezes; with every reply
collected it is FROZEN; a fault that is declined ends the launch with end state 6; and a fault handed over is answered
with code 1 where it is declined. -/
def Sys2Proof.Machine.FreezesRun : Prop :=
  (∀ (s : State) (r : Nat) (reg : Region), s.region? r = some reg →
    (s.regionFaults r ≠ [] →
      exec (.freeze r) s = .next (s.setRegion r { reg with
        freezing := true, faults := s.regionFaults r, quietAt := none })) ∧
    (reg.freezing = true → s.mem.awaitsReply r reg.gen = false →
      exec (.freezeScan r) s = .next (s.setRegion r { reg with state := .frozen, freezing := false })) ∧
    ∀ g f rest, reg.state = .frozen → reg.g = some g → reg.faults = f :: rest →
      exec (.faultService r true) s =
        .next (s.endLaunch reg.launch 6 0 (leBytes 4 f.elem ++ leBytes 1 f.code ++ List.replicate 3 0) [])) ∧
  ∀ (s : State) (c : Ctx) (id : Nat) (o : OutF), s.at? c.r c.e 0 = some c → c.reg.runs = true →
    (c.el.outs.find? fun y => y.id == id) = some o → o.opc = 0xFA → o.ready = false →
    exec (.flthReply c.r c.e id true) s = .next (c.put s (c.el.setOut { o with
      ready := true
      data := if o.dst.isSome then [{ o.hd.getD ⟨0, .control, false, false, 0, 0⟩ with coord := 1 }] else [] }))

/-! ### Memory management and agents -/

/-- SHOOTDOWN, BADGER_VISIT, BUCKET_REFILL and CONFIG_REGISTER_WRITE (R317, R377, R381, R397, R405, R412): a shootdown drops
the page everywhere; a visit clears the accessed bit and the A bit of the entry that maps the frame, and marks the frame swept
where it has an owner; a refill adds each
bucket's rate up to its burst, and starts the interval of the die's port anew; and limits are written. How a shootdown and a
refill come is log entry 37, and that it drops the answers to the context's walks under way is log entry 127; that only a frame with
an owner is marked swept, and which entry maps a frame that nothing has translated, is log entry 63; that the A bit may change as a
request that waits is log entry 62. -/
def Sys2Proof.Machine.ManagementRuns : Prop :=
  ∀ s : State,
    (∀ ctx va, ∃ t, exec (.shootdown ctx va) s = .next t ∧ t.mem = s.mem ∧
      t.regions = s.regions.map fun x => { x with
        g := x.g.map fun g => if x.ctx = ctx then g.unask.shoot ctx va else g.shoot ctx va }) ∧
    (∀ frame, swf noFrame s.mem.frames = true →
      ∃ t, exec (.badgerVisit frame) s = .next t ∧ swf noFrame t.mem.frames = true ∧
      sget noFrame t.mem.frames frame = { sget noFrame s.mem.frames frame with
        accessed := false, swept := (sget noFrame s.mem.frames frame).owner.isSome } ∧
      (∀ a b, Memory.wf s.mem.bytes = true → s.framePte? frame = some a → b ≠ a + 2 →
        readByte t.mem.bytes b = readByte s.mem.bytes b) ∧
      (s.framePte? frame = none → t.mem.bytes = s.mem.bytes) ∧
      ∀ a, s.framePte? frame = some a → Memory.wf s.mem.bytes = true →
        (s.ownWaits (a + 2) 1 0 = false → (s.mem.frame (a + 2)).derived = false →
          readByte t.mem.bytes (a + 2) = readByte s.mem.bytes (a + 2) &&& 0x7F) ∧
        (s.ownWaits (a + 2) 1 0 = true → s.mem.amended (a + 2) 0x7F 0 = false →
          t.mem.bytes = s.mem.bytes ∧ ∃ x : Access, t.mem.reqs = s.mem.reqs ++ [x] ∧ x.pa = a + 2 ∧ x.size = 1 ∧
            x.kind = .port 9 (.amend 0x7F 0))) ∧
    (∀ die, exec (.bucketRefill die) s = .next { s with mem := { s.mem with
      buckets := s.mem.buckets.map fun x =>
        if x.1 / 1024 = die then
          (x.1, x.2.map fun b => { b with level := min b.burst (b.level + b.rate), borrowed := 0 }) else x
      ports := s.mem.ports.map fun x => if x.1 = die then (x.1, { x.2 with inIn := 0, outIn := 0 }) else x } }) ∧
    (∀ die n, die < 8 → exec (.configRegisterWrite (.ageLimit die n)) s = .next { s with
      sched := { s.sched with ageLimits := sset 0 s.sched.ageLimits die n } }) ∧
    ∀ n, exec (.configRegisterWrite (.externalWaitLimit n)) s = .next { s with sched := { s.sched with extLimit := n } }

/-- HOST_CXL_ACCESS, CONTROL_CORE_ACCESS and INVALIDATION_ACKNOWLEDGE (R8, R303, R308, R311 to R314, R353, R413, R414): an
exported write that may perform is a home-side store, and an exported read gives the host the bytes at the home; outside the
384 GiB, which log entry 118 places at 0, a core reaches nothing; a core that shares a coherent line nobody holds gets its
bytes, one that stores to it owns it with those bytes, and one that holds it reads its own copy; and a holder that acknowledges leaves the line, its dirty copy going home first. An
access that nothing of its own port holds back performs at once (R325). -/
def Sys2Proof.Machine.AgentsAccess : Prop :=
  ∀ s : State,
    (∀ pa bytes, s.exported pa bytes.length = true → pa < 2 ^ 51 → (s.mem.frame pa).derived = false →
      s.writable (s.mem.typeOf (pa / 64)) pa bytes.length none = true → (∀ b, b ∈ s.mem.reqs ++ s.mem.replays → b.r ≠ 145) →
      ∃ a : Access, a.id = s.nextId ∧ a.pa = pa ∧ a.size = bytes.length ∧ a.kind = .port 8 (.write bytes) ∧
        exec (.hostCxlAccess (.memWrite pa bytes)) s = .next (State.unqueued (State.homeStore { s with
          nextId := s.nextId + 1, mem := { s.mem with reqs := s.mem.reqs ++ [a] } } (s.mem.typeOf (pa / 64)) pa bytes
            none none) a)) ∧
    (∀ pa n, s.exported pa n = true → pa < 2 ^ 51 → (s.mem.frame pa).derived = false →
      (∀ h, h ∈ (s.mem.dirAt (pa / 64)).holders → isDirty h.st = false) →
      (∀ b, b ∈ s.mem.reqs ++ s.mem.replays → b.r ≠ 145) →
      ∃ t, exec (.hostCxlAccess (.memRead pa n [])) s = .next t ∧ t.mem.bytes = s.mem.bytes ∧
        t.mem.hostReads = s.mem.hostReads ++ [(8, readBytes s.mem.bytes pa n, readsPoison s.mem.poison pa n)]) ∧
    (∀ core line req, 8 ≤ core ∨ 384 * 2 ^ 30 ≤ 64 * line → exec (.controlCoreAccess core line req) s = .next s) ∧
    (∀ core line, core < 8 → 64 * line < 384 * 2 ^ 30 → s.mem.typeOf line = 0 →
      (∀ b, b ∈ s.mem.reqs ++ s.mem.replays → b.r ≠ 137 + core) →
      ((s.mem.dirAt line).holders = [] →
        ∃ t, exec (.controlCoreAccess core line .share) s = .next t ∧ t.mem.bytes = s.mem.bytes ∧
          ⟨core, .S, false, readBytes s.mem.bytes (64 * line) 64, []⟩ ∈ (t.mem.dirAt line).holders) ∧
      ((s.mem.dirAt line).holders = [] → (s.mem.dirAt line).windows = [] → (s.mem.frame (64 * line)).derived = false →
        ∀ off bytes, off + bytes.length ≤ 64 →
        ∃ t h, exec (.controlCoreAccess core line (.store off bytes)) s = .next t ∧ t.mem.bytes = s.mem.bytes ∧
          h ∈ (t.mem.dirAt line).holders ∧ h.agent = core ∧ h.st = .M ∧ (h.data.drop off).take bytes.length = bytes) ∧
      ∀ h, (s.mem.dirAt line).holders = [h] → h.agent = core → h.dropped = false →
        (s.mem.frame (64 * line)).derived = false → ∀ off n, off + n ≤ 64 →
        ∃ t p, exec (.controlCoreAccess core line (.read off n [])) s = .next t ∧ t.mem.bytes = s.mem.bytes ∧
          t.mem.hostReads = s.mem.hostReads ++ [(core, (h.data.drop off).take n, p)]) ∧
    ∀ (agent line : Nat) (left : State → MemSt), (s.mem.dirAt line).awaiting.contains agent = true →
      left = (fun t => t.mem.setDir line { t.mem.dirAt line with
        holders := (s.mem.dirAt line).holders.filter fun x => x.agent != agent
        awaiting := (s.mem.dirAt line).awaiting.filter fun a => a != agent }) →
      ((∀ h, h ∈ (s.mem.dirAt line).holders → h.agent = agent → isDirty h.st = false) →
        exec (.invalidationAcknowledge agent line) s = .next { s with mem := left s }) ∧
      ∀ h, (s.mem.dirAt line).holders.find? (fun h => h.agent == agent && isDirty h.st && !h.dropped) = some h →
        (∀ j, j ∈ h.stored → s.scanBlocks (64 * line + j) 1 = false) →
        exec (.invalidationAcknowledge agent line) s = .next { s.writeHome line h with mem := left (s.writeHome line h) }

/-! ### The platform -/

/-- RESET and BOOT_STAGE (R427, R431, R437, R438): a reset leaves stage 0 to run, no launch and every region
FREE, with memory, fuses and flash kept; stage 2 whose steps all pass, with an accepted copy of stage 3, leaves no byte of
memory listed and no margin still planned. What else a reset keeps is log entry 76. -/
def Sys2Proof.Machine.ResetAndBoot : Prop :=
  ∀ s : State,
    (∃ t, exec .reset s = .next t ∧ t.plat.boot = .stage 0 ∧ t.sched.launches = [] ∧
      t.regions = List.replicate 136 Region.empty ∧ t.mem.bytes = s.mem.bytes ∧ t.plat.flash = s.plat.flash ∧
      t.plat.keyRsa = s.plat.keyRsa ∧ t.plat.keySlh = s.plat.keySlh ∧ t.plat.secret = s.plat.secret) ∧
    ∀ run, s.plat.boot = .stage 2 →
      ∃ t, exec (.bootStage .done run) s = .next t ∧ t.mem.bytes = [] ∧ t.mem.poison = [] ∧ t.volt.planned = [] ∧
        (t.plat.boot = .stage 3 ∨ t.plat.boot = .safe ∧ t.plat.safeReason = 1)

/-- MAILBOX_UPDATE, ATTESTATION_REQUEST, MARGIN_REPLAN, THERMAL_THRESHOLD, SUPPLY_FAULT and DEVICE_CLOCK_DISCIPLINE (R13,
R432, R434 to R436, R438, R440). A planned margin is in force at once where its cluster is FREE or GATED, and else is kept for
when it is; that, and that a slow mark stays under a mapped-out one, is log entry 77. At 115 degrees the launch of every region
ends with end state 4 and the device is in its safe state with reason 4; from 105 on it throttles, and below 100 no longer; in
between nothing changes. That a supply fault before stage 3 runs counts as a failed boot is log entry 78, and that a clock set
back stands still is log entry 53. -/
def Sys2Proof.Machine.PlatformEventsRun : Prop :=
  ∀ s : State,
    (∀ p c h, exec (.mailboxUpdate p c h) s = .next { s with plat := { s.plat with
      power := p, coolant := c, hottest := h, lastUpdate := s.clock } }) ∧
    (∀ nonce, s.plat.boot = .running → nonce.length = 32 →
      exec (.attestationRequest nonce) s = .next { s with plat := { s.plat with
        reports := s.plat.reports ++ [s.plat.attest nonce] } }) ∧
    (∀ n m, n < 512 → swf 0 s.volt.margins = true →
      ∃ v, exec (.marginReplan ⟨n, m⟩ .slow) s = .next { s with
          volt := v, plat := { s.plat with
            clusters := sset 0 s.plat.clusters n (sget 0 s.plat.clusters n ||| 1), lastUpdate := s.clock } } ∧
        (s.clusterBusy n = true → v.margins = s.volt.margins ∧ (n, m) ∈ v.planned) ∧
        (s.clusterBusy n = false → sget 0 v.margins n = m ∧ ∀ x, x ∈ v.planned → x.1 ≠ n)) ∧
    (∀ n, 1050 ≤ n → n < 1150 →
      exec (.thermalThreshold n) s = .next { s with plat := { s.plat with
        hottest := n, throttled := true, lastUpdate := s.clock } }) ∧
    (∀ n, n < 1000 →
      exec (.thermalThreshold n) s = .next { s with plat := { s.plat with
        hottest := n, throttled := false, lastUpdate := s.clock } }) ∧
    (∀ n, 1000 ≤ n → n < 1050 →
      exec (.thermalThreshold n) s = .next { s with plat := { s.plat with hottest := n, lastUpdate := s.clock } }) ∧
    (∀ n, 1150 ≤ n → ∃ t, exec (.thermalThreshold n) s = .next t ∧ t.plat.boot = .safe ∧ t.plat.hottest = n ∧
      (s.plat.boot ≠ .safe → t.plat.safeReason = 4) ∧
      ∀ r reg l, s.region? r = some reg → reg.state ≠ .free → s.sched.launch? reg.launch = some l → l.state ≠ .ended →
        ∃ y, t.sched.launch? reg.launch = some y ∧ y.state = .ended ∧ y.endState = 4) ∧
    (s.plat.boot ≠ .safe → exec .supplyFault s = .next { s with plat := { s.plat with
      boot := .safe, safeReason := 5, failStep := 0, mailState := 2, bootOpen := false, lastUpdate := s.clock
      failedBoots := s.plat.failedBoots + if s.plat.bootOpen then 1 else 0 } }) ∧
    ∀ n, n < 2 ^ 64 →
      exec (.deviceClockDiscipline n) s = .next { s with clock := BitVec.ofNat 64 (max s.clock.toNat n) }

/-! ### Words and steps -/

/-- Words written out from the encoding of R86, R89 and R90 decode to the instructions they stand for, in each of the
four forms; a DST of code 13, an SA of code 14, a nonzero bit of [3:0] in a P form, and a nonzero unnamed operand field
are refused by name. -/
def Obligations.WordsDecode : Prop :=
  decode 0x01309080 = .error .unnamedOperand ∧
  decode 0x0130D080 = .ok (.mov ⟨.reg 3, .reg 0, .zero, 0, 8, 0⟩) ∧
  decode 0x033DFFC9 = .ok (.movi ⟨.reg 3, .zero, 0xFF, 0xC, 9⟩) ∧
  decode 0x05812340 = .ok (.pset ⟨0x81, 0x23, 4⟩) ∧
  decode 0x0F98D123 = .ok (.bcast ⟨.out 1, .head 0, .zero, 1, 0x23⟩) ∧
  decode 0x01D0D000 = .error .dstCode ∧ decode 0x01CED000 = .error .srcCode ∧ decode 0x00000001 = .error .formPZero

/-- Decoding the word of a well-formed instruction gives the instruction back, with every operand at every value the
encoding admits (R89 to R98). -/
def Obligations.EncodingRoundTrips : Prop := ∀ i : Instr, i.wellFormed = true → decode (encode i) = .ok i

/-- No bit of a word that decodes is lost: encoding what it decodes to gives the word back; and no word decodes to an
event (R89 to R91). -/
def Obligations.DecodingLosesNothing : Prop :=
  ∀ (w : BitVec 32) (i : Instr), decode w = .ok i → encode i = w ∧ i.isEvent = false

/-- A step that takes up an element's firing runs exec of what its lowest qualifying slot decodes to, with the region no
longer quiet and the firing under way; one that takes up an event runs that event; with no slot it changes nothing, a word
that is no action word is a fault, and a tick adds its time to the device clock. That the head of the agenda is what a step
takes up is log entry 1, and the fault of an undecodable word is log entry 13. -/
def Obligations.StepRunsTheDecodedInstruction : Prop :=
  ∀ (s u : State) (rest : List Choice), u = { s with agenda := rest } → s.plat.boot ≠ .safe →
    (∀ (r e : Nat) (c : Ctx), s.agenda = .fire r e :: rest → u.live? r e = some c →
      (∀ k i, u.nextSlot? c = some k → decode (c.el.slot k).act = .ok i →
        step s = exec i { (u.modRegion r fun x => { x with quietAt := none }) with focus := ⟨r, e, k.val⟩ }) ∧
      (∀ k w, u.nextSlot? c = some k → decode (c.el.slot k).act = .error w → step s = .fault (.badSlot w)) ∧
      (u.nextSlot? c = none → step s = .next u)) ∧
    (∀ i, s.agenda = .event i :: rest → i.isEvent = true → step s = exec i u) ∧
    ∀ n, s.agenda = .tick n :: rest →
      ∃ t, step s = .next t ∧ t.clock = s.clock + BitVec.ofNat 64 n ∧ t.mem = s.mem ∧ t.sched = s.sched

/-- An element issues the lowest-indexed slot that qualifies (R64), and none while a firing of it is incomplete (R67),
it has stopped (R162, R165), a drain marker stands at the head of every input that an edge feeds (R379), or it has saved
(R407). That an input which a cut edge feeds is none of those, as no marker crosses the edge (`liveFed`), is log entry 35. A slot
whose V bit is 0 never qualifies (R88). -/
def Obligations.LowestQualifyingSlotIssues : Prop :=
  ∀ (s : State) (c : Ctx),
    (∀ k : Fin 32, s.nextSlot? c = some k ↔
      c.el.stop = .none ∧ c.el.firing = none ∧ c.el.saved = false ∧
        ¬ (c.g.liveFed c.e ≠ [] ∧ ∀ i, i ∈ c.g.liveFed c.e → c.el.head? i = some drainMarker) ∧ s.qualifies c k = true ∧
        ∀ j : Fin 32, j < k → s.qualifies c j = false) ∧
    ∀ k : Fin 32, (c.el.slot k).trig.getLsbD 31 = false → s.qualifies c k = false

/-! ### Invariants -/

/-- The invariant holds after reset, where every region is FREE, nothing is loaded and boot stage 0 is next (R427). -/
def Obligations.ResetState : Prop :=
  State.reset.Inv ∧ (∀ g, g ∈ State.reset.regions → g.state = .free ∧ g.g = none) ∧ State.reset.mem.bytes = [] ∧
    State.reset.sched.launches = [] ∧ State.reset.plat.boot = .stage 0

/-- Every step that answers a next state keeps device memory in its canonical form and the region slots of the dies. -/
def Obligations.InvariantKept : Prop := ∀ s t : State, s.Inv → step s = .next t → t.Inv

/-! ### Traps -/

/-- An element trap (R383, R398, R399): the launch has ended with end state 3, its region is FREE under its generation,
and the status record holds the launch's number, the end state, the trap code, the element, the slot and the immediate, where
nothing holds back a write of its lines (R309, R312, R350). That all of this is one step is log entry 12; that the ring's base is a
physical address, of frames that are not DERIVED (R353), and that a write which is held back waits, is log entry 41. -/
def Sys2Proof.Machine.TrapsEndTheLaunch : Prop :=
  ∀ (s : State) (r e slot code imm a : Nat) (reg : Region) (x : Launch) (c : Context), s.region? r = some reg →
    s.sched.launch? reg.launch = some x → x.state ≠ .ended → x.region = some r → s.sched.context? x.ctx = some c →
    c.cfg.ringSlots ≠ 0 → Memory.wf s.mem.bytes = true →
    a = c.cfg.ringBase + 32768 * (c.written % c.cfg.ringSlots + 1) →
    ∃ t, s.raiseTrap r e slot code imm = t ∧ t.region? r = some { Region.empty with gen := reg.gen } ∧
      (∃ y, t.sched.launch? reg.launch = some y ∧ y.state = .ended ∧ y.endState = 3 ∧ y.region = none) ∧
      ((∀ b, a / 64 ≤ b / 64 → b / 64 ≤ (a + 63) / 64 → (s.mem.frame b).derived = false ∧ s.ownWaits b 1 2 = false ∧
          ∀ d row, d ∈ s.drv → row ∈ d.rows → d.touches row b 1 = false) →
        readLe t.mem.bytes a 4 = x.seq % 2 ^ 32 ∧ readByte t.mem.bytes (a + 4) = 3 ∧
        readByte t.mem.bytes (a + 5) = BitVec.ofNat 8 code ∧ readLe t.mem.bytes (a + 8) 4 = e % 2 ^ 32 ∧
        readByte t.mem.bytes (a + 12) = BitVec.ofNat 8 slot ∧ readByte t.mem.bytes (a + 13) = BitVec.ofNat 8 imm)

/-- A step that takes up what several elements do in one cycle does it lowest element first and within it lowest slot, so
that of simultaneous traps the one of R399 ends the launch: the first that traps does, as no later act of its region finds an
element there. That the acts of a cycle follow one another is log entry 12. -/
def Sys2Proof.Machine.CyclesRunInOrder : Prop :=
  ∀ (s u : State) (l : List Act) (rest : List Choice), u = { s with agenda := rest } → s.agenda = .cycle l :: rest →
    step s = u.acts (u.inOrder l) ∧ (u.inOrder l).Perm l ∧
      (u.inOrder l).Pairwise fun a b => keyLe (u.actKey a) (u.actKey b) = true

namespace Sys2Proof.Machine

/-- The kind of an element, by its kind-specific state (R56). -/
def KindSt.kindOf : KindSt → ElemKind
  | .c _ _ => .C
  | .m _ => .M
  | .l _ => .L
  | .s _ => .S
  | .x _ => .X
  | .e _ => .E

/-- The sources whose tokens a firing reads (R27, R89, R91): SA and SB where the instruction has them. The tokens of a stream
input are taken later, by the engine or the firing that claims it (R213, R214, R281). -/
def readSrcs (i : Instr) : List Src :=
  let a (x : Src) : List Src := if i.info.sa = .none ∨ i.info.sa = .optHead ∨ i.info.sStream = true then [] else [x]
  let b (x : Src) : List Src := if i.info.sb = .none ∨ i.info.bStream = true then [] else [x]
  match i.form with
  | .R f => a f.sa ++ b f.sb
  | .I f => a f.sa
  | .X f => a f.sa ++ b f.sb
  | _ => []

/-- The instructions that a poisoned source does not trap, or not always (R27): FWD, STEER, REORD, SEQNO and PARK pass a token
on with its POISON, and LTOK reads the sideband alone. -/
def passesPoison (i : Instr) : Bool := ([0x08, 0x1E, 0xCA, 0xCC, 0xCF, 0xE6] : List Nat).contains i.info.opc

end Sys2Proof.Machine

/-- A poisoned head that a firing names as a source, in SA or in SB, raises POISON (R27, R398): in every instruction that reads
a source but those that pass a token on unchanged or read its sideband alone, of a slot that the loader accepts on an element of
its kind. STEER reads the payload of its head under MOD 0 and 3, and its map (R246), and REORD reads that of a control token
(R251). That POISON comes before any other trap of the same firing is log entry 107. -/
def Sys2Proof.Machine.PoisonTraps : Prop :=
  (∀ (s : State) (c : Ctx) (i : Instr), s.ctx? = some c → instrOk i = true →
    kindOk i.info.kinds c.el.ks.kindOf true = true → passesPoison i = false → (∃ x, x ∈ readSrcs i ∧ c.poisoned x = true) →
    exec i s = .next (s.raiseTrap c.r c.e c.slot 1 0)) ∧
  (∀ (s : State) (c : Ctx) (sh : Shape) (f : RForm) (x : XForm) (i : Instr), s.ctx? = some c →
    (c.poisoned f.sa = true ∧ i ∈ [.mov f, .sel f, .emitc f, .sendl f, .crdset f, .shuf f, .add sh f, .sub sh f,
        .mul sh f, .and sh f, .shl sh f, .ceq sh f, .addx f, .faddF32 f, .fmulF16 f, .fcltBF16 f, .exp2 f, .smax f,
        .cmpr f, .expnd f, .argmx f, .xthr f, .adet f, .drv f, .cwait f, .csig f, .bara f, .bari f, .lnch f, .walk f]) ∨
      (c.poisoned x.sa = true ∧ i ∈ [.bcast x, .st x, .aadd x, .get x, .put x]) →
    exec i s = .next (s.raiseTrap c.r c.e c.slot 1 0)) ∧
  (∀ (s : State) (c : Ctx) (f : RForm) (t : Token), s.ctx? = some c → c.srcTok? f.sa = some t →
    (t.poison = true ∧ (modOf f = 0 ∨ modOf f = 3)) ∨ c.poisoned f.sb = true →
    exec (.steer f) s = .next (s.raiseTrap c.r c.e c.slot 1 0)) ∧
  ∀ (s : State) (c : Ctx) (f : XForm) (x : XSt) (t : Token), s.ctx? = some c → c.el.ks = .x x → c.srcTok? f.sa = some t →
    t.poison = true → t.kind = .control → (x.bufs.get (Fin.ofNat 8 (f.cnt.toNat % 8))).tooFar t = false →
    exec (.reord f) s = .next (s.raiseTrap c.r c.e c.slot 1 0)

/-! ### Frames -/

namespace Sys2Proof.Machine

/-- Whether a firing may write predicate `n`: by PW, by SET or CLR, or by the mask of PPUT (R95, R96, R150). -/
def mayWritePred (i : Instr) (n : Nat) : Bool :=
  match i.form with
  | .R f => f.pw.getLsbD 3 && (f.pw.extractLsb' 0 3).toNat == n
  | .I f => (f.pw.getLsbD 3 && (f.pw.extractLsb' 0 3).toNat == n) || (i.info.opc == 0x07 && f.imm.getLsbD n)
  | .P f => f.set.getLsbD n || f.clr.getLsbD n
  | .X _ => false
  | .event => false

end Sys2Proof.Machine

/-- What a firing of the opcodes 0x00 to 0xCF leaves as it was, unless it traps: all of the machine but its region and the
counter of free values; every byte of memory; and in its region every other element but the tokens on their way to an
element that the output it names feeds. -/
def Obligations.ComputingFiringsStayInTheirElement : Prop :=
  ∀ (s t : State) (c : Ctx) (i : Instr), s.ctx? = some c → i.isEvent = false → i.info.opc < 0xD0 →
    exec i s = .next t → (∀ n code imm, t ≠ State.raiseTrap { s with freeCtr := n } c.r c.e c.slot code imm) →
    t = { s with regions := t.regions, freeCtr := t.freeCtr } ∧
    (∀ a, readByte t.mem.bytes a = readByte s.mem.bytes a) ∧ (∀ q, q ≠ c.r → t.region? q = s.region? q) ∧
    ∃ g, t.region? c.r = some { c.reg with g := some g } ∧ g = { c.g with elems := g.elems } ∧
      ∀ e el, e ≠ c.e → c.g.elems[e]? = some el →
        ∃ x, g.elems[e]? = some x ∧ x = { el with ins := x.ins } ∧
          ∀ k : Fin 4, x.ins.get k = { el.ins.get k with inflight := (x.ins.get k).inflight } ∧
            (i.info.opc ≠ 0xCA → (∀ o, formDst i.form = .out o →
                ∀ d, c.g.edge? c.e o = some d → ∀ y, y ∈ d.cons → ¬ (y.elem = e ∧ y.input = k)) →
              x.ins.get k = el.ins.get k)

/-- What a firing of the opcodes 0x00 to 0xCF leaves in its own element, unless it traps: every register but the one that
DST names, every predicate but those that PW, SET, CLR or PPUT's mask name, the record, the output limits but for CRDSET,
the end counter but for DONE, the join counters but for JOIN and JOINF, the kind-specific state in the opcodes that all
kinds share, and what it owes. -/
def Obligations.ComputingFiringsKeepRegisters : Prop :=
  ∀ (s t : State) (c d : Ctx) (i : Instr), s.ctx? = some c → i.isEvent = false → i.info.opc < 0xD0 →
    exec i s = .next t → (∀ n code imm, t ≠ State.raiseTrap { s with freeCtr := n } c.r c.e c.slot code imm) → t.at? c.r c.e c.slot = some d →
    (∀ n, formDst i.form ≠ .reg n → d.el.d.get n = c.el.d.get n) ∧
    (∀ n, n < 8 → mayWritePred i n = false → d.el.p.getLsbD n = c.el.p.getLsbD n) ∧
    d.el.img = c.el.img ∧ (i.info.opc ≠ 0x0D → d.el.outLimit = c.el.outLimit) ∧
    (i.info.opc ≠ 0x16 → d.el.endCt = c.el.endCt ∧ d.el.declared = c.el.declared) ∧
    (i.info.opc ≠ 0x18 → i.info.opc ≠ 0x19 → d.el.joinCt = c.el.joinCt ∧ d.el.joinToks = c.el.joinToks) ∧
    (i.info.kinds = .all → d.el.ks = c.el.ks) ∧ d.el.outs = c.el.outs ∧ d.el.dues = c.el.dues ∧
    d.el.issueQ = c.el.issueQ ∧ d.el.seq = c.el.seq ∧ d.el.issuer = c.el.issuer ∧ d.el.saved = c.el.saved

namespace Sys2Proof.Machine

/-- The page-table entry whose A bit a firing sets (R319): that of the entry that answers XLAT, or the leaf that WALKL
releases. -/
def Ctx.leafTouched (c : Ctx) : Instr → Option Nat
  | .xlat f =>
    match c.el.ks with
    | .e x => if 2 ^ 56 ≤ pair64 (c.opA f) 0 then none else (x.tlbHit? c.reg.ctx (pair64 (c.opA f) 0)).map (·.at_)
    | _ => none
  | .walkl f => some (walkedAt (c.opA f))
  | _ => none

end Sys2Proof.Machine

/-- What a firing of the opcodes 0xD0 to 0xFF but STW leaves as it was, unless it traps: every poison mark, the directory and
the requests in the memory system, the scheduler, the platform and the clocks; every byte of memory, but that XLAT and WALKL
may set the A bit of the page-table entry they use, at once or by a request that waits (log entry 62), and that WINV lets fills
of derived words start anew (log entry 133); and in its own element every
register but the one that DST names and every predicate but the one of PW. -/
def Sys2Proof.Machine.OtherMemoryFiringsStoreNothing : Prop :=
  ∀ (s t : State) (c : Ctx) (i : Instr), s.ctx? = some c → i.isEvent = false → 0xD0 ≤ i.info.opc →
    i.info.opc ≠ 0xD3 → Memory.wf s.mem.bytes = true → exec i s = .next t →
    (∀ (u : State) (code : Nat), u.mem = s.mem → u.sched = s.sched → t ≠ u.raiseTrap c.r c.e c.slot code 0) →
    t = { s with regions := t.regions, mem := t.mem, drv := t.drv, link := t.link, nextId := t.nextId } ∧
    t.mem = { s.mem with
      groups := t.mem.groups, barriers := t.mem.barriers, performs := t.mem.performs, bytes := t.mem.bytes
      frames := t.mem.frames, order := t.mem.order, reqs := t.mem.reqs } ∧
    (i.info.opc ≠ 0xE8 → i.info.opc ≠ 0xFF → t.mem.frames = s.mem.frames ∧ t.mem.order = s.mem.order) ∧
    (t.mem.reqs = s.mem.reqs ∨
      (i.info.opc = 0xD6 ∧ (t.mem.reqs.map fun x => { x with prog := .start }) =
        s.mem.reqs.map fun x => { x with prog := .start }) ∨ ∃ (b : Nat) (x : Access), c.leafTouched i = some b ∧ t.mem.reqs = s.mem.reqs ++ [x] ∧
      x.pa = b + 2 ∧ x.size = 1 ∧ x.kind = .port 9 (.amend 0xFF 0x80)) ∧
    (∀ a, (∀ b, c.leafTouched i = some b → a ≠ b + 2) → readByte t.mem.bytes a = readByte s.mem.bytes a) ∧
    (∀ b, c.leafTouched i = some b → readByte t.mem.bytes (b + 2) = readByte s.mem.bytes (b + 2) ∨
      readByte t.mem.bytes (b + 2) = readByte s.mem.bytes (b + 2) ||| 0x80) ∧
    ∃ d, t.at? c.r c.e c.slot = some d ∧ d.el.img = c.el.img ∧
      (∀ n, formDst i.form ≠ .reg n → d.el.d.get n = c.el.d.get n) ∧
      ∀ n, n < 8 → mayWritePred i n = false → d.el.p.getLsbD n = c.el.p.getLsbD n

/-- What STW leaves as it was, whether it writes its window, waits, or sends a fill (R269, R305, R309): every register, predicate
and record of every element, but that its own POP takes tokens; in its window's store every byte but the ones it stores; every
byte of memory but the words of the line that another window has stored and that its store recalls; and without such a recall the
whole of memory with its marks, and every declaration. The scheduler keeps all but the race counts of launches (R310) and the
images of launches at rest, whose windows are recalled as well. That a recall whose words fail a check traps is log entry 29:
this speaks of a line whose other windows' words pass. -/
def Sys2Proof.Machine.WindowStoresStayInTheWindow : Prop :=
  ∀ (s t u : State) (c : Ctx) (f : XForm) (x y : SSt) (w : Fin 8) (off n : Nat) (win : Window) (but : Option (Nat × Nat × Nat)),
    s.ctx? = some c → Memory.wf s.mem.bytes = true → c.el.ks = .s x → c.clean [f.sa, f.sb] → x.windowCheck (c.src 0 f.sa) true = .ok (w, off, n) →
    win = x.windows.get w → but = some (c.reg.launch, c.e, w.val) →
    y = x.storeWords s.nextId off (toBytes (c.src 0 f.sb) n) → u = c.put s { c.el with ks := .s y } →
    (∀ a, win.page? (win.vaAt off) = some a → a.mt ≠ 1 → u.recallTraps (a.pa / 64) but = []) →
    exec (.stw f) s = .next t →
    t = { s with regions := t.regions, mem := t.mem, drv := t.drv, sched := t.sched, nextId := t.nextId } ∧
    t.mem = { s.mem with
      bytes := t.mem.bytes, poison := t.mem.poison, dir := t.mem.dir, reqs := t.mem.reqs, order := t.mem.order
      performs := t.mem.performs, race := t.mem.race } ∧
    t.sched = { s.sched with launches := t.sched.launches } ∧
    (t.sched.launches.map fun l => { l with races := 0, saved := none }) =
      (s.sched.launches.map fun l => { l with races := 0, saved := none }) ∧
    (∀ b, (∀ a m k, win.page? (win.vaAt off) = some a → a.mt ≠ 1 → m ∈ u.otherWindows (a.pa / 64) but →
        k ∈ u.recallWords (a.pa / 64) m → b < 64 * (a.pa / 64) + 4 * k.1 ∨ 64 * (a.pa / 64) + 4 * k.1 + 4 ≤ b) →
      readByte t.mem.bytes b = readByte s.mem.bytes b) ∧
    ((∀ a, win.page? (win.vaAt off) = some a → a.mt = 1 ∨ s.mem.overlaps (a.pa / 64) (wordMask a.pa n) but = false) →
      t.mem.bytes = s.mem.bytes ∧ t.mem.poison = s.mem.poison ∧ t.mem.order = s.mem.order ∧ t.drv = s.drv ∧
        t.sched = s.sched) ∧
    (∀ r e d, s.at? r e 0 = some d → ∃ z, t.at? r e 0 = some z ∧ z.el.d = d.el.d ∧ z.el.p = d.el.p ∧ z.el.img = d.el.img ∧
      (¬ (r = c.r ∧ e = c.e) → z.el.ins = d.el.ins ∧ z.el.outs = d.el.outs)) ∧
    ∃ d v, t.at? c.r c.e c.slot = some d ∧ d.el.ks = .s v ∧ v.windows = x.windows ∧ (v.sram = x.sram ∨ v.sram = y.sram)

/-- What a firing of the opcodes 0xD0 to 0xFF leaves as it was, unless it traps: STW (R305, R309) and every other one. -/
def Obligations.MemoryFiringsStoreNothing : Prop := OtherMemoryFiringsStoreNothing ∧ WindowStoresStayInTheWindow

/-- No firing of a slot, trapping or not, changes the platform, the clocks, the agenda, the packets that a switch has sent,
the packets that wait, the time-triggered table, or a timeline counter: a counter moves only in the steps of R332. -/
def Obligations.FiringsKeepThePlatform : Prop :=
  ∀ (s t : State) (i : Instr), i.isEvent = false → exec i s = .next t →
    t.plat = s.plat ∧ t.clock = s.clock ∧ t.cycle = s.cycle ∧ t.agenda = s.agenda ∧ t.choiceCtr = s.choiceCtr ∧
    t.link.sentUp = s.link.sentUp ∧ t.link.sentDown = s.link.sentDown ∧ t.link.inbound = s.link.inbound ∧
    t.sched.table = s.sched.table ∧ t.sched.nextLaunch = s.sched.nextLaunch ∧ t.mem.counters = s.mem.counters

/-! ### Statements that join the groups above -/


/-- MOV, MOVK, MOVI, PGET and PPUT (R146, R149, R150). -/
def Obligations.MovesAndPredicatesRun : Prop := MovesRun ∧ PredicateReadsAndWrites

/-- BCAST, SHUF, PACK, UNPKL, UNPKH, CNTI, ADDX and MULX (R158 to R161, R173). -/
def Obligations.ArrangementCountersAndAddressesRun : Prop := LaneArrangementRuns ∧ CounterInstructionCounts ∧
  AddressArithmetic

/-- SEL, EMITC, RETAG, SENDL, LTOK and FWD (R147, R151 to R155). That a poisoned head popped by LTOK counts in the poison-discard
counter is log entry 18. -/
def Obligations.SidebandAndForwardRun : Prop := SidebandInstructionsRun ∧ ForwardKeepsToken

/-- CRDSET, DONE, JOIN, JOINF and TRAP (R157, R163, R164, R166 to R168). -/
def Obligations.LimitsEndsAndJoinsRun : Prop := LimitsAndEndCounts ∧ JoinsCount ∧ TrapRaisesUser

/-- CMPR, EXPND, ARGMX, XTHR, SLOTS, ISECT, ICNT, SWCFG and SWPUSH (R232 to R236, R238, R244, R247). That ISECT keeps the last COORD
of both sides is log entry 121. -/
def Obligations.ShapeInstructionsRun : Prop := CompressAndExpandRun ∧ MaximumThresholdsAndSpaceRun ∧
  IntersectionControlRuns ∧ SlidingWindowRuns

/-- MROW, MROWS, MCHAIN, MBIAS, WJOIN, XPOSE, LIN, MGRP, WMAP and DRV (R213, R230, R268, R277). -/
def Obligations.TakingFiringsIssue : Prop := StreamFiringsIssue ∧ GroupedRowsIssue ∧ BindingsIssue

/-- LEVAL and LCTX (R241, R245). -/
def Obligations.LookupRuns : Prop := LookupPassRuns ∧ ContextStatusRuns

/-- MOUT, MOUTQ, WSPLIT, SWEMIT, LEMIT, LPOP and LUNX (R227, R228, R233, R237, R243, R245). -/
def Obligations.TokenSeriesRun : Prop := RowOutputsRun ∧ TileOutputsRun ∧ LookupOutputsRun

/-- STEER, MERGE and SEQNO (R246, R248, R249). -/
def Obligations.SteeringRuns : Prop := SteerRoutes ∧ MergeTakesEarliest ∧ SequenceNumbersStamp

/-- LD, ST and the atomics (R71, R265, R271, R272, R274). That a tag outside the output's set raises FORMAT at issue is log
entry 112. -/
def Obligations.AccessesIssue : Prop := LoadsAndStoresIssue ∧ AtomicsIssue

/-- LDW, STW, WSYNC, WINV and WCLOSE (R269, R270). -/
def Obligations.WindowFiringsIssue : Prop := WindowAccessesIssue ∧ WindowMaintenanceIssues

/-- DRVX, DRVQ, AGEN and AGSTR (R278 to R281). -/
def Obligations.QueriesAndStreamsRun : Prop := DerivationQueriesRun ∧ AddressStreamsStart

/-- FENCE, CWAIT, CSIG, BARI, BARA and BARW (R286 to R289). -/
def Obligations.SynchronisationRuns : Prop := FencesAndCountersRun ∧ BarriersRun

/-- PUT, PUTS, LSEND, RED, GET, REDR, LRECV and LQ (R290 to R295). That a REDR owed a void round raises LINK when it issues is log
entry 47. -/
def Obligations.LinkInstructionsRun : Prop := LinkOperationsIssue ∧ LinkResultsRun

/-- LNCH, SYSC, FLTH, WALK, PREQ, CKPT, TBKT and WALKL (R285, R296 to R299). That WALKL sets the A bit of the leaf it installs is log
entry 62, and that an answer which nobody awaits is dropped is log entry 127. -/
def Obligations.SystemInstructionsRun : Prop := SystemRequestsIssue ∧ SystemInstructionsComplete

/-- TOKEN_ARRIVE and PAIR_STEP (R25, R27, R70, R74, R83, R235, R407). Where the tokens of a cut edge are parked, and whose trap SPILL
is, is log entry 35; that a marker at a front takes no part in the pair is log entry 22. -/
def Obligations.ArrivalAndPairingRun : Prop := TokensArrive ∧ CutEdgesPark ∧ PairPresents ∧ PairMatches ∧ PairDrains ∧
  PairTrapsOrWaits

/-- STREAM_TOKEN_TAKE and LOAD_ENGINE_TOKEN (R213 to R215), and the values of a row (R50, R224). -/
def Obligations.TakingTokensRuns : Prop := StreamTokensTaken ∧ BlocksAccumulate ∧ MatrixRowsTaken ∧ EngineTokensTaken

/-- FURTHER_TOKEN_PUSH, INCOMPLETE_FIRING_RESUME and STREAM_ENGINE_PUSH (R67, R280, R281). -/
def Obligations.LaterPushesRun : Prop := FiringsGoOn ∧ AddressStreamsPush

/-- SEND, UPDATE_REPLAY, FILL, APPLY, EGRESS and DELIVER (R314, R315, R327, R334, R336, R337). -/
def Obligations.AccessesTravel : Prop := AccessesAreSent ∧ FillsComplete ∧ HeldUpdatesApply ∧ OutsideAccessesGo

/-- MEMORY_REPLY, PUSH, JOINF_RELEASE and FENCE_COMPLETE (R168, R258, R259, R283, R286, R396). At which input of the page-walk
graph a miss arrives is log entry 126, and that its request tag is the number of the next access is log entry 33; that XINV's
entries go with its reply is log entry 31, and that the misses under way go to the walker anew is log entry 127; that a JOINF has
popped its inputs when it is issued, so that its release pops nothing, is log entry 34. -/
def Obligations.RepliesComplete : Prop := RepliesAndPushes ∧ MissesReachTheWalker ∧ InvalidationsComplete ∧ WaitsComplete

/-- COUNTER_RAISE, BARRIER_ARRIVAL, DECLARATION_ACCEPT, SCAN_END and DECLARATION_WITHDRAW (R277, R278, R287, R289,
R350 to R352). -/
def Obligations.SignalsAndDeclarationsRun : Prop := SignalsApply ∧ DeclarationsRun

/-- LAUNCH_WINDOW_WRITE, LAUNCH_WAIT_MET, SIGNAL_COUNTER_ADVANCE, AGE_PROMOTION, TIME_TRIGGER_START and ADMISSION
(R371 to R378). That an image without reorder space ends its launch with byte 5 zero and the element in the detail bytes is log
entry 50. -/
def Obligations.SchedulerRuns : Prop := LaunchesAdvance ∧ AdmissionLoads

/-- REGION_ARM, RESUME_FROM_RETENTION, GATE_REGION, REGION_RELEASE, SCAN_OUT and RESTORE (R16, R57, R79, R81, R84, R407 to
R409). -/
def Obligations.RegionsRun : Prop := RegionsArm ∧ RegionsChangeState ∧ RestoreLoads

/-- PREEMPTION_START, ELEMENT_SAVE, FREEZE, FREEZE_SCAN, FAULT_SERVICE and FLTH_REPLY (R400 to R403, R407, R410). -/
def Obligations.PreemptionAndFreezesRun : Prop := PreemptionRuns ∧ FreezesRun

/-- SHOOTDOWN, BADGER_VISIT, BUCKET_REFILL, CONFIG_REGISTER_WRITE, HOST_CXL_ACCESS, CONTROL_CORE_ACCESS and
INVALIDATION_ACKNOWLEDGE (R303, R311, R312, R317, R397, R405, R414). Where the memory stands is log entry 118. -/
def Obligations.ManagementAndAgentsRun : Prop := ManagementRuns ∧ AgentsAccess

/-- RESET, BOOT_STAGE, MAILBOX_UPDATE, ATTESTATION_REQUEST, MARGIN_REPLAN, THERMAL_THRESHOLD, SUPPLY_FAULT and
DEVICE_CLOCK_DISCIPLINE (R13, R427, R432, R434 to R440). What is the model's reading is log entries 53, 76, 77 and 78. -/
def Obligations.PlatformRuns : Prop := ResetAndBoot ∧ PlatformEventsRun

/-- Element traps, and POISON among them, which every instruction raises that reads a poisoned source (R27, R246, R251, R383, R398,
R399). -/
def Obligations.TrapsAreTaken : Prop := TrapsEndTheLaunch ∧ CyclesRunInOrder ∧ PoisonTraps

/-! ### The assembler -/

namespace Sys2Proof.Machine

/-- foras writes an image for each graph of a source exactly where the text is well written and no graph has a bad line, and
otherwise writes none (R122, R139). -/
def AssemblesWhole : Prop :=
  ∀ (src : List Char) (outs : List AsmOut),
    assemble src = .ok outs ↔
      ∃ gs, parseLines (sourceLines src) = .ok gs ∧ (∀ g ∈ gs, g.badLine? = none) ∧
        outs = gs.map fun g => ⟨g.name, g.image, g.template⟩

/-- The line that foras reports is that of the text, or of the first graph that has a bad line (R139). -/
def FirstErrorIsReported : Prop :=
  ∀ (src : List Char) (n : Nat),
    assemble src = .error n ↔
      parseLines (sourceLines src) = .error n ∨
        ∃ before g after, parseLines (sourceLines src) = .ok (before ++ g :: after) ∧
          (∀ x ∈ before, x.badLine? = none) ∧ g.badLine? = some n

/-- Two sources that differ only in comments assemble alike (R119, R140). -/
def CommentsDoNotCount : Prop :=
  ∀ a b : List Char, (linesOf a).map uncomment = (linesOf b).map uncomment → assemble a = assemble b

/-- A graph without a bad line passes steps 1 to 3 of the loader, which refuse WALK and WALKL in it, and its initial tokens
fit their edge's capacity and its producer's set (R72, R109, R139). -/
def AcceptedGraphsPass : Prop :=
  ∀ g : AsmGraph, g.badLine? = none →
    g.graph.badFormat? = none ∧ g.graph.step3 = none ∧
      (∀ e el, g.graph.elems[e]? = some el → g.graph.step2 false e el = none ∧
        ∀ (k : Fin 32) (i : Instr), validOf (el.slots.get k).trig = true → decode (el.slots.get k).act = .ok i →
          i.info.kinds ≠ .walker ∧ instrOk i = true) ∧
      ∀ d ∈ g.graph.edges, d.init.length ≤ d.cap ∧
        ∀ t ∈ d.init, t.kind = .data → usedTag g.table t.tag = true ∧ d.tags.getLsbD t.tag.toNat = true

end Sys2Proof.Machine

/-- The slot shown in Scope and Conventions assembles to the words of R110. -/
def Obligations.WorkedSlotAssembles : Prop :=
  assembleSlot "when p0 !p1 i0:d/t2 i1:d -> ffma.f32 d2, i0, i1 pop i0 i1 wp p1" = some ⟨0xA0120301, 0x69289390⟩

/-- The assembler (R119, R122, R139, R140). -/
def Obligations.ForasAssembles : Prop :=
  AssemblesWhole ∧ FirstErrorIsReported ∧ CommentsDoNotCount ∧ AcceptedGraphsPass
end

