-- ==== Sys2Proof/Laws/Foras.lean ====
section
/-! SUPPORT. What the checks of the assembler say. -/

namespace Sys2Proof.Laws

open Sys2Proof Sys2Proof.Machine

/-- No line is reported exactly where every check holds. -/
theorem firstLine_eq_none (l : List (Nat × Bool)) : firstLine l = none ↔ ∀ x ∈ l, x.2 = true := by
  simp [firstLine]

/-- A graph without a bad line passes each group of checks. -/
theorem badLine_eq_none (g : AsmGraph) :
    g.badLine? = none ↔ g.legalLine? = none ∧ g.slotErr? = none ∧ g.edgeLine4? = none ∧ g.setLine5? = none := by
  unfold AsmGraph.badLine?
  cases g.legalLine? <;> cases g.slotErr? <;> cases g.edgeLine4? <;> simp

/-- A graph passes the slot checks exactly where the loader's steps 1 to 3 find nothing. -/
theorem slotErr_eq_none (g : AsmGraph) :
    g.slotErr? = none ↔ g.graph.badFormat? = none ∧
      (g.graph.elems.zipIdx.findSome? fun (el, e) => g.graph.step2 false e el) = none ∧ g.graph.step3 = none := by
  unfold AsmGraph.slotErr?
  dsimp only
  cases g.graph.badFormat? <;> cases g.graph.elems.zipIdx.findSome? (fun (el, e) => g.graph.step2 false e el) <;> simp

/-- A bad line of the first graph is the one reported. -/
theorem checkGraphs_cons_some (g : AsmGraph) (r : List AsmGraph) (n : Nat) (h : g.badLine? = some n) :
    checkGraphs (g :: r) = .error n := by
  simp [checkGraphs, h]

/-- A first graph without a bad line is written before what the others give. -/
theorem checkGraphs_cons_none (g : AsmGraph) (r : List AsmGraph) (h : g.badLine? = none) :
    checkGraphs (g :: r) = (checkGraphs r).map fun l => ⟨g.name, g.image, g.template⟩ :: l := by
  cases h' : checkGraphs r <;> simp [checkGraphs, h, h', Except.map]

end Sys2Proof.Laws
end

