-- ==== Sys2Proof/Laws/Lanes.lean ====
section
/-! SUPPORT. Laws of lanes (R2, R142): a payload built lane by lane reads back lane by lane. -/

namespace Sys2Proof.Machine

/-- A bit of a payload built from lanes. -/
theorem getLsbD_ofLanes {w n : Nat} {f : Nat → BitVec w} (hw : 0 < w) (hn : w * n ≤ 256) (k : Nat) :
    (ofLanes w f n).getLsbD k = (decide (k < w * n) && (f (k / w)).getLsbD (k % w)) := by
  induction n with
  | zero => simp [ofLanes]
  | succ n ih =>
    rw [Nat.mul_succ] at hn
    simp only [ofLanes, BitVec.getLsbD_or, ih (by omega), BitVec.getLsbD_shiftLeft, BitVec.getLsbD_setWidth, Nat.mul_succ]
    by_cases h1 : k < w * n
    · have h2 : k < w * n + w := by omega
      simp [h1, h2]
    · by_cases h2 : k < w * n + w
      · have hd : k / w = n := Nat.div_eq_of_lt_le (by rw [Nat.mul_comm]; omega) (by rw [Nat.mul_comm, Nat.mul_succ]; omega)
        have hm : k % w = k - w * n := by
          have := Nat.div_add_mod k w
          rw [hd] at this
          omega
        have h3 : k < 256 := by omega
        have h4 : k - w * n < 256 := by omega
        simp [h1, h2, h3, h4, hd, hm]
      · have h5 : w ≤ k - w * n := by omega
        simp [h1, h2, BitVec.getLsbD_of_ge _ _ h5]

/-- A lane of a payload built from lanes. -/
theorem lane_ofLanes {w n : Nat} {f : Nat → BitVec w} (hw : 0 < w) (hn : w * n ≤ 256) (i : Nat) :
    lane (ofLanes w f n) w i = if i < n then f i else 0 := by
  apply BitVec.eq_of_getLsbD_eq
  intro j hj
  have hd : (w * i + j) / w = i := by
    rw [Nat.mul_add_div hw, Nat.div_eq_of_lt hj, Nat.add_zero]
  have hm : (w * i + j) % w = j := by rw [Nat.mul_add_mod, Nat.mod_eq_of_lt hj]
  have hlt : w * i + j < w * n ↔ i < n := by
    constructor
    · intro h
      by_contra hc
      have := Nat.mul_le_mul_left w (Nat.le_of_not_lt hc)
      omega
    · intro h
      have := Nat.mul_le_mul_left w h
      rw [Nat.mul_succ] at this
      omega
  simp only [lane, BitVec.getLsbD_extractLsb', getLsbD_ofLanes hw hn, hd, hm, hlt]
  split <;> simp_all

/-- A lane of a payload all of whose lanes are given. -/
theorem lane_allLanes {w : Nat} {f : Nat → BitVec w} (hw : 0 < w) {i : Nat} (hi : i < 256 / w) :
    lane (allLanes w f) w i = f i := by
  rw [allLanes, lane_ofLanes hw (Nat.mul_div_le 256 w), if_pos hi]

/-- The words of a payload built from words. -/
theorem lane32_ofWords (ws : List Word) (i : Nat) : lane32 (ofWords ws) i = if i < 8 then ws.getD i 0 else 0 := by
  rw [lane32, ofWords, lane_ofLanes (by omega) (by omega)]

/-- Whether a token may be pushed does not depend on its payload (R71). -/
theorem tagOk_payload (g : GraphSt) (e : Nat) (o : Fin 4) (t : Token) (v : Payload) :
    g.tagOk e o { t with payload := v } = g.tagOk e o t := rfl

end Sys2Proof.Machine
end

