-- ==== Sys2Proof/Laws/Memory.lean ====
section
/-! SUPPORT. Laws of sparse maps and of memory: reads after writes, and that every memory operation keeps the canonical
form. -/

namespace Sys2Proof.Machine

/-! ### Sparse maps -/

section Sparse
variable {α : Type} [DecidableEq α] {d : α}

/-- The keys of a sparse map all lie above a bound. -/
theorem swf_cons {k : Nat} {v : α} {r : List (Nat × α)} :
    swf d ((k, v) :: r) = true ↔ v ≠ d ∧ (∀ p ∈ r.head?, k < p.1) ∧ swf d r = true := by
  cases r with
  | nil => simp [swf]
  | cons p r => obtain ⟨k', v'⟩ := p; simp [swf]; tauto

theorem swf_tail {p : Nat × α} {r : List (Nat × α)} (h : swf d (p :: r) = true) : swf d r = true := by
  obtain ⟨k, v⟩ := p; exact (swf_cons.mp h).2.2

/-- Below the first key a canonical map reads as its default. -/
theorem sget_below {m : List (Nat × α)} (h : swf d m = true) {i : Nat} (hi : ∀ p ∈ m.head?, i < p.1) :
    sget d m i = d := by
  cases m with
  | nil => rfl
  | cons p r =>
    obtain ⟨k, v⟩ := p
    have hk : i < k := hi (k, v) (by simp)
    simp [sget, hk, Nat.ne_of_gt hk]

theorem sset_head_ge {m : List (Nat × α)} {i b : Nat} {v : α} (h : swf d m = true) (hb : b < i)
    (hm : ∀ p ∈ m.head?, b < p.1) : ∀ p ∈ (sset d m i v).head?, b < p.1 := by
  cases m with
  | nil => by_cases hv : v = d <;> simp [sset, hv, hb]
  | cons p r =>
    obtain ⟨k, x⟩ := p
    have hk : b < k := hm (k, x) (by simp)
    have hr := (swf_cons.mp h).2.1
    simp only [sset]
    split
    · split <;> simp [hk, hb]
    · split
      · split
        · intro p hp; exact Nat.lt_trans hk (hr p hp)
        · simp [hb]
      · simp [hk]

/-- A write keeps the canonical form. -/
theorem swf_sset {m : List (Nat × α)} {i : Nat} {v : α} (h : swf d m = true) : swf d (sset d m i v) = true := by
  induction m with
  | nil => by_cases hv : v = d <;> simp [sset, swf, hv]
  | cons p r ih =>
    obtain ⟨k, x⟩ := p
    obtain ⟨hx, hr, hw⟩ := swf_cons.mp h
    simp only [sset]
    split
    · split
      · exact h
      · exact swf_cons.mpr ⟨‹_›, by simpa using ‹i < k›, h⟩
    · split
      · split
        · exact hw
        · subst i; exact swf_cons.mpr ⟨‹_›, hr, hw⟩
      · exact swf_cons.mpr ⟨hx, sset_head_ge hw (by omega) hr, ih hw⟩

/-- A read after a write to the same key gives the value written. -/
theorem sget_sset_same {m : List (Nat × α)} (h : swf d m = true) (i : Nat) (v : α) : sget d (sset d m i v) i = v := by
  induction m with
  | nil => by_cases hv : v = d <;> simp [sset, sget, hv]
  | cons p r ih =>
    obtain ⟨k, x⟩ := p
    obtain ⟨hx, hr, hw⟩ := swf_cons.mp h
    simp only [sset]
    split
    · split
      · have : i < k := ‹_›
        simp [sget, Nat.ne_of_gt this, *]
      · simp [sget]
    · split
      · split
        · subst i; rw [sget_below hw hr]; exact ‹v = d›.symm
        · simp [sget]
      · have h1 : ¬k = i := by omega
        simp [sget, h1, ‹¬i < k›, ih hw]

/-- A write leaves every other key alone. -/
theorem sget_sset_ne {m : List (Nat × α)} (h : swf d m = true) {i j : Nat} (v : α) (hij : j ≠ i) :
    sget d (sset d m i v) j = sget d m j := by
  induction m with
  | nil =>
    by_cases hv : v = d
    · simp [sset, hv]
    · have : ¬i = j := fun e => hij e.symm
      simp [sset, sget, hv, this]
  | cons p r ih =>
    obtain ⟨k, x⟩ := p
    obtain ⟨hx, hr, hw⟩ := swf_cons.mp h
    have hne : ¬i = j := fun e => hij e.symm
    simp only [sset]
    split
    · split
      · rfl
      · rename_i hik _
        by_cases hji : j < i
        · have h1 : j < k := by omega
          have h2 : ¬k = j := by omega
          simp [sget, hne, hji, h1, h2]
        · simp [sget, hne, hji]
    · split
      · split
        · subst i
          by_cases hjk : j < k
          · have : sget d r j = d := sget_below hw fun p hp => Nat.lt_trans hjk (hr p hp)
            simp [sget, hne, hjk, this]
          · simp [sget, hne, hjk]
        · subst i
          simp [sget, hne]
      · by_cases hkj : k = j
        · simp [sget, hkj]
        · by_cases hjk : j < k
          · simp [sget, hkj, hjk]
          · simp [sget, hkj, hjk, ih hw]

/-- Writing many values keeps the canonical form. -/
theorem swf_ssetMany {vs : List α} {m : List (Nat × α)} {i : Nat} (h : swf d m = true) :
    swf d (ssetMany d m i vs) = true := by
  induction vs generalizing m i with
  | nil => exact h
  | cons v r ih => exact ih (swf_sset h)

/-- Writing many values leaves every key outside them alone. -/
theorem sget_ssetMany_outside {vs : List α} {m : List (Nat × α)} {i j : Nat} (h : swf d m = true)
    (hj : j < i ∨ i + vs.length ≤ j) : sget d (ssetMany d m i vs) j = sget d m j := by
  induction vs generalizing m i with
  | nil => rfl
  | cons v r ih =>
    simp only [List.length_cons] at hj
    rw [ssetMany, ih (swf_sset h) (by omega), sget_sset_ne h _ (by omega)]

/-- Reading inside the values written gives them back. -/
theorem sget_ssetMany_inside {vs : List α} {m : List (Nat × α)} {i n : Nat} (h : swf d m = true) (hn : n < vs.length) :
    sget d (ssetMany d m i vs) (i + n) = vs[n] := by
  induction vs generalizing m i n with
  | nil => simp at hn
  | cons v r ih =>
    cases n with
    | zero => rw [ssetMany, sget_ssetMany_outside (swf_sset h) (by omega), Nat.add_zero, sget_sset_same h]; rfl
    | succ n =>
      rw [ssetMany, show i + (n + 1) = i + 1 + n by omega, ih (swf_sset h) (by simpa using hn)]; rfl

/-- Keeping the entries of some keys keeps the canonical form. -/
theorem swf_filter {m : List (Nat × α)} (f : Nat × α → Bool) (h : swf d m = true) : swf d (m.filter f) = true := by
  have head : ∀ (b : Nat) (m : List (Nat × α)), swf d m = true → (∀ p ∈ m.head?, b < p.1) →
      ∀ p ∈ (m.filter f).head?, b < p.1 := by
    intro b m
    induction m with
    | nil => simp
    | cons p r ih =>
      intro h hb
      obtain ⟨k, v⟩ := p
      obtain ⟨hv, hr, hw⟩ := swf_cons.mp h
      have hk : b < k := hb (k, v) (by simp)
      by_cases hf : f (k, v)
      · simp [hf, hk]
      · simpa [hf] using ih hw fun p hp => Nat.lt_trans hk (hr p hp)
  induction m with
  | nil => rfl
  | cons p r ih =>
    obtain ⟨k, v⟩ := p
    obtain ⟨hv, hr, hw⟩ := swf_cons.mp h
    by_cases hf : f (k, v)
    · rw [List.filter_cons_of_pos hf]; exact swf_cons.mpr ⟨hv, head k r hw hr, ih hw⟩
    · rw [List.filter_cons_of_neg hf]; exact ih hw

/-- Two canonical maps that read alike are the same data. -/
theorem swf_ext {m m' : List (Nat × α)} (h : swf d m = true) (h' : swf d m' = true)
    (e : ∀ i, sget d m i = sget d m' i) : m = m' := by
  induction m generalizing m' with
  | nil =>
    cases m' with
    | nil => rfl
    | cons p r =>
      obtain ⟨k, v⟩ := p
      have := e k
      simp [sget] at this
      exact absurd this.symm (swf_cons.mp h').1
  | cons p r ih =>
    obtain ⟨k, v⟩ := p
    obtain ⟨hv, hr, hw⟩ := swf_cons.mp h
    cases m' with
    | nil => have := e k; simp [sget] at this; exact absurd this hv
    | cons p' r' =>
      obtain ⟨k', v'⟩ := p'
      obtain ⟨hv', hr', hw'⟩ := swf_cons.mp h'
      have hk : k = k' := by
        rcases Nat.lt_trichotomy k k' with hlt | heq | hgt
        · have := e k; simp [sget, hlt, Nat.ne_of_gt hlt] at this; exact absurd this hv
        · exact heq
        · have := e k'; simp [sget, hgt, Nat.ne_of_gt hgt] at this; exact absurd this.symm hv'
      subst hk
      have hvv : v = v' := by simpa [sget] using e k
      subst hvv
      rw [ih hw hw' fun i => ?_]
      by_cases hi : i < k
      · rw [sget_below hw fun p hp => Nat.lt_trans hi (hr p hp), sget_below hw' fun p hp => Nat.lt_trans hi (hr' p hp)]
      · by_cases hik : k = i
        · subst hik; rw [sget_below hw hr, sget_below hw' hr']
        · simpa [sget, hi, hik] using e i

end Sparse

/-! ### Memory -/

/-- Writing a byte keeps memory canonical. -/
theorem writeByte_wf {m : List Host.Cell} {a : Nat} {b : Byte} (h : Memory.wf m = true) :
    Memory.wf (writeByte m a b) = true := swf_sset h

/-- A byte reads as the byte last written there. -/
theorem readByte_writeByte_same {m : List Host.Cell} (h : Memory.wf m = true) (a : Nat) (b : Byte) :
    readByte (writeByte m a b) a = b := sget_sset_same h a b

/-- Writing a byte leaves every other address alone. -/
theorem readByte_writeByte_ne {m : List Host.Cell} (h : Memory.wf m = true) {a a' : Nat} (b : Byte) (ha : a' ≠ a) :
    readByte (writeByte m a b) a' = readByte m a' := sget_sset_ne h b ha

/-- Writing bytes keeps memory canonical. -/
theorem writeBytes_wf {m : List Host.Cell} {a : Nat} {bs : List Byte} (h : Memory.wf m = true) :
    Memory.wf (writeBytes m a bs) = true := swf_ssetMany h

/-- Writing bytes leaves every address outside them alone. -/
theorem readByte_writeBytes_outside {m : List Host.Cell} {a a' : Nat} {bs : List Byte} (h : Memory.wf m = true)
    (ha : a' < a ∨ a + bs.length ≤ a') : readByte (writeBytes m a bs) a' = readByte m a' :=
  sget_ssetMany_outside h ha

/-- The bytes read after they are written are the bytes written (R3). -/
theorem readBytes_writeBytes {m : List Host.Cell} {a : Nat} {bs : List Byte} (h : Memory.wf m = true) :
    readBytes (writeBytes m a bs) a bs.length = bs := by
  apply List.ext_getElem
  · simp [readBytes, sgetMany]
  · intro n h1 h2
    simpa [readBytes, sgetMany, writeBytes] using sget_ssetMany_inside (d := unlistedByte) (i := a) h h2

/-- Two canonical memories that read alike are the same data. -/
theorem memory_ext {m m' : List Host.Cell} (h : Memory.wf m = true) (h' : Memory.wf m' = true)
    (e : ∀ a, readByte m a = readByte m' a) : m = m' := swf_ext h h' e

/-- A store keeps memory canonical. -/
theorem store_wf {m : MemSt} {a : Nat} {bs : List Byte} (h : Memory.wf m.bytes = true) :
    Memory.wf (m.store a bs).bytes = true := writeBytes_wf h

/-- A store writes its bytes and no other. -/
theorem store_bytes (m : MemSt) (a : Nat) (bs : List Byte) : (m.store a bs).bytes = writeBytes m.bytes a bs := rfl

/-- Zeroing a frame keeps memory canonical (R323). -/
theorem zeroFrame_wf {m : MemSt} {frame : Nat} (h : Memory.wf m.bytes = true) :
    Memory.wf (m.zeroFrame frame).bytes = true := swf_filter _ h

/-- The memory after reset is canonical. -/
theorem memory_reset_wf : Memory.wf State.reset.mem.bytes = true := rfl

end Sys2Proof.Machine
end

