-- ==== Sys2Proof/Laws/State.lean ====
section
/-! SUPPORT. What each update of the state leaves alone: one lemma per field per update, and what the updates of a region
slot do to the slots. -/

namespace Sys2Proof.Machine

/-! ### Writing a region slot -/

@[simp] theorem setRegion_focus (s : State) (r : Nat) (g : Region) : (s.setRegion r g).focus = s.focus := rfl
@[simp] theorem setRegion_agenda (s : State) (r : Nat) (g : Region) : (s.setRegion r g).agenda = s.agenda := rfl
@[simp] theorem setRegion_choiceCtr (s : State) (r : Nat) (g : Region) : (s.setRegion r g).choiceCtr = s.choiceCtr := rfl
@[simp] theorem setRegion_freeCtr (s : State) (r : Nat) (g : Region) : (s.setRegion r g).freeCtr = s.freeCtr := rfl
@[simp] theorem setRegion_cycle (s : State) (r : Nat) (g : Region) : (s.setRegion r g).cycle = s.cycle := rfl
@[simp] theorem setRegion_clock (s : State) (r : Nat) (g : Region) : (s.setRegion r g).clock = s.clock := rfl
@[simp] theorem setRegion_nextId (s : State) (r : Nat) (g : Region) : (s.setRegion r g).nextId = s.nextId := rfl
@[simp] theorem setRegion_mem (s : State) (r : Nat) (g : Region) : (s.setRegion r g).mem = s.mem := rfl
@[simp] theorem setRegion_drv (s : State) (r : Nat) (g : Region) : (s.setRegion r g).drv = s.drv := rfl
@[simp] theorem setRegion_sched (s : State) (r : Nat) (g : Region) : (s.setRegion r g).sched = s.sched := rfl
@[simp] theorem setRegion_link (s : State) (r : Nat) (g : Region) : (s.setRegion r g).link = s.link := rfl
@[simp] theorem setRegion_plat (s : State) (r : Nat) (g : Region) : (s.setRegion r g).plat = s.plat := rfl
@[simp] theorem setRegion_volt (s : State) (r : Nat) (g : Region) : (s.setRegion r g).volt = s.volt := rfl

/-- The slots after one of them is written. -/
@[simp] theorem setRegion_regions (s : State) (r : Nat) (g : Region) : (s.setRegion r g).regions = s.regions.set r g := rfl

theorem setRegion_region?_same {s : State} {r : Nat} {g h : Region} (hr : s.region? r = some h) :
    (s.setRegion r g).region? r = some g := by
  have hlt : r < s.regions.length := (List.getElem?_eq_some_iff.mp hr).1
  simp [State.region?, hlt]

/-- Writing one slot leaves the others alone. -/
theorem setRegion_region?_ne {s : State} {r r' : Nat} {g : Region} (h : r' ≠ r) :
    (s.setRegion r g).region? r' = s.region? r' := by
  simp [State.region?, List.getElem?_set_ne (Ne.symm h)]

/-! ### Changing a region slot -/

@[simp] theorem modRegion_focus (s : State) (r : Nat) (f : Region → Region) : (s.modRegion r f).focus = s.focus := by
  unfold State.modRegion; split <;> rfl
@[simp] theorem modRegion_agenda (s : State) (r : Nat) (f : Region → Region) : (s.modRegion r f).agenda = s.agenda := by
  unfold State.modRegion; split <;> rfl
@[simp] theorem modRegion_choiceCtr (s : State) (r : Nat) (f : Region → Region) : (s.modRegion r f).choiceCtr = s.choiceCtr := by
  unfold State.modRegion; split <;> rfl
@[simp] theorem modRegion_freeCtr (s : State) (r : Nat) (f : Region → Region) : (s.modRegion r f).freeCtr = s.freeCtr := by
  unfold State.modRegion; split <;> rfl
@[simp] theorem modRegion_cycle (s : State) (r : Nat) (f : Region → Region) : (s.modRegion r f).cycle = s.cycle := by
  unfold State.modRegion; split <;> rfl
@[simp] theorem modRegion_clock (s : State) (r : Nat) (f : Region → Region) : (s.modRegion r f).clock = s.clock := by
  unfold State.modRegion; split <;> rfl
@[simp] theorem modRegion_nextId (s : State) (r : Nat) (f : Region → Region) : (s.modRegion r f).nextId = s.nextId := by
  unfold State.modRegion; split <;> rfl
@[simp] theorem modRegion_mem (s : State) (r : Nat) (f : Region → Region) : (s.modRegion r f).mem = s.mem := by
  unfold State.modRegion; split <;> rfl
@[simp] theorem modRegion_drv (s : State) (r : Nat) (f : Region → Region) : (s.modRegion r f).drv = s.drv := by
  unfold State.modRegion; split <;> rfl
@[simp] theorem modRegion_sched (s : State) (r : Nat) (f : Region → Region) : (s.modRegion r f).sched = s.sched := by
  unfold State.modRegion; split <;> rfl
@[simp] theorem modRegion_link (s : State) (r : Nat) (f : Region → Region) : (s.modRegion r f).link = s.link := by
  unfold State.modRegion; split <;> rfl
@[simp] theorem modRegion_plat (s : State) (r : Nat) (f : Region → Region) : (s.modRegion r f).plat = s.plat := by
  unfold State.modRegion; split <;> rfl
@[simp] theorem modRegion_volt (s : State) (r : Nat) (f : Region → Region) : (s.modRegion r f).volt = s.volt := by
  unfold State.modRegion; split <;> rfl

@[simp] theorem modRegion_length (s : State) (r : Nat) (f : Region → Region) :
    (s.modRegion r f).regions.length = s.regions.length := by
  unfold State.modRegion; split <;> simp

/-- The slot changed. -/
theorem modRegion_region?_same {s : State} {r : Nat} {f : Region → Region} {g : Region} (h : s.region? r = some g) :
    (s.modRegion r f).region? r = some (f g) := by
  simp only [State.modRegion, h]; exact setRegion_region?_same h

/-- Changing one slot leaves the others alone. -/
theorem modRegion_region?_ne {s : State} {r r' : Nat} {f : Region → Region} (h : r' ≠ r) :
    (s.modRegion r f).region? r' = s.region? r' := by
  unfold State.modRegion; split
  · exact setRegion_region?_ne h
  · rfl

/-! ### Writing a graph -/

@[simp] theorem setGraph_focus (s : State) (r : Nat) (g : GraphSt) : (s.setGraph r g).focus = s.focus := by
  simp [State.setGraph]
@[simp] theorem setGraph_agenda (s : State) (r : Nat) (g : GraphSt) : (s.setGraph r g).agenda = s.agenda := by
  simp [State.setGraph]
@[simp] theorem setGraph_choiceCtr (s : State) (r : Nat) (g : GraphSt) : (s.setGraph r g).choiceCtr = s.choiceCtr := by
  simp [State.setGraph]
@[simp] theorem setGraph_freeCtr (s : State) (r : Nat) (g : GraphSt) : (s.setGraph r g).freeCtr = s.freeCtr := by
  simp [State.setGraph]
@[simp] theorem setGraph_cycle (s : State) (r : Nat) (g : GraphSt) : (s.setGraph r g).cycle = s.cycle := by
  simp [State.setGraph]
@[simp] theorem setGraph_clock (s : State) (r : Nat) (g : GraphSt) : (s.setGraph r g).clock = s.clock := by
  simp [State.setGraph]
@[simp] theorem setGraph_nextId (s : State) (r : Nat) (g : GraphSt) : (s.setGraph r g).nextId = s.nextId := by
  simp [State.setGraph]
@[simp] theorem setGraph_mem (s : State) (r : Nat) (g : GraphSt) : (s.setGraph r g).mem = s.mem := by
  simp [State.setGraph]
@[simp] theorem setGraph_drv (s : State) (r : Nat) (g : GraphSt) : (s.setGraph r g).drv = s.drv := by
  simp [State.setGraph]
@[simp] theorem setGraph_sched (s : State) (r : Nat) (g : GraphSt) : (s.setGraph r g).sched = s.sched := by
  simp [State.setGraph]
@[simp] theorem setGraph_link (s : State) (r : Nat) (g : GraphSt) : (s.setGraph r g).link = s.link := by
  simp [State.setGraph]
@[simp] theorem setGraph_plat (s : State) (r : Nat) (g : GraphSt) : (s.setGraph r g).plat = s.plat := by
  simp [State.setGraph]
@[simp] theorem setGraph_volt (s : State) (r : Nat) (g : GraphSt) : (s.setGraph r g).volt = s.volt := by
  simp [State.setGraph]

@[simp] theorem setGraph_length (s : State) (r : Nat) (g : GraphSt) :
    (s.setGraph r g).regions.length = s.regions.length := by
  simp [State.setGraph]

/-- The slot whose graph is written keeps everything else. -/
theorem setGraph_region?_same {s : State} {r : Nat} {g : GraphSt} {reg : Region} (h : s.region? r = some reg) :
    (s.setGraph r g).region? r = some { reg with g := some g } := modRegion_region?_same h

/-- Writing one graph leaves the other slots alone. -/
theorem setGraph_region?_ne {s : State} {r r' : Nat} {g : GraphSt} (h : r' ≠ r) :
    (s.setGraph r g).region? r' = s.region? r' := modRegion_region?_ne h

/-! ### Writing an element -/

@[simp] theorem put_focus (c : Ctx) (s : State) (el : Elem) : (c.put s el).focus = s.focus := by
  simp [Ctx.put]
@[simp] theorem put_agenda (c : Ctx) (s : State) (el : Elem) : (c.put s el).agenda = s.agenda := by
  simp [Ctx.put]
@[simp] theorem put_choiceCtr (c : Ctx) (s : State) (el : Elem) : (c.put s el).choiceCtr = s.choiceCtr := by
  simp [Ctx.put]
@[simp] theorem put_freeCtr (c : Ctx) (s : State) (el : Elem) : (c.put s el).freeCtr = s.freeCtr := by
  simp [Ctx.put]
@[simp] theorem put_cycle (c : Ctx) (s : State) (el : Elem) : (c.put s el).cycle = s.cycle := by
  simp [Ctx.put]
@[simp] theorem put_clock (c : Ctx) (s : State) (el : Elem) : (c.put s el).clock = s.clock := by
  simp [Ctx.put]
@[simp] theorem put_nextId (c : Ctx) (s : State) (el : Elem) : (c.put s el).nextId = s.nextId := by
  simp [Ctx.put]
@[simp] theorem put_mem (c : Ctx) (s : State) (el : Elem) : (c.put s el).mem = s.mem := by
  simp [Ctx.put]
@[simp] theorem put_drv (c : Ctx) (s : State) (el : Elem) : (c.put s el).drv = s.drv := by
  simp [Ctx.put]
@[simp] theorem put_sched (c : Ctx) (s : State) (el : Elem) : (c.put s el).sched = s.sched := by
  simp [Ctx.put]
@[simp] theorem put_link (c : Ctx) (s : State) (el : Elem) : (c.put s el).link = s.link := by
  simp [Ctx.put]
@[simp] theorem put_plat (c : Ctx) (s : State) (el : Elem) : (c.put s el).plat = s.plat := by
  simp [Ctx.put]
@[simp] theorem put_volt (c : Ctx) (s : State) (el : Elem) : (c.put s el).volt = s.volt := by
  simp [Ctx.put]

@[simp] theorem put_length (c : Ctx) (s : State) (el : Elem) : (c.put s el).regions.length = s.regions.length := by
  simp [Ctx.put]

/-! ### Writing a counter -/

@[simp] theorem setCounter_focus (s : State) (n : Nat) (v : BitVec 64) : (s.setCounter n v).focus = s.focus := rfl
@[simp] theorem setCounter_agenda (s : State) (n : Nat) (v : BitVec 64) : (s.setCounter n v).agenda = s.agenda := rfl
@[simp] theorem setCounter_choiceCtr (s : State) (n : Nat) (v : BitVec 64) : (s.setCounter n v).choiceCtr = s.choiceCtr := rfl
@[simp] theorem setCounter_freeCtr (s : State) (n : Nat) (v : BitVec 64) : (s.setCounter n v).freeCtr = s.freeCtr := rfl
@[simp] theorem setCounter_cycle (s : State) (n : Nat) (v : BitVec 64) : (s.setCounter n v).cycle = s.cycle := rfl
@[simp] theorem setCounter_clock (s : State) (n : Nat) (v : BitVec 64) : (s.setCounter n v).clock = s.clock := rfl
@[simp] theorem setCounter_nextId (s : State) (n : Nat) (v : BitVec 64) : (s.setCounter n v).nextId = s.nextId := rfl
@[simp] theorem setCounter_regions (s : State) (n : Nat) (v : BitVec 64) : (s.setCounter n v).regions = s.regions := rfl
@[simp] theorem setCounter_drv (s : State) (n : Nat) (v : BitVec 64) : (s.setCounter n v).drv = s.drv := rfl
@[simp] theorem setCounter_sched (s : State) (n : Nat) (v : BitVec 64) : (s.setCounter n v).sched = s.sched := rfl
@[simp] theorem setCounter_link (s : State) (n : Nat) (v : BitVec 64) : (s.setCounter n v).link = s.link := rfl
@[simp] theorem setCounter_plat (s : State) (n : Nat) (v : BitVec 64) : (s.setCounter n v).plat = s.plat := rfl
@[simp] theorem setCounter_volt (s : State) (n : Nat) (v : BitVec 64) : (s.setCounter n v).volt = s.volt := rfl

@[simp] theorem setCounter_bytes (s : State) (n : Nat) (v : BitVec 64) : (s.setCounter n v).mem.bytes = s.mem.bytes := rfl

/-! ### Writing a barrier -/

@[simp] theorem setBarrier_focus (s : State) (n : Nat) (b : Barrier) : (s.setBarrier n b).focus = s.focus := rfl
@[simp] theorem setBarrier_agenda (s : State) (n : Nat) (b : Barrier) : (s.setBarrier n b).agenda = s.agenda := rfl
@[simp] theorem setBarrier_choiceCtr (s : State) (n : Nat) (b : Barrier) : (s.setBarrier n b).choiceCtr = s.choiceCtr := rfl
@[simp] theorem setBarrier_freeCtr (s : State) (n : Nat) (b : Barrier) : (s.setBarrier n b).freeCtr = s.freeCtr := rfl
@[simp] theorem setBarrier_cycle (s : State) (n : Nat) (b : Barrier) : (s.setBarrier n b).cycle = s.cycle := rfl
@[simp] theorem setBarrier_clock (s : State) (n : Nat) (b : Barrier) : (s.setBarrier n b).clock = s.clock := rfl
@[simp] theorem setBarrier_nextId (s : State) (n : Nat) (b : Barrier) : (s.setBarrier n b).nextId = s.nextId := rfl
@[simp] theorem setBarrier_regions (s : State) (n : Nat) (b : Barrier) : (s.setBarrier n b).regions = s.regions := rfl
@[simp] theorem setBarrier_drv (s : State) (n : Nat) (b : Barrier) : (s.setBarrier n b).drv = s.drv := rfl
@[simp] theorem setBarrier_sched (s : State) (n : Nat) (b : Barrier) : (s.setBarrier n b).sched = s.sched := rfl
@[simp] theorem setBarrier_link (s : State) (n : Nat) (b : Barrier) : (s.setBarrier n b).link = s.link := rfl
@[simp] theorem setBarrier_plat (s : State) (n : Nat) (b : Barrier) : (s.setBarrier n b).plat = s.plat := rfl
@[simp] theorem setBarrier_volt (s : State) (n : Nat) (b : Barrier) : (s.setBarrier n b).volt = s.volt := rfl

@[simp] theorem setBarrier_bytes (s : State) (n : Nat) (b : Barrier) : (s.setBarrier n b).mem.bytes = s.mem.bytes := rfl

/-! ### Writing a reduction group -/

@[simp] theorem setGroup_focus (s : State) (n : Nat) (g : GroupSt) : (s.setGroup n g).focus = s.focus := rfl
@[simp] theorem setGroup_agenda (s : State) (n : Nat) (g : GroupSt) : (s.setGroup n g).agenda = s.agenda := rfl
@[simp] theorem setGroup_choiceCtr (s : State) (n : Nat) (g : GroupSt) : (s.setGroup n g).choiceCtr = s.choiceCtr := rfl
@[simp] theorem setGroup_freeCtr (s : State) (n : Nat) (g : GroupSt) : (s.setGroup n g).freeCtr = s.freeCtr := rfl
@[simp] theorem setGroup_cycle (s : State) (n : Nat) (g : GroupSt) : (s.setGroup n g).cycle = s.cycle := rfl
@[simp] theorem setGroup_clock (s : State) (n : Nat) (g : GroupSt) : (s.setGroup n g).clock = s.clock := rfl
@[simp] theorem setGroup_nextId (s : State) (n : Nat) (g : GroupSt) : (s.setGroup n g).nextId = s.nextId := rfl
@[simp] theorem setGroup_regions (s : State) (n : Nat) (g : GroupSt) : (s.setGroup n g).regions = s.regions := rfl
@[simp] theorem setGroup_mem (s : State) (n : Nat) (g : GroupSt) : (s.setGroup n g).mem = s.mem := rfl
@[simp] theorem setGroup_drv (s : State) (n : Nat) (g : GroupSt) : (s.setGroup n g).drv = s.drv := rfl
@[simp] theorem setGroup_sched (s : State) (n : Nat) (g : GroupSt) : (s.setGroup n g).sched = s.sched := rfl
@[simp] theorem setGroup_plat (s : State) (n : Nat) (g : GroupSt) : (s.setGroup n g).plat = s.plat := rfl
@[simp] theorem setGroup_volt (s : State) (n : Nat) (g : GroupSt) : (s.setGroup n g).volt = s.volt := rfl

/-! ### Drawing a free value and an identifier -/

@[simp] theorem drawFree_focus (s : State) : (s.drawFree.2).focus = s.focus := rfl
@[simp] theorem drawFree_agenda (s : State) : (s.drawFree.2).agenda = s.agenda := rfl
@[simp] theorem drawFree_choiceCtr (s : State) : (s.drawFree.2).choiceCtr = s.choiceCtr := rfl
@[simp] theorem drawFree_cycle (s : State) : (s.drawFree.2).cycle = s.cycle := rfl
@[simp] theorem drawFree_clock (s : State) : (s.drawFree.2).clock = s.clock := rfl
@[simp] theorem drawFree_nextId (s : State) : (s.drawFree.2).nextId = s.nextId := rfl
@[simp] theorem drawFree_regions (s : State) : (s.drawFree.2).regions = s.regions := rfl
@[simp] theorem drawFree_mem (s : State) : (s.drawFree.2).mem = s.mem := rfl
@[simp] theorem drawFree_drv (s : State) : (s.drawFree.2).drv = s.drv := rfl
@[simp] theorem drawFree_sched (s : State) : (s.drawFree.2).sched = s.sched := rfl
@[simp] theorem drawFree_link (s : State) : (s.drawFree.2).link = s.link := rfl
@[simp] theorem drawFree_plat (s : State) : (s.drawFree.2).plat = s.plat := rfl
@[simp] theorem drawFree_volt (s : State) : (s.drawFree.2).volt = s.volt := rfl

@[simp] theorem drawFree_freeCtr (s : State) : s.drawFree.2.freeCtr = s.freeCtr + 1 := rfl

@[simp] theorem fresh_focus (s : State) : s.fresh.2.focus = s.focus := rfl
@[simp] theorem fresh_agenda (s : State) : s.fresh.2.agenda = s.agenda := rfl
@[simp] theorem fresh_choiceCtr (s : State) : s.fresh.2.choiceCtr = s.choiceCtr := rfl
@[simp] theorem fresh_freeCtr (s : State) : s.fresh.2.freeCtr = s.freeCtr := rfl
@[simp] theorem fresh_cycle (s : State) : s.fresh.2.cycle = s.cycle := rfl
@[simp] theorem fresh_clock (s : State) : s.fresh.2.clock = s.clock := rfl
@[simp] theorem fresh_regions (s : State) : s.fresh.2.regions = s.regions := rfl
@[simp] theorem fresh_mem (s : State) : s.fresh.2.mem = s.mem := rfl
@[simp] theorem fresh_drv (s : State) : s.fresh.2.drv = s.drv := rfl
@[simp] theorem fresh_sched (s : State) : s.fresh.2.sched = s.sched := rfl
@[simp] theorem fresh_link (s : State) : s.fresh.2.link = s.link := rfl
@[simp] theorem fresh_plat (s : State) : s.fresh.2.plat = s.plat := rfl
@[simp] theorem fresh_volt (s : State) : s.fresh.2.volt = s.volt := rfl
@[simp] theorem fresh_nextId (s : State) : s.fresh.2.nextId = s.nextId + 1 := rfl

/-! ### Releasing a region -/

@[simp] theorem freeRegion_regions (s : State) (r : Nat) (g : Region) :
    (s.freeRegion r g).regions = s.regions.set r { Region.empty with gen := g.gen } := rfl
@[simp] theorem freeRegion_mem (s : State) (r : Nat) (g : Region) : (s.freeRegion r g).mem = s.mem := rfl
@[simp] theorem freeRegion_plat (s : State) (r : Nat) (g : Region) : (s.freeRegion r g).plat = s.plat := rfl
@[simp] theorem freeRegion_sched (s : State) (r : Nat) (g : Region) : (s.freeRegion r g).sched = s.sched := rfl
@[simp] theorem freeRegion_link (s : State) (r : Nat) (g : Region) : (s.freeRegion r g).link = s.link := rfl
@[simp] theorem freeRegion_drv (s : State) (r : Nat) (g : Region) : (s.freeRegion r g).drv = s.drv := rfl
@[simp] theorem freeRegion_volt (s : State) (r : Nat) (g : Region) :
    (s.freeRegion r g).volt = s.volt.settle (g.clusters r) := rfl

/-- A freed slot keeps its generation alone (R81, R324). -/
theorem freeRegion_region?_same {s : State} {r : Nat} {g h : Region} (k : s.region? r = some h) :
    (s.freeRegion r g).region? r = some { Region.empty with gen := g.gen } := setRegion_region?_same k

/-- Freeing one slot leaves the others alone. -/
theorem freeRegion_region?_ne {s : State} {r r' : Nat} {g : Region} (k : r' ≠ r) :
    (s.freeRegion r g).region? r' = s.region? r' := setRegion_region?_ne k

@[simp] theorem releaseRegion_focus (s : State) (r : Nat) : (s.releaseRegion r).focus = s.focus := by
  unfold State.releaseRegion; split <;> rfl
@[simp] theorem releaseRegion_agenda (s : State) (r : Nat) : (s.releaseRegion r).agenda = s.agenda := by
  unfold State.releaseRegion; split <;> rfl
@[simp] theorem releaseRegion_choiceCtr (s : State) (r : Nat) : (s.releaseRegion r).choiceCtr = s.choiceCtr := by
  unfold State.releaseRegion; split <;> rfl
@[simp] theorem releaseRegion_freeCtr (s : State) (r : Nat) : (s.releaseRegion r).freeCtr = s.freeCtr := by
  unfold State.releaseRegion; split <;> rfl
@[simp] theorem releaseRegion_cycle (s : State) (r : Nat) : (s.releaseRegion r).cycle = s.cycle := by
  unfold State.releaseRegion; split <;> rfl
@[simp] theorem releaseRegion_clock (s : State) (r : Nat) : (s.releaseRegion r).clock = s.clock := by
  unfold State.releaseRegion; split <;> rfl
@[simp] theorem releaseRegion_nextId (s : State) (r : Nat) : (s.releaseRegion r).nextId = s.nextId := by
  unfold State.releaseRegion; split <;> rfl
@[simp] theorem releaseRegion_drv (s : State) (r : Nat) : (s.releaseRegion r).drv = s.drv := by
  unfold State.releaseRegion; split <;> rfl
@[simp] theorem releaseRegion_sched (s : State) (r : Nat) : (s.releaseRegion r).sched = s.sched := by
  unfold State.releaseRegion; split <;> rfl
@[simp] theorem releaseRegion_link (s : State) (r : Nat) : (s.releaseRegion r).link = s.link := by
  unfold State.releaseRegion; split <;> rfl
@[simp] theorem releaseRegion_plat (s : State) (r : Nat) : (s.releaseRegion r).plat = s.plat := by
  unfold State.releaseRegion; split <;> rfl

@[simp] theorem releaseRegion_bytes (s : State) (r : Nat) : (s.releaseRegion r).mem.bytes = s.mem.bytes := by
  unfold State.releaseRegion; split <;> rfl

@[simp] theorem releaseRegion_length (s : State) (r : Nat) : (s.releaseRegion r).regions.length = s.regions.length := by
  unfold State.releaseRegion; split <;> simp

/-- A released slot is free and keeps its generation (R81, R324). -/
theorem releaseRegion_region?_same {s : State} {r : Nat} {reg : Region} (h : s.region? r = some reg) :
    (s.releaseRegion r).region? r = some { Region.empty with gen := reg.gen } := by
  simp only [State.releaseRegion, h]; exact freeRegion_region?_same h

theorem releaseRegion_region?_ne {s : State} {r r' : Nat} (h : r' ≠ r) :
    (s.releaseRegion r).region? r' = s.region? r' := by
  unfold State.releaseRegion; split
  · rfl
  · exact freeRegion_region?_ne h

/-! ### Writing a home copy (R344, R353) -/

@[simp] theorem homeWrite_focus (s : State) (pa : Nat) (bs : List Byte) : (s.homeWrite pa bs).focus = s.focus := rfl
@[simp] theorem homeWrite_agenda (s : State) (pa : Nat) (bs : List Byte) : (s.homeWrite pa bs).agenda = s.agenda := rfl
@[simp] theorem homeWrite_choiceCtr (s : State) (pa : Nat) (bs : List Byte) : (s.homeWrite pa bs).choiceCtr = s.choiceCtr := rfl
@[simp] theorem homeWrite_freeCtr (s : State) (pa : Nat) (bs : List Byte) : (s.homeWrite pa bs).freeCtr = s.freeCtr := rfl
@[simp] theorem homeWrite_cycle (s : State) (pa : Nat) (bs : List Byte) : (s.homeWrite pa bs).cycle = s.cycle := rfl
@[simp] theorem homeWrite_clock (s : State) (pa : Nat) (bs : List Byte) : (s.homeWrite pa bs).clock = s.clock := rfl
@[simp] theorem homeWrite_nextId (s : State) (pa : Nat) (bs : List Byte) : (s.homeWrite pa bs).nextId = s.nextId := rfl
@[simp] theorem homeWrite_regions (s : State) (pa : Nat) (bs : List Byte) : (s.homeWrite pa bs).regions = s.regions := rfl
@[simp] theorem homeWrite_sched (s : State) (pa : Nat) (bs : List Byte) : (s.homeWrite pa bs).sched = s.sched := rfl
@[simp] theorem homeWrite_link (s : State) (pa : Nat) (bs : List Byte) : (s.homeWrite pa bs).link = s.link := rfl
@[simp] theorem homeWrite_plat (s : State) (pa : Nat) (bs : List Byte) : (s.homeWrite pa bs).plat = s.plat := rfl
@[simp] theorem homeWrite_volt (s : State) (pa : Nat) (bs : List Byte) : (s.homeWrite pa bs).volt = s.volt := rfl
@[simp] theorem homeWrite_frames (s : State) (pa : Nat) (bs : List Byte) : (s.homeWrite pa bs).mem.frames = s.mem.frames := rfl
@[simp] theorem homeWrite_dir (s : State) (pa : Nat) (bs : List Byte) : (s.homeWrite pa bs).mem.dir = s.mem.dir := rfl
@[simp] theorem homeWrite_reqs (s : State) (pa : Nat) (bs : List Byte) : (s.homeWrite pa bs).mem.reqs = s.mem.reqs := rfl
@[simp] theorem homeWrite_egress (s : State) (pa : Nat) (bs : List Byte) : (s.homeWrite pa bs).mem.egress = s.mem.egress := rfl
@[simp] theorem homeWrite_replies (s : State) (pa : Nat) (bs : List Byte) : (s.homeWrite pa bs).mem.replies = s.mem.replies := rfl
@[simp] theorem homeWrite_counters (s : State) (pa : Nat) (bs : List Byte) : (s.homeWrite pa bs).mem.counters = s.mem.counters := rfl
@[simp] theorem homeWrite_barriers (s : State) (pa : Nat) (bs : List Byte) : (s.homeWrite pa bs).mem.barriers = s.mem.barriers := rfl
@[simp] theorem homeWrite_held (s : State) (pa : Nat) (bs : List Byte) : (s.homeWrite pa bs).mem.held = s.mem.held := rfl
@[simp] theorem homeWrite_replays (s : State) (pa : Nat) (bs : List Byte) : (s.homeWrite pa bs).mem.replays = s.mem.replays := rfl

/-- A home write writes its bytes and no other. -/
@[simp] theorem homeWrite_bytes (s : State) (pa : Nat) (bs : List Byte) :
    (s.homeWrite pa bs).mem.bytes = writeBytes s.mem.bytes pa bs := rfl

/-- The shadows over the bytes follow in the same step. -/
@[simp] theorem homeWrite_drv (s : State) (pa : Nat) (bs : List Byte) :
    (s.homeWrite pa bs).drv =
      s.drv.map fun d => d.stored s.mem.bytes (writeBytes s.mem.bytes pa bs) s.mem.poison pa bs.length := rfl

/-- What a write that no check at issue stands before can do (R353): nothing in a DERIVED frame, else the home write. -/
theorem backWrite_cases (s : State) (pa : Nat) (bs : List Byte) :
    ((s.mem.frame pa).derived = true ∧ s.backWrite pa bs = s) ∨
      ((s.mem.frame pa).derived = false ∧ s.backWrite pa bs = s.homeWrite pa bs) := by
  unfold State.backWrite
  cases h : (s.mem.frame pa).derived <;> simp

/-- A request that joins its queue draws an identifier and changes nothing else. -/
@[simp] theorem joinReqs_reqs (s : State) (g pa n mt : Nat) (q : PortReq) :
    (s.joinReqs g pa n mt q).mem.reqs = s.mem.reqs ++ [portReq s.nextId g pa n mt q] := rfl
@[simp] theorem joinReqs_nextId (s : State) (g pa n mt : Nat) (q : PortReq) : (s.joinReqs g pa n mt q).nextId = s.nextId + 1 := rfl
@[simp] theorem joinReqs_bytes (s : State) (g pa n mt : Nat) (q : PortReq) :
    (s.joinReqs g pa n mt q).mem.bytes = s.mem.bytes := rfl
@[simp] theorem joinReqs_drv (s : State) (g pa n mt : Nat) (q : PortReq) : (s.joinReqs g pa n mt q).drv = s.drv := rfl

/-- What a write of the machine's own within one line can do (R312, R350, R353): it waits as a request, or it performs at once,
in a frame that is not DERIVED. -/
theorem ownLine_cases (s : State) (pa : Nat) (bs : List Byte) :
    (s.ownWaits pa bs.length 2 = true ∧ s.ownLine pa bs = s.joinReqs ownAgent pa bs.length 2 (.write bs)) ∨
      s.ownLine pa bs = s ∨ s.ownLine pa bs = s.homeWrite pa bs := by
  unfold State.ownLine
  split
  · exact .inl ⟨by assumption, rfl⟩
  · rcases backWrite_cases s pa bs with ⟨-, e⟩ | ⟨-, e⟩ <;> simp [e]

/-- What an amendment of a byte can do: nothing, wait as a request, or write the byte. -/
theorem ownAmend_cases (s : State) (a : Nat) (k b : Byte) :
    s.ownAmend a k b = s ∨ s.ownAmend a k b = s.joinReqs ownAgent a 1 0 (.amend k b) ∨
      s.ownAmend a k b = s.homeWrite a [amendByte k b (readByte s.mem.bytes a)] := by
  unfold State.ownAmend
  split
  · exact .inl rfl
  · split
    · exact .inr (.inl rfl)
    · rcases backWrite_cases s a [amendByte k b (readByte s.mem.bytes a)] with ⟨-, e⟩ | ⟨-, e⟩ <;> simp [e]

/-- What every home write and every request that joins a queue keep, an own write keeps. -/
theorem ownWrite_keeps {α : Type} {f : State → α} (h : ∀ s pa bs, f (s.homeWrite pa bs) = f s)
    (k : ∀ s g pa n mt q, f (s.joinReqs g pa n mt q) = f s) (s : State) (pa : Nat) (bs : List Byte) :
    f (s.ownWrite pa bs) = f s := by
  unfold State.ownWrite
  induction List.range ((pa % 64 + bs.length + 63) / 64) generalizing s with
  | nil => rfl
  | cons i r ih =>
    rw [List.foldl_cons, ih]
    dsimp only
    rcases ownLine_cases s (max pa (64 * (pa / 64 + i)))
      ((bs.drop (max pa (64 * (pa / 64 + i)) - pa)).take (64 * (pa / 64 + i + 1) - max pa (64 * (pa / 64 + i))))
      with ⟨-, e⟩ | e | e <;> rw [e]
    · exact k _ _ _ _ _ _
    · exact h _ _ _

@[simp] theorem ownWrite_focus (s : State) (pa : Nat) (bs : List Byte) : (s.ownWrite pa bs).focus = s.focus :=
  ownWrite_keeps (f := State.focus) (fun _ _ _ => rfl) (fun _ _ _ _ _ _ => rfl) s pa bs
@[simp] theorem ownWrite_agenda (s : State) (pa : Nat) (bs : List Byte) : (s.ownWrite pa bs).agenda = s.agenda :=
  ownWrite_keeps (f := State.agenda) (fun _ _ _ => rfl) (fun _ _ _ _ _ _ => rfl) s pa bs
@[simp] theorem ownWrite_choiceCtr (s : State) (pa : Nat) (bs : List Byte) : (s.ownWrite pa bs).choiceCtr = s.choiceCtr :=
  ownWrite_keeps (f := State.choiceCtr) (fun _ _ _ => rfl) (fun _ _ _ _ _ _ => rfl) s pa bs
@[simp] theorem ownWrite_freeCtr (s : State) (pa : Nat) (bs : List Byte) : (s.ownWrite pa bs).freeCtr = s.freeCtr :=
  ownWrite_keeps (f := State.freeCtr) (fun _ _ _ => rfl) (fun _ _ _ _ _ _ => rfl) s pa bs
@[simp] theorem ownWrite_cycle (s : State) (pa : Nat) (bs : List Byte) : (s.ownWrite pa bs).cycle = s.cycle :=
  ownWrite_keeps (f := State.cycle) (fun _ _ _ => rfl) (fun _ _ _ _ _ _ => rfl) s pa bs
@[simp] theorem ownWrite_clock (s : State) (pa : Nat) (bs : List Byte) : (s.ownWrite pa bs).clock = s.clock :=
  ownWrite_keeps (f := State.clock) (fun _ _ _ => rfl) (fun _ _ _ _ _ _ => rfl) s pa bs
@[simp] theorem ownWrite_regions (s : State) (pa : Nat) (bs : List Byte) : (s.ownWrite pa bs).regions = s.regions :=
  ownWrite_keeps (f := State.regions) (fun _ _ _ => rfl) (fun _ _ _ _ _ _ => rfl) s pa bs
@[simp] theorem ownWrite_sched (s : State) (pa : Nat) (bs : List Byte) : (s.ownWrite pa bs).sched = s.sched :=
  ownWrite_keeps (f := State.sched) (fun _ _ _ => rfl) (fun _ _ _ _ _ _ => rfl) s pa bs
@[simp] theorem ownWrite_link (s : State) (pa : Nat) (bs : List Byte) : (s.ownWrite pa bs).link = s.link :=
  ownWrite_keeps (f := State.link) (fun _ _ _ => rfl) (fun _ _ _ _ _ _ => rfl) s pa bs
@[simp] theorem ownWrite_plat (s : State) (pa : Nat) (bs : List Byte) : (s.ownWrite pa bs).plat = s.plat :=
  ownWrite_keeps (f := State.plat) (fun _ _ _ => rfl) (fun _ _ _ _ _ _ => rfl) s pa bs
@[simp] theorem ownWrite_volt (s : State) (pa : Nat) (bs : List Byte) : (s.ownWrite pa bs).volt = s.volt :=
  ownWrite_keeps (f := State.volt) (fun _ _ _ => rfl) (fun _ _ _ _ _ _ => rfl) s pa bs
@[simp] theorem ownWrite_frames (s : State) (pa : Nat) (bs : List Byte) : (s.ownWrite pa bs).mem.frames = s.mem.frames :=
  ownWrite_keeps (f := fun s => s.mem.frames) (fun _ _ _ => rfl) (fun _ _ _ _ _ _ => rfl) s pa bs
@[simp] theorem ownWrite_dir (s : State) (pa : Nat) (bs : List Byte) : (s.ownWrite pa bs).mem.dir = s.mem.dir :=
  ownWrite_keeps (f := fun s => s.mem.dir) (fun _ _ _ => rfl) (fun _ _ _ _ _ _ => rfl) s pa bs
@[simp] theorem ownWrite_egress (s : State) (pa : Nat) (bs : List Byte) : (s.ownWrite pa bs).mem.egress = s.mem.egress :=
  ownWrite_keeps (f := fun s => s.mem.egress) (fun _ _ _ => rfl) (fun _ _ _ _ _ _ => rfl) s pa bs
@[simp] theorem ownWrite_replies (s : State) (pa : Nat) (bs : List Byte) : (s.ownWrite pa bs).mem.replies = s.mem.replies :=
  ownWrite_keeps (f := fun s => s.mem.replies) (fun _ _ _ => rfl) (fun _ _ _ _ _ _ => rfl) s pa bs
@[simp] theorem ownWrite_counters (s : State) (pa : Nat) (bs : List Byte) : (s.ownWrite pa bs).mem.counters = s.mem.counters :=
  ownWrite_keeps (f := fun s => s.mem.counters) (fun _ _ _ => rfl) (fun _ _ _ _ _ _ => rfl) s pa bs
@[simp] theorem ownWrite_barriers (s : State) (pa : Nat) (bs : List Byte) : (s.ownWrite pa bs).mem.barriers = s.mem.barriers :=
  ownWrite_keeps (f := fun s => s.mem.barriers) (fun _ _ _ => rfl) (fun _ _ _ _ _ _ => rfl) s pa bs
@[simp] theorem ownWrite_held (s : State) (pa : Nat) (bs : List Byte) : (s.ownWrite pa bs).mem.held = s.mem.held :=
  ownWrite_keeps (f := fun s => s.mem.held) (fun _ _ _ => rfl) (fun _ _ _ _ _ _ => rfl) s pa bs
@[simp] theorem ownWrite_replays (s : State) (pa : Nat) (bs : List Byte) : (s.ownWrite pa bs).mem.replays = s.mem.replays :=
  ownWrite_keeps (f := fun s => s.mem.replays) (fun _ _ _ => rfl) (fun _ _ _ _ _ _ => rfl) s pa bs

/-- A home write keeps memory canonical. -/
theorem homeWrite_wf {s : State} {pa : Nat} {bs : List Byte} (h : Memory.wf s.mem.bytes = true) :
    Memory.wf (s.homeWrite pa bs).mem.bytes = true := writeBytes_wf h

theorem backWrite_wf {s : State} {pa : Nat} {bs : List Byte} (h : Memory.wf s.mem.bytes = true) :
    Memory.wf (s.backWrite pa bs).mem.bytes = true := by
  rcases backWrite_cases s pa bs with ⟨-, e⟩ | ⟨-, e⟩ <;> rw [e]
  · exact h
  · exact homeWrite_wf h

theorem ownLine_wf {s : State} {pa : Nat} {bs : List Byte} (h : Memory.wf s.mem.bytes = true) :
    Memory.wf (s.ownLine pa bs).mem.bytes = true := by
  rcases ownLine_cases s pa bs with ⟨-, e⟩ | e | e <;> rw [e]
  · exact h
  · exact h
  · exact homeWrite_wf h

theorem ownAmend_wf {s : State} {a : Nat} {k b : Byte} (h : Memory.wf s.mem.bytes = true) :
    Memory.wf (s.ownAmend a k b).mem.bytes = true := by
  rcases ownAmend_cases s a k b with e | e | e <;> rw [e]
  · exact h
  · exact h
  · exact homeWrite_wf h

theorem ownWrite_wf {s : State} {pa : Nat} {bs : List Byte} (h : Memory.wf s.mem.bytes = true) :
    Memory.wf (s.ownWrite pa bs).mem.bytes = true := by
  unfold State.ownWrite
  induction List.range ((pa % 64 + bs.length + 63) / 64) generalizing s with
  | nil => exact h
  | cons i r ih => exact ih (ownLine_wf h)

/-! ### Writing a status record -/

@[simp] theorem writeStatus_focus (s : State) (l : Launch) (b : Nat) (d : List Byte) (e : List (List Byte)) :
    (s.writeStatus l b d e).focus = s.focus := by
  unfold State.writeStatus; split <;> try split
  all_goals simp
@[simp] theorem writeStatus_agenda (s : State) (l : Launch) (b : Nat) (d : List Byte) (e : List (List Byte)) :
    (s.writeStatus l b d e).agenda = s.agenda := by
  unfold State.writeStatus; split <;> try split
  all_goals simp
@[simp] theorem writeStatus_choiceCtr (s : State) (l : Launch) (b : Nat) (d : List Byte) (e : List (List Byte)) :
    (s.writeStatus l b d e).choiceCtr = s.choiceCtr := by
  unfold State.writeStatus; split <;> try split
  all_goals simp
@[simp] theorem writeStatus_freeCtr (s : State) (l : Launch) (b : Nat) (d : List Byte) (e : List (List Byte)) :
    (s.writeStatus l b d e).freeCtr = s.freeCtr := by
  unfold State.writeStatus; split <;> try split
  all_goals simp
@[simp] theorem writeStatus_cycle (s : State) (l : Launch) (b : Nat) (d : List Byte) (e : List (List Byte)) :
    (s.writeStatus l b d e).cycle = s.cycle := by
  unfold State.writeStatus; split <;> try split
  all_goals simp
@[simp] theorem writeStatus_clock (s : State) (l : Launch) (b : Nat) (d : List Byte) (e : List (List Byte)) :
    (s.writeStatus l b d e).clock = s.clock := by
  unfold State.writeStatus; split <;> try split
  all_goals simp
@[simp] theorem writeStatus_regions (s : State) (l : Launch) (b : Nat) (d : List Byte) (e : List (List Byte)) :
    (s.writeStatus l b d e).regions = s.regions := by
  unfold State.writeStatus; split <;> try split
  all_goals simp
@[simp] theorem writeStatus_link (s : State) (l : Launch) (b : Nat) (d : List Byte) (e : List (List Byte)) :
    (s.writeStatus l b d e).link = s.link := by
  unfold State.writeStatus; split <;> try split
  all_goals simp
@[simp] theorem writeStatus_plat (s : State) (l : Launch) (b : Nat) (d : List Byte) (e : List (List Byte)) :
    (s.writeStatus l b d e).plat = s.plat := by
  unfold State.writeStatus; split <;> try split
  all_goals simp
@[simp] theorem writeStatus_volt (s : State) (l : Launch) (b : Nat) (d : List Byte) (e : List (List Byte)) :
    (s.writeStatus l b d e).volt = s.volt := by
  unfold State.writeStatus; split <;> try split
  all_goals simp
@[simp] theorem writeStatus_frames (s : State) (l : Launch) (b : Nat) (d : List Byte) (e : List (List Byte)) :
    (s.writeStatus l b d e).mem.frames = s.mem.frames := by
  unfold State.writeStatus; split <;> try split
  all_goals simp
@[simp] theorem writeStatus_dir (s : State) (l : Launch) (b : Nat) (d : List Byte) (e : List (List Byte)) :
    (s.writeStatus l b d e).mem.dir = s.mem.dir := by
  unfold State.writeStatus; split <;> try split
  all_goals simp
@[simp] theorem writeStatus_egress (s : State) (l : Launch) (b : Nat) (d : List Byte) (e : List (List Byte)) :
    (s.writeStatus l b d e).mem.egress = s.mem.egress := by
  unfold State.writeStatus; split <;> try split
  all_goals simp
@[simp] theorem writeStatus_replies (s : State) (l : Launch) (b : Nat) (d : List Byte) (e : List (List Byte)) :
    (s.writeStatus l b d e).mem.replies = s.mem.replies := by
  unfold State.writeStatus; split <;> try split
  all_goals simp
@[simp] theorem writeStatus_counters (s : State) (l : Launch) (b : Nat) (d : List Byte) (e : List (List Byte)) :
    (s.writeStatus l b d e).mem.counters = s.mem.counters := by
  unfold State.writeStatus; split <;> try split
  all_goals simp
@[simp] theorem writeStatus_barriers (s : State) (l : Launch) (b : Nat) (d : List Byte) (e : List (List Byte)) :
    (s.writeStatus l b d e).mem.barriers = s.mem.barriers := by
  unfold State.writeStatus; split <;> try split
  all_goals simp
@[simp] theorem writeStatus_held (s : State) (l : Launch) (b : Nat) (d : List Byte) (e : List (List Byte)) :
    (s.writeStatus l b d e).mem.held = s.mem.held := by
  unfold State.writeStatus; split <;> try split
  all_goals simp
@[simp] theorem writeStatus_replays (s : State) (l : Launch) (b : Nat) (d : List Byte) (e : List (List Byte)) :
    (s.writeStatus l b d e).mem.replays = s.mem.replays := by
  unfold State.writeStatus; split <;> try split
  all_goals simp

/-- A status record keeps memory canonical. -/
theorem writeStatus_wf {s : State} {l : Launch} {b : Nat} {d : List Byte} {e : List (List Byte)}
    (h : Memory.wf s.mem.bytes = true) : Memory.wf (s.writeStatus l b d e).mem.bytes = true := by
  unfold State.writeStatus; split
  · exact h
  · split
    · exact h
    · exact ownWrite_wf (ownWrite_wf h)

/-! ### Ending a launch -/

@[simp] theorem dropMasks_focus (s : State) (l : Nat) : (s.dropMasks l).focus = s.focus := rfl

@[simp] theorem dropMasks_agenda (s : State) (l : Nat) : (s.dropMasks l).agenda = s.agenda := rfl

@[simp] theorem dropMasks_choiceCtr (s : State) (l : Nat) : (s.dropMasks l).choiceCtr = s.choiceCtr := rfl

@[simp] theorem dropMasks_freeCtr (s : State) (l : Nat) : (s.dropMasks l).freeCtr = s.freeCtr := rfl

@[simp] theorem dropMasks_cycle (s : State) (l : Nat) : (s.dropMasks l).cycle = s.cycle := rfl

@[simp] theorem dropMasks_clock (s : State) (l : Nat) : (s.dropMasks l).clock = s.clock := rfl

@[simp] theorem dropMasks_nextId (s : State) (l : Nat) : (s.dropMasks l).nextId = s.nextId := rfl

@[simp] theorem dropMasks_drv (s : State) (l : Nat) : (s.dropMasks l).drv = s.drv := rfl

@[simp] theorem dropMasks_sched (s : State) (l : Nat) : (s.dropMasks l).sched = s.sched := rfl

@[simp] theorem dropMasks_link (s : State) (l : Nat) : (s.dropMasks l).link = s.link := rfl

@[simp] theorem dropMasks_plat (s : State) (l : Nat) : (s.dropMasks l).plat = s.plat := rfl
@[simp] theorem dropMasks_volt (s : State) (l : Nat) : (s.dropMasks l).volt = s.volt := rfl

@[simp] theorem dropMasks_regions (s : State) (l : Nat) : (s.dropMasks l).regions = s.regions := rfl

@[simp] theorem dropMasks_bytes (s : State) (l : Nat) : (s.dropMasks l).mem.bytes = s.mem.bytes := rfl

@[simp] theorem endLaunch_focus (s : State) (l e b : Nat) (d : List Byte) (es : List (List Byte)) : (s.endLaunch l e b d es).focus = s.focus := by
  simp only [State.endLaunch]; repeat (first | rfl | split)
  all_goals simp
@[simp] theorem endLaunch_agenda (s : State) (l e b : Nat) (d : List Byte) (es : List (List Byte)) : (s.endLaunch l e b d es).agenda = s.agenda := by
  simp only [State.endLaunch]; repeat (first | rfl | split)
  all_goals simp
@[simp] theorem endLaunch_choiceCtr (s : State) (l e b : Nat) (d : List Byte) (es : List (List Byte)) : (s.endLaunch l e b d es).choiceCtr = s.choiceCtr := by
  simp only [State.endLaunch]; repeat (first | rfl | split)
  all_goals simp
@[simp] theorem endLaunch_freeCtr (s : State) (l e b : Nat) (d : List Byte) (es : List (List Byte)) : (s.endLaunch l e b d es).freeCtr = s.freeCtr := by
  simp only [State.endLaunch]; repeat (first | rfl | split)
  all_goals simp
@[simp] theorem endLaunch_cycle (s : State) (l e b : Nat) (d : List Byte) (es : List (List Byte)) : (s.endLaunch l e b d es).cycle = s.cycle := by
  simp only [State.endLaunch]; repeat (first | rfl | split)
  all_goals simp
@[simp] theorem endLaunch_clock (s : State) (l e b : Nat) (d : List Byte) (es : List (List Byte)) : (s.endLaunch l e b d es).clock = s.clock := by
  simp only [State.endLaunch]; repeat (first | rfl | split)
  all_goals simp
@[simp] theorem endLaunch_link (s : State) (l e b : Nat) (d : List Byte) (es : List (List Byte)) : (s.endLaunch l e b d es).link = s.link := by
  simp only [State.endLaunch]; repeat (first | rfl | split)
  all_goals simp
@[simp] theorem endLaunch_plat (s : State) (l e b : Nat) (d : List Byte) (es : List (List Byte)) : (s.endLaunch l e b d es).plat = s.plat := by
  simp only [State.endLaunch]; repeat (first | rfl | split)
  all_goals simp

@[simp] theorem endLaunch_length (s : State) (l e b : Nat) (d : List Byte) (es : List (List Byte)) :
    (s.endLaunch l e b d es).regions.length = s.regions.length := by
  simp only [State.endLaunch]; repeat (first | rfl | split)
  all_goals simp

/-- The end of a launch keeps memory canonical. -/
theorem endLaunch_wf {s : State} {l e b : Nat} {d : List Byte} {es : List (List Byte)}
    (h : Memory.wf s.mem.bytes = true) : Memory.wf (s.endLaunch l e b d es).mem.bytes = true := by
  simp only [State.endLaunch]; repeat (first | exact h | split)
  all_goals first | exact writeStatus_wf h | (simp only [dropMasks_bytes, releaseRegion_bytes]; exact writeStatus_wf h)

@[simp] theorem writeStatus_launches (s : State) (l : Launch) (b : Nat) (d : List Byte) (e : List (List Byte)) :
    (s.writeStatus l b d e).sched.launches = s.sched.launches := by
  unfold State.writeStatus; split <;> try split
  all_goals simp [SchedSt.modContext]

/-- The launches after one has ended (R375). -/
theorem endLaunch_launches {s : State} {l : Nat} {x : Launch} (h : s.sched.launch? l = some x) (k : x.state ≠ .ended)
    (e b : Nat) (d : List Byte) (es : List (List Byte)) :
    (s.endLaunch l e b d es).sched.launches = s.sched.launches.map fun y => if y.id = l then
      { x with state := .ended, endState := e, endAt := s.clock.toNat, sigDue := true, saved := none, region := none } else y := by
  simp only [State.endLaunch, h, if_neg k]
  split <;> simp [SchedSt.modLaunch]

/-! ### The trap of a launch (R398) -/

@[simp] theorem trapLaunch_focus (s : State) (l e k c i : Nat) : (s.trapLaunch l e k c i).focus = s.focus := by
  simp [State.trapLaunch]
@[simp] theorem trapLaunch_agenda (s : State) (l e k c i : Nat) : (s.trapLaunch l e k c i).agenda = s.agenda := by
  simp [State.trapLaunch]
@[simp] theorem trapLaunch_choiceCtr (s : State) (l e k c i : Nat) : (s.trapLaunch l e k c i).choiceCtr = s.choiceCtr := by
  simp [State.trapLaunch]
@[simp] theorem trapLaunch_freeCtr (s : State) (l e k c i : Nat) : (s.trapLaunch l e k c i).freeCtr = s.freeCtr := by
  simp [State.trapLaunch]
@[simp] theorem trapLaunch_cycle (s : State) (l e k c i : Nat) : (s.trapLaunch l e k c i).cycle = s.cycle := by
  simp [State.trapLaunch]
@[simp] theorem trapLaunch_clock (s : State) (l e k c i : Nat) : (s.trapLaunch l e k c i).clock = s.clock := by
  simp [State.trapLaunch]
@[simp] theorem trapLaunch_link (s : State) (l e k c i : Nat) : (s.trapLaunch l e k c i).link = s.link := by
  simp [State.trapLaunch]
@[simp] theorem trapLaunch_plat (s : State) (l e k c i : Nat) : (s.trapLaunch l e k c i).plat = s.plat := by
  simp [State.trapLaunch]
@[simp] theorem trapLaunch_length (s : State) (l e k c i : Nat) :
    (s.trapLaunch l e k c i).regions.length = s.regions.length := by
  simp [State.trapLaunch]

theorem trapLaunch_wf {s : State} {l e k c i : Nat} (h : Memory.wf s.mem.bytes = true) :
    Memory.wf (s.trapLaunch l e k c i).mem.bytes = true := endLaunch_wf h

/-! ### An element trap -/

@[simp] theorem raiseTrap_focus (s : State) (r e k c i : Nat) : (s.raiseTrap r e k c i).focus = s.focus := by
  unfold State.raiseTrap; split
  · rfl
  · split <;> simp
@[simp] theorem raiseTrap_agenda (s : State) (r e k c i : Nat) : (s.raiseTrap r e k c i).agenda = s.agenda := by
  unfold State.raiseTrap; split
  · rfl
  · split <;> simp
@[simp] theorem raiseTrap_choiceCtr (s : State) (r e k c i : Nat) : (s.raiseTrap r e k c i).choiceCtr = s.choiceCtr := by
  unfold State.raiseTrap; split
  · rfl
  · split <;> simp
@[simp] theorem raiseTrap_freeCtr (s : State) (r e k c i : Nat) : (s.raiseTrap r e k c i).freeCtr = s.freeCtr := by
  unfold State.raiseTrap; split
  · rfl
  · split <;> simp
@[simp] theorem raiseTrap_cycle (s : State) (r e k c i : Nat) : (s.raiseTrap r e k c i).cycle = s.cycle := by
  unfold State.raiseTrap; split
  · rfl
  · split <;> simp
@[simp] theorem raiseTrap_clock (s : State) (r e k c i : Nat) : (s.raiseTrap r e k c i).clock = s.clock := by
  unfold State.raiseTrap; split
  · rfl
  · split <;> simp
@[simp] theorem raiseTrap_link (s : State) (r e k c i : Nat) : (s.raiseTrap r e k c i).link = s.link := by
  unfold State.raiseTrap; split
  · rfl
  · split <;> simp
@[simp] theorem raiseTrap_plat (s : State) (r e k c i : Nat) : (s.raiseTrap r e k c i).plat = s.plat := by
  unfold State.raiseTrap; split
  · rfl
  · split <;> simp

@[simp] theorem raiseTrap_length (s : State) (r e k c i : Nat) :
    (s.raiseTrap r e k c i).regions.length = s.regions.length := by
  unfold State.raiseTrap; split
  · rfl
  · split <;> simp

/-- An element trap keeps memory canonical. -/
theorem raiseTrap_wf {s : State} {r e k c i : Nat} (h : Memory.wf s.mem.bytes = true) :
    Memory.wf (s.raiseTrap r e k c i).mem.bytes = true := by
  unfold State.raiseTrap; split
  · exact h
  · split
    · exact trapLaunch_wf h
    · simpa using h

end Sys2Proof.Machine
end

