-- ==== Sys2Proof/Laws/Ops.lean ====
section
/-! SUPPORT. What each shared operation can do: when it answers, and the state it answers with. -/

namespace Sys2Proof.Machine

/-! ### The end of a firing -/

/-- A firing under way runs its meaning on its context. -/
theorem withCtx_of {s : State} {c : Ctx} (h : s.ctx? = some c) (f : Ctx → Res) : withCtx s f = f c := by
  simp [withCtx, h]

/-- A firing whose pushes lie in their sets completes (R65). -/
theorem finish_next {c : Ctx} {s : State} {el : Elem} {p : List (Fin 4 × Token)} {pop rd : BitVec 4}
    (h : c.g.tagsOk c.e p = true) :
    c.finish s el p pop rd = .next (s.setGraph c.r (c.g.finish c.e c.slot s.cycle el p pop rd)) := by
  simp [Ctx.finish, h]

/-- A firing that pushes nothing completes. -/
theorem finish_nil {c : Ctx} {s : State} {el : Elem} {pop rd : BitVec 4} :
    c.finish s el [] pop rd = .next (s.setGraph c.r (c.g.finish c.e c.slot s.cycle el [] pop rd)) := finish_next rfl

/-- A firing ends with its trap FORMAT or with its graph written, and never stops the machine (R65, R71). -/
theorem finish_cases (c : Ctx) (s : State) (el : Elem) (p : List (Fin 4 × Token)) (pop rd : BitVec 4) :
    (c.g.tagsOk c.e p = false ∧ c.finish s el p pop rd = .next (s.raiseTrap c.r c.e c.slot trapFORMAT 0)) ∨
      (c.g.tagsOk c.e p = true ∧
        c.finish s el p pop rd = .next (s.setGraph c.r (c.g.finish c.e c.slot s.cycle el p pop rd))) := by
  cases h : c.g.tagsOk c.e p
  · exact .inl ⟨rfl, by simp [Ctx.finish, h, Ctx.trap]⟩
  · exact .inr ⟨rfl, finish_next h⟩

/-- A trap is a next state. -/
theorem trap_next (c : Ctx) (s : State) (k : Nat) : c.trap s k = .next (s.raiseTrap c.r c.e c.slot k 0) := rfl

/-- Whether what a destination pushes lies in its set does not depend on the result. -/
theorem tagsOk_pushesOf (c : Ctx) (d : Dst) (k : BitVec 4) (l : List Src) (tag : Option (BitVec 3)) (v w : Payload) :
    c.g.tagsOk c.e (pushesOf d (c.tok k l tag v)) = c.g.tagsOk c.e (pushesOf d (c.tok k l tag w)) := by
  cases d <;> simp [pushesOf, GraphSt.tagsOk, Ctx.tok, GraphSt.tagOk]

/-- A control token lies in every set (R25). -/
theorem tagsOk_control (c : Ctx) (d : Dst) (t : Token) (h : t.kind = .control) :
    c.g.tagsOk c.e (pushesOf d t) = true := by
  cases d <;> simp [pushesOf, GraphSt.tagsOk, GraphSt.tagOk, h]

/-- An ordinary firing with clean sources and a tag of the set completes. -/
theorem ordinary_next {c : Ctx} {s : State} {l : List Src} {d : Dst} {k pop pw : BitVec 4} {o : Out}
    (hc : l.any c.poisoned = false) (ht : c.g.tagsOk c.e (pushesOf d (c.tok k l o.tag o.res)) = true) :
    c.ordinary s l d k pop pw o = .next (s.setGraph c.r (c.g.finish c.e c.slot s.cycle
      ((c.el.writeDst d o.res).withPw pw o.cond) (pushesOf d (c.tok k l o.tag o.res)) pop (readMask l))) := by
  rw [Ctx.ordinary, if_neg (by simp [hc]), finish_next ht]

/-- What an ordinary firing can do: POISON, FORMAT, or its completion. -/
theorem ordinary_cases (c : Ctx) (s : State) (l : List Src) (d : Dst) (k pop pw : BitVec 4) (o : Out) :
    (∃ code, c.ordinary s l d k pop pw o = .next (s.raiseTrap c.r c.e c.slot code 0)) ∨
      c.ordinary s l d k pop pw o = .next (s.setGraph c.r (c.g.finish c.e c.slot s.cycle
        ((c.el.writeDst d o.res).withPw pw o.cond) (pushesOf d (c.tok k l o.tag o.res)) pop (readMask l))) := by
  unfold Ctx.ordinary
  split
  · exact .inl ⟨_, rfl⟩
  · rcases finish_cases c s ((c.el.writeDst d o.res).withPw pw o.cond) (pushesOf d (c.tok k l o.tag o.res)) pop
      (readMask l) with ⟨-, h⟩ | ⟨-, h⟩
    · exact .inl ⟨_, h⟩
    · exact .inr h

/-- An ordinary R-form instruction completes. -/
theorem ordinaryR_next {s : State} {c : Ctx} {f : RForm} {h : Ctx → BitVec 4 → Payload → Payload → Out} {o : Out}
    (hs : s.ctx? = some c) (ho : h c (modOf f) (c.src f.md f.sa) (c.src f.md f.sb) = o)
    (hc : [f.sa, f.sb].any c.poisoned = false)
    (ht : c.g.tagsOk c.e (pushesOf f.dst (c.tok f.md [f.sa, f.sb] o.tag 0)) = true) :
    ordinaryR s f h = .next (s.setGraph c.r (c.g.finish c.e c.slot s.cycle
      ((c.el.writeDst f.dst o.res).withPw f.pw o.cond) (pushesOf f.dst (c.tok f.md [f.sa, f.sb] o.tag o.res)) f.pop
      (readMask [f.sa, f.sb]))) := by
  rw [ordinaryR, withCtx_of hs, ho]
  exact ordinary_next hc (by rw [tagsOk_pushesOf c _ _ _ _ _ 0]; exact ht)

/-- An ordinary I-form instruction completes. -/
theorem ordinaryI_next {s : State} {c : Ctx} {f : IForm} {h : Ctx → BitVec 8 → Payload → Out} {o : Out}
    (hs : s.ctx? = some c) (ho : h c f.imm (c.src (f.imm.extractLsb' 0 4) f.sa) = o)
    (hc : [f.sa].any c.poisoned = false)
    (ht : c.g.tagsOk c.e (pushesOf f.dst (c.tok (f.imm.extractLsb' 0 4) [f.sa] o.tag 0)) = true) :
    ordinaryI s f h = .next (s.setGraph c.r (c.g.finish c.e c.slot s.cycle
      ((c.el.writeDst f.dst o.res).withPw f.pw o.cond)
      (pushesOf f.dst (c.tok (f.imm.extractLsb' 0 4) [f.sa] o.tag o.res)) f.pop (readMask [f.sa]))) := by
  rw [ordinaryI, withCtx_of hs, ho]
  exact ordinary_next hc (by rw [tagsOk_pushesOf c _ _ _ _ _ 0]; exact ht)

/-- A write enable of 0 changes no predicate (R95). -/
@[simp] theorem withPw_zero (el : Elem) (k : Bool) : el.withPw 0 k = el := by
  have h : writePw el.p 0 k = el.p := by
    rw [writePw]; exact if_neg (by decide)
  rw [Elem.withPw, h]

/-- An ordinary X-form firing completes. -/
theorem ordinaryX_next {s : State} {c : Ctx} {l : List Src} {f : XForm} {o : Out}
    (hc : l.any c.poisoned = false) (ht : c.g.tagsOk c.e (pushesOf f.dst (c.tok 0 l o.tag 0)) = true) :
    c.ordinary s l f.dst 0 f.pop 0 o = .next (s.setGraph c.r (c.g.finish c.e c.slot s.cycle
      (c.el.writeDst f.dst o.res) (pushesOf f.dst (c.tok 0 l o.tag o.res)) f.pop (readMask l))) := by
  rw [ordinary_next hc (by rw [tagsOk_pushesOf c _ _ _ _ _ 0]; exact ht), withPw_zero]

/-- A firing that changes only its element completes. -/
theorem quiet_next {c : Ctx} {s : State} {l : List Src} {el : Elem} {pop : BitVec 4} (hc : l.any c.poisoned = false) :
    c.quiet s l el pop =
      .next (s.setGraph c.r (c.g.finish c.e c.slot s.cycle el [] pop (readMask l))) := by
  rw [Ctx.quiet, if_neg (by simp [hc]), finish_nil]

/-- A P-form firing completes (R96). -/
theorem pform_next (c : Ctx) (s : State) (f : PForm) (el : Elem) :
    c.pform s f el =
      .next (s.setGraph c.r (c.g.finish c.e c.slot s.cycle (el.withSetClr f.set f.clr) [] f.pop 0)) := finish_nil

/-! ### Predicates -/

/-- A number given by its bits. -/
theorem sum_bits (q : Nat → Bool) (n : Nat) :
    ((List.range n).map fun i => if q i then 2 ^ i else 0).sum < 2 ^ n ∧
      ∀ j, (((List.range n).map fun i => if q i then 2 ^ i else 0).sum).testBit j = (decide (j < n) && q j) := by
  induction n with
  | zero => simp
  | succ n ih =>
    obtain ⟨hlt, hb⟩ := ih
    rw [List.range_succ, List.map_append, List.sum_append]
    simp only [List.map_cons, List.map_nil, List.sum_cons, List.sum_nil, Nat.add_zero]
    generalize ((List.range n).map fun i => if q i then 2 ^ i else 0).sum = x at hlt hb ⊢
    refine ⟨by split <;> rw [Nat.pow_succ] <;> omega, fun j => ?_⟩
    rcases Nat.lt_trichotomy j n with h | h | h
    · have h2 : j < n + 1 := by omega
      split
      · rw [Nat.add_comm, Nat.testBit_two_pow_add_gt h, hb]; simp [h, h2]
      · rw [Nat.add_zero, hb]; simp [h, h2]
    · subst h
      have hx : x.testBit j = false := Nat.testBit_lt_two_pow hlt
      split
      · rw [Nat.add_comm, Nat.testBit_two_pow_add_eq, hx]; simp [*]
      · rw [Nat.add_zero, hx]; simp [*]
    · have h1 : ¬j < n + 1 := by omega
      have hlt' : x + (if q n then 2 ^ n else 0) < 2 ^ j :=
        Nat.lt_of_lt_of_le (by split <;> rw [Nat.pow_succ] <;> omega) (Nat.pow_le_pow_right (by omega) h)
      rw [Nat.testBit_lt_two_pow hlt']; simp [h1]

/-- A predicate after one of them is written. -/
theorem setPred_bit (p : BitVec 8) (n : Nat) (v : Bool) {i : Nat} (hi : i < 8) :
    (setPred p n v).getLsbD i = if i = n then v else p.getLsbD i := by
  rw [setPred, BitVec.getLsbD_ofNat, (sum_bits (fun i => if i = n then v else p.getLsbD i) 8).2]
  simp [hi]

/-- A predicate after SET and CLR (R96). -/
theorem setClr_bit (p set clr : BitVec 8) {n : Nat} (hn : n < 8) :
    (setClr p set clr).getLsbD n =
      if set.getLsbD n then (if clr.getLsbD n then !p.getLsbD n else true)
      else if clr.getLsbD n then false else p.getLsbD n := by
  simp only [setClr, BitVec.getLsbD_or, BitVec.getLsbD_and, BitVec.getLsbD_not, hn, decide_true, Bool.true_and]
  cases set.getLsbD n <;> cases clr.getLsbD n <;> simp

/-! ### What the machine changes in memory of its own -/

/-- What a home write and a new request keep, an amendment keeps. -/
theorem ownAmend_keeps {α : Type} {f : State → α} (hw : ∀ s pa bs, f (State.homeWrite s pa bs) = f s)
    (hj : ∀ s i pa n mt q, f (State.joinReqs s i pa n mt q) = f s) (s : State) (a : Nat) (k b : Byte) :
    f (s.ownAmend a k b) = f s := by
  rcases ownAmend_cases s a k b with e | e | e <;> rw [e]
  · exact hj _ _ _ _ _ _
  · exact hw _ _ _

@[simp] theorem setAccessed_regions (s : State) (a va : Nat) (x : BitVec 64) : (s.setAccessed a va x).regions = s.regions :=
  ownAmend_keeps (f := State.regions) (fun _ _ _ => rfl) (fun _ _ _ _ _ _ => rfl) s _ _ _
@[simp] theorem setAccessed_sched (s : State) (a va : Nat) (x : BitVec 64) : (s.setAccessed a va x).sched = s.sched :=
  ownAmend_keeps (f := State.sched) (fun _ _ _ => rfl) (fun _ _ _ _ _ _ => rfl) s _ _ _
@[simp] theorem setAccessed_link (s : State) (a va : Nat) (x : BitVec 64) : (s.setAccessed a va x).link = s.link :=
  ownAmend_keeps (f := State.link) (fun _ _ _ => rfl) (fun _ _ _ _ _ _ => rfl) s _ _ _
@[simp] theorem setAccessed_plat (s : State) (a va : Nat) (x : BitVec 64) : (s.setAccessed a va x).plat = s.plat :=
  ownAmend_keeps (f := State.plat) (fun _ _ _ => rfl) (fun _ _ _ _ _ _ => rfl) s _ _ _
@[simp] theorem setAccessed_clock (s : State) (a va : Nat) (x : BitVec 64) : (s.setAccessed a va x).clock = s.clock :=
  ownAmend_keeps (f := State.clock) (fun _ _ _ => rfl) (fun _ _ _ _ _ _ => rfl) s _ _ _
@[simp] theorem setAccessed_counters (s : State) (a va : Nat) (x : BitVec 64) :
    (s.setAccessed a va x).mem.counters = s.mem.counters :=
  ownAmend_keeps (f := fun s => s.mem.counters) (fun _ _ _ => rfl) (fun _ _ _ _ _ _ => rfl) s _ _ _
theorem setAccessed_wf {s : State} {a va : Nat} {x : BitVec 64} (h : Memory.wf s.mem.bytes = true) :
    Memory.wf (s.setAccessed a va x).mem.bytes = true := ownAmend_wf (s := s) h

@[simp] theorem keepMark_bytes (t : State) (w : Nat) (m : Bool) : (t.keepMark w m).mem.bytes = t.mem.bytes := by
  unfold State.keepMark; split <;> rfl

theorem writeWord_wf {s : State} {line : Nat} {h : Holder} {i : Nat} (hm : Memory.wf s.mem.bytes = true) :
    Memory.wf (s.writeWord line h i).mem.bytes = true := by
  unfold State.writeWord
  split
  · simp only [keepMark_bytes]; exact backWrite_wf hm
  · exact hm

/-- A holder's copy that goes home keeps memory canonical. -/
theorem writeHome_wf {s : State} {line : Nat} {h : Holder} (hm : Memory.wf s.mem.bytes = true) :
    Memory.wf (s.writeHome line h).mem.bytes = true := by
  unfold State.writeHome
  induction List.range 16 generalizing s with
  | nil => exact hm
  | cons i r ih => exact ih (writeWord_wf hm)

/-! ### Elements and graphs -/

/-- Writing an element writes that one only. -/
theorem setElem_same {g : GraphSt} {e : Nat} {el x : Elem} (h : g.elems[e]? = some x) :
    (g.setElem e el).elems[e]? = some el := by
  have := (List.getElem?_eq_some_iff.mp h).1
  simp [GraphSt.setElem, this]

theorem setElem_ne {g : GraphSt} {e e' : Nat} {el : Elem} (h : e' ≠ e) : (g.setElem e el).elems[e']? = g.elems[e']? := by
  simp [GraphSt.setElem, List.getElem?_set_ne (Ne.symm h)]

/-- The context of a firing is what the state holds at its focus. -/
theorem ctx?_some {s : State} {c : Ctx} (h : s.ctx? = some c) :
    s.region? c.r = some c.reg ∧ c.reg.g = some c.g ∧ c.g.elems[c.e]? = some c.el := by
  unfold State.ctx? State.at? at h
  split at h
  · split at h
    · split at h
      · cases h; exact ⟨‹_›, ‹_›, ‹_›⟩
      · cases h
    · cases h
  · cases h

/-- Taking an element trap never stops the machine, and it leaves the rest of the machine alone. -/
theorem raiseTrap_frame (s : State) (r e slot code imm : Nat) :
    (s.raiseTrap r e slot code imm).link = s.link ∧ (s.raiseTrap r e slot code imm).plat = s.plat ∧
      (s.raiseTrap r e slot code imm).clock = s.clock ∧ (s.raiseTrap r e slot code imm).agenda = s.agenda := by
  simp

/-! ### The cache port and fills -/

/-- A direction that has carried its 896 tokens takes no access, whatever it costs (R317). -/
theorem charge_full {s : State} {r : Nat} {x : Region} {n : Nat} {out : Bool} (h : 896 ≤ (s.portUse (dieOf r)).cyc out) :
    s.charge r x n out = none := by
  simp [State.charge, h]

/-- An access of no cost passes a direction that is not full, and charges nothing. -/
theorem charge_zero {s : State} {r : Nat} {x : Region} {out : Bool} (h : (s.portUse (dieOf r)).cyc out < 896) :
    s.charge r x 0 out = some s := by
  simp [State.charge, Nat.not_le.mpr h]

/-- Reading fills anew changes the requests at the home alone (R334, R335). -/
@[simp] theorem refill_bytes (s : State) (r e : Nat) (gen : BitVec 12) (w : Fin 8) :
    (s.refill r e gen w).mem.bytes = s.mem.bytes := rfl
@[simp] theorem refill_regions (s : State) (r e : Nat) (gen : BitVec 12) (w : Fin 8) :
    (s.refill r e gen w).regions = s.regions := rfl
@[simp] theorem refill_sched (s : State) (r e : Nat) (gen : BitVec 12) (w : Fin 8) : (s.refill r e gen w).sched = s.sched := rfl
@[simp] theorem refill_link (s : State) (r e : Nat) (gen : BitVec 12) (w : Fin 8) : (s.refill r e gen w).link = s.link := rfl
@[simp] theorem refill_requests (s : State) (r e : Nat) (gen : BitVec 12) (w : Fin 8) :
    (s.refill r e gen w).mem.reqs.length = s.mem.reqs.length := by
  simp [State.refill]

/-- Sending misses anew changes what is outstanding alone (R397, R404). -/
@[simp] theorem unask_length (g : GraphSt) : g.unask.elems.length = g.elems.length := by simp [GraphSt.unask]
@[simp] theorem unask_ins (el : Elem) : el.unask.ins = el.ins := rfl
@[simp] theorem unask_ks (el : Elem) : el.unask.ks = el.ks := rfl

end Sys2Proof.Machine
end

