-- ==== Sys2Proof/Laws/Queues.lean ====
section
/-! SUPPORT. What the small updates of queues, packets and the mailbox leave alone: one lemma per field per update. -/

namespace Sys2Proof.Machine

/-! ### A performance is numbered (R258, R327) -/

@[simp] theorem performNo_focus (s : State) : s.performNo.1.focus = s.focus := rfl
@[simp] theorem performNo_agenda (s : State) : s.performNo.1.agenda = s.agenda := rfl
@[simp] theorem performNo_choiceCtr (s : State) : s.performNo.1.choiceCtr = s.choiceCtr := rfl
@[simp] theorem performNo_freeCtr (s : State) : s.performNo.1.freeCtr = s.freeCtr := rfl
@[simp] theorem performNo_cycle (s : State) : s.performNo.1.cycle = s.cycle := rfl
@[simp] theorem performNo_clock (s : State) : s.performNo.1.clock = s.clock := rfl
@[simp] theorem performNo_nextId (s : State) : s.performNo.1.nextId = s.nextId := rfl
@[simp] theorem performNo_regions (s : State) : s.performNo.1.regions = s.regions := rfl
@[simp] theorem performNo_drv (s : State) : s.performNo.1.drv = s.drv := rfl
@[simp] theorem performNo_sched (s : State) : s.performNo.1.sched = s.sched := rfl
@[simp] theorem performNo_link (s : State) : s.performNo.1.link = s.link := rfl
@[simp] theorem performNo_plat (s : State) : s.performNo.1.plat = s.plat := rfl
@[simp] theorem performNo_volt (s : State) : s.performNo.1.volt = s.volt := rfl
@[simp] theorem performNo_bytes (s : State) : s.performNo.1.mem.bytes = s.mem.bytes := rfl
@[simp] theorem performNo_poison (s : State) : s.performNo.1.mem.poison = s.mem.poison := rfl
@[simp] theorem performNo_frames (s : State) : s.performNo.1.mem.frames = s.mem.frames := rfl
@[simp] theorem performNo_dir (s : State) : s.performNo.1.mem.dir = s.mem.dir := rfl
@[simp] theorem performNo_reqs (s : State) : s.performNo.1.mem.reqs = s.mem.reqs := rfl
@[simp] theorem performNo_egress (s : State) : s.performNo.1.mem.egress = s.mem.egress := rfl
@[simp] theorem performNo_replies (s : State) : s.performNo.1.mem.replies = s.mem.replies := rfl
@[simp] theorem performNo_counters (s : State) : s.performNo.1.mem.counters = s.mem.counters := rfl
@[simp] theorem performNo_barriers (s : State) : s.performNo.1.mem.barriers = s.mem.barriers := rfl
@[simp] theorem performNo_held (s : State) : s.performNo.1.mem.held = s.mem.held := rfl
@[simp] theorem performNo_replays (s : State) : s.performNo.1.mem.replays = s.mem.replays := rfl

/-! ### A reply joins those due -/

@[simp] theorem replied_focus (s : State) (a : Access) (v : ReplyVal) : (s.replied a v).focus = s.focus := rfl
@[simp] theorem replied_agenda (s : State) (a : Access) (v : ReplyVal) : (s.replied a v).agenda = s.agenda := rfl
@[simp] theorem replied_choiceCtr (s : State) (a : Access) (v : ReplyVal) : (s.replied a v).choiceCtr = s.choiceCtr := rfl
@[simp] theorem replied_freeCtr (s : State) (a : Access) (v : ReplyVal) : (s.replied a v).freeCtr = s.freeCtr := rfl
@[simp] theorem replied_cycle (s : State) (a : Access) (v : ReplyVal) : (s.replied a v).cycle = s.cycle := rfl
@[simp] theorem replied_clock (s : State) (a : Access) (v : ReplyVal) : (s.replied a v).clock = s.clock := rfl
@[simp] theorem replied_nextId (s : State) (a : Access) (v : ReplyVal) : (s.replied a v).nextId = s.nextId := rfl
@[simp] theorem replied_regions (s : State) (a : Access) (v : ReplyVal) : (s.replied a v).regions = s.regions := rfl
@[simp] theorem replied_drv (s : State) (a : Access) (v : ReplyVal) : (s.replied a v).drv = s.drv := rfl
@[simp] theorem replied_sched (s : State) (a : Access) (v : ReplyVal) : (s.replied a v).sched = s.sched := rfl
@[simp] theorem replied_link (s : State) (a : Access) (v : ReplyVal) : (s.replied a v).link = s.link := rfl
@[simp] theorem replied_plat (s : State) (a : Access) (v : ReplyVal) : (s.replied a v).plat = s.plat := rfl
@[simp] theorem replied_volt (s : State) (a : Access) (v : ReplyVal) : (s.replied a v).volt = s.volt := rfl
@[simp] theorem replied_bytes (s : State) (a : Access) (v : ReplyVal) : (s.replied a v).mem.bytes = s.mem.bytes := rfl
@[simp] theorem replied_poison (s : State) (a : Access) (v : ReplyVal) : (s.replied a v).mem.poison = s.mem.poison := rfl
@[simp] theorem replied_frames (s : State) (a : Access) (v : ReplyVal) : (s.replied a v).mem.frames = s.mem.frames := rfl
@[simp] theorem replied_dir (s : State) (a : Access) (v : ReplyVal) : (s.replied a v).mem.dir = s.mem.dir := rfl
@[simp] theorem replied_reqs (s : State) (a : Access) (v : ReplyVal) : (s.replied a v).mem.reqs = s.mem.reqs := rfl
@[simp] theorem replied_egress (s : State) (a : Access) (v : ReplyVal) : (s.replied a v).mem.egress = s.mem.egress := rfl
@[simp] theorem replied_counters (s : State) (a : Access) (v : ReplyVal) : (s.replied a v).mem.counters = s.mem.counters := rfl
@[simp] theorem replied_barriers (s : State) (a : Access) (v : ReplyVal) : (s.replied a v).mem.barriers = s.mem.barriers := rfl
@[simp] theorem replied_held (s : State) (a : Access) (v : ReplyVal) : (s.replied a v).mem.held = s.mem.held := rfl
@[simp] theorem replied_replays (s : State) (a : Access) (v : ReplyVal) : (s.replied a v).mem.replays = s.mem.replays := rfl

/-! ### An access leaves the request queue -/

@[simp] theorem unqueued_focus (s : State) (a : Access) : (s.unqueued a).focus = s.focus := rfl
@[simp] theorem unqueued_agenda (s : State) (a : Access) : (s.unqueued a).agenda = s.agenda := rfl
@[simp] theorem unqueued_choiceCtr (s : State) (a : Access) : (s.unqueued a).choiceCtr = s.choiceCtr := rfl
@[simp] theorem unqueued_freeCtr (s : State) (a : Access) : (s.unqueued a).freeCtr = s.freeCtr := rfl
@[simp] theorem unqueued_cycle (s : State) (a : Access) : (s.unqueued a).cycle = s.cycle := rfl
@[simp] theorem unqueued_clock (s : State) (a : Access) : (s.unqueued a).clock = s.clock := rfl
@[simp] theorem unqueued_nextId (s : State) (a : Access) : (s.unqueued a).nextId = s.nextId := rfl
@[simp] theorem unqueued_regions (s : State) (a : Access) : (s.unqueued a).regions = s.regions := rfl
@[simp] theorem unqueued_drv (s : State) (a : Access) : (s.unqueued a).drv = s.drv := rfl
@[simp] theorem unqueued_sched (s : State) (a : Access) : (s.unqueued a).sched = s.sched := rfl
@[simp] theorem unqueued_link (s : State) (a : Access) : (s.unqueued a).link = s.link := rfl
@[simp] theorem unqueued_plat (s : State) (a : Access) : (s.unqueued a).plat = s.plat := rfl
@[simp] theorem unqueued_volt (s : State) (a : Access) : (s.unqueued a).volt = s.volt := rfl
@[simp] theorem unqueued_bytes (s : State) (a : Access) : (s.unqueued a).mem.bytes = s.mem.bytes := rfl
@[simp] theorem unqueued_poison (s : State) (a : Access) : (s.unqueued a).mem.poison = s.mem.poison := rfl
@[simp] theorem unqueued_frames (s : State) (a : Access) : (s.unqueued a).mem.frames = s.mem.frames := rfl
@[simp] theorem unqueued_dir (s : State) (a : Access) : (s.unqueued a).mem.dir = s.mem.dir := rfl
@[simp] theorem unqueued_egress (s : State) (a : Access) : (s.unqueued a).mem.egress = s.mem.egress := rfl
@[simp] theorem unqueued_replies (s : State) (a : Access) : (s.unqueued a).mem.replies = s.mem.replies := rfl
@[simp] theorem unqueued_counters (s : State) (a : Access) : (s.unqueued a).mem.counters = s.mem.counters := rfl
@[simp] theorem unqueued_barriers (s : State) (a : Access) : (s.unqueued a).mem.barriers = s.mem.barriers := rfl
@[simp] theorem unqueued_held (s : State) (a : Access) : (s.unqueued a).mem.held = s.mem.held := rfl
@[simp] theorem unqueued_replays (s : State) (a : Access) : (s.unqueued a).mem.replays = s.mem.replays := rfl

/-! ### A read joins the home order (R325) -/

@[simp] theorem noteRead_focus (s : State) (pa : Nat) : (s.noteRead pa).focus = s.focus := rfl
@[simp] theorem noteRead_agenda (s : State) (pa : Nat) : (s.noteRead pa).agenda = s.agenda := rfl
@[simp] theorem noteRead_choiceCtr (s : State) (pa : Nat) : (s.noteRead pa).choiceCtr = s.choiceCtr := rfl
@[simp] theorem noteRead_freeCtr (s : State) (pa : Nat) : (s.noteRead pa).freeCtr = s.freeCtr := rfl
@[simp] theorem noteRead_cycle (s : State) (pa : Nat) : (s.noteRead pa).cycle = s.cycle := rfl
@[simp] theorem noteRead_clock (s : State) (pa : Nat) : (s.noteRead pa).clock = s.clock := rfl
@[simp] theorem noteRead_nextId (s : State) (pa : Nat) : (s.noteRead pa).nextId = s.nextId := rfl
@[simp] theorem noteRead_regions (s : State) (pa : Nat) : (s.noteRead pa).regions = s.regions := rfl
@[simp] theorem noteRead_drv (s : State) (pa : Nat) : (s.noteRead pa).drv = s.drv := rfl
@[simp] theorem noteRead_sched (s : State) (pa : Nat) : (s.noteRead pa).sched = s.sched := rfl
@[simp] theorem noteRead_link (s : State) (pa : Nat) : (s.noteRead pa).link = s.link := rfl
@[simp] theorem noteRead_plat (s : State) (pa : Nat) : (s.noteRead pa).plat = s.plat := rfl
@[simp] theorem noteRead_volt (s : State) (pa : Nat) : (s.noteRead pa).volt = s.volt := rfl
@[simp] theorem noteRead_bytes (s : State) (pa : Nat) : (s.noteRead pa).mem.bytes = s.mem.bytes := rfl
@[simp] theorem noteRead_poison (s : State) (pa : Nat) : (s.noteRead pa).mem.poison = s.mem.poison := rfl
@[simp] theorem noteRead_frames (s : State) (pa : Nat) : (s.noteRead pa).mem.frames = s.mem.frames := rfl
@[simp] theorem noteRead_dir (s : State) (pa : Nat) : (s.noteRead pa).mem.dir = s.mem.dir := rfl
@[simp] theorem noteRead_reqs (s : State) (pa : Nat) : (s.noteRead pa).mem.reqs = s.mem.reqs := rfl
@[simp] theorem noteRead_egress (s : State) (pa : Nat) : (s.noteRead pa).mem.egress = s.mem.egress := rfl
@[simp] theorem noteRead_replies (s : State) (pa : Nat) : (s.noteRead pa).mem.replies = s.mem.replies := rfl
@[simp] theorem noteRead_counters (s : State) (pa : Nat) : (s.noteRead pa).mem.counters = s.mem.counters := rfl
@[simp] theorem noteRead_barriers (s : State) (pa : Nat) : (s.noteRead pa).mem.barriers = s.mem.barriers := rfl
@[simp] theorem noteRead_held (s : State) (pa : Nat) : (s.noteRead pa).mem.held = s.mem.held := rfl
@[simp] theorem noteRead_replays (s : State) (pa : Nat) : (s.noteRead pa).mem.replays = s.mem.replays := rfl

/-! ### The host or a control core gets its bytes (R414) -/

@[simp] theorem hostRead_focus (s : State) (agent : Nat) (bs : List Byte) (b : Bool) : (s.hostRead agent bs b).focus = s.focus := rfl
@[simp] theorem hostRead_agenda (s : State) (agent : Nat) (bs : List Byte) (b : Bool) : (s.hostRead agent bs b).agenda = s.agenda := rfl
@[simp] theorem hostRead_choiceCtr (s : State) (agent : Nat) (bs : List Byte) (b : Bool) : (s.hostRead agent bs b).choiceCtr = s.choiceCtr := rfl
@[simp] theorem hostRead_freeCtr (s : State) (agent : Nat) (bs : List Byte) (b : Bool) : (s.hostRead agent bs b).freeCtr = s.freeCtr := rfl
@[simp] theorem hostRead_cycle (s : State) (agent : Nat) (bs : List Byte) (b : Bool) : (s.hostRead agent bs b).cycle = s.cycle := rfl
@[simp] theorem hostRead_clock (s : State) (agent : Nat) (bs : List Byte) (b : Bool) : (s.hostRead agent bs b).clock = s.clock := rfl
@[simp] theorem hostRead_nextId (s : State) (agent : Nat) (bs : List Byte) (b : Bool) : (s.hostRead agent bs b).nextId = s.nextId := rfl
@[simp] theorem hostRead_regions (s : State) (agent : Nat) (bs : List Byte) (b : Bool) : (s.hostRead agent bs b).regions = s.regions := rfl
@[simp] theorem hostRead_drv (s : State) (agent : Nat) (bs : List Byte) (b : Bool) : (s.hostRead agent bs b).drv = s.drv := rfl
@[simp] theorem hostRead_sched (s : State) (agent : Nat) (bs : List Byte) (b : Bool) : (s.hostRead agent bs b).sched = s.sched := rfl
@[simp] theorem hostRead_link (s : State) (agent : Nat) (bs : List Byte) (b : Bool) : (s.hostRead agent bs b).link = s.link := rfl
@[simp] theorem hostRead_plat (s : State) (agent : Nat) (bs : List Byte) (b : Bool) : (s.hostRead agent bs b).plat = s.plat := rfl
@[simp] theorem hostRead_volt (s : State) (agent : Nat) (bs : List Byte) (b : Bool) : (s.hostRead agent bs b).volt = s.volt := rfl
@[simp] theorem hostRead_bytes (s : State) (agent : Nat) (bs : List Byte) (b : Bool) : (s.hostRead agent bs b).mem.bytes = s.mem.bytes := rfl
@[simp] theorem hostRead_poison (s : State) (agent : Nat) (bs : List Byte) (b : Bool) : (s.hostRead agent bs b).mem.poison = s.mem.poison := rfl
@[simp] theorem hostRead_frames (s : State) (agent : Nat) (bs : List Byte) (b : Bool) : (s.hostRead agent bs b).mem.frames = s.mem.frames := rfl
@[simp] theorem hostRead_dir (s : State) (agent : Nat) (bs : List Byte) (b : Bool) : (s.hostRead agent bs b).mem.dir = s.mem.dir := rfl
@[simp] theorem hostRead_reqs (s : State) (agent : Nat) (bs : List Byte) (b : Bool) : (s.hostRead agent bs b).mem.reqs = s.mem.reqs := rfl
@[simp] theorem hostRead_egress (s : State) (agent : Nat) (bs : List Byte) (b : Bool) : (s.hostRead agent bs b).mem.egress = s.mem.egress := rfl
@[simp] theorem hostRead_replies (s : State) (agent : Nat) (bs : List Byte) (b : Bool) : (s.hostRead agent bs b).mem.replies = s.mem.replies := rfl
@[simp] theorem hostRead_counters (s : State) (agent : Nat) (bs : List Byte) (b : Bool) : (s.hostRead agent bs b).mem.counters = s.mem.counters := rfl
@[simp] theorem hostRead_barriers (s : State) (agent : Nat) (bs : List Byte) (b : Bool) : (s.hostRead agent bs b).mem.barriers = s.mem.barriers := rfl
@[simp] theorem hostRead_held (s : State) (agent : Nat) (bs : List Byte) (b : Bool) : (s.hostRead agent bs b).mem.held = s.mem.held := rfl
@[simp] theorem hostRead_replays (s : State) (agent : Nat) (bs : List Byte) (b : Bool) : (s.hostRead agent bs b).mem.replays = s.mem.replays := rfl

/-! ### A derived load has gone one part on (R335) -/

@[simp] theorem setProg_focus (s : State) (k : Nat) (p : DrvProg) : (s.setProg k p).focus = s.focus := rfl
@[simp] theorem setProg_agenda (s : State) (k : Nat) (p : DrvProg) : (s.setProg k p).agenda = s.agenda := rfl
@[simp] theorem setProg_choiceCtr (s : State) (k : Nat) (p : DrvProg) : (s.setProg k p).choiceCtr = s.choiceCtr := rfl
@[simp] theorem setProg_freeCtr (s : State) (k : Nat) (p : DrvProg) : (s.setProg k p).freeCtr = s.freeCtr := rfl
@[simp] theorem setProg_cycle (s : State) (k : Nat) (p : DrvProg) : (s.setProg k p).cycle = s.cycle := rfl
@[simp] theorem setProg_clock (s : State) (k : Nat) (p : DrvProg) : (s.setProg k p).clock = s.clock := rfl
@[simp] theorem setProg_nextId (s : State) (k : Nat) (p : DrvProg) : (s.setProg k p).nextId = s.nextId := rfl
@[simp] theorem setProg_regions (s : State) (k : Nat) (p : DrvProg) : (s.setProg k p).regions = s.regions := rfl
@[simp] theorem setProg_drv (s : State) (k : Nat) (p : DrvProg) : (s.setProg k p).drv = s.drv := rfl
@[simp] theorem setProg_sched (s : State) (k : Nat) (p : DrvProg) : (s.setProg k p).sched = s.sched := rfl
@[simp] theorem setProg_link (s : State) (k : Nat) (p : DrvProg) : (s.setProg k p).link = s.link := rfl
@[simp] theorem setProg_plat (s : State) (k : Nat) (p : DrvProg) : (s.setProg k p).plat = s.plat := rfl
@[simp] theorem setProg_volt (s : State) (k : Nat) (p : DrvProg) : (s.setProg k p).volt = s.volt := rfl
@[simp] theorem setProg_bytes (s : State) (k : Nat) (p : DrvProg) : (s.setProg k p).mem.bytes = s.mem.bytes := rfl
@[simp] theorem setProg_poison (s : State) (k : Nat) (p : DrvProg) : (s.setProg k p).mem.poison = s.mem.poison := rfl
@[simp] theorem setProg_frames (s : State) (k : Nat) (p : DrvProg) : (s.setProg k p).mem.frames = s.mem.frames := rfl
@[simp] theorem setProg_dir (s : State) (k : Nat) (p : DrvProg) : (s.setProg k p).mem.dir = s.mem.dir := rfl
@[simp] theorem setProg_egress (s : State) (k : Nat) (p : DrvProg) : (s.setProg k p).mem.egress = s.mem.egress := rfl
@[simp] theorem setProg_replies (s : State) (k : Nat) (p : DrvProg) : (s.setProg k p).mem.replies = s.mem.replies := rfl
@[simp] theorem setProg_counters (s : State) (k : Nat) (p : DrvProg) : (s.setProg k p).mem.counters = s.mem.counters := rfl
@[simp] theorem setProg_barriers (s : State) (k : Nat) (p : DrvProg) : (s.setProg k p).mem.barriers = s.mem.barriers := rfl
@[simp] theorem setProg_held (s : State) (k : Nat) (p : DrvProg) : (s.setProg k p).mem.held = s.mem.held := rfl
@[simp] theorem setProg_replays (s : State) (k : Nat) (p : DrvProg) : (s.setProg k p).mem.replays = s.mem.replays := rfl

/-! ### An answer goes back to another package -/

@[simp] theorem ack_focus (s : State) (src : Nat) (v : RemoteRes) : (s.ack src v).focus = s.focus := rfl
@[simp] theorem ack_agenda (s : State) (src : Nat) (v : RemoteRes) : (s.ack src v).agenda = s.agenda := rfl
@[simp] theorem ack_choiceCtr (s : State) (src : Nat) (v : RemoteRes) : (s.ack src v).choiceCtr = s.choiceCtr := rfl
@[simp] theorem ack_freeCtr (s : State) (src : Nat) (v : RemoteRes) : (s.ack src v).freeCtr = s.freeCtr := rfl
@[simp] theorem ack_cycle (s : State) (src : Nat) (v : RemoteRes) : (s.ack src v).cycle = s.cycle := rfl
@[simp] theorem ack_clock (s : State) (src : Nat) (v : RemoteRes) : (s.ack src v).clock = s.clock := rfl
@[simp] theorem ack_nextId (s : State) (src : Nat) (v : RemoteRes) : (s.ack src v).nextId = s.nextId := rfl
@[simp] theorem ack_regions (s : State) (src : Nat) (v : RemoteRes) : (s.ack src v).regions = s.regions := rfl
@[simp] theorem ack_mem (s : State) (src : Nat) (v : RemoteRes) : (s.ack src v).mem = s.mem := rfl
@[simp] theorem ack_drv (s : State) (src : Nat) (v : RemoteRes) : (s.ack src v).drv = s.drv := rfl
@[simp] theorem ack_sched (s : State) (src : Nat) (v : RemoteRes) : (s.ack src v).sched = s.sched := rfl
@[simp] theorem ack_plat (s : State) (src : Nat) (v : RemoteRes) : (s.ack src v).plat = s.plat := rfl
@[simp] theorem ack_volt (s : State) (src : Nat) (v : RemoteRes) : (s.ack src v).volt = s.volt := rfl

/-! ### A waiting packet goes on -/

@[simp] theorem setInbound_focus (s : State) (x : Inbound) : (s.setInbound x).focus = s.focus := rfl
@[simp] theorem setInbound_agenda (s : State) (x : Inbound) : (s.setInbound x).agenda = s.agenda := rfl
@[simp] theorem setInbound_choiceCtr (s : State) (x : Inbound) : (s.setInbound x).choiceCtr = s.choiceCtr := rfl
@[simp] theorem setInbound_freeCtr (s : State) (x : Inbound) : (s.setInbound x).freeCtr = s.freeCtr := rfl
@[simp] theorem setInbound_cycle (s : State) (x : Inbound) : (s.setInbound x).cycle = s.cycle := rfl
@[simp] theorem setInbound_clock (s : State) (x : Inbound) : (s.setInbound x).clock = s.clock := rfl
@[simp] theorem setInbound_nextId (s : State) (x : Inbound) : (s.setInbound x).nextId = s.nextId := rfl
@[simp] theorem setInbound_regions (s : State) (x : Inbound) : (s.setInbound x).regions = s.regions := rfl
@[simp] theorem setInbound_mem (s : State) (x : Inbound) : (s.setInbound x).mem = s.mem := rfl
@[simp] theorem setInbound_drv (s : State) (x : Inbound) : (s.setInbound x).drv = s.drv := rfl
@[simp] theorem setInbound_sched (s : State) (x : Inbound) : (s.setInbound x).sched = s.sched := rfl
@[simp] theorem setInbound_plat (s : State) (x : Inbound) : (s.setInbound x).plat = s.plat := rfl
@[simp] theorem setInbound_volt (s : State) (x : Inbound) : (s.setInbound x).volt = s.volt := rfl

/-! ### A waiting packet is done -/

@[simp] theorem endInbound_focus (s : State) (x : Inbound) : (s.endInbound x).focus = s.focus := rfl
@[simp] theorem endInbound_agenda (s : State) (x : Inbound) : (s.endInbound x).agenda = s.agenda := rfl
@[simp] theorem endInbound_choiceCtr (s : State) (x : Inbound) : (s.endInbound x).choiceCtr = s.choiceCtr := rfl
@[simp] theorem endInbound_freeCtr (s : State) (x : Inbound) : (s.endInbound x).freeCtr = s.freeCtr := rfl
@[simp] theorem endInbound_cycle (s : State) (x : Inbound) : (s.endInbound x).cycle = s.cycle := rfl
@[simp] theorem endInbound_clock (s : State) (x : Inbound) : (s.endInbound x).clock = s.clock := rfl
@[simp] theorem endInbound_nextId (s : State) (x : Inbound) : (s.endInbound x).nextId = s.nextId := rfl
@[simp] theorem endInbound_regions (s : State) (x : Inbound) : (s.endInbound x).regions = s.regions := rfl
@[simp] theorem endInbound_mem (s : State) (x : Inbound) : (s.endInbound x).mem = s.mem := rfl
@[simp] theorem endInbound_drv (s : State) (x : Inbound) : (s.endInbound x).drv = s.drv := rfl
@[simp] theorem endInbound_sched (s : State) (x : Inbound) : (s.endInbound x).sched = s.sched := rfl
@[simp] theorem endInbound_plat (s : State) (x : Inbound) : (s.endInbound x).plat = s.plat := rfl
@[simp] theorem endInbound_volt (s : State) (x : Inbound) : (s.endInbound x).volt = s.volt := rfl

/-! ### The mailbox is written (R435) -/

@[simp] theorem mailed_focus (s : State) : s.mailed.focus = s.focus := rfl
@[simp] theorem mailed_agenda (s : State) : s.mailed.agenda = s.agenda := rfl
@[simp] theorem mailed_choiceCtr (s : State) : s.mailed.choiceCtr = s.choiceCtr := rfl
@[simp] theorem mailed_freeCtr (s : State) : s.mailed.freeCtr = s.freeCtr := rfl
@[simp] theorem mailed_cycle (s : State) : s.mailed.cycle = s.cycle := rfl
@[simp] theorem mailed_clock (s : State) : s.mailed.clock = s.clock := rfl
@[simp] theorem mailed_nextId (s : State) : s.mailed.nextId = s.nextId := rfl
@[simp] theorem mailed_regions (s : State) : s.mailed.regions = s.regions := rfl
@[simp] theorem mailed_mem (s : State) : s.mailed.mem = s.mem := rfl
@[simp] theorem mailed_drv (s : State) : s.mailed.drv = s.drv := rfl
@[simp] theorem mailed_sched (s : State) : s.mailed.sched = s.sched := rfl
@[simp] theorem mailed_link (s : State) : s.mailed.link = s.link := rfl
@[simp] theorem mailed_volt (s : State) : s.mailed.volt = s.volt := rfl

end Sys2Proof.Machine
end

