-- ==== Sys2Proof/Tests/Slice0.lean ====
section
/-! SUPPORT. Tests: ill-formed instructions are refused, words written out from the manual's encodings decode, single firings
give what a hand calculation from the rules gives, and every statement's hypotheses are met by a concrete state. -/

namespace Sys2Proof.Tests

set_option Elab.async false

open Sys2Proof Sys2Proof.Machine

/-! ### Small states -/

/-- A data token of tag 1. -/
def dat (v : Payload) : Token := ⟨1, .data, false, false, 0, v⟩

/-- A control token. -/
def ctl (coord : BitVec 16) (v : Payload) : Token := ⟨0, .control, false, false, coord, v⟩

/-- An armed element of a kind with the same token at each input. -/
def elt (k : ElemKind) (t : Token) : Elem :=
  { Elem.arm (fetchRec k 0) with ins := Vector.replicate 4 { Input.empty with fifo := [t] } }

/-- A graph of one element, whose outputs no edge binds. -/
def gra (el : Elem) : GraphSt :=
  { fmts := Vector.replicate 8 recFP32, elems := [el], edges := [], parts := 1, part := 0, chans := [], spillCap := 0
    exact := [], sites := [], collected := [] }

/-- An armed region slot of that graph. -/
def reg (el : Elem) : Region := { Region.empty with state := .armed, g := some (gra el) }

/-- A running device whose region slot 0 holds that element. -/
def sta (el : Elem) : State :=
  { State.reset with
    regions := reg el :: State.reset.regions.tail
    plat := { State.reset.plat with boot := .running } }

/-- The context of that element. -/
def cxt (el : Elem) : Ctx := ⟨0, 0, 0, reg el, gra el, el⟩

theorem sta_ctx (el : Elem) : (sta el).ctx? = some (cxt el) := rfl

theorem sta_at (el : Elem) : (sta el).at? 0 0 0 = some (cxt el) := rfl

/-- An armed region slot of a graph, the state that holds it in slot 0, and its first element's context. -/
def regG (g : GraphSt) : Region := { Region.empty with state := .armed, g := some g }
def staG (g : GraphSt) : State :=
  { State.reset with
    regions := regG g :: State.reset.regions.tail
    plat := { State.reset.plat with boot := .running } }
def cxtG (g : GraphSt) (el : Elem) : Ctx := ⟨0, 0, 0, regG g, g, el⟩

theorem staG_ctx (g : GraphSt) (el : Elem) (l : List Elem) (h : g.elems = el :: l) : (staG g).ctx? = some (cxtG g el) := by
  show (match g.elems[0]? with
    | some el => some (⟨0, 0, 0, regG g, g, el⟩ : Ctx)
    | none => none) = _
  rw [h]; rfl

/-- Form fields for the witnesses: head 0 and register 2 to output 1, head 0 popped, predicate 1 written. -/
def rf : RForm := ⟨.out 1, .head 0, .reg 2, 1, 9, 0⟩
def jf : IForm := ⟨.out 1, .head 0, 5, 1, 9⟩
def xf : XForm := ⟨.out 1, .head 0, .reg 2, 0, 0⟩

/-! ### Ill-formed instructions, one for each check of R91 to R98, R213, R249 and R251 -/

theorem test_illformed_dst : (Instr.ld ⟨.reg 0, .head 0, .zero, 0, 0⟩).wellFormed = false := by decide
theorem test_illformed_unnamed : (Instr.crdset ⟨.out 1, .head 0, .zero, 0, 0, 0⟩).wellFormed = false := by decide
theorem test_illformed_source : (Instr.mldb ⟨.discard, .reg 0, .zero, 0, 0⟩).wellFormed = false := by decide
theorem test_illformed_constant : (Instr.addi .w ⟨.reg 0, .const, 1, 0, 0⟩).wellFormed = false := by decide
theorem test_illformed_pw : (Instr.mov ⟨.reg 0, .zero, .zero, 0, 1, 0⟩).wellFormed = false := by decide
theorem test_illformed_mod : (Instr.faddF32 ⟨.reg 0, .zero, .zero, 0, 0, 6⟩).wellFormed = false := by decide
theorem test_illformed_imm : (Instr.retag ⟨.reg 0, .head 0, 8, 0, 0⟩).wellFormed = false := by decide
theorem test_illformed_cnt : (Instr.join ⟨.reg 0, .zero, .zero, 0, 0⟩).wellFormed = false := by decide
theorem test_illformed_pop : (Instr.wjoin ⟨.reg 0, .head 0, .zero, 1, 1⟩).wellFormed = false := by decide
theorem test_illformed_merge : (Instr.merge ⟨.out 0, .zero, .zero, 0, 0, 0⟩).wellFormed = false := by decide
theorem test_illformed_reord : (Instr.reord ⟨.discard, .head 0, .zero, 2, 0⟩).wellFormed = false := by decide
theorem test_illformed_event : (Instr.pairStep 0 0).wellFormed = false := by decide

/-! ### Words written out from R86, R89, R90 and the opcode map, one or more of each family

An R form is OPC DST SA SB POP PW MOD, an I form OPC DST SA IMM POP PW, a P form OPC SET CLR POP 0, an X form
OPC DST SA SB POP CNT, from bit 31 down. DST: 0 to 7 registers, 8 to 11 outputs, 12 discard. SA, SB: 0 to 7 registers,
8 to 11 heads, 12 the constant, 13 zero. -/

theorem test_word_nop : decode (0x00#8 ++ 0x01#8 ++ 0x80#8 ++ 0b1010#4 ++ 0#4) = .ok (.nop ⟨1, 0x80, 10⟩) := by decide
theorem test_word_fwd : decode (0x08#8 ++ 9#4 ++ 10#4 ++ 13#4 ++ 4#4 ++ 0#4 ++ 0#4) =
    .ok (.fwd ⟨.out 1, .head 2, .zero, 4, 0, 0⟩) := by decide
theorem test_word_trap : decode (0x15#8 ++ 12#4 ++ 13#4 ++ 0x2A#8 ++ 0#4 ++ 0#4) = .ok (.trap ⟨.discard, .zero, 0x2A, 0, 0⟩) := by
  decide
theorem test_word_sub_h : decode (0x25#8 ++ 7#4 ++ 0#4 ++ 11#4 ++ 8#4 ++ 15#4 ++ 1#4) =
    .ok (.sub .h ⟨.reg 7, .reg 0, .head 3, 8, 15, 1⟩) := by decide
theorem test_word_addi_s : decode (0x5F#8 ++ 2#4 ++ 1#4 ++ 0xFE#8 ++ 3#4 ++ 0#4) =
    .ok (.addi .s ⟨.reg 2, .reg 1, 0xFE, 3, 0⟩) := by decide
theorem test_word_ffma_f16 : decode (0x6A#8 ++ 3#4 ++ 0#4 ++ 12#4 ++ 0#4 ++ 0#4 ++ 15#4) =
    .ok (.ffmaF16 ⟨.reg 3, .reg 0, .const, 0, 0, 15⟩) := by decide
theorem test_word_fnarrow_bf16 : decode (0x8C#8 ++ 8#4 ++ 0#4 ++ 1#4 ++ 0#4 ++ 0x65#8) =
    .ok (.fnarrowBF16 ⟨.out 0, .reg 0, .reg 1, 0, 0x65⟩) := by decide
theorem test_word_exp2 : decode (0x90#8 ++ 4#4 ++ 8#4 ++ 13#4 ++ 1#4 ++ 0#4 ++ 0#4) =
    .ok (.exp2 ⟨.reg 4, .head 0, .zero, 1, 0, 0⟩) := by decide
theorem test_word_xsq : decode (0x9C#8 ++ 12#4 ++ 8#4 ++ 2#4 ++ 1#4 ++ 1#8) = .ok (.xsq ⟨.discard, .head 0, .reg 2, 1, 1⟩) := by
  decide
theorem test_word_mrows_a8 : decode (0xAA#8 ++ 12#4 ++ 9#4 ++ 13#4 ++ 0#4 ++ 63#8) =
    .ok (.mrows .a8 ⟨.discard, .head 1, .zero, 0, 63⟩) := by decide
theorem test_word_mgrp : decode (0xAF#8 ++ 11#4 ++ 8#4 ++ 9#4 ++ 0#4 ++ 16#8) =
    .ok (.mgrp ⟨.out 3, .head 0, .head 1, 0, 16⟩) := by decide
theorem test_word_leval : decode (0xC4#8 ++ 12#4 ++ 13#4 ++ 13#4 ++ 2#4 ++ 7#8) = .ok (.leval ⟨.discard, .zero, .zero, 2, 7⟩) := by
  decide
theorem test_word_steer : decode (0xCA#8 ++ 12#4 ++ 8#4 ++ 0#4 ++ 1#4 ++ 8#4 ++ 1#4) =
    .ok (.steer ⟨.discard, .head 0, .reg 0, 1, 8, 1⟩) := by decide
theorem test_word_ld : decode (0xD0#8 ++ 10#4 ++ 8#4 ++ 13#4 ++ 1#4 ++ 0x1A#8) = .ok (.ld ⟨.out 2, .head 0, .zero, 1, 0x1A⟩) := by
  decide
theorem test_word_aadd : decode (0xD8#8 ++ 12#4 ++ 8#4 ++ 9#4 ++ 3#4 ++ 0#8) = .ok (.aadd ⟨.discard, .head 0, .head 1, 3, 0⟩) := by
  decide
theorem test_word_fence : decode (0xEA#8 ++ 12#4 ++ 13#4 ++ 6#8 ++ 0#4 ++ 0#4) = .ok (.fence ⟨.discard, .zero, 6, 0, 0⟩) := by
  decide
theorem test_word_redr : decode (0xF4#8 ++ 8#4 ++ 0#4 ++ 13#4 ++ 0#4 ++ 0x80#8) = .ok (.redr ⟨.out 0, .reg 0, .zero, 0, 0x80⟩) := by
  decide
theorem test_word_sysc : decode (0xF9#8 ++ 9#4 ++ 0#4 ++ 4#8 ++ 0#4 ++ 0#4) = .ok (.sysc ⟨.out 1, .reg 0, 4, 0, 0⟩) := by decide
theorem test_word_ckpt : decode (0xFC#8 ++ 0x0F#8 ++ 0xF0#8 ++ 0#4 ++ 0#4) = .ok (.ckpt ⟨0x0F, 0xF0, 0⟩) := by decide

/-! ### The hypotheses of the statements are met: control, integers and floating point -/

theorem test_ready_r (tag : Option (BitVec 3)) : (cxt (elt .C (dat 7))).readyR rf tag := ⟨rfl, rfl⟩
theorem test_ready_i (tag : Option (BitVec 3)) : (cxt (elt .C (dat 7))).readyI jf tag := ⟨rfl, rfl⟩
theorem test_ready_x (tag : Option (BitVec 3)) : (cxt (elt .C (dat 7))).readyX xf [.head 0, .reg 2] tag := ⟨rfl, rfl⟩

theorem test_IntegerArithmeticRuns_met : ∃ (s : State) (c : Ctx) (f : RForm) (g : IForm),
    s.ctx? = some c ∧ c.readyR f none ∧ c.readyI g none :=
  ⟨_, _, rf, jf, sta_ctx (elt .C (dat 7)), test_ready_r _, test_ready_i _⟩

theorem test_IntegerLogicRuns_met : ∃ (s : State) (c : Ctx) (f : RForm), s.ctx? = some c ∧ c.readyR f none :=
  ⟨_, _, rf, sta_ctx (elt .C (dat 7)), test_ready_r _⟩

/-- A count in range, one equal to the lane's width, and one past it. -/
theorem test_ShiftCountsUnmasked_met : ∃ (s : State) (c : Ctx) (f : RForm), s.ctx? = some c ∧ c.readyR f none ∧
    (lane32 (c.opB f) 0).toNat = 31 ∧ (lane32 (c.opB f) 1).toNat = 32 ∧ (lane32 (c.opB f) 2).toNat = 33 ∧
    (lane32 (c.opA f) 0).toInt < 0 :=
  ⟨_, _, rf, sta_ctx { elt .C (dat 0x80000000) with d := Vector.replicate 8 0x00000021000000200000001F },
    ⟨rfl, rfl⟩, by decide, by decide, by decide, by decide⟩

theorem test_MovesAndPredicatesRun_met : ∃ (s : State) (c : Ctx) (f : RForm) (g h i : IForm), s.ctx? = some c ∧
    c.readyR f none ∧ (g.sa = .const ∧ c.readyI g none) ∧ (h.sa = .zero ∧ c.inSets (pushesOf h.dst ⟨1, .data, false, false, 0, 0⟩)) ∧
    c.clean [i.sa] :=
  ⟨_, _, rf, ⟨.reg 0, .const, 15, 0, 0⟩, ⟨.out 1, .zero, 0x80, 0, 9⟩, jf, sta_ctx (elt .C (dat 7)), test_ready_r _,
    ⟨rfl, rfl, rfl⟩, ⟨rfl, rfl⟩, rfl⟩

/-- A C element, an S element, and an M element with no engine. -/
theorem test_PFormsRun_met : (∃ (s : State) (c : Ctx), s.ctx? = some c) ∧
    (∃ (s : State) (c : Ctx) (x : SSt), s.ctx? = some c ∧ c.el.ks = .s x) ∧
    ∃ (s : State) (c : Ctx) (m : MSt), s.ctx? = some c ∧ c.el.ks = .m m ∧ c.el.engine? .weights = none ∧
      c.el.engine? .scales = none :=
  ⟨⟨_, _, sta_ctx (elt .C (dat 7))⟩, ⟨_, _, _, sta_ctx (elt .S (dat 7)), rfl⟩,
    _, _, _, sta_ctx (elt .M (dat 7)), rfl, rfl, rfl⟩

theorem test_ArrangementCountersAndAddressesRun_met : ∃ (s : State) (c : Ctx) (f : RForm) (g : IForm) (h : XForm),
    s.ctx? = some c ∧ c.readyR f none ∧ c.readyI g none ∧ c.readyX h [h.sa, h.sb] none :=
  ⟨_, _, rf, jf, xf, sta_ctx (elt .C (dat 7)), test_ready_r _, test_ready_i _, test_ready_x _⟩

/-- PERF with index 0, with the open index 2, and with the last listed one. -/
theorem test_StatusReadsRun_met : ∃ (s : State) (c : Ctx) (f : RForm) (g h : XForm), s.ctx? = some c ∧ c.readyR f none ∧
    (c.readyX g [g.sa, g.sb] none ∧ g.cnt ≠ 2) ∧ (c.readyX h [h.sa, h.sb] none ∧ h.cnt = 2) :=
  ⟨_, _, rf, ⟨.out 1, .zero, .zero, 0, 71⟩, ⟨.reg 0, .zero, .zero, 0, 2⟩, sta_ctx (elt .C (dat 7)), test_ready_r _,
    ⟨⟨rfl, rfl⟩, by decide⟩, ⟨rfl, rfl⟩, rfl⟩

/-- SEL with either outcome, RETAG, LTOK of a head and of a register, FWD in its three cases. -/
theorem test_SidebandAndForwardRun_met : ∃ (s : State) (c : Ctx) (f g : RForm) (h : IForm) (t : Token), s.ctx? = some c ∧
    c.clean [f.sa, f.sb] ∧ c.inSets (pushesOf f.dst (c.tok f.md [f.sb] none (c.src f.md f.sb))) ∧
    (c.srcTok? f.sa = some t ∧ f.dst = .out 1 ∧ c.inSets [(1, t)]) ∧ c.readyI h (some (h.imm.extractLsb' 0 3)) ∧
    (c.srcTok? g.sa = some t ∧ g.dst = .discard) ∧ c.srcTok? g.sb = none :=
  ⟨_, _, rf, { rf with dst := .discard }, jf, _, sta_ctx (elt .C (dat 7)), rfl, rfl, ⟨rfl, rfl, rfl⟩, test_ready_i _, ⟨rfl, rfl⟩, rfl⟩

/-- DONE with a count of its own and with the declared one; JOIN and JOINF before their last count and at it. -/
theorem test_LimitsEndsAndJoinsRun_met : ∃ (s : State) (c : Ctx) (f : RForm) (g h : IForm) (x y : XForm), s.ctx? = some c ∧
    c.clean [f.sa] ∧ (c.clean [g.sa] ∧ g.imm = 0) ∧ (c.clean [h.sa] ∧ h.imm ≠ 0) ∧
    c.el.joinCt.get (Fin.ofNat 32 c.slot) + 1 = x.cnt ∧ c.el.joinCt.get (Fin.ofNat 32 c.slot) + 1 ≠ y.cnt :=
  ⟨_, _, rf, ⟨.discard, .zero, 0, 0, 8⟩, jf, ⟨.out 0, .zero, .zero, 1, 1⟩, ⟨.out 0, .zero, .zero, 1, 2⟩, sta_ctx (elt .C (dat 7)),
    rfl, ⟨rfl, rfl⟩, ⟨rfl, by decide⟩, by decide, by decide⟩

theorem test_FloatArithmeticRuns_met : ∃ (s : State) (c : Ctx) (f : RForm), s.ctx? = some c ∧
    ∀ v : FVar, c.readyR f (some (c.vtag v)) :=
  ⟨_, _, rf, sta_ctx (elt .C (dat 7)), fun _ => test_ready_r _⟩

theorem test_FloatSelectionRuns_met : ∃ (s : State) (c : Ctx) (f : RForm), s.ctx? = some c ∧ c.readyR f (some 1) ∧
    ∀ v : FVar, c.readyR f (some (c.vtag v)) :=
  ⟨_, _, rf, sta_ctx (elt .C (dat 7)), test_ready_r _, fun _ => test_ready_r _⟩

theorem test_FloatConversionsRun_met : ∃ (s : State) (c : Ctx) (f : RForm) (g : XForm) (t : Fmt), s.ctx? = some c ∧
    (∀ v : FVar, c.readyR f (some (c.vtag v))) ∧ c.readyR f (some 1) ∧ c.readyR f (some 0) ∧
    c.g.fmt? (g.cnt.extractLsb' 5 3) = some t ∧ c.readyX g [g.sa, g.sb] (some (g.cnt.extractLsb' 5 3)) :=
  ⟨_, _, rf, xf, fp32, sta_ctx (elt .C (dat 7)), fun _ => test_ready_r _, test_ready_r _, test_ready_r _, by decide, test_ready_x _⟩

/-- SMAX with MOD 1 and with MOD 0 and 2. -/
theorem test_SpecialFunctionsRun_met : ∃ (s : State) (c : Ctx) (f g h : RForm), s.ctx? = some c ∧ c.readyR f (some 0) ∧
    c.readyR f (some 1) ∧ (modOf g = 1 ∧ c.readyR g (some 0)) ∧ modOf h = 2 ∧ c.readyR h (some 1) :=
  ⟨_, _, rf, { rf with md := 1 }, { rf with md := 2 }, sta_ctx (elt .C (dat 7)), ⟨rfl, rfl⟩, ⟨rfl, rfl⟩, ⟨by decide, rfl, rfl⟩,
    by decide, rfl, rfl⟩

/-- XADD, XSQ with and without a centre, XRD, and XVAR with a count of 0 and of 3. -/
theorem test_ExactAccumulatorsRun_met : ∃ (s : State) (c : Ctx) (x y : XS) (f g : XForm) (fm : Fmt) (vs : List Val) (t : Fmt),
    s.ctx? = some c ∧ c.el.ks = .c x y ∧ c.xvals f.sa = some (fm, vs) ∧ c.clean [f.sa] ∧ c.clean [f.sa, f.sb] ∧ f.sb ≠ .zero ∧
    g.sb = .zero ∧ c.clean [g.sa, g.sb] ∧ c.g.fmt? (f.cnt.extractLsb' 5 3) = some t ∧
    c.readyX f [] (some (f.cnt.extractLsb' 5 3)) ∧ c.readyX f [f.sa] (some (f.cnt.extractLsb' 5 3)) ∧
    (lane32 (c.src 0 f.sa) 0).toNat = 3 ∧ c.readyX g [g.sb] (some (g.cnt.extractLsb' 5 3)) ∧ (lane32 (c.src 0 g.sb) 0).toNat = 0 :=
  ⟨_, _, _, _, xf, { xf with sb := .zero }, _, _, fp32, sta_ctx (elt .C (dat 3)), rfl, rfl, rfl, rfl, by decide, rfl, rfl,
    by decide, ⟨rfl, rfl⟩, ⟨rfl, rfl⟩, by decide, ⟨rfl, rfl⟩, by decide⟩

/-! ### The hypotheses are met: shapes, matrix, lookup and steering -/

/-- CMPR and EXPND, ARGMX, XTHR, SLOTS, ISECT, ICNT, SWCFG at both ends of its width, SWPUSH into a full ring. -/
theorem test_ShapeInstructionsRun_met : (∃ (s : State) (c : Ctx) (f : RForm), s.ctx? = some c ∧ c.readyR f none ∧
      c.readyR f (some 1) ∧ c.inSets (pushesOf f.dst (c.tok f.md [f.sa, f.sb] none 0))) ∧
    (∃ (s : State) (c : Ctx) (f : RForm) (fm : Fmt), s.ctx? = some c ∧ c.g.fmt? (c.el.img.ctags.get 0) = some fm ∧
      c.readyR f (some c.g.sliceTag)) ∧
    (∃ (s : State) (c : Ctx) (x : SSt) (f : RForm), s.ctx? = some c ∧ c.el.ks = .s x ∧ c.clean [f.sa] ∧
      1 = (lane32 (c.opA f) 0).toNat ∧ 1 ≤ c.el.img.pword.toNat % 256 * 1024 / 32) ∧
    ∃ (s : State) (c : Ctx) (x : SSt) (f : RForm), s.ctx? = some c ∧ c.el.ks = .s x ∧ c.clean [f.sa] ∧ x.ringW = 1 ∧
      x.ring.length = 1 :=
  ⟨⟨_, _, rf, sta_ctx (elt .C (dat 7)), test_ready_r _, test_ready_r _, rfl⟩,
    ⟨_, _, rf, fp32, sta_ctx (elt .C (dat 7)), by decide, ⟨rfl, rfl⟩⟩,
    ⟨_, _, _, rf, sta_ctx { elt .S (dat 1) with img := { fetchRec .S 0 with pword := 1 } }, rfl, rfl, by decide, by decide⟩,
    _, _, _, rf, sta_ctx { elt .S (dat 1) with
      ks := .s ⟨[], [], [], [], Vector.replicate 8 .empty, 1, [⟨0, 1⟩], []⟩ }, rfl, rfl, rfl, rfl⟩

/-- MACCR and MACCW at the last column group, on a plain M element; MZERO of one row and of all. -/
theorem test_MatrixAccessRuns_met : ∃ (s : State) (c : Ctx) (m : MSt) (f g : IForm) (h : XForm) (k : RForm), s.ctx? = some c ∧
    c.el.ks = .m m ∧ swf 0 m.acc = true ∧ f.imm = 255 ∧ g.imm.toNat = 63 ∧ (lane32 (c.src 0 h.sa) 0).toNat = 15 ∧
    (lane32 (c.src 0 h.sb) 0).toNat = 15 ∧ c.clean [h.sa, h.sb] ∧ c.clean [h.sa] ∧
    c.inSets (pushesOf h.dst (dataTok (m.rowTag 0) false 15 0)) ∧ c.inSets (c.pushR k ⟨0, false, none⟩) :=
  ⟨_, _, _, ⟨.discard, .zero, 255, 0, 0⟩, ⟨.discard, .zero, 63, 0, 0⟩, ⟨.out 0, .head 0, .head 1, 0, 0⟩, rf,
    sta_ctx (elt .M (dat 15)), rfl, rfl, rfl, rfl, by decide, by decide, rfl, rfl, rfl, rfl⟩

/-- The stream firings on their kinds; MGRP with a row to process, with rows of no group, and with none; WMAP and DRV. -/
theorem test_TakingFiringsIssue_met : (∃ (s : State) (c : Ctx) (f : XForm) (m : MSt), s.ctx? = some c ∧ f.sa = .head 0 ∧
      c.el.ks = .m m) ∧
    (∃ (s : State) (c : Ctx) (f : XForm) (x : LSt), s.ctx? = some c ∧ f.sa = .head 0 ∧ f.dst = .out 1 ∧ c.el.ks = .l x) ∧
    (∀ n : BitVec 16, ∃ (s : State) (c : Ctx) (f : XForm) (m : MSt) (t : Token), s.ctx? = some c ∧ c.el.ks = .m m ∧
      f.sa = .head 0 ∧ f.sb = .head 1 ∧ f.dst = .out 1 ∧ c.el.head? 0 = some t ∧ t.poison = false ∧ t.kind = .control ∧
      t.coord = n) ∧
    (∃ (s : State) (c : Ctx) (f : XForm) (x : SSt) (win : Window), s.ctx? = some c ∧ c.el.ks = .s x ∧ f.sb = .head 1 ∧
      c.clean [f.sa] ∧ x.mapWaits (winOf f.cnt) (c.src 0 f.sa) = false ∧
      x.mapCheck c.el.img.pword (winOf f.cnt) (c.src 0 f.sa) = some win) ∧
    ∃ (s : State) (c : Ctx) (f : RForm), s.ctx? = some c ∧ c.clean [f.sa, f.sb] :=
  ⟨⟨_, _, xf, _, sta_ctx (elt .M (dat 7)), rfl, rfl⟩, ⟨_, _, xf, _, sta_ctx (elt .L (dat 7)), rfl, rfl, rfl⟩,
    fun n => ⟨_, _, { xf with sb := .head 1 }, _, _, sta_ctx (elt .M (ctl n 0)), rfl, rfl, rfl, rfl, rfl, rfl, rfl, rfl⟩,
    ⟨_, _, { xf with sb := .head 1 }, _, ⟨true, false, 0, 1024, 0, false, []⟩, sta_ctx { elt .S (dat 0x40000000000) with
      img := { fetchRec .S 0 with pword := 0x01000000 } }, rfl, rfl, rfl, by decide, by decide⟩,
    _, _, rf, sta_ctx (elt .C (dat 7)), rfl⟩

/-- The load engines on their kinds, free and with the input claimed. -/
theorem test_LoadEnginesStart_met : (∃ (s : State) (c : Ctx) (f : XForm) (m : MSt), s.ctx? = some c ∧ f.sa = .head 0 ∧
      c.el.ks = .m m ∧ c.el.engine? .weights = none ∧ (c.el.ins.get 0).claimed = false) ∧
    (∃ (s : State) (c : Ctx) (f : XForm) (x : LSt), s.ctx? = some c ∧ f.sa = .head 0 ∧ c.el.ks = .l x ∧
      c.el.engine? .table = none ∧ (c.el.ins.get 0).claimed = false) ∧
    ∃ (s : State) (c : Ctx) (f : XForm) (m : MSt), s.ctx? = some c ∧ f.sa = .head 0 ∧ c.el.ks = .m m ∧
      (c.el.ins.get 0).claimed = true :=
  ⟨⟨_, _, xf, _, sta_ctx (elt .M (dat 7)), rfl, rfl, rfl, rfl⟩, ⟨_, _, xf, _, sta_ctx (elt .L (dat 7)), rfl, rfl, rfl, rfl⟩,
    _, _, xf, _, sta_ctx { elt .M (dat 7) with ins := Vector.replicate 4 { Input.empty with claimed := true } }, rfl, rfl, rfl⟩

/-- LEVAL and LCTX of context 7. -/
theorem test_LookupRuns_met : ∃ (s : State) (c : Ctx) (f : XForm) (g : IForm) (x : LSt), s.ctx? = some c ∧ c.el.ks = .l x ∧
    f.cnt.toNat % 8 = 7 ∧ g.imm.toNat % 8 = 7 ∧ c.el.engineInto .table 7 = false ∧ c.el.engineInto .wiring 7 = false ∧
    x.unitFree s.cycle = true ∧ x.invalid.getLsbD 7 = false ∧ c.inSets (pushesOf g.dst (c.tok 0 [] none 0)) :=
  ⟨_, _, ⟨.discard, .zero, .zero, 0, 7⟩, { jf with imm := 7 }, _, sta_ctx (elt .L (dat 7)), rfl, by decide, by decide, rfl, rfl, rfl,
    rfl, rfl⟩

/-- An edge that takes no tag at all on the output of an element, so that no data token may leave there (R71). -/
theorem test_outside_met (el : Elem) (v : Payload) : ∃ (s : State) (c : Ctx), s.ctx? = some c ∧ c.el = el ∧
    ¬ c.inSets (pushesOf (.out 1) (dat v)) := by
  refine ⟨staG { gra el with edges := [⟨0, 4, 0, 1, 0, [⟨0, 1, 0⟩], [], false⟩] }, cxtG _ el, staG_ctx _ _ _ rfl, rfl, ?_⟩
  simp [Ctx.inSets, pushesOf, cxtG, GraphSt.tagsOk, GraphSt.tagOk, GraphSt.edge?, dat]

/-- MOUT and MOUTQ; WSPLIT; SWEMIT of fewer and of more tokens than the ring holds; LEMIT, LPOP and LUNX at the last cell. -/
theorem test_TokenSeriesRun_met : (∃ (s : State) (c : Ctx) (f : XForm) (m : MSt) (q : BitVec 3 × Fmt × Nat), s.ctx? = some c ∧
      c.el.ks = .m m ∧ f.dst = .out 1 ∧ c.clean [f.sa] ∧ moutqTarget? c.g (c.src 0 f.sa) = some q) ∧
    (∃ (s : State) (c : Ctx) (f g : XForm) (x : SSt), s.ctx? = some c ∧ f.dst = .out 1 ∧ g.dst = .out 1 ∧ c.clean [f.sa] ∧
      c.el.ks = .s x ∧ f.cnt.toNat < x.ring.length ∧ x.ring.length < g.cnt.toNat) ∧
    (∃ (s : State) (c : Ctx) (f : XForm) (x : LSt), s.ctx? = some c ∧ c.el.ks = .l x ∧ f.dst = .out 1 ∧ c.clean [f.sa] ∧
      (lane32 (c.src 0 f.sa) 0).toNat = 1023 ∧ (lane32 (c.src 0 f.sa) 1).toNat = 1 ∧ f.cnt.toNat = 1) ∧
    ∃ (s : State) (c : Ctx) (f : XForm) (x : LSt), s.ctx? = some c ∧ c.el.ks = .l x ∧ f.dst = .out 1 ∧ c.clean [f.sa] ∧
      (lane32 (c.src 0 f.sa) 0).toNat = 768 :=
  ⟨⟨_, _, xf, _, (0, ⟨.sint, 8, 0, 0, 0, false, 0⟩, 0), staG_ctx { gra (elt .M (dat 0)) with fmts := Vector.replicate 8 0x30000000 } _ _ rfl,
      rfl, rfl, rfl, by decide⟩,
    ⟨_, _, { xf with cnt := 0 }, { xf with cnt := 2 }, _, sta_ctx { elt .S (dat 1) with
      ks := .s ⟨[], [], [], [], Vector.replicate 8 .empty, 4, [⟨0, 1⟩], []⟩ }, rfl, rfl, rfl, rfl, by decide, by decide⟩,
    ⟨_, _, { xf with cnt := 1 }, _, sta_ctx (elt .L (dat 0x00000001000003FF)), rfl, rfl, rfl, by decide, by decide, by decide⟩,
    _, _, xf, _, sta_ctx (elt .L (dat 768)), rfl, rfl, rfl, by decide⟩

/-- STEER by payload, by map and by map of the tag, MERGE, and SEQNO of a head and of a register. -/
theorem test_SteeringRuns_met : (∃ (s : State) (c : Ctx) (f g h : RForm) (t : Token), s.ctx? = some c ∧
      c.srcTok? f.sa = some t ∧ f.sa = g.sa ∧ g.sa = h.sa ∧ c.poisoned f.sb = false ∧ c.poisoned g.sb = false ∧
      c.poisoned h.sb = false ∧ (modOf f).toNat = 0 ∧ (modOf g).toNat = 1 ∧ (modOf h).toNat = 3 ∧ t.poison = false ∧
      (lane32 t.payload 0).toNat = 32) ∧
    (∃ (s : State) (c : Ctx) (f : RForm) (t : Token), s.ctx? = some c ∧ c.el.head? 0 = some t ∧
      f.pop.getLsbD 0 = true ∧ c.el.present 0 = true ∧ (c.el.ins.get 0).claimed = false ∧
      (∀ j : Fin 4, f.pop.getLsbD j.val = true → c.el.present j = true → (c.el.ins.get j).claimed = false →
        (c.el.ins.get 0).headAt < (c.el.ins.get j).headAt ∨ ((c.el.ins.get 0).headAt = (c.el.ins.get j).headAt ∧ 0 ≤ j)) ∧
      c.inSets (pushesOf f.dst t)) ∧
    ∃ (s : State) (c : Ctx) (f g : IForm) (x : XSt) (t : Token), s.ctx? = some c ∧ c.el.ks = .x x ∧ c.srcTok? f.sa = some t ∧
      c.srcTok? g.sa = none ∧ c.inSets (pushesOf f.dst t) ∧ c.inSets (pushesOf g.dst (c.tok 0 [g.sa] none (c.src 0 g.sa))) :=
  ⟨⟨_, _, rf, { rf with md := 1 }, { rf with md := 3 }, _, sta_ctx (elt .X (dat 32)), rfl, rfl, rfl, rfl, rfl, rfl, by decide, by decide,
      by decide, rfl, by decide⟩,
    ⟨_, _, { rf with pop := 15 }, _, sta_ctx (elt .X (dat 7)), rfl, by decide, by decide, by decide, by decide, rfl⟩,
    _, _, jf, { jf with sa := .reg 0 }, _, _, sta_ctx (elt .X (dat 7)), rfl, rfl, rfl, rfl, rfl⟩

/-- REORD: a token at the last distance, a gap of two, a number one behind; RELS with a token at place 0. -/
theorem test_ReorderBuffersRun_met : (∃ (s : State) (c : Ctx) (f : XForm) (x : XSt) (t : Token), s.ctx? = some c ∧
      c.el.ks = .x x ∧ c.srcTok? f.sa = some t ∧ t.kind ≠ .control ∧ (t.coord - (x.bufs.get 0).next).toNat = 63 ∧
      sget .free (x.bufs.get 0).cells 63 = .free) ∧
    (∃ (s : State) (c : Ctx) (f : XForm) (x : XSt) (t : Token), s.ctx? = some c ∧ c.el.ks = .x x ∧ c.srcTok? f.sa = some t ∧
      t.kind = .control ∧ t.poison = false ∧ max (lane32 t.payload 0).toNat 1 = 2 ∧
      (t.coord - (x.bufs.get 0).next).toNat = 62 ∧ ∀ i, i < 2 → sget .free (x.bufs.get 0).cells (62 + i) = .free) ∧
    (∃ (s : State) (c : Ctx) (f : XForm) (x : XSt) (t : Token), s.ctx? = some c ∧ c.el.ks = .x x ∧ c.srcTok? f.sa = some t ∧
      32768 ≤ (t.coord - (x.bufs.get 0).next).toNat ∧ t.kind = .data) ∧
    ∃ (s : State) (c : Ctx) (f : XForm) (x : XSt) (t : Token), s.ctx? = some c ∧ c.el.ks = .x x ∧
      sget .free (x.bufs.get 0).cells 0 = .tok t ∧
      c.inSets (((RBuf.release 65 (x.bufs.get 0)).2.map (pushesOf f.dst)).getD []) :=
  ⟨⟨_, _, xf, _, _, sta_ctx (elt .X { dat 7 with coord := 63 }), rfl, rfl, by decide, by decide, by decide⟩,
    ⟨_, _, xf, _, _, sta_ctx (elt .X (ctl 62 2)), rfl, rfl, rfl, rfl, by decide, by decide, by decide⟩,
    ⟨_, _, xf, _, _, sta_ctx (elt .X { dat 7 with coord := 0xFFFF }), rfl, rfl, by decide, rfl⟩,
    _, _, xf, _, dat 9, sta_ctx { elt .X (dat 7) with
      ks := .x ⟨Vector.replicate 8 ⟨0, [(0, .tok (dat 9))]⟩, Vector.replicate 4 0⟩ }, rfl, by decide, rfl⟩

/-! ### The hypotheses are met: memory, synchronisation, links and system -/

/-- A launch record that names nothing, a running launch of region slot 0, and a scheduler with its context, which holds
counter 5 and barrier 6. -/
def lrec : LaunchRec := ⟨0, 0, 0, 0xFFFF, 0xFFFF, 0xFFFF, 0, 0, 0, []⟩
def lnc : Launch :=
  { id := 0, ctx := 0, seq := 0, record := lrec, state := .running, age := 0, readyAt := 0, prio := 0, waited := false
    region := some 0, saved := none, savedPart := 0, entry := none, races := 0, endAt := 0, endState := 0, sigDue := false
    flagged := [], preempts := 0, ckpts := 0, key := none }
def sch : SchedSt :=
  { State.reset.sched with contexts := [⟨⟨0, [5], [6], [], [], 0, 0, 0, 0x10000, 4⟩, 0, 0, 0⟩], launches := [lnc] }

/-- That device with that scheduler. -/
def staK (el : Elem) : State := { sta el with sched := sch }

theorem staK_ctx (el : Elem) : (staK el).ctx? = some (cxt el) := rfl

/-- An address word of four bytes at 64, in a page of 64 KiB that ends at 128. -/
def adr : Payload := ofWords [64, 0, 128, 0, 0, 3, 0, 0]

theorem test_AccessesIssue_met : (∃ (s : State) (c : Ctx) (f : XForm) (w : AddrWord), s.ctx? = some c ∧
      addrCheck (c.src 0 f.sa) = .ok w ∧ f.dst = .out 1 ∧ c.clean [f.sa] ∧ c.clean [f.sa, f.sb] ∧ w.size = 4 ∧
      c.el.issuer = none) ∧
    ∃ (s : State) (c : Ctx) (f : XForm) (w : AddrWord) (q : Issuer), s.ctx? = some c ∧ addrCheck (c.src 0 f.sa) = .ok w ∧
      (∀ o, f.dst ≠ .out o) ∧ c.clean [f.sa, f.sb] ∧ w.size = 4 ∧ c.el.issuer = some q :=
  ⟨⟨_, _, xf, ⟨64, 128, 0, 4, 65536, 0⟩, sta_ctx (elt .C (dat adr)), by decide, rfl, rfl, rfl, rfl, rfl⟩,
    _, _, { xf with dst := .discard }, ⟨64, 128, 0, 4, 65536, 0⟩, _,
    sta_ctx { elt .C (dat adr) with issuer := some ⟨1, 0, 0⟩ }, by decide, by decide, rfl, rfl, rfl⟩

/-- The first and last value of each check: size code 6, page code 3, memory type 3; an address off by one; a limit one
below the last byte, at it, at the end of the page, and one past that. -/
theorem test_PortChecksInOrder_met : ∀ l ∈ ([[64, 0, 128, 0, 0, 6], [64, 0, 128, 0, 96, 3], [64, 0, 128, 0, 6, 3],
      [65, 0, 128, 0, 0, 3], [64, 0, 67, 0, 0, 3], [64, 0, 68, 0, 0, 3], [64, 0, 65600, 0, 0, 3], [64, 0, 65601, 0, 0, 3]] :
      List (List Word)),
    ∃ (s : State) (c : Ctx) (f : XForm), s.ctx? = some c ∧ f.dst = .out 1 ∧ c.clean [f.sa] ∧ c.src 0 f.sa = ofWords l :=
  fun l _ => ⟨_, _, xf, sta_ctx (elt .C (dat (ofWords l))), rfl, rfl, rfl⟩

/-- ADET of a new group and of one it joins, and ACLOSE. -/
theorem test_DeterministicGroupsOpenAndClose_met : (∃ (s : State) (c : Ctx) (f : RForm), s.ctx? = some c ∧ c.clean [f.sa] ∧
      c.el.issuer = none ∧ (lane32 (c.opA f) 0).toNat = 255 ∧ (lane32 (c.opA f) 1).toNat = 1 ∧
      (lane32 (c.opA f) 2).toNat = 2 ∧ (lane32 (c.opA f) 3).toNat = 5 ∧ s.holdsCounter c.reg.ctx 5 = true ∧
      s.mem.group? c.reg.ctx 255 = none) ∧
    (∃ (s : State) (c : Ctx) (f : RForm) (x : DetGroup), s.ctx? = some c ∧ c.clean [f.sa] ∧ c.el.issuer = none ∧
      c.opA f = ofWords [255, 1, 2, 5] ∧ s.holdsCounter c.reg.ctx 5 = true ∧ s.mem.group? c.reg.ctx 255 = some x ∧
      x.m = 2 ∧ x.counter = 5 ∧ x.opened.contains 1 = false) ∧
    ∃ (s : State) (c : Ctx) (q : Issuer), s.ctx? = some c ∧ c.el.issuer = some q :=
  ⟨⟨_, _, rf, staK_ctx (elt .C (dat (ofWords [255, 1, 2, 5]))), rfl, rfl, by decide, by decide, by decide, by decide, by decide, rfl⟩,
    ⟨{ staK (elt .C (dat (ofWords [255, 1, 2, 5]))) with mem := { MemSt.reset with groups := [⟨0, 255, 2, 5, [0], []⟩] } },
      cxt _, rf, ⟨0, 255, 2, 5, [0], []⟩, rfl, rfl, rfl, rfl, by decide, rfl, rfl, rfl, rfl⟩,
    _, _, ⟨1, 0, 0⟩, sta_ctx { elt .C (dat 0) with issuer := some ⟨1, 0, 0⟩ }, rfl⟩

/-- An S element with one writable window of 1,024 bytes at local offset 0. -/
def sel (t : Token) (valid dirty : List Nat) : Elem :=
  { elt .S t with
    ks := .s ⟨[], valid, dirty, [], (Vector.replicate 8 Window.empty).set 0 ⟨true, false, 0, 1024, 0, true, []⟩, 0, [], []⟩ }

/-- LDW and STW of the last four bytes, with their word valid and not, and behind an earlier access that waits; a closing
window is not met. -/
theorem test_WindowFiringsIssue_met : (∀ l ∈ ([[], [255]] : List (List Nat)), ∃ (s : State) (c : Ctx) (f : XForm) (x : SSt), s.ctx? = some c ∧
      c.el.ks = .s x ∧ f.dst = .out 1 ∧ c.clean [f.sa] ∧ c.clean [f.sa, f.sb] ∧
      x.windowCheck (c.src 0 f.sa) false = .ok (0, 1020, 4) ∧ x.windowCheck (c.src 0 f.sa) true = .ok (0, 1020, 4) ∧
      c.el.wordsBusy (wordsOf 1020 4) = false ∧ (x.anyInvalid 1020 4 = !l.contains 255)) ∧
    (∃ (s : State) (c : Ctx) (f : XForm) (x : SSt), s.ctx? = some c ∧ c.el.ks = .s x ∧ f.dst = .out 1 ∧ c.clean [f.sa] ∧
      x.windowCheck (c.src 0 f.sa) false = .ok (0, 1020, 4) ∧ c.el.wordsBusy (wordsOf 1020 4) = true ∧
      x.anyInvalid 1020 4 = false) ∧
    ∃ (s : State) (c : Ctx) (f : XForm) (x : SSt), s.ctx? = some c ∧ c.el.ks = .s x ∧ f.cnt.toNat % 8 = 0 ∧
      (x.windows.get 0).mapped = true ∧ (x.windows.get 0).closing = false :=
  ⟨by
      intro l h
      refine ⟨_, _, xf, _, sta_ctx (sel (dat (ofWords [1020, 3])) l []), rfl, rfl, rfl, rfl, ?_⟩
      revert l
      decide,
    ⟨_, _, xf, _, sta_ctx { sel (dat (ofWords [1020, 3])) [255] [] with
      outs := [{ OutF.new 9 0 0xD2 0 with arg := ofWords [1020, 3] }] }, rfl, rfl, rfl, by decide⟩,
    _, _, xf, _, sta_ctx (sel (dat 0) [0] [0]), rfl, rfl, rfl, rfl⟩

/-- AGEN of the last word of the last stream; AGSTR of one dimension in mode 0, and in mode 3 with a head. -/
theorem test_QueriesAndStreamsRun_met : (∃ (s : State) (c : Ctx) (f : RForm), s.ctx? = some c ∧ c.clean [f.sa] ∧
      c.inSets (pushesOf f.dst (c.tok f.md [f.sa] none 0))) ∧
    (∃ (s : State) (c : Ctx) (x : ESt) (f : RForm), s.ctx? = some c ∧ c.el.ks = .e x ∧ c.clean [f.sa, f.sb] ∧
      (c.opB f).toNat = 7 + 16 * 7 ∧ x.runs 7 = false) ∧
    ∀ m : Bool, ∃ (s : State) (c : Ctx) (x : ESt) (f : XForm), s.ctx? = some c ∧ c.el.ks = .e x ∧ f.cnt.toNat % 8 = 0 ∧
      f.dst = .out 1 ∧ x.runs 0 = false ∧ (∀ i, headOf? f.sa = some i → (c.el.ins.get i).claimed = false) ∧
      x.descOk 0 (((counterOf (x.streamCounter 0)).map (s.holdsCounter c.reg.ctx)).getD true) = true ∧
      (x.mode 0 = 3 ↔ (headOf? f.sa).isSome = true) ∧ (m = true ↔ x.mode 0 = 3) := by
  refine ⟨⟨_, _, rf, sta_ctx (elt .E (dat 7)), rfl, rfl⟩,
    ⟨_, _, _, { rf with sb := .head 1 }, sta_ctx (elt .E (dat 0x77)), rfl, rfl, by decide, rfl⟩, fun m => ?_⟩
  cases m
  · exact ⟨_, _, _, { xf with sa := .zero }, sta_ctx { elt .E (dat 7) with
      ks := .e ⟨[(0, ofWords [0, 0, 1, 0, 0x50, 0xFFFFFFFF]), (1, ofWords [1])], [], [], Vector.replicate 8 [], [], 0, false⟩ },
      rfl, rfl, rfl, rfl, by decide, by decide, by decide, by decide⟩
  · exact ⟨_, _, _, xf, sta_ctx { elt .E (dat 7) with
      ks := .e ⟨[(0, ofWords [0, 0, 1, 3, 0x50, 0xFFFFFFFF]), (1, ofWords [1])], [], [], Vector.replicate 8 [], [], 0, false⟩ },
      rfl, rfl, rfl, rfl, by decide, by decide, by decide, by decide⟩

/-- PARK into storage with one place left, beside another channel, into a pool, and into neither; UNPARK. -/
theorem test_ParkingQueuesTokens_met : (∃ (s : State) (c : Ctx) (f : XForm) (x : Chan), s.ctx? = some c ∧
      x = c.g.chan f.cnt.toNat ∧ x.spill = [] ∧ x.store.length + 1 = x.cap ∧ x.store ≠ []) ∧
    (∃ (s : State) (c : Ctx) (f : XForm) (x : Chan), s.ctx? = some c ∧ x = c.g.chan f.cnt.toNat ∧ x.store.length = x.cap ∧
      c.g.spilled < c.g.spillCap) ∧
    (∃ (s : State) (c : Ctx) (f : XForm) (x : Chan), s.ctx? = some c ∧ x = c.g.chan f.cnt.toNat ∧
      ¬ (x.spill = [] ∧ x.store.length < x.cap) ∧ c.g.spillCap ≤ c.g.spilled) ∧
    ∃ (s : State) (c : Ctx) (f : XForm) (x : Chan) (t : Token), s.ctx? = some c ∧ x = c.g.chan f.cnt.toNat ∧
      x.store ++ x.spill = [t] ∧ c.inSets (pushesOf f.dst t) :=
  ⟨⟨_, _, xf, _, staG_ctx { gra (elt .S (dat 7)) with chans := [⟨0, 0, 2, [dat 1], []⟩, ⟨1, 0, 2, [dat 2], []⟩] } _ _ rfl, rfl, rfl, rfl, by decide⟩,
    ⟨_, _, xf, _, staG_ctx { gra (elt .S (dat 7)) with chans := [⟨0, 0, 1, [dat 1], []⟩], spillCap := 1 } _ _ rfl, rfl, rfl, by decide⟩,
    ⟨_, _, xf, _, sta_ctx (elt .S (dat 7)), rfl, by decide, by decide⟩,
    _, _, xf, _, _, staG_ctx { gra (elt .S (dat 7)) with chans := [⟨0, 0, 1, [dat 1], []⟩] } _ _ rfl, rfl, rfl, rfl⟩

/-- XLAT of the first VA out of range, of one that hits and of one that misses; XINV. -/
theorem test_TranslationIssues_met : (∃ (s : State) (c : Ctx) (f : RForm) (x : ESt), s.ctx? = some c ∧ c.el.ks = .e x ∧
      c.clean [f.sa] ∧ f.dst = .out 1 ∧ (lane32 (c.opA f) 2).toNat ≤ 1 ∧ pair64 (c.opA f) 0 = 2 ^ 56) ∧
    (∃ (s : State) (c : Ctx) (f : RForm) (x : ESt) (t : TlbEnt), s.ctx? = some c ∧ c.el.ks = .e x ∧ c.clean [f.sa] ∧
      f.dst = .out 1 ∧ (lane32 (c.opA f) 2).toNat ≤ 1 ∧ x.tlbHit? c.reg.ctx (pair64 (c.opA f) 0) = some t ∧ pair64 (c.opA f) 0 < 2 ^ 56 ∧
      c.inSets [(1, xlatTok (leafResult t.leaf (pair64 (c.opA f) 0) false) (pair64 (c.opA f) 0) false false 0)]) ∧
    ∃ (s : State) (c : Ctx) (f : RForm) (x : ESt), s.ctx? = some c ∧ c.el.ks = .e x ∧ c.clean [f.sa] ∧ f.dst = .out 1 ∧
      (lane32 (c.opA f) 2).toNat ≤ 1 ∧ pair64 (c.opA f) 0 < 2 ^ 56 ∧ x.tlbHit? c.reg.ctx (pair64 (c.opA f) 0) = none :=
  ⟨⟨_, _, rf, _, sta_ctx (elt .E (dat (ofWords [0, 0x1000000]))), rfl, rfl, rfl, by decide, by decide⟩,
    ⟨_, _, rf, _, ⟨0, 65536, 0, 0, 0⟩, sta_ctx { elt .E (dat 7) with
      ks := .e ⟨[], [], [⟨0, 65536, 0, 0, 0⟩], Vector.replicate 8 [], [], 0, false⟩ }, rfl, rfl, rfl, by decide, by decide, by decide,
      by rfl⟩,
    _, _, rf, _, sta_ctx (elt .E (dat 7)), rfl, rfl, rfl, by decide, by decide, by decide⟩

/-- FENCE with nothing pending and with a window store that is not written back; CWAIT and CSIG of a held counter; BARI, BARA and BARW, the
last with the phase one past the one it names. -/
theorem test_SynchronisationRuns_met : (∃ (s : State) (c : Ctx), s.ctx? = some c ∧ s.fenceWaits c s.nextId 7 = false) ∧
    (∃ (s : State) (c : Ctx), s.ctx? = some c ∧ s.fenceWaits c s.nextId 1 = true) ∧
    (∃ (s : State) (c : Ctx) (f : RForm), s.ctx? = some c ∧ c.clean [f.sa] ∧ (lane32 (c.opA f) 0).toNat = 5 ∧
      s.holdsCounter c.reg.ctx 5 = true ∧ pair64 (c.opA f) 2 = (s.mem.counter 5).toNat ∧ (s.mem.counter 5).toNat = 1 ∧
      (lane32 (c.opA f) 1).toNat = 1) ∧
    ∃ (s : State) (c : Ctx) (f : RForm), s.ctx? = some c ∧ c.clean [f.sa] ∧ (lane32 (c.opA f) 0).toNat = 6 ∧
      (lane32 (c.opA f) 1).toNat = 1 ∧ s.holdsBarrier c.reg.ctx 6 = true ∧
      s.boundLevel c.reg.launch ((lane32 (c.opA f) 2).toNat % 8) = true ∧ (s.mem.barrier 6).expected ≠ 0 ∧
      ((s.mem.barrier 6).phase - lane32 (c.opA f) 1).toNat = 1 :=
  ⟨⟨_, _, sta_ctx (elt .C (dat 7)), by decide⟩,
    ⟨_, _, sta_ctx { elt .S (dat 7) with ks := .s ⟨[], [0], [0], [], (Vector.replicate 8 Window.empty).set 0
      ⟨true, false, 0, 1024, 0, true, []⟩, 0, [], [⟨0, 0, none⟩]⟩ }, by decide⟩,
    ⟨{ staK (elt .C (dat (ofWords [5, 1, 1, 0]))) with mem := { MemSt.reset with counters := [(5, 1)] } }, cxt _, rf, rfl, rfl,
      by decide, by decide, by decide, by decide, by decide⟩,
    { staK (elt .C (dat (ofWords [6, 1, 0]))) with mem := { MemSt.reset with barriers := [(6, ⟨2, 2, 2⟩)] } }, cxt _, rf, rfl, rfl,
    by decide, by decide, by decide, by decide, by decide, by decide⟩

/-- Operands in the limits of PUT, PUTS, LSEND and GET; RED of a group; REDR of a round with its result and
of a void one; LRECV of a packet
in the last queue; LQ. -/
theorem test_LinkInstructionsRun_met : (∃ (s : State) (c : Ctx) (f : XForm) (x : ESt), s.ctx? = some c ∧ c.el.ks = .e x ∧
      c.clean [f.sa] ∧ f.sb = .head 1 ∧ (c.el.ins.get 1).claimed = false ∧ remoteOk 0xF0 (c.src 0 f.sa) = true ∧
      remoteOk 0xF1 (c.src 0 f.sa) = true ∧ remoteOk 0xF5 (c.src 0 f.sa) = true ∧ (lane32 (c.src 0 f.sa) 0).toNat ≤ 4095 ∧
      s.redGroup? c.reg.ctx c.e (lane32 (c.src 0 f.sa) 0).toNat = none) ∧
    (∃ (s : State) (c : Ctx) (f : XForm), s.ctx? = some c ∧ c.clean [f.sa] ∧ remoteOk 0xF2 (c.src 0 f.sa) = true) ∧
    (∃ (s : State) (c : Ctx) (x : ESt) (f : XForm) (g : GroupSt) (y : Round) (res : List Payload) (tag : BitVec 3),
      s.ctx? = some c ∧ c.el.ks = .e x ∧ c.clean [f.sa] ∧ (lane32 (c.src 0 f.sa) 0).toNat = 0 ∧
      s.redGroup? c.reg.ctx c.e 0 = some g ∧ (0, c.reg.launch, c.e) ∉ s.link.unmet ∧ g.record.op = f.cnt.toNat / 64 ∧ g.rounds = [y] ∧
      y.result = some res ∧ c.g.tagOf? g.record.fmt = some tag) ∧
    (∃ (s : State) (c : Ctx) (x : ESt) (f : XForm), s.ctx? = some c ∧ c.el.ks = .e x ∧ c.clean [f.sa] ∧
      (lane32 (c.src 0 f.sa) 0).toNat = 0 ∧ (0, c.reg.launch, c.e) ∈ s.link.unmet) ∧
    ∃ (s : State) (c : Ctx) (x : ESt) (f : XForm) (p : List RxTok) (g : RForm), s.ctx? = some c ∧ c.el.ks = .e x ∧
      c.clean [f.sa] ∧ f.dst = .out 1 ∧ (lane32 (c.src 0 f.sa) 0).toNat = 7 ∧ x.rx.get 7 = [p] ∧
      c.inSets ((rxTokens p).map fun t => ((1 : Fin 4), t)) ∧ c.inSets (pushesOf g.dst (c.tok g.md [] none 0)) :=
  ⟨⟨_, _, { xf with sb := .head 1 }, _, sta_ctx (elt .E (dat 0)), rfl, rfl, rfl, rfl, by decide, by decide, by decide, by decide,
      by decide⟩,
    ⟨_, _, xf, sta_ctx (elt .E (dat (ofWords [0, 0, 0, 0, 0, 0, 128, 7]))), rfl, by decide⟩,
    ⟨{ sta (elt .E (dat 0)) with link := { State.reset.link with
        groups := [(0, some ⟨⟨recFP32, false, 0, 0, 0, 0, none, true, 0, 0, 0⟩, [⟨none, none, [], true, some [0]⟩]⟩)] } },
      cxt _, _, xf, _, _, [0], 0, rfl, rfl, rfl, by decide, rfl, by decide, rfl, rfl, rfl, by decide⟩,
    ⟨{ sta (elt .E (dat 0)) with link := { State.reset.link with unmet := [(0, 0, 0)] } }, cxt _, _, xf, rfl, rfl, rfl, by decide,
      by decide⟩,
    _, _, _, xf, [⟨0, 1, 0⟩], rf, sta_ctx { elt .E (dat 7) with
      ks := .e ⟨[], [], [], Vector.replicate 8 [[⟨0, 1, 0⟩]], [], 0, false⟩ }, rfl, rfl, rfl, by decide, rfl, rfl, rfl⟩

/-- LNCH, SYSC and WALK of level 3; FLTH of a fault of code 1 and of code 4; TBKT with a bucket and without; WALKL of a
control token and of a translation. -/
theorem test_SystemRequests_met : (∃ (s : State) (c : Ctx) (f : RForm) (g : IForm), s.ctx? = some c ∧
      c.clean [f.sa, f.sb] ∧ c.clean [f.sa] ∧ c.clean [g.sa] ∧ (lane32 (c.opA f) 3).toNat = 3 ∧
      c.inSets (pushesOf g.dst ⟨1, .data, (c.sideOf [g.sa]).1, false, (c.sideOf [g.sa]).2, 0⟩)) ∧
    (∀ n : BitVec 16, ∃ (s : State) (c : Ctx) (f : RForm) (t : Token), s.ctx? = some c ∧ c.srcTok? f.sa = some t ∧
      t.poison = false ∧ t.kind = .control ∧ t.coord = n ∧ c.clean [f.sa]) ∧
    ∃ (s : State) (c : Ctx) (f : RForm), s.ctx? = some c ∧ c.clean [f.sa] ∧
      (∀ k, c.srcTok? f.sa = some k → k.kind ≠ .control) ∧ lane32 (c.opA f) 3 = 0xFF :=
  ⟨⟨_, _, rf, jf, sta_ctx (elt .E (dat (ofWords [0, 0, 0, 3]))), rfl, rfl, rfl, by decide, rfl⟩,
    fun n => ⟨_, _, rf, _, sta_ctx (elt .E (ctl n 0)), rfl, rfl, rfl, rfl, rfl⟩,
    _, _, rf, sta_ctx (elt .E (dat (ofWords [0, 0, 0, 0xFF]))), rfl, by intro k h; cases h; decide, by decide⟩

theorem test_SystemInstructionsRun_met :
    (∃ (s : State) (c : Ctx) (f : RForm) (b : Bucket), s.ctx? = some c ∧
      sget none s.mem.buckets (1024 * dieOf c.r + c.reg.ctx) = some b ∧
      c.inSets (pushesOf f.dst (c.tok f.md [] none 0))) ∧
    ∃ (s : State) (c : Ctx) (f : RForm), s.ctx? = some c ∧ sget none s.mem.buckets (1024 * dieOf c.r + c.reg.ctx) = none ∧
      c.inSets (pushesOf f.dst (c.tok f.md [] none 0)) :=
  ⟨⟨{ sta (elt .E (dat 0)) with mem := { MemSt.reset with buckets := [(0, some ⟨1, 2, 3, 0, false⟩)] } }, cxt _, rf, ⟨1, 2, 3, 0, false⟩,
      rfl, by decide, rfl⟩,
    _, _, rf, sta_ctx (elt .E (dat 0)), by decide, rfl⟩

/-! ### The hypotheses are met: tokens, accesses and replies -/

theorem sta_live (el : Elem) (h : el.img.part = 0) : (sta el).live? 0 0 = some (cxt el) := by
  show (if (true && ((el.img.part : Nat) == 0)) = true then some (cxt el) else none) = _
  rw [h]; rfl

theorem exists_ok {α β : Type} {x : Except α β} (h : x.toOption.isSome = true) : ∃ y, x = .ok y := by
  cases x with
  | error => cases h
  | ok y => exact ⟨y, rfl⟩

def ael (l : List Token) : Elem :=
  { elt .C (dat 7) with ins := Vector.replicate 4 { Input.empty with inflight := [dat 1], fifo := l } }

/-- An arrival at an empty and at a filled FIFO. -/
theorem test_TokensArrive_met (l : List Token) : ∃ (s : State) (c : Ctx) (t : Token), s.at? c.r c.e 0 = some c ∧ c.reg.runs = true ∧
    c.reg.preempt ≠ .running ∧ c.el.saved = false ∧ c.g.isActive c.el = true ∧ (c.el.ins.get 3).inflight = [t] ∧
    (c.el.ins.get 3).fifo = l :=
  ⟨sta (ael l), cxt (ael l), dat 1, rfl, rfl, (show Preempt.none ≠ .running by decide), rfl, rfl, rfl, rfl⟩

/-- An armed region slot in the middle of a pre-emption, the state that holds it, and its element's context. -/
def regP (el : Elem) : Region := { reg el with preempt := .running }
def staP (el : Elem) : State := { sta el with regions := regP el :: State.reset.regions.tail }
def cxtP (el : Elem) : Ctx := ⟨0, 0, 0, regP el, gra el, el⟩

/-- An arrival at an element that a pre-emption has saved: before the pre-emption marker, behind it, and of a marker. -/
theorem test_TokensRecorded_met :
    (∃ (s : State) (c : Ctx), s.at? c.r c.e 0 = some c ∧ c.reg.runs = true ∧ c.g.isActive c.el = true ∧
      (c.el.ins.get 3).inflight = [dat 1] ∧ c.reg.preempt = .running ∧ c.el.saved = true ∧ isMarker (dat 1) = false ∧
      preemptMarker ∉ (c.el.ins.get 3).fifo) ∧
    (∃ (s : State) (c : Ctx), s.at? c.r c.e 0 = some c ∧ c.reg.runs = true ∧ c.g.isActive c.el = true ∧
      (c.el.ins.get 3).inflight = [dat 1] ∧ preemptMarker ∈ (c.el.ins.get 3).fifo) ∧
    ∃ (s : State) (c : Ctx), s.at? c.r c.e 0 = some c ∧ c.reg.runs = true ∧ c.g.isActive c.el = true ∧
      (c.el.ins.get 3).inflight = [preemptMarker] ∧ isMarker preemptMarker = true :=
  ⟨⟨staP { ael [] with saved := true }, cxtP { ael [] with saved := true }, rfl, rfl, rfl, rfl, rfl, rfl, rfl, by decide⟩,
    ⟨staP (ael [preemptMarker]), cxtP (ael [preemptMarker]), rfl, rfl, rfl, rfl, by decide⟩,
    staP { ael [] with ins := Vector.replicate 4 { Input.empty with inflight := [preemptMarker] } },
    cxtP { ael [] with ins := Vector.replicate 4 { Input.empty with inflight := [preemptMarker] } }, rfl, rfl, rfl, rfl, rfl⟩

/-- A graph with an edge to input 3 of its element, and a spill pool. -/
def cgr (el : Elem) (spill : Nat) (chans : List Chan) : GraphSt :=
  { gra el with edges := [⟨0, 1, 0, 0, 0xFF, [⟨0, 3, 0xFF⟩], [], false⟩], spillCap := spill, chans := chans }

/-- An element of a partition to come, with a token on its way to each input. -/
def cel (t : Token) : Elem :=
  { elt .C (dat 7) with
    img := { fetchRec .C 0 with part := 1 }, ins := Vector.replicate 4 { Input.empty with inflight := [t] } }

/-- A cut edge: a marker and a token of its, with room in the spill pool and with none; a parked token and an input with room
for it; and nothing parked. -/
theorem test_CutEdgesPark_met :
    (∀ m : Bool, ∀ n : Nat, ∃ (s : State) (c : Ctx) (t : Token) (g : GraphSt), s.at? c.r c.e 0 = some c ∧ c.reg.runs = true ∧
      (c.el.ins.get 3).inflight = [t] ∧ c.g.isActive c.el = false ∧
      g = c.g.setElem c.e (c.el.modInput 3 fun k => { k with inflight := [] }) ∧ isMarker t = m ∧
      (c.g.feed? c.e 3).isSome = true ∧ (g.park (cutChan c.e 3) (arrived false t)).isSome = decide (0 < n)) ∧
    (∃ (s : State) (c : Ctx) (x : Token × GraphSt), s.at? c.r c.e 0 = some c ∧ c.reg.runs = true ∧
      (c.el.ins.get 3).inflight = [] ∧ c.g.isActive c.el = true ∧ c.el.saved = false ∧ c.g.inputFree c.e 3 = true ∧
      c.g.unpark (cutChan c.e 3) = some x) ∧
    ∃ (s : State) (c : Ctx), s.at? c.r c.e 0 = some c ∧ c.reg.runs = true ∧ (c.el.ins.get 3).inflight = [] ∧
      c.g.unpark (cutChan c.e 3) = none := by
  refine ⟨fun m n => ?_,
    ⟨staG (cgr (Elem.arm (fetchRec .C 0)) 0 [⟨cutChan 0 3, 0, 1, [dat 1], []⟩]), cxtG (cgr _ 0 [⟨cutChan 0 3, 0, 1, [dat 1], []⟩]) _, _,
      rfl, rfl, rfl, rfl, rfl, by decide, rfl⟩,
    staG (cgr (Elem.arm (fetchRec .C 0)) 0 []), cxtG (cgr _ 0 []) _, rfl, rfl, rfl, rfl⟩
  refine ⟨staG (cgr (cel (if m then drainMarker else dat 1)) n []), cxtG (cgr (cel (if m then drainMarker else dat 1)) n []) _, _, _,
    rfl, rfl, rfl, rfl, rfl, by cases m <;> rfl, rfl, ?_⟩
  cases n <;> rfl

/-- A pair whose fronts are given. -/
def pelT (a b : List Token) : Elem :=
  { elt .C (dat 7) with
    img := { fetchRec .C 0 with isect := true }
    ins := (Vector.replicate 4 Input.empty |>.set 0 { Input.empty with fifo := a }).set 1 { Input.empty with fifo := b } }

theorem pelT_ready (a b : List Token) (p : Pair) (h : p.active = true) :
    PairReady (sta { pelT a b with pair := p }) (cxt { pelT a b with pair := p }) := ⟨rfl, rfl, h, rfl, rfl, rfl⟩

/-- A pair whose fronts have given coordinates. -/
def pel (a b : BitVec 16) : Elem := pelT [{ dat 1 with coord := a }] [{ dat 2 with coord := b }]

/-- Equal coordinates, and each side one below the other. -/
theorem test_PairMatches_met : ∀ x ∈ ([(5, 5), (4, 5), (5, 4)] : List (BitVec 16 × BitVec 16)),
    ∃ (s : State) (c : Ctx) (a b : Token), PairReady s c ∧ DataPhase c ∧ c.el.pair.drain = none ∧
      (c.el.ins.get 0).fifo.head? = some a ∧ (c.el.ins.get 1).fifo.head? = some b ∧ a.kind = .data ∧ b.kind = .data ∧
      (a.coord, b.coord) = x := by
  intro x _
  refine ⟨sta (pel x.1 x.2), cxt (pel x.1 x.2), _, _, pelT_ready _ _ _ rfl, ⟨?_, ?_, ?_, ?_⟩, rfl, rfl, rfl, rfl, rfl, rfl⟩
  · rintro ⟨t, ht, hk, _⟩; cases ht; exact hk rfl
  · rintro ⟨t, ht, hk, _⟩; cases ht; exact hk rfl
  · rintro ⟨t, y, ht, _, hl, _⟩; cases hl
  · rintro ⟨t, y, ht, _, hl, _⟩; cases hl

/-- A control token at the front of input 0, and of input 1 behind a data token at input 0. -/
theorem test_PairPresents_met : (∃ (s : State) (c : Ctx) (t : Token), PairReady s c ∧ t.kind ≠ .data ∧ isMarker t = false ∧
      (c.el.ins.get 0).fifo.head? = some t) ∧
    ∃ (s : State) (c : Ctx) (t : Token), PairReady s c ∧ t.kind ≠ .data ∧ isMarker t = false ∧ ¬ AloneAt (c.el.ins.get 0) ∧
      (c.el.ins.get 1).fifo.head? = some t := by
  refine ⟨⟨sta (pelT [ctl 0 1] []), cxt (pelT [ctl 0 1] []), ctl 0 1, pelT_ready _ _ _ rfl, by decide, rfl, rfl⟩,
    sta (pelT [dat 1] [ctl 0 1]), cxt (pelT [dat 1] [ctl 0 1]), ctl 0 1, pelT_ready _ _ _ rfl, by decide, rfl, ?_, rfl⟩
  rintro ⟨t, ht, hk, _⟩; cases ht; exact hk rfl

/-- A pair that drains a side. -/
def pdr (k : Fin 2) : Pair := ⟨true, some k, none, none, 0, 0, 0, 0⟩

/-- A drain of either side, of a token without LAST and of one with LAST. -/
theorem test_PairDrains_met : ∀ (k : Fin 2) (l : Bool), ∃ (s : State) (c : Ctx) (n : Input) (t : Token), PairReady s c ∧ DataPhase c ∧
    c.el.pair.drain = some k ∧ n = (if k = 0 then c.el.ins.get 0 else c.el.ins.get 1) ∧ n.fifo.head? = some t ∧ t.kind = .data ∧
    t.last = l := by
  intro k l
  refine ⟨sta { pelT [{ dat 1 with last := l }] [{ dat 1 with last := l }] with pair := pdr k }, cxt { pelT _ _ with pair := pdr k }, _,
    { dat 1 with last := l }, pelT_ready _ _ _ rfl, ⟨?_, ?_, ?_, ?_⟩, rfl, rfl, ?_, rfl, rfl⟩
  · rintro ⟨t, ht, hk, _⟩; cases ht; exact hk rfl
  · rintro ⟨t, ht, hk, _⟩; cases ht; exact hk rfl
  · rintro ⟨t, y, ht, _, hl, _⟩; cases hl
  · rintro ⟨t, y, ht, _, hl, _⟩; cases hl
  · rcases (show k = 0 ∨ k = 1 by omega) with h | h <;> subst h <;> rfl

/-- A coordinate equal to the one before it; a drain of either side with no token there, and no drain with one side empty; and a
head that is presented still. -/
theorem test_PairTrapsOrWaits_met : (∃ (s : State) (c : Ctx), PairReady s c ∧ ¬ AloneAt (c.el.ins.get 0) ∧ ¬ AloneAt (c.el.ins.get 1) ∧
      LateAt (c.el.ins.get 0) c.el.pair.last0) ∧
    (∀ p ∈ [Pair.mk true none none none 0 0 0 0, pdr 0, pdr 1], ∃ (s : State) (c : Ctx), PairReady s c ∧ DataPhase c ∧ c.el.pair = p ∧
      ¬ DataAt (c.el.ins.get 0) ∧ ¬ DataAt (c.el.ins.get 1)) ∧
    ∃ (s : State) (c : Ctx), s.live? c.r c.e = some c ∧ ((c.el.ins.get 0).pres).isSome = true := by
  refine ⟨⟨sta { pelT [{ dat 1 with coord := 5 }] [] with pair := ⟨true, none, some 5, none, 0, 0, 0, 0⟩ },
      cxt { pelT _ _ with pair := ⟨true, none, some 5, none, 0, 0, 0, 0⟩ }, pelT_ready _ _ _ rfl, ?_, ?_, ⟨_, _, rfl, rfl, rfl, by decide⟩⟩,
    fun p hp => ⟨sta { pelT [] [] with pair := p }, cxt { pelT [] [] with pair := p }, pelT_ready _ _ _ ?_, ⟨?_, ?_, ?_, ?_⟩, rfl, ?_, ?_⟩,
    sta { pelT [] [] with ins := Vector.replicate 4 { Input.empty with pres := some (dat 1) } }, cxt _, rfl, rfl⟩
  · rintro ⟨t, ht, hk, _⟩; cases ht; exact hk rfl
  · rintro ⟨t, ht, _⟩; cases ht
  · revert p; decide
  all_goals first | (rintro ⟨t, ht, _⟩; cases ht; done) | (rintro ⟨t, y, ht, _⟩; cases ht; done)

/-- An element with a firing under way, and elements with engines. -/
def fel (k : ElemKind) (f : Firing) : Elem := { elt k (dat 7) with firing := some f }
def gel (k : EngKind) : Elem := { elt .L (dat 0) with engines := [⟨k, 0, 0, 1, false, none, 0, false⟩] }
def mel (k : EngKind) (t : TokKind) : Elem :=
  { elt .M { dat 7 with kind := t } with engines := [⟨k, 0, 0, 0, false, none, 0, false⟩] }
def mgr : GraphSt := { gra (mel .weights .data) with fmts := Vector.replicate 8 0x30000000 }
def m0 : MSt := ⟨.empty, .empty, false, [], 0, 0, 0, 127, false, 0, false⟩
def lin1 : Firing := Firing.start 0 (.lin { xf with cnt := 255 }) .take
def chn (n : Nat) : Firing := { Firing.start 0 (.mchain xf) .take with i := n }

/-- A row of one token, one that ends in a second token, and one that starts on a primed row. -/
def rowT (last : Bool) : Token := { dat 0 with tag := 0, last := last }
def rowF (row : RowSt) : Firing := { Firing.start 0 (.mrow .a8 xf) .take with row := row }
def rowE (m : MSt) (last : Bool) : Elem := { elt .M (rowT last) with ks := .m m }
def mf : MSt := { m0 with bank0 := { Bank.empty with fmt := recFP32 } }

theorem test_MatrixRowsTaken_met : ∀ last : Bool, ∀ m ∈ [mf, { mf with primed := 1 }],
    ∀ row ∈ [RowSt.empty, ⟨some 0, 248, [], 255, 0, [], 7⟩], ∃ (c : Ctx) (f : Firing) (y : XForm) (t : Token) (fm bf : Fmt),
      f.instr = .mrow .a8 y ∧ c.el.ks = .m m ∧ y.cnt.toNat % 64 = 0 ∧ t.poison = false ∧ t.kind = .data ∧ t.last = last ∧
      c.g.fmt? t.tag = some fm ∧ fm.cls = .float ∧ m.bank.int = false ∧ Fmt.ofRecord m.bank.fmt = some bf ∧
      swf 0 m.acc = true ∧ swf 0 f.row.codes = true ∧ f.row.pos + fm.lanes ≤ 256 ∧ m.rowInt.getLsbD 0 = false ∧
      (f.row = .empty ∨ f.row.tag = some t.tag) := by
  intro last m hm row hr
  refine ⟨cxt (rowE m last), rowF row, xf, rowT last, fp32, fp32, rfl, rfl, rfl, rfl, rfl, rfl, ?_, rfl, ?_, ?_, ?_, ?_, ?_, ?_, ?_⟩
  all_goals revert row; revert m; revert last; decide +kernel

/-- A block with a NaN, with infinities, and with neither. -/
theorem test_BlocksAccumulate_met : ∃ x y z : Val, x.isNaN = true ∧ y.isInf = true ∧ z.isNaN = false ∧
    z.isInf = false ∧ z.isZero = false ∧ y.isNaN = false :=
  ⟨.nan, .inf false, .ofInt 1, rfl, rfl, rfl, rfl, by decide, rfl⟩

/-- LIN at its last place; MCHAIN at its first and last token; the four engines. -/
theorem test_TakingTokensRuns_met : (∃ (s : State) (c : Ctx) (f : Firing) (t : Token) (x : XForm) (l : LSt),
      s.live? c.r c.e = some c ∧ c.el.firing = some f ∧ c.el.saved = false ∧ f.stage = .take ∧
      streamInput? f.instr = some 0 ∧ c.el.present 0 = true ∧ c.el.head? 0 = some t ∧ f.instr = .lin x ∧ c.el.ks = .l l ∧
      t.poison = false ∧ t.kind = .data ∧ x.cnt.toNat + f.i = 255) ∧
    (∀ n : Nat, n < 16 → ∃ (s : State) (c : Ctx) (f : Firing) (t : Token) (x : XForm) (m : MSt), s.live? c.r c.e = some c ∧
      c.el.firing = some f ∧ c.el.saved = false ∧ f.stage = .take ∧ streamInput? f.instr = some 0 ∧ c.el.present 0 = true ∧
      c.el.head? 0 = some t ∧ f.instr = .mchain x ∧ c.el.ks = .m m ∧ t.poison = false ∧ t.kind = .data ∧ t.tag = 1 ∧
      f.i = n ∧ swf 0 m.acc = true) ∧
    (∀ k ∈ ([.table, .wiring] : List EngKind), ∃ (s : State) (c : Ctx) (x : Engine) (t : Token) (l : LSt),
      s.live? c.r c.e = some c ∧ c.el.engine? k = some x ∧ c.el.saved = false ∧ c.el.present x.input = true ∧
      c.el.head? x.input = some t ∧ c.el.ks = .l l ∧ t.poison = false ∧ t.kind = .data ∧ swf 0 l.tables = true ∧
      ∃ el, c.el.wiringToken l x t = .ok el) ∧
    (∃ (s : State) (c : Ctx) (x : Engine) (t : Token) (m : MSt), s.live? c.r c.e = some c ∧
      c.el.engine? .weights = some x ∧ c.el.saved = false ∧ c.el.present x.input = true ∧ c.el.head? x.input = some t ∧
      c.el.ks = .m m ∧ ∃ el, c.el.weightToken c.g m x t = .ok el) ∧
    ∃ (s : State) (c : Ctx) (x : Engine) (t : Token) (m : MSt), s.live? c.r c.e = some c ∧
      c.el.engine? .scales = some x ∧ c.el.saved = false ∧ c.el.present x.input = true ∧ c.el.head? x.input = some t ∧
      c.el.ks = .m m ∧ ∃ el, c.el.scaleToken m x t = .ok el := by
  refine ⟨⟨sta (fel .L lin1), cxt (fel .L lin1), lin1, _, _, _, rfl, rfl, rfl, rfl, rfl, by decide, rfl, rfl, rfl, rfl, rfl,
      by decide⟩,
    fun n _ => ⟨sta (fel .M (chn n)), cxt (fel .M (chn n)), chn n, _, _, _, rfl, rfl, rfl, rfl, rfl, rfl, rfl, rfl, rfl, rfl, rfl,
      rfl, rfl, rfl⟩,
    fun k hk => ?_,
    ⟨staG mgr, cxtG mgr (mel .weights .data), ⟨.weights, 0, 0, 0, false, none, 0, false⟩, _, m0, rfl, rfl, rfl, rfl, rfl, rfl,
      exists_ok (by decide)⟩,
    sta (mel .scales .scale), cxt (mel .scales .scale), ⟨.scales, 0, 0, 0, false, none, 0, false⟩, _, m0, rfl, rfl, rfl, rfl, rfl,
    rfl, exists_ok (by decide)⟩
  refine ⟨sta (gel k), cxt (gel k), ⟨k, 0, 0, 1, false, none, 0, false⟩, dat 0, ⟨[], [], 0, 0, [], [], none⟩, rfl, ?_, rfl, rfl, rfl,
    rfl, rfl, rfl, rfl, ?_⟩
  · cases k <;> rfl
  · exact exists_ok (by cases k <;> decide)

def owe (l : List (Fin 4 × Token)) : Firing := { Firing.start 0 (.mout xf) .push with q := (1, dat 1) :: l }
def swp : Firing := Firing.start 0 (.mswap ⟨1, 0, 0⟩) .wait
def estr (i : Nat) : ESt :=
  ⟨[(0, ofWords [0, 0, 1, 0, 0x50, 0xFFFFFFFF]), (1, ofWords [2])], [⟨1, 0, 0, some 1, none, i, i, false, none⟩], [],
    Vector.replicate 8 [], [], 0, false⟩
def strel (i : Nat) : Elem := { elt .E (dat 7) with ks := .e (estr i) }

/-- A firing that owes two tokens, one that owes its last, a waiting MSWAP; a stream at its first and at its last index. -/
theorem test_LaterPushesRun_met : (∀ l : List (Fin 4 × Token), ∃ (s : State) (c : Ctx) (f : Firing), s.live? c.r c.e = some c ∧
      c.el.firing = some f ∧ c.el.saved = false ∧ f.stage = .push ∧ f.q = (1, dat 1) :: l ∧ c.pushPaused f = false ∧
      c.g.hasSpace c.e c.el 1 1 = true ∧ c.g.tagOk c.e 1 (dat 1) = true) ∧
    (∃ (s : State) (c : Ctx) (f : Firing) (x : PForm) (m : MSt), s.live? c.r c.e = some c ∧ c.el.firing = some f ∧
      c.el.saved = false ∧ f.stage = .wait ∧ f.instr = .mswap x ∧ c.el.ks = .m m ∧ c.el.engine? .weights = none ∧
      c.el.engine? .scales = none) ∧
    ∀ i : Nat, i ≤ 1 → ∃ (s : State) (c : Ctx) (x : ESt) (t : Stream), s.live? c.r c.e = some c ∧ c.el.ks = .e x ∧
      (x.streams.find? fun y => y.num == 0 && !y.ended) = some t ∧ c.el.saved = false ∧ c.reg.preempt ≠ .running ∧
      t.out = some 1 ∧ t.input = none ∧ x.mode 0 = 0 ∧ x.genAddr 0 t.idx < 2 ^ 56 ∧ c.g.hasSpace c.e c.el 1 1 = true ∧
      x.total 0 = 2 ∧ t.idx = i ∧ c.g.tagOk c.e 1 ⟨1, .data, false, false, 0, 0⟩ = true := by
  refine ⟨fun l => ⟨sta (fel .M (owe l)), cxt (fel .M (owe l)), owe l, rfl, rfl, rfl, rfl, rfl, rfl, rfl, rfl⟩,
    ⟨sta (fel .M swp), cxt (fel .M swp), swp, _, _, rfl, rfl, rfl, rfl, rfl, rfl, rfl, rfl⟩,
    fun i h => ⟨sta (strel i), cxt (strel i), estr i, ⟨1, 0, 0, some 1, none, i, i, false, none⟩, rfl, rfl, rfl, rfl, ?_, rfl, rfl, ?_, ?_,
      rfl, ?_, rfl, rfl⟩⟩
  all_goals first | decide | (interval_cases i <;> decide)

/-- A load and a store of four bytes at 64, of element 0 of region slot 0. -/
def acc (k : AccKind) : Access :=
  { (default : Access) with id := 9, fid := 9, opc := 0xD0, kind := k, pa := 64, va := 64, size := 4, data := 0xA1B2C3D4 }

def iel (k : AccKind) : Elem := { elt .C (dat 7) with issueQ := [acc k] }
def iel1 : Elem := { elt .C (dat 7) with issueQ := [{ acc .load with cost := 1 }] }

/-- A device whose frame 0 belongs to context 0, with requests, and an element with them still to send. -/
def staM (el : Elem) (reqs : List Access) : State :=
  { staK el with mem := { MemSt.reset with frames := [(0, ⟨some 0, false, false, false, false, none⟩)], reqs := reqs } }

/-- SEND of an access that costs nothing and of one that takes all the bucket's tokens; UPDATE_REPLAY before a later access;
FILL; APPLY; EGRESS and DELIVER. -/
theorem test_AccessesTravel_met : (∀ k ∈ ([.load, .link] : List AccKind), ∃ (s : State) (c : Ctx) (a : Access), s.at? c.r c.e 0 = some c ∧
      (c.el.issueQ.find? fun b => b.id == 9) = some a ∧ c.reg.runs = true ∧ a.isAwaiting = false ∧
      (∀ b, b ∈ c.el.issueQ.takeWhile (fun b => b.id != 9) → b.before a = false) ∧ (∀ b, b ∈ c.el.issueQ → b.pays a = false) ∧
      a.kind = k ∧ a.cost = 0 ∧ (s.portUse (dieOf c.r)).cyc a.outward = 0) ∧
    (∃ (s : State) (c : Ctx) (a : Access) (b : Bucket), s.at? c.r c.e 0 = some c ∧
      (c.el.issueQ.find? fun b => b.id == 9) = some a ∧ c.reg.runs = true ∧ a.isAwaiting = false ∧
      (∀ b, b ∈ c.el.issueQ.takeWhile (fun b => b.id != 9) → b.before a = false) ∧ (∀ b, b ∈ c.el.issueQ → b.pays a = false) ∧
      a.kind ≠ .link ∧ sget none s.mem.buckets (1024 * dieOf c.r + c.reg.ctx) = some b ∧ 0 < a.cost ∧ c.r < 128 ∧
      (s.portUse (dieOf c.r)).cyc a.outward = 895 ∧ a.cost = b.level) ∧
    (∃ (s : State) (a b : Access), (s.mem.replays.find? fun b => b.id == 9) = some a ∧ s.mem.reqs = [] ++ [b] ∧ b.r = a.r ∧
      b.e = a.e ∧ b.gen = a.gen ∧ a.id < b.id) ∧
    (∃ (s : State) (c : Ctx) (a : Access), (s.mem.reqs.find? fun b => b.id == 9) = some a ∧ a.kind = .fill 0 64 1 ∧
      a.outside = false ∧ s.performBlocked a = false ∧ s.at? a.r a.e a.slot = some c ∧ c.reg.gen = a.gen ∧
      s.mem.homeCheck a.ctx a.pa a.size false = none ∧ (s.mem.frame a.pa).derived = false ∧
      (s.mem.dirAt (a.pa / 64)).holders = []) ∧
    (∀ own ∈ [some 0, none], ∃ (s : State) (h : HeldLine) (a : Access), (s.mem.held.find? fun x => x.line == 1) = some h ∧
      s.mem.nextHeld? h 0 3 = some a ∧ (s.mem.homeCheck a.ctx a.pa a.size true).isNone = own.isSome ∧
      s.writable a.mt a.pa a.size none = true) ∧
    (∃ (s : State) (a : Access), (s.mem.reqs.find? fun b => b.id == 9) = some a ∧ a.kind = .store ∧ a.outside = true ∧
      s.performBlocked a = false ∧ s.mem.homeCheck a.ctx a.pa a.size true = none) ∧
    ∀ k : AccKind, ∃ (s : State) (a : Access), (s.mem.egress.find? fun b => b.id == 9) = some a ∧
      (∀ b, b ∈ s.mem.egress.takeWhile (fun b => b.id != 9) → a.sameBuffer b = false) ∧ a.kind = k := by
  refine ⟨fun k hk => ⟨sta (iel k), cxt (iel k), acc k, rfl, rfl, rfl, ?_, ?_, ?_, rfl, rfl, ?_⟩,
    ⟨{ sta iel1 with mem := { MemSt.reset with buckets := [(0, some ⟨1, 5, 1, 0, false⟩)], ports := [(0, ⟨9, 9, 895, 0, 0⟩)] } },
      cxt iel1, { acc .load with cost := 1 }, ⟨1, 5, 1, 0, false⟩, rfl, rfl, rfl, rfl, by decide, by decide, by decide, by decide, by decide, by decide,
      by decide, rfl⟩,
    ⟨{ sta (elt .C (dat 7)) with mem := { MemSt.reset with replays := [acc .load], reqs := [{ acc .load with id := 10 }] } }, _, _, rfl,
      rfl, rfl, rfl, rfl, by decide⟩,
    ⟨staM (elt .S (dat 7)) [acc (.fill 0 64 1)], cxt (elt .S (dat 7)), _, rfl, rfl, by decide, by decide, rfl, rfl, by decide, by decide, by decide⟩,
    fun own h => ⟨{ staM (elt .C (dat 7)) [] with mem := { (staM (elt .C (dat 7)) []).mem with
        frames := [(0, ⟨own, false, false, false, false, none⟩)]
        groups := [⟨0, 3, 1, 5, [0], [0]⟩], held := [⟨1, true, [(0, 3)], [], [acc (.update 0xD8 recINT32 3 0 0)]⟩] } },
      ⟨1, true, [(0, 3)], [], [acc (.update 0xD8 recINT32 3 0 0)]⟩, acc (.update 0xD8 recINT32 3 0 0), rfl,
      by revert own; decide +kernel, by revert own; decide +kernel, by revert own; decide +kernel⟩,
    ⟨{ staM (elt .C (dat 7)) [{ acc .store with pa := 2 ^ 51 }] with mem := { (staM (elt .C (dat 7))
        [{ acc .store with pa := 2 ^ 51 }]).mem with hostRanges := [(0, ⟨2 ^ 51, 2 ^ 51 + 65536, 0, false⟩)] } }, _, rfl, rfl,
      by decide, by decide, by decide⟩,
    fun k => ⟨{ sta (elt .C (dat 7)) with mem := { MemSt.reset with egress := [acc k] } }, acc k, rfl, ?_, rfl⟩⟩
  iterate 4 (revert k; decide)
  intro b hb
  cases hb

/-- A load and a store, with and without a failed error-correction check. -/
theorem test_AccessesPerform_met : ∀ w : Bool, ∃ (s : State) (a : Access),
    (s.mem.reqs.find? fun b => b.id == 9) = some a ∧ a.outside = false ∧ s.performBlocked a = false ∧
    Memory.wf s.mem.bytes = true ∧ a.kind = (if w then .store else .load) ∧ s.mem.homeCheck a.ctx a.pa a.size w = none ∧
    (s.mem.frame a.pa).derived = false ∧ (s.mem.dirAt (a.pa / 64)).holders = [] ∧ s.writable a.mt a.pa a.size none = true ∧
    s.mem.overlaps (a.pa / 64) (wordMask a.pa a.size) none = false := by
  intro w
  refine ⟨staM (elt .C (dat 7)) [acc (if w then .store else .load)], _, rfl, ?_, ?_, rfl, rfl, ?_, ?_, ?_, ?_, ?_⟩ <;>
    cases w <;> decide

/-- An element that owes a load's token on output 1 and a completion. -/
def lod : OutF := { OutF.new 9 0 0xD0 0 with dst := some 1, cls := 1, data := [dat 5], ready := true }
def oel : Elem := { elt .C (dat 7) with outs := [lod], dues := [⟨9, 2, ctl 0 0, 5⟩] }

/-- A graph whose outputs 1 and 2 drive two inputs of the same element. -/
def ogr (el : Elem) : GraphSt :=
  { gra el with edges := [⟨0, 4, 0, 1, 0xFF, [⟨0, 1, 0xFF⟩], [], false⟩, ⟨1, 4, 0, 2, 0xFF, [⟨0, 2, 0xFF⟩], [], false⟩] }

def jnf : Firing := Firing.start 0 (.joinf { xf with cnt := 159 }) .wait
def fen : Firing := Firing.start 0 (.fence { jf with imm := 7 }) .wait

/-- A page-walk graph whose WALK reads input 0 of its one element, which an edge of capacity 4 feeds. -/
def wlk : Elem :=
  Elem.arm { fetchRec .E 0 with
    slots := (Vector.replicate 32 ⟨0, 0⟩).set 0 ⟨0x80000000, encode (.walk ⟨.out 0, .head 0, .zero, 1, 0, 0⟩)⟩ }
def wgr : GraphSt := { gra wlk with edges := [⟨0, 4, 0, 0, 0xFF, [⟨0, 0, 0xFF⟩], [], false⟩] }
def mss : OutF := { OutF.new 9 0 0xE8 0 with va := 0x30000, dst := some 1, cls := 2, miss := true }
def mis : Elem := { elt .E (dat 7) with outs := [mss] }

/-- A translation that misses, with a walker region that takes it. -/
theorem test_MissesReachTheWalker_met : ∃ (s : State) (c : Ctx) (o : OutF) (w : Region) (g : GraphSt), c.r < 128 ∧ c.reg.runs = true ∧
    s.mem.replies = [] ∧ s.collectedReply 9 = none ∧ s.findOut 9 = some (c.r, c.e, o) ∧
    s.at? c.r c.e o.slot = some c ∧ o.opc = 0xE8 ∧ o.ready = false ∧ o.miss = true ∧ o.asked = none ∧
    s.root? c.reg.ctx = some 0 ∧ s.region? (128 + c.die) = some w ∧ w.g = some g ∧ w.runs = true ∧ g.walkDoors ≠ [] ∧
    sget none s.mem.taken c.die ≠ some s.cycle ∧ swf none s.mem.taken = true :=
  ⟨{ staK mis with regions := (staK mis).regions.set 128 (regG wgr) }, cxt mis, mss, regG wgr, wgr, by decide, rfl, rfl, rfl, rfl, rfl,
    rfl, rfl, rfl, rfl, by decide, rfl, rfl, rfl, by decide +kernel, by decide, rfl⟩

/-- An XINV that waits for its reply, at a node with one entry. -/
def inv : OutF := { OutF.new 9 0 0xE9 0 with arg := ofWords [0x30000] }
def inl : Elem :=
  { elt .E (dat 7) with outs := [inv], ks := .e ⟨[], [], [⟨0, 65536, 0, 0, 0⟩], Vector.replicate 8 [], [], 0, false⟩ }

theorem test_InvalidationsComplete_met : ∃ (s : State) (c : Ctx) (o : OutF) (x : ESt), c.reg.runs = true ∧ s.mem.replies = [] ∧
    s.collectedReply 9 = none ∧ s.findOut 9 = some (c.r, c.e, o) ∧ s.at? c.r c.e o.slot = some c ∧ o.opc = 0xE9 ∧ o.ready = false ∧
    c.el.ks = .e x :=
  ⟨sta inl, cxt inl, inv, _, rfl, rfl, rfl, rfl, rfl, rfl, rfl, rfl⟩

/-- MEMORY_REPLY of a load, to an element that is saved and to one that is not; PUSH of a completion and of a data token; JOINF_RELEASE; FENCE_COMPLETE. -/
theorem test_RepliesComplete_met : (∀ b : Bool, ∃ (s : State) (c : Ctx) (y : Reply) (o : OutF) (m : MemSt), c.reg.runs = true ∧
      (s.mem.replies.find? fun z => z.acc.id == 9) = some y ∧ y.val = .data 3 false ∧
      earlierReply s.mem.replies y.acc.id (fun b => b.isOf y.acc.r y.acc.e y.acc.gen) = false ∧ y.acc.gen = c.reg.gen ∧
      m = { s.mem with replies := s.mem.replies.filter fun z => z.no != y.no } ∧
      State.at? { s with mem := m } y.acc.r y.acc.e y.acc.slot = some { c with slot := 0 } ∧ c.el.saved = b ∧ c.g.collected = [] ∧
      (c.el.outs.find? fun z => z.id == y.acc.fid) = some o ∧ o.opc = 0xD0) ∧
    (∃ (s : State) (c : Ctx) (d : Due), s.at? c.r c.e 0 = some c ∧ c.reg.runs = true ∧ c.el.dues = [d] ∧
      c.g.freePlaces c.e d.out ≠ 0 ∧ s.earlierDue c d.no = false ∧ c.g.tagOk c.e d.out d.tok = true) ∧
    (∃ (s : State) (c : Ctx) (o : OutF) (t : Token), s.at? c.r c.e 0 = some c ∧ c.reg.runs = true ∧
      (c.el.outs.find? fun z => z.id == 9) = some o ∧ o.opc = 0xD0 ∧ o.ready = true ∧ o.dst = some 1 ∧ o.data = [t] ∧
      c.g.freePlaces c.e 1 ≠ 0 ∧ c.el.classBlocked o = false ∧ c.g.tagOk c.e 1 t = true) ∧
    (∃ (s : State) (c : Ctx) (f : Firing) (x : XForm), s.at? c.r c.e 0 = some c ∧ c.reg.runs = true ∧ c.el.saved = false ∧
      c.el.firing = some f ∧ f.stage = .wait ∧ f.instr = .joinf x ∧ x.dst = .out 1 ∧ x.cnt.toNat = 159 ∧
      c.g.hasSpace c.e c.el 1 1 = true) ∧
    ∃ (s : State) (c : Ctx) (f : Firing) (x : IForm), s.at? c.r c.e 0 = some c ∧ c.reg.runs = true ∧ c.el.saved = false ∧
      c.el.firing = some f ∧ f.stage = .wait ∧ f.instr = .fence x ∧ s.fenceWaits c f.n (x.imm.toNat % 8) = false :=
  ⟨fun b => ⟨{ sta { oel with saved := b } with mem := { MemSt.reset with replies := [⟨acc .load, .data 3 false, 4⟩] } },
      cxt { oel with saved := b }, ⟨acc .load, .data 3 false, 4⟩, lod, _, rfl, rfl, rfl, rfl, rfl, rfl, rfl, rfl, rfl, rfl, rfl⟩,
    ⟨staG (ogr oel), cxtG (ogr oel) oel, _, rfl, rfl, rfl, by decide, by decide, by decide⟩,
    ⟨staG (ogr oel), cxtG (ogr oel) oel, lod, dat 5, rfl, rfl, rfl, rfl, rfl, rfl, rfl, by decide, by decide, by decide⟩,
    ⟨sta (fel .C jnf), cxt (fel .C jnf), jnf, _, rfl, rfl, rfl, rfl, rfl, rfl, rfl, by decide, rfl⟩,
    sta (fel .C fen), cxt (fel .C fen), fen, _, rfl, rfl, rfl, rfl, rfl, rfl, by decide⟩

/-! ### The hypotheses are met: signals, launches, regions, agents and the platform -/

/-- COUNTER_RAISE that adds and that raises; BARRIER_ARRIVAL of an arrival before the last and of the last. -/
def sig (opc : Nat) (a : Payload) : OutF := { OutF.new 9 0 opc 0 with arg := a }
def sgl (opc : Nat) (a : Payload) : Elem := { elt .C (dat 7) with outs := [sig opc a] }

theorem test_Signals_met : (∀ l ∈ ([[5, 0, 3, 0], [5, 1, 3, 0]] : List (List Word)),
      ∃ (s : State) (c : Ctx) (o : OutF), s.findOut 9 = some (c.r, 0, o) ∧ s.at? c.r 0 o.slot = some c ∧ c.reg.runs = true ∧
        o.opc = 0xEC ∧ s.pendingBefore c o.id 4 = false ∧ o.arg = ofWords l) ∧
    ∀ n : Nat, ∃ (s : State) (c : Ctx) (o : OutF), s.findOut 9 = some (c.r, 0, o) ∧ s.at? c.r 0 o.slot = some c ∧
      c.reg.runs = true ∧ o.opc = 0xED ∧ o.ready = false ∧ s.pendingBefore c o.id o.level = false ∧
      (s.mem.barrier (lane32 o.arg 0).toNat).remaining = n := by
  refine ⟨fun l _ => ⟨sta (sgl 0xEC (ofWords l)), cxt (sgl 0xEC (ofWords l)), sig 0xEC (ofWords l), rfl, rfl, rfl, rfl, rfl, rfl⟩,
    fun n => ⟨{ sta (sgl 0xED (ofWords [6])) with mem := { MemSt.reset with barriers := [(6, ⟨2, n, 0⟩)] } },
      cxt (sgl 0xED (ofWords [6])), sig 0xED (ofWords [6]), rfl, rfl, rfl, rfl, rfl, rfl, rfl⟩⟩

/-- A page table in one page at 0x2000: entry 0 points to itself, entry 1 maps a row-homed base of pitch 64, entry 2 a
DERIVED page. -/
def ptab : List Host.Cell :=
  [(0x2000, 3), (0x2003, 2), (0x2008, 0x21), (0x2009, 6), (0x200B, 0x30), (0x2010, 0x41), (0x2013, 0x40)]

/-- A DRV under way, with a descriptor of a row sum of one row of one element. -/
def drf : Firing :=
  { Firing.start 0 (.drv { rf with dst := .discard }) .wait with a := 0x10000 + 0x20000 * 2 ^ 64 + 64 * 2 ^ 176
                                                                 b := ofWords [0, 0, 0xFFFFFFFF] }
def stD : State :=
  { sta (fel .C drf) with
    mem := { MemSt.reset with bytes := ptab }
    sched := { sch with contexts := [⟨⟨0, [5], [6], [], [], 0, 0x2000, 0, 0x10000, 4⟩, 0, 0, 0⟩] } }

/-- A declaration of two rows in given states. -/
def dcl (a b : RowScan) (pending : Bool) (w : Option (Option Nat)) : Decl :=
  { (default : Decl) with
    handle := 3, counter := some 5, pending := pending, withdraw := w
    rows := [⟨0, 0, a, false, XS.clear, ExtSh.empty, [], []⟩, ⟨64, 0, b, false, XS.clear, ExtSh.empty, [], []⟩] }

/-- A declaration to withdraw, whose second row slice `n` homes. -/
def dcl' (n : Nat) : Decl :=
  { dcl .ready .ready false (some none) with
    rows := [⟨0, 0, .ready, false, XS.clear, ExtSh.empty, [], []⟩, ⟨64, n, .ready, false, XS.clear, ExtSh.empty, [], []⟩] }

theorem test_SignalsAndDeclarationsRun_met : (∃ (s : State) (c : Ctx) (f : Firing) (x : RForm) (y : Decl), s.at? c.r c.e 0 = some c ∧
      c.reg.runs = true ∧ c.el.saved = false ∧ c.el.firing = some f ∧ f.stage = .wait ∧ f.instr = .drv x ∧ x.dst = .discard ∧
      s.declare c.g c.reg.ctx c.reg.launch f.a f.b = .ok y) ∧
    (∃ (s : State) (d : Decl) (w : DrvRow), (s.drv.find? fun y => y.handle == 3) = some d ∧ d.rows[0]? = some w ∧
      w.scan = .initial ∧ d.pending = true ∧ ∀ w', w'.scan = .ready → ∀ y, y ∈ (Decl.saturate { d with rows := d.rows.set 0 w' }).rows →
        y.scan ≠ .initial) ∧
    (∃ (s : State) (d : Decl) (w : DrvRow), (s.drv.find? fun y => y.handle == 3) = some d ∧ d.rows[0]? = some w ∧
      w.scan = .scanning ∧ d.pending = false) ∧
    ∀ n ∈ [0, 1], ∃ (s : State) (d : Decl) (w : DrvRow) (l : List DrvRow), (s.drv.find? fun y => y.handle == 3) = some d ∧
      d.rows[0]? = some w ∧ d.withdraw = some none ∧
      l = (d.rows.map fun y => if y.slice = w.slice then { y with scan := .withdrawn } else y) ∧
      (n = 1 → ∃ y, y ∈ l ∧ y.scan ≠ .withdrawn) ∧
      (n = 0 → (∀ y, y ∈ l → y.scan = .withdrawn) ∧ s.unmapReady ((s.lostPages d).flatMap (·.2)) = true) := by
  refine ⟨?_, ⟨{ State.reset with drv := [dcl .initial .ready true none] }, _, _, rfl, rfl, rfl, rfl, fun w' hw y hy => by
      have h : y ∈ [w', ⟨64, 0, .ready, false, XS.clear, ExtSh.empty, [], []⟩] := hy
      have : y = w' ∨ y = ⟨64, 0, .ready, false, XS.clear, ExtSh.empty, [], []⟩ := by simpa using h
      rcases this with rfl | rfl
      · rw [hw]; decide
      · decide⟩,
    ⟨{ State.reset with drv := [dcl .scanning .ready false none] }, _, _, rfl, rfl, rfl, rfl⟩,
    fun n hn => ⟨{ State.reset with drv := [dcl' n] }, dcl' n, _, _, rfl, rfl, rfl, rfl, ?_, ?_⟩⟩
  · have h : ∃ y, stD.declare (cxt (fel .C drf)).g 0 0 drf.a drf.b = .ok y := exists_ok (by decide +kernel)
    obtain ⟨y, hy⟩ := h
    exact ⟨stD, cxt (fel .C drf), drf, { rf with dst := .discard }, y, rfl, rfl, rfl, rfl, rfl, rfl, rfl, hy⟩
  all_goals revert n; decide

/-- An element with a PUT on its way, and a launch that link group 4 is bound to. -/
def sdr : Elem :=
  { elt .E (dat 7) with ks := .e ⟨[], [], [], Vector.replicate 8 [], [⟨9, 0, 0xF0, 0, 1, 0, [], 0⟩], 0, false⟩ }
def lnk : Launch := { lnc with record := { lrec with linkGroup := 4 } }

/-- A signal of a held counter at its largest value; a package that owes an answer, to a region that rests; a queue of fifteen packets and a full one; a
round of a root with a local member, complete and not, and of a switch with a parent and a child; and of a root with a child. -/
theorem test_LinkEventsApply_met : (∃ (s : State) (x : Inbound), (s.link.inbound.find? fun q => q.id == 9) = some x ∧
      x.pkt = .put 1 0 0 64 [] (some (true, 5)) ∧ s.hostDataLeft 9 = false ∧ s.holdsCounter 0 5 = true ∧
      s.mem.counter 5 = BitVec.allOnes 64) ∧
    (∀ n ∈ [15, 16], ∃ (s : State) (c : Ctx) (x : ESt), s.at? c.r c.e 0 = some c ∧ c.el.ks = .e x ∧ (x.rx.get 7).length = n ∧
      ∀ y, y ∈ s.link.inbound → y.id ≠ s.nextId ∧ packetKey y.pkt ≠ (0, 1, 0)) ∧
    (∀ b : Bool, ∃ (s : State) (x : Region) (g : GraphSt) (el : Elem) (z : ESt) (y : SendEng), s.region? 0 = some x ∧
      x.state = (if b then .armed else .parked) ∧ x.g = some g ∧ el.saved = b ∧ el ∈ g.elems ∧ el.ks = .e z ∧ y ∈ z.sends ∧ y.opc ≠ 0xF3 ∧ (lane32 y.a 2).toNat = 0 ∧
      s.inLinkGroup x.launch 4 = true) ∧
    (∀ k ∈ ([(none, 0, [(0, .toks [3])]), (none, 0, []), (some 3, 1, [(0, .toks [3])]), (none, 1, [(0, .toks [3])])] :
        List (Option Nat × BitVec 24 × List (Nat × Contrib))),
      ∃ (s : State) (g : GroupSt) (y x : Round) (f : Fmt), s.link.group? 0 = some g ∧ g.rounds = [y] ++ x :: [] ∧ y.sent = true ∧
        x.sent = false ∧ Fmt.ofRecord g.record.fmt = some f ∧ g.record.parent = k.1 ∧ g.record.localMember = true ∧
        g.record.children = k.2.1 ∧ redComplete g.record x = !(k.2.2.isEmpty)) ∧
    (∃ (r : GroupRec) (x : Round) (t u : List Payload), ¬ (r.exact = true ∧ r.op = 0) ∧ redInOrder r x = [t, u].map .toks) ∧
    ∃ (r : GroupRec) (x : Round), r.exact = true ∧ r.op = 0 ∧ redInOrder r x = [.toks [5], .recs [List.replicate 8 XS.clear]] ∧
      r.length = 1 := by
  refine ⟨⟨{ staK (elt .C (dat 7)) with
        link := { State.reset.link with inbound := [⟨9, .put 1 0 0 64 [] (some (true, 5)), [], .start⟩] }
        mem := { MemSt.reset with counters := [(5, BitVec.allOnes 64)] } }, _, rfl, rfl, rfl, by decide, rfl⟩,
    fun n _ => ⟨sta { elt .E (dat 7) with ks := .e ⟨[], [], [], Vector.replicate 8 (List.replicate n []), [], 0, false⟩ }, cxt _, _,
      rfl, rfl, by simp, fun y hy => by cases hy⟩,
    fun b => ⟨{ staK sdr with
        regions := { reg { sdr with saved := b } with state := if b then .armed else .parked } :: State.reset.regions.tail
        sched := { sch with contexts := [⟨⟨0, [], [], [], [4], 0, 0x10000, 0, 0x20000, 4⟩, 0, 0, 0⟩], launches := [lnk] } },
      _, _, { sdr with saved := b }, _, ⟨9, 0, 0xF0, 0, 1, 0, [], 0⟩, rfl, rfl, rfl, rfl, List.mem_singleton.mpr rfl, rfl,
      List.mem_singleton.mpr rfl, by decide, by decide, by cases b <;> decide⟩,
    fun k hk => ⟨{ State.reset with link := { State.reset.link with
      groups := [(0, some ⟨⟨recFP32, false, 0, 1, 0, k.2.1, k.1, true, 0, 0, 0⟩,
        [⟨none, none, [], true, none⟩, ⟨if k.2.2 = [] then none else some [0], none, k.2.2, false, none⟩]⟩)] } },
      _, ⟨none, none, [], true, none⟩, _, fp32, rfl, rfl, rfl, rfl, show Fmt.ofRecord recFP32 = some fp32 by decide, rfl, rfl, rfl, ?_⟩,
    ⟨⟨recFP32, false, 0, 1, 0, 1, none, true, 0, 0, 0⟩, ⟨some [5], none, [(0, .toks [3])], false, none⟩, [5], [3], by decide,
      by decide⟩,
    ⟨recINT32, true, 0, 1, 0, 1, none, true, 0, 0, 0⟩, ⟨some [5], none, [(0, .recs [List.replicate 8 XS.clear])], false, none⟩, rfl, rfl,
    by decide, rfl⟩
  revert k
  decide

/-- An element that waits in CWAIT for counter 5 to reach 1, and has a DONE that its empty input 1 holds back. -/
def wrec : ElemRec :=
  { fetchRec .C 0 with
    slots :=
      ((Vector.replicate 32 ⟨0, 0⟩).set 0 ⟨0x80000000, encode (.cwait ⟨.discard, .reg 0, .zero, 0, 0, 0⟩)⟩).set 1
        ⟨0x80100000, encode (.done ⟨.discard, .zero, 0, 0, 0⟩)⟩ }
def wel : Elem := { Elem.arm wrec with d := Vector.replicate 8 (ofWords [5, 0, 1]) }
def wreg (q : Option Nat) : Region := { reg wel with quietAt := q }
def wsta (q : Option Nat) : State := { staK wel with regions := wreg q :: State.reset.regions.tail }

/-- An element that has halted. -/
def hel : Elem := { Elem.arm (fetchRec .C 0) with stop := .halted }

/-- An element that a marker reaches, from another of its partition, with a second partition to come or none. -/
def hgr : GraphSt :=
  { gra hel with
    elems := [hel, { hel with ins := Vector.replicate 4 { Input.empty with fifo := [drainMarker] } }]
    edges := [⟨0, 4, 0, 0, 0xFF, [⟨1, 0, 0xFF⟩], [], false⟩] }

theorem test_QuiescenceEnds_met : (∃ (s : State) (c : Ctx), s.live? c.r c.e = some c ∧ c.el.saved = false ∧ c.el.stop = .draining ∧
      c.el.owesNothing = true ∧ (c.el.dropMarkers ((c.g.liveFed c.e).filter c.el.drainAt)).owesNothing = true) ∧
    (∃ (s : State) (c : Ctx), s.live? c.r c.e = some c ∧ c.el.saved = false ∧ c.el.stop = .halted ∧ c.el.owesNothing = true ∧
      (c.el.dropMarkers ((c.g.liveFed c.e).filter c.el.drainAt)).owesNothing = true ∧ c.g.liveFed c.e = [0] ∧
      c.el.head? 0 = some drainMarker) ∧
    (∀ n ∈ [1, 2], ∃ (s : State) (g : GraphSt), s.region? 0 = some (regG g) ∧ s.quiescent 0 = true ∧ s.partDone 0 = true ∧
      g.part + 1 = 1 ∧ g.parts = n) ∧
    ∀ q ∈ ([none, some 0] : List (Option Nat)), ∃ (s : State) (x : Region) (g : GraphSt), s.region? 0 = some x ∧ x.g = some g ∧
      x.preempt ≠ .running ∧ x.switching = false ∧ s.quiescent 0 = true ∧ s.partDone 0 = false ∧
      (s.liveElems 0).any s.waitsOutside = true ∧ x.quietAt = q := by
  refine ⟨⟨sta { elt .C (dat 7) with stop := .draining }, cxt _, rfl, rfl, rfl, rfl, by decide⟩,
    ⟨staG hgr, ⟨0, 1, 0, regG hgr, hgr, { hel with ins := Vector.replicate 4 { Input.empty with fifo := [drainMarker] } }⟩,
      rfl, rfl, rfl, by decide, by decide, by decide, rfl⟩,
    fun n hn => ⟨staG { gra hel with parts := n }, { gra hel with parts := n }, rfl, ?_, ?_, rfl, rfl⟩,
    fun q hq => ⟨wsta q, wreg q, gra wel, rfl, rfl, (show Preempt.none ≠ .running by decide), rfl, ?_, ?_, ?_, rfl⟩⟩
  · revert n; decide +kernel
  · revert n; decide +kernel
  all_goals revert q; decide +kernel

/-- Launches in given states, and a device that runs with them. -/
def lst (st : LaunchState) : Launch := { lnc with state := st, region := none, sigDue := true, record := { lrec with signal := 5 } }
def staL (st : LaunchState) : State :=
  { State.reset with
    plat := { State.reset.plat with boot := .running }
    clock := 10
    sched := { sch with launches := [lst st], table := [(7, some ⟨⟨0, lrec, 5, 0, 0⟩, 2, 0⟩)] } }

/-- A window write at the last record; a launch of each state that the clauses name; an entry at its start time; an
admission on a die with nothing placed. -/
theorem test_SchedulerRuns_met : (∃ (s : State) (c : Context) (bytes : List Byte), s.sched.context? 0 = some c ∧ bytes.length = 64 ∧
      4032 % 64 = 0) ∧
    (∃ (s : State) (x : Launch), s.sched.launch? 0 = some x ∧ x.state = .waiting ∧ s.waitsMet x.record = true) ∧
    (∃ (s : State) (x : Launch), s.sched.launch? 0 = some x ∧ x.state = .ended ∧ x.sigDue = true ∧ s.launchBusy 0 = false ∧
      x.record.signal ≠ 0xFFFF) ∧
    (∃ (s : State) (x : Launch), s.sched.launch? 0 = some x ∧ x.state = .ready ∧ x.readyAt + sget 0 s.sched.ageLimits 7 < s.clock.toNat ∧
      x.record.ctl.toNat % 4 ≠ 3 ∧ x.prio < 2) ∧
    (∀ b : Bool, ∃ (s : State) (t : TimeSt), sget none s.sched.table 7 = some t ∧ t.ent.period ≠ 0 ∧
      t.ent.offset + t.k * t.ent.period = s.clock.toNat ∧ s.sched.lastOf 7 = none ∧ (s.sched.context? t.ent.ctx).isSome = b) ∧
    ∃ (s : State) (die : Nat) (pl : Placement) (l : Launch) (q : Nat × Nat × Nat × Nat) (r : Nat) (old : Region),
      s.plat.boot = .running ∧ die < 8 ∧ s.admits? die = some (l, q) ∧ s.freeSlot? die = some r ∧ s.region? r = some old ∧
      s.placeImage l q.1 q.2.1 q.2.2.1 q.2.2.2 pl = (none, some (.ok pl)) ∧ (s.mem.nextGen r old.gen).isSome = true := by
  refine ⟨⟨staL .ready, _, List.replicate 64 0, rfl, rfl, rfl⟩, ⟨staL .waiting, _, rfl, rfl, rfl⟩,
    ⟨staL .ended, _, rfl, rfl, rfl, by decide, by decide⟩, ⟨staL .ready, _, rfl, rfl, by decide, by decide, by decide⟩,
    fun b => ⟨{ staL .ready with sched := { (staL .ready).sched with contexts := if b then sch.contexts else [] } }, _, rfl, by decide,
      by cases b <;> decide, by cases b <;> rfl, by cases b <;> decide⟩,
    ⟨staL .ready, 0, ⟨[], [], [], [], none⟩, lst .ready, (0, 0, 1, 1), 0, Region.empty, rfl, by decide, ?_, ?_, rfl, ?_, ?_⟩⟩
  all_goals decide +kernel

/-- Region slots in the states that the clauses name. -/
def rst (st : RegionState) (f : Region → Region) : State :=
  { staL .parked with regions := f { reg (elt .C (dat 7)) with state := st, launch := 1 } :: State.reset.regions.tail }

/-- A page table that maps VA 0x30000 to the same PA, and there a legal image of one C element whose one slot holds the action
word `w`: the header of 64 bytes (R111), an entry of the directory (R112), and the element's record at 96 (R113). -/
def imgMem (w : Byte) : List Host.Cell :=
  [(0x2000, 3), (0x2003, 2), (0x2018, 1), (0x201B, 0x30), (0x30000, 75), (0x30001, 56), (0x30002, 71), (0x30003, 73), (0x30004, 1),
    (0x30008, 0x80), (0x30009, 3), (0x3000C, 1), (0x30028, 1), (0x30030, 1), (0x30040, 1), (0x30044, 1), (0x30048, 96),
    (0x30073, 0x80)] ++ (if w = 0 then [] else [(0x30074, w)])

/-- A launch of that image, whose region, slot 0, loads; and the walker region of die 0 with that image as its page-walk
graph. -/
def img : LaunchRec := { lrec with imageVa := 0x30000 }
def staI (w : Byte) : State :=
  { State.reset with
    regions := ({ Region.empty with state := .loading } :: State.reset.regions.tail).set 128
      { Region.empty with state := .loading, image := some 0x30000 }
    mem := { MemSt.reset with bytes := imgMem w }
    plat := { State.reset.plat with boot := .running }
    sched := { sch with
      contexts := [⟨⟨0, [5], [6], [], [], 0, 0x2000, 0, 0x10000, 4⟩, 0, 0, 0⟩], launches := [{ lnc with record := img }] } }

theorem staI_reads (w : Byte) (h : w = 0 ∨ w = 1) : (staI w).readVa 0 0x30000 64 = some (readBytes (imgMem w) 0x30000 64) ∧
    firstBad (headerChecks (readBytes (imgMem w) 0x30000 64)) = none ∧
    (staI w).readVa 0 0x30000 (fieldOf (readBytes (imgMem w) 0x30000 64) 8 4) = some (readBytes (imgMem w) 0x30000 896) ∧
    imageBad (readBytes (imgMem w) 0x30000 896) = none := by
  rcases h with rfl | rfl <;> decide +kernel

/-- A region that is restored, one whose second partition loads, fresh images that pass and that do not, and a walker region. -/
theorem test_RegionsArm_met : (∃ (s : State) (x : Region) (g : GraphSt), s.region? 0 = some x ∧ x.g = some g ∧ x.state = .loading ∧
      x.restoring = true) ∧
    (∃ (s : State) (x : Region) (g : GraphSt), s.region? 0 = some x ∧ x.g = some g ∧ x.state = .loading ∧ x.restoring = false ∧
      x.image = none ∧ x.loadPart = 1) ∧
    (∀ ok : Bool, ∃ (s : State) (x : Region) (l : Launch) (head bs : List Byte), s.region? 0 = some x ∧ x.state = .loading ∧
      x.restoring = false ∧ x.image = none ∧ x.loadPart = 0 ∧ s.sched.launch? x.launch = some l ∧
      s.readVa l.ctx l.record.imageVa.toNat 64 = some head ∧ firstBad (headerChecks head) = none ∧
      s.readVa l.ctx l.record.imageVa.toNat (fieldOf head 8 4) = some bs ∧ imageBad bs = none ∧
      (s.loadErr? l.id (recDet l.record) (recFlag l.record) (readImage bs)).isNone = ok) ∧
    ∃ (s : State) (x : Region) (pa : Nat), s.region? 128 = some x ∧ x.state = .loading ∧ x.restoring = false ∧
      x.image = some pa ∧ (s.walkerImage? pa).isSome = true := by
  refine ⟨⟨rst .loading fun x => { x with restoring := true }, _, gra (elt .C (dat 7)), rfl, rfl, rfl, rfl⟩,
    ⟨rst .loading fun x => { x with loadPart := 1 }, _, gra (elt .C (dat 7)), rfl, rfl, rfl, rfl, rfl, rfl⟩, fun ok => ?_,
    staI 0, { Region.empty with state := .loading, image := some 0x30000 }, 0x30000, rfl, rfl, rfl, rfl, by decide +kernel⟩
  cases ok
  · obtain ⟨h1, h2, h3, h4⟩ := staI_reads 1 (.inr rfl)
    exact ⟨staI 1, _, { lnc with record := img }, _, _, rfl, rfl, rfl, rfl, rfl, rfl, h1, h2, h3, h4, by decide +kernel⟩
  · obtain ⟨h1, h2, h3, h4⟩ := staI_reads 0 (.inl rfl)
    exact ⟨staI 0, _, { lnc with record := img }, _, _, rfl, rfl, rfl, rfl, rfl, rfl, h1, h2, h3, h4, by decide +kernel⟩

/-- A region that rests, with its graph and after it was scanned out, and regions of each state whose launch stands elsewhere,
with a graph and without; a parked launch with a saved image and one that loads in full. -/
theorem test_RegionsRun_met : (∀ g ∈ [none, some (gra (elt .C (dat 7)))], ∃ (s : State) (x : Region), s.region? 0 = some x ∧
      x.state = .parked ∧ x.switching = false ∧ x.freezing = false ∧ x.g = g) ∧
    (∀ st ∈ ([.parked, .frozen, .gated] : List RegionState), ∀ g ∈ [none, some (gra (elt .C (dat 7)))],
      ∃ (s : State) (x : Region), s.region? 0 = some x ∧ x.g = g ∧ x.state = st ∧
        ∀ l, s.sched.launch? x.launch = some l → l.region ≠ some 0) ∧
    ∀ g ∈ [none, some { gra (elt .C (dat 7)) with elems := [] }],
      ∃ (s : State) (z : Launch) (x y w h : Nat) (r : Nat) (q : Region) (pl : Placement), s.sched.launch? 0 = some z ∧
        z.state = .parked ∧ s.plat.boot = .running ∧ s.imageHeld z = false ∧ s.restoreAt? z 7 = some (r, x, y, w, h) ∧
        s.region? r = some q ∧ s.imageOf z = g ∧ s.placeAgain z g x y w h pl = (none, some (.ok pl)) ∧
        (s.mem.nextGen r q.gen).isSome = true := by
  refine ⟨fun g _ => ⟨rst .parked fun x => { x with g := g }, _, rfl, rfl, rfl, rfl, rfl⟩,
    fun st _ g _ => ⟨rst st fun x => { x with g := g }, _, rfl, rfl, rfl, fun l h => by cases h⟩,
    fun g hg => ⟨{ staL .parked with sched := { (staL .parked).sched with launches := [{ lst .parked with saved := g }] } },
      { lst .parked with saved := g }, 0, 0, 1, 1, 112, Region.empty, ⟨[], [], [], [], none⟩, rfl, rfl, rfl, rfl, ?_, rfl, ?_, ?_, ?_⟩⟩
  all_goals revert g; decide +kernel

/-- A first load to be pre-empted, a marker source of a pre-empted region, a region with a fault, one that freezes, one that
is frozen with a fault, and a fault handed over. -/
def flt : Elem := { elt .C (dat 7) with outs := [{ OutF.new 9 0 0xFA 0 with dst := some 1 }] }
/-- Element 0's XLAT feeds input 0 of element 1, where a fault token stands that no slot takes. -/
def xrec : ElemRec :=
  { fetchRec .E 0 with
    slots := (Vector.replicate 32 ⟨0, 0⟩).set 0 ⟨0x80000000, encode (.xlat ⟨.out 0, .zero, .zero, 0, 0, 0⟩)⟩ }
def fgr : GraphSt :=
  { gra (elt .C (dat 7)) with
    elems := [Elem.arm xrec, elt .C (ctl 1 0)]
    edges := [⟨0, 4, 0, 0, 0xFF, [⟨1, 0, 0xFF⟩], [], false⟩] }

theorem test_PreemptionAndFreezesRun_met : (∃ (s : State) (x : Region), s.region? 0 = some x ∧ x.preempt = .requested ∧
      x.state = .loading ∧ x.loadPart = 0 ∧ x.restoring = false) ∧
    (∃ (s : State) (x : Region) (g : GraphSt), s.region? 0 = some x ∧ x.preempt = .requested ∧ x.g = some g ∧ x.runs = true) ∧
    (∃ (s : State) (c : Ctx), s.live? c.r c.e = some c ∧ s.maySave c = true) ∧
    (∃ (s : State) (x : Region), s.region? 0 = some x ∧ s.regionFaults 0 ≠ []) ∧
    (∃ (s : State) (x : Region), s.region? 0 = some x ∧ x.freezing = true ∧ s.mem.awaitsReply 0 x.gen = false) ∧
    (∃ (s : State) (x : Region) (g : GraphSt) (f : FaultRec), s.region? 0 = some x ∧ x.state = .frozen ∧ x.g = some g ∧
      x.faults = [f]) ∧
    ∃ (s : State) (c : Ctx) (o : OutF), s.at? c.r c.e 0 = some c ∧ c.reg.runs = true ∧
      (c.el.outs.find? fun y => y.id == 9) = some o ∧ o.opc = 0xFA ∧ o.ready = false := by
  refine ⟨⟨rst .loading fun x => { x with preempt := .requested }, _, rfl, rfl, rfl, rfl, rfl⟩,
    ⟨rst .armed fun x => { x with preempt := .requested }, _, gra (elt .C (dat 7)), rfl, rfl, rfl, rfl⟩,
    ⟨{ sta (elt .C (dat 7)) with regions := { reg (elt .C (dat 7)) with preempt := .running } :: State.reset.regions.tail },
      ⟨0, 0, 0, { reg (elt .C (dat 7)) with preempt := .running }, gra (elt .C (dat 7)), elt .C (dat 7)⟩, rfl, by decide +kernel⟩,
    ⟨staG fgr, regG fgr, rfl, by decide +kernel⟩,
    ⟨rst .armed fun x => { x with freezing := true }, _, rfl, rfl, rfl⟩,
    ⟨rst .frozen fun x => { x with faults := [⟨0, .head 0, 2, 64, true⟩] }, _, gra (elt .C (dat 7)), _, rfl, rfl, rfl, rfl⟩,
    ⟨sta flt, cxt flt, _, rfl, rfl, rfl, rfl, rfl⟩⟩

/-- A frame table and buckets with entries, a frame whose entry is not known and one whose is, on a line that nobody shares and on
one that a core shares; an exported line of 64 bytes; the last line of the
memory, which nobody holds, which a core holds, and the line behind it; a holder that must answer, clean and dirty. -/
theorem test_ManagementAndAgentsRun_met : swf noFrame (staM (elt .C (dat 7)) []).mem.frames = true ∧
    (∃ (s : State), s.framePte? 0 = none) ∧
    (∀ b : Bool, ∃ (s : State), s.framePte? 0 = some 0x2008 ∧ Memory.wf s.mem.bytes = true ∧ s.ownWaits 0x200A 1 0 = b ∧
      (s.mem.frame 0x200A).derived = false ∧ s.mem.amended 0x200A 0x7F 0 = false) ∧
    (∃ (s : State), s.exported 64 64 = true ∧ (s.mem.frame 64).derived = false ∧
      s.writable (s.mem.typeOf 1) 64 64 none = true ∧ (s.mem.dirAt 1).holders = [] ∧ s.mem.reqs ++ s.mem.replays = []) ∧
    (∀ l ∈ ([[], [⟨7, .E, false, List.replicate 64 5, []⟩]] : List (List Holder)), ∃ (s : State) (line : Nat),
      64 * line + 64 = 384 * 2 ^ 30 ∧ s.mem.typeOf line = 0 ∧ (s.mem.dirAt line).holders = l ∧ (s.mem.dirAt line).windows = [] ∧
      (s.mem.frame (64 * line)).derived = false ∧ s.mem.reqs ++ s.mem.replays = []) ∧
    ∀ st ∈ ([.S, .M] : List Moesi), ∃ (s : State) (h : Holder), (s.mem.dirAt 1).awaiting.contains 8 = true ∧
      ((s.mem.dirAt 1).holders.find? fun x => x.agent == 8) = some h ∧ h.st = st ∧ h.dropped = false ∧
      ∀ j, j ∈ h.stored → s.scanBlocks (64 + j) 1 = false := by
  refine ⟨by decide, ⟨State.reset, by decide⟩,
    fun b => ⟨{ State.reset with mem := { MemSt.reset with
        bytes := [(0x200A, 0x80)], frames := [(0, ⟨some 0, false, false, true, true, some 0x2008⟩)]
        dir := if b then [(0x80, ⟨[⟨7, .S, false, [], []⟩], [], []⟩)] else [] } }, ?_⟩,
    ⟨{ staL .ready with plat := { State.reset.plat with boot := .running, ioUp := true, exportGib := 1 } }, ?_⟩,
    fun l hl => ⟨{ State.reset with mem := { MemSt.reset with dir := [(384 * 2 ^ 24 - 1, ⟨l, [], []⟩)] } }, 384 * 2 ^ 24 - 1, ?_⟩,
    fun st hs => ⟨{ State.reset with mem := { MemSt.reset with dir := [(1, ⟨[⟨8, st, false, [], [3]⟩], [], [8]⟩)] } },
      ⟨8, st, false, [], [3]⟩, ?_⟩⟩
  · revert b; decide +kernel
  · decide +kernel
  · revert l; decide +kernel
  · revert st; decide +kernel

/-- A device that runs, one in the safe state, one before stage 2; a cluster of an armed region and of a gated one; the thresholds' ends. -/
theorem test_PlatformRuns_met : (∃ s : State, s.plat.boot = .running) ∧ (∃ s : State, s.plat.boot = .safe) ∧
    (∃ (s : State) (_ : StageRun), s.plat.boot = .stage 2) ∧
    (∀ busy : Bool, ∃ (s : State), swf 0 s.volt.margins = true ∧ s.clusterBusy 0 = busy) ∧
    (∃ nonce : List Byte, nonce.length = 32) ∧
    (∃ (s : State) (x : Region) (l : Launch), s.plat.boot ≠ .safe ∧ s.region? 0 = some x ∧ x.state ≠ .free ∧
      s.sched.launch? x.launch = some l ∧ l.state ≠ .ended) ∧
    (1050 : Nat) ≤ 1149 ∧ (1149 : Nat) < 1150 ∧ (999 : Nat) < 1000 ∧ (1000 : Nat) ≤ 1049 ∧ (1049 : Nat) < 1050 :=
  ⟨⟨staL .ready, rfl⟩, ⟨{ State.reset with plat := { State.reset.plat with boot := .safe } }, rfl⟩,
    ⟨{ State.reset with plat := { State.reset.plat with boot := .stage 2 } }, ⟨[], [], []⟩, rfl⟩,
    fun busy => ⟨{ rst (if busy then .armed else .gated) fun x => { x with w := 1, h := 1 } with volt := ⟨[(0, 9)], []⟩ },
      by cases busy <;> decide +kernel⟩,
    ⟨List.replicate 32 0, rfl⟩, ⟨staK (elt .C (dat 7)), _, lnc, by decide, rfl, by decide, rfl, by decide⟩, by decide, by decide,
    by decide, by decide, by decide⟩

/-! ### The hypotheses are met: words, steps, invariants, traps and frames -/

theorem test_EncodingRoundTrips_met : (Instr.fnarrowBF16 ⟨.out 3, .head 3, .reg 7, 15, 0xE5⟩).wellFormed = true := by decide

theorem test_DecodingLosesNothing_met : ∃ i, decode 0xF9904000 = .ok i := exists_ok (by decide)

/-- A slot that holds MOV, one that holds a word of no instruction, and none that qualifies; an event; a tick. -/
def one (w : Word) (v : Bool) : Elem :=
  Elem.arm { fetchRec .C 0 with slots := (Vector.replicate 32 ⟨0, 0⟩).set 0 ⟨if v then 0x80000000 else 0, w⟩ }

theorem test_StepRunsTheDecodedInstruction_met : (∃ (u : State) (c : Ctx) (i : Instr), u.live? 0 0 = some c ∧
      u.nextSlot? c = some 0 ∧ decode (c.el.slot 0).act = .ok i) ∧
    (∃ (u : State) (c : Ctx) (w : DecodeErr), u.live? 0 0 = some c ∧ u.nextSlot? c = some 0 ∧
      decode (c.el.slot 0).act = .error w) ∧
    (∃ (u : State) (c : Ctx), u.live? 0 0 = some c ∧ u.nextSlot? c = none) ∧ (Instr.pairStep 0 0).isEvent = true :=
  ⟨⟨sta (one 0x0130D080 true), cxt (one 0x0130D080 true), .mov ⟨.reg 3, .reg 0, .zero, 0, 8, 0⟩, rfl, by decide +kernel, by decide⟩,
    ⟨sta (one 1 true), cxt (one 1 true), .formPZero, rfl, by decide +kernel, by decide⟩,
    ⟨sta (one 0x0130D080 false), cxt (one 0x0130D080 false), rfl, by decide +kernel⟩, rfl⟩

theorem test_LowestQualifyingSlotIssues_met : ∃ (s : State) (c : Ctx), (c.el.slot 0).trig.getLsbD 31 = false ∧ s.ctx? = some c :=
  ⟨sta (one 0 false), cxt (one 0 false), rfl, rfl⟩

theorem test_InvariantKept_met : (sta (one 0x0130D080 true)).Inv ∧
    ∃ t, step { sta (elt .C (dat 7)) with agenda := [.tick 1] } = .next t :=
  ⟨⟨rfl, rfl⟩, _, rfl⟩

/-- A trap of a running launch whose context has a status ring; a poisoned head. -/
theorem test_TrapsAreTaken_met : (∃ (s : State) (l : List Act), s.agenda = [.cycle l] ∧ l.length = 2) ∧ (∃ (s : State) (x : Region) (l : Launch) (c : Context), s.region? 0 = some x ∧
      s.sched.launch? x.launch = some l ∧ l.state ≠ .ended ∧ l.region = some 0 ∧ s.sched.context? l.ctx = some c ∧
      c.cfg.ringSlots ≠ 0 ∧ Memory.wf s.mem.bytes = true ∧ s.mem.frames = [] ∧ s.mem.dir = [] ∧ s.mem.reqs = [] ∧ s.drv = []) ∧
    ∃ (s : State) (c : Ctx) (f : RForm) (x : XForm), s.ctx? = some c ∧ c.poisoned f.sa = true ∧ c.poisoned x.sa = true :=
  ⟨⟨{ State.reset with agenda := [.cycle [.fire 0 1, .fire 0 0]] }, _, rfl, rfl⟩,
    ⟨staK (elt .C (dat 7)), _, _, _, rfl, rfl, by decide, rfl, rfl, by decide, rfl, rfl, rfl, rfl, rfl⟩,
    sta (elt .C { dat 7 with poison := true }), cxt _, rf, xf, rfl, rfl, rfl⟩

/-- Instructions of every form, with a poisoned head in SA or in SB, on the kinds that have them. -/
theorem test_PoisonTraps_met : (∀ k ∈ ([(.C, .or .b ⟨.reg 0, .reg 0, .head 1, 0, 0, 0⟩), (.C, .addi .w ⟨.reg 0, .head 0, 1, 0, 0⟩),
        (.C, .fnarrowF32 ⟨.reg 0, .reg 0, .head 3, 0, 0x20⟩), (.M, .maccw ⟨.discard, .reg 0, .head 2, 0, 63⟩),
        (.E, .st ⟨.discard, .reg 0, .head 1, 0, 0⟩), (.S, .stw ⟨.discard, .head 0, .reg 1, 0, 0⟩),
        (.E, .xlat ⟨.out 1, .head 0, .zero, 0, 0, 0⟩)] : List (ElemKind × Instr)),
      ∃ (s : State) (c : Ctx), s.ctx? = some c ∧ instrOk k.2 = true ∧ kindOk k.2.info.kinds c.el.ks.kindOf true = true ∧
        passesPoison k.2 = false ∧ ∃ x, x ∈ readSrcs k.2 ∧ c.poisoned x = true) ∧
    (∀ m ∈ ([0, 3] : List (BitVec 4)), ∃ (s : State) (c : Ctx) (f : RForm) (t : Token), s.ctx? = some c ∧ c.srcTok? f.sa = some t ∧
      t.poison = true ∧ modOf f = m ∧ f.sb = .reg 2) ∧
    (∃ (s : State) (c : Ctx) (f : RForm) (t : Token), s.ctx? = some c ∧ c.srcTok? f.sa = some t ∧ c.poisoned f.sb = true ∧ modOf f = 1) ∧
    ∃ (s : State) (c : Ctx) (f : XForm) (x : XSt) (t : Token), s.ctx? = some c ∧ c.el.ks = .x x ∧ c.srcTok? f.sa = some t ∧
      t.poison = true ∧ t.kind = .control ∧ (x.bufs.get (Fin.ofNat 8 (f.cnt.toNat % 8))).tooFar t = false := by
  refine ⟨fun k hk => ⟨sta (elt k.1 { dat 7 with poison := true }), cxt (elt k.1 { dat 7 with poison := true }), rfl, ?_⟩,
    fun m _ => ⟨sta (elt .X { dat 7 with poison := true }), cxt _, { rf with md := m }, _, rfl, rfl, rfl, rfl, rfl⟩,
    ⟨sta (elt .X { dat 7 with poison := true }), cxt _, { rf with sb := .head 1, md := 1 }, _, rfl, rfl, rfl, rfl⟩,
    sta (elt .X { ctl 63 1 with poison := true }), cxt _, xf, _, { ctl 63 1 with poison := true }, rfl, rfl, rfl, rfl, rfl, by decide⟩
  simp only [List.mem_cons, List.not_mem_nil, or_false] at hk
  rcases hk with rfl | rfl | rfl | rfl | rfl | rfl | rfl <;> decide

/-- A MOV of a register to a register, which is no trap; a FENCE of level 0. -/
theorem test_ComputingFirings_met : ∃ (s : State) (c : Ctx) (i : Instr) (t : State) (d : Ctx), s.ctx? = some c ∧ i.isEvent = false ∧
    i.info.opc < 0xD0 ∧ exec i s = .next t ∧
    (∀ n code imm, t ≠ State.raiseTrap { s with freeCtr := n } c.r c.e c.slot code imm) ∧ t.at? c.r c.e c.slot = some d := by
  refine ⟨staK (elt .C (dat 7)), cxt (elt .C (dat 7)), .nop ⟨0, 0, 0⟩, _, _, rfl, rfl, by decide, rfl, ?_, rfl⟩
  intro n code imm h
  have h1 := (congrArg (fun x : State => x.sched.launches.map Launch.endState) h).trans
    (congrArg (List.map Launch.endState) (endLaunch_launches (l := 0) (x := lnc) rfl (by decide) _ _ _ _))
  cases (show [0] = [3] from h1)

theorem test_MemoryFirings_met : ∃ (s : State) (c : Ctx) (i : Instr) (t : State), s.ctx? = some c ∧ i.isEvent = false ∧
    0xD0 ≤ i.info.opc ∧ i.info.opc ≠ 0xD3 ∧ exec i s = .next t ∧
    ∀ (u : State) (code : Nat), u.mem = s.mem → u.sched = s.sched → t ≠ u.raiseTrap c.r c.e c.slot code 0 := by
  refine ⟨staK (elt .C (dat 7)), cxt (elt .C (dat 7)), .fence ⟨.discard, .zero, 0, 0, 0⟩, _, rfl, rfl, by decide, by decide, rfl, ?_⟩
  intro u code hm hs h
  obtain ⟨_, _, _, _, _, _, _, _, m, _, d, _, _⟩ := u
  cases hm
  cases hs
  unfold State.raiseTrap at h
  split at h
  · rename_i hr
    rw [← h] at hr
    exact absurd hr (by decide +kernel)
  · rename_i r hr
    split at h
    · rename_i x hx
      have hx' : x = lnc := by
        have := List.mem_of_find?_eq_some hx
        simpa [staK, sch] using this
      subst hx'
      have h1 := (congrArg (fun x : State => x.sched.launches.map Launch.endState) h).trans
        (congrArg (List.map Launch.endState) (endLaunch_launches (l := 0) rfl (by decide) _ _ _ _))
      cases (show [0] = [3] from h1)
    · have h1 := (congrArg (fun x : State => x.region? 0) h).trans (releaseRegion_region?_same hr)
      have h2 := congrArg (fun x : Option Region => x.map Region.state) h1
      cases (show some RegionState.armed = some RegionState.free from h2)

/-- The state of an S element with a window on the page of an address word. -/
def wst (words : List Nat) : SSt :=
  ⟨[], words, words, [], (Vector.replicate 8 Window.empty).set 0 ⟨true, false, 0, 1024, 0, true, [adr]⟩, 0, [], []⟩
def wsel (words : List Nat) : Elem := { elt .S (dat (ofWords [1020, 3])) with ks := .s (wst words) }

/-- An S element that stores the last word of its window, a second one that has the word dirty, and the frame and the directory of
its line, which has the second one's write mask. -/
def wgr2 : GraphSt := { gra (wsel []) with elems := [wsel [], wsel [255]] }
def stw (m : BitVec 16) : State :=
  { staG wgr2 with
    sched := sch
    mem := { MemSt.reset with
      frames := [(0, ⟨some 0, false, false, false, false, none⟩)], dir := [(16, ⟨[], [⟨0, 1, 0, 0, m⟩], []⟩)] } }
def wctx : Ctx := cxtG wgr2 (wsel [])
def stwU (m : BitVec 16) : State :=
  wctx.put (stw m) { wctx.el with
    ks := .s ((wst []).storeWords (stw m).nextId 1020 (toBytes (wctx.src 0 xf.sb) 4)) }

def isNext (r : Res) : Bool :=
  match r with
  | .next _ => true
  | _ => false

theorem of_isNext {r : Res} (h : isNext r = true) : ∃ t, r = .next t := by
  cases r with
  | next t => exact ⟨t, rfl⟩
  | fault _ => cases h
  | refused _ => cases h

/-- STW of a word that no other window has stored, and of one that another window has and that is recalled. -/
theorem test_WindowStores_met (m : BitVec 16) (h : m = 0 ∨ m = 0x8000) : (stw m).ctx? = some wctx ∧
    Memory.wf (stw m).mem.bytes = true ∧ wctx.el.ks = .s (wst []) ∧ wctx.clean [xf.sa, xf.sb] ∧
    (wst []).windowCheck (wctx.src 0 xf.sa) true = .ok (0, 1020, 4) ∧
    ((((wst []).windows.get 0).page? 1020).map fun a => (a.pa, a.mt)) = some (1084, 0) ∧
    (stwU m).recallTraps 16 (some (0, 0, 0)) = [] ∧
    (stw m).mem.overlaps 16 (wordMask 1084 4) (some (0, 0, 0)) = decide (m ≠ 0) ∧ ∃ t, exec (.stw xf) (stw m) = .next t := by
  refine ⟨rfl, rfl, rfl, rfl, by decide, by decide, ?_, ?_, of_isNext ?_⟩
  · rcases h with rfl | rfl <;> decide +kernel
  · rcases h with rfl | rfl <;> decide
  · show isNext (execStw xf (stw m)) = true
    rcases h with rfl | rfl <;> decide +kernel

/-! ### Single firings against hand calculation from the rules -/

/-- The element after one firing on a running device. -/
def after (i : Instr) (el : Elem) : Option Elem :=
  match exec i (sta el) with
  | .next t => (t.at? 0 0 0).map Ctx.el
  | _ => none

/-- A register after one firing of a C element whose d0 and d1 hold two values. -/
def reg3 (i : Instr) (a b : Payload) : Option Payload :=
  (after i { elt .C (dat 7) with d := (Vector.replicate 8 0 |>.set 0 a).set 1 b }).map fun el => el.d.get 3

/-- d0 and d1 to d3, with a MOD. -/
def rr (md : BitVec 4) : RForm := ⟨.reg 3, .reg 0, .reg 1, 0, 8, md⟩

-- R178, the table of .b lanes: its four rows in lanes 0 to 3.
theorem test_add_b_wraps : reg3 (.add .b (rr 0)) 0x802070F0 0xFF702020 = some 0x7F909010 := by decide +kernel
theorem test_add_b_sat : reg3 (.add .b (rr 1)) 0x802070F0 0xFF702020 = some 0x807F7F10 := by decide +kernel
theorem test_add_b_usat : reg3 (.add .b (rr 2)) 0x802070F0 0xFF702020 = some 0xFF9090FF := by decide +kernel
theorem test_sub_b_usat : reg3 (.sub .b (rr 2)) 0x802070F0 0xFF702020 = some 0x000050D0 := by decide +kernel
theorem test_mulh_b : reg3 (.mulh .b (rr 0)) 0x802070F0 0xFF702020 = some 0x000E0EFE := by decide +kernel
theorem test_mulh_b_u : reg3 (.mulh .b (rr 1)) 0x802070F0 0xFF702020 = some 0x7F0E0E1E := by decide +kernel
-- R178, the shifts of 0xF0.
theorem test_sra_b : reg3 (.sra .b (rr 0)) 0xF0F0 0x0902 = some 0xFFFC := by decide +kernel
theorem test_shr_b : reg3 (.shr .b (rr 0)) 0xF0F0 0x0902 = some 0x003C := by decide +kernel
theorem test_shl_b : reg3 (.shl .b (rr 0)) 0xF0 0x04 = some 0 := by decide +kernel
-- R161: 15 counts to 16 and wraps under an IMM of 16, and the predicate is set.
theorem test_cnti_wraps : (after (.cnti ⟨.reg 3, .reg 0, 16, 0, 10⟩) { elt .C (dat 7) with d := Vector.replicate 8 15 }).map
    (fun el => (el.d.get 3, el.p)) = some (0, 4) := by decide +kernel
-- R159: a selector from 0x80 up gives 0; bits 6 and 5 are ignored.
theorem test_shuf : reg3 (.shuf (rr 0)) 0x44332211 0x83806102 =
    some 0x1111111111111111111111111111111111111111111111111111111100002233 := by decide +kernel
-- R160: the narrow halves of A, then of B, from lane 8 on.
theorem test_pack : reg3 (.pack (rr 0)) 0xAAAA1111 0xBBBB2222 = some (0x1111 + 0x2222 * 2 ^ 128) := by decide +kernel
-- R173: no carry from one 64-bit lane to the next.
theorem test_addx : reg3 (.addx (rr 0)) 0xFFFFFFFFFFFFFFFF 2 = some 1 := by decide +kernel
-- R187: 1 + 2^-24 lies halfway and rounds to even; upward it is the next number.
theorem test_fadd_rne : reg3 (.faddF32 (rr 0)) 0x3F800000 0x33800000 = some 0x3F800000 := by decide +kernel
-- R189: FCLT is false of equal numbers in every lane but those of -1 and 0.
theorem test_fclt : reg3 (.fcltF32 (rr 0)) 0xBF800000 0 = some 0xFFFFFFFF := by decide +kernel
-- R166: the third JOIN of a count of 3 counts anew.
theorem test_join : (after (.join ⟨.out 0, .zero, .zero, 0, 3⟩) { elt .C (dat 7) with joinCt := Vector.replicate 32 2 }).map
    (fun el => el.joinCt.get 0) = some 0 := by decide +kernel
-- R236: two lanes of A are chosen, and they stand in lanes 0 and 1.
theorem test_cmpr : reg3 (.cmpr (rr 0)) 0x44444444333333332222222211111111 0x00000001000000000000000100000000 =
    some 0x4444444422222222 := by decide +kernel
-- R27, R398: a poisoned operand ends the launch with end state 3.
theorem test_poison : (match exec (.mov rf) (staK (elt .C { dat 7 with poison := true })) with
    | .next t => t.sched.launches.map Launch.endState
    | _ => []) = [3] := by decide +kernel
-- R162, R96: HALT sets p0, inverts p7, and the element has halted.
theorem test_halt : (after (.halt ⟨0x81, 0x80, 0⟩) { elt .C (dat 7) with p := 0x80 }).map (fun el => (el.p, el.stop)) =
    some (1, .halted) := by decide +kernel
-- R70, R94: a popped head goes, and the next token is the head.
theorem test_pop : (after (.nop ⟨0, 0, 1⟩) { elt .C (dat 7) with
    ins := Vector.replicate 4 { Input.empty with fifo := [dat 1, dat 2] } }).map (fun el => ((el.ins.get 0).fifo, (el.ins.get 1).fifo)) =
    some ([dat 2], [dat 1, dat 2]) := by decide +kernel
-- R64, R86: a step of the machine runs the placed word.
theorem test_step_runs : (match step (State.reset.withFetchWord 32 0x0130D080) with
    | .next t => (t.at? 0 0 0).map (fun c => (c.el.d.get 3, c.el.p))
    | _ => none) = some (0, 0) := by decide +kernel

/-! ### The assembler -/

/-- The action word of a slot written in Foraux. -/
def actOf (text : String) : Option Word := (assembleSlot text).map (·.act)

-- Idiom 1, R180, R212, R254, R300: predicate terms, a rounding mode with a tag, a window with its level, a reduction.
theorem test_asm_words : (assembleSlot "when p0 i0:d/t1  ->  addi.s o1, i0, #-1  pop i0  wp p0" = some ⟨0x90020101, 0x5F98FF18⟩)
    ∧ ["-> PSET +p0 -p3 ^p6  pop i2", "-> xrd.rz o2, xa1, t2", "-> wsync o1, w0, lv3  pop i3",
        "-> red.max i0, i1, vl1  pop i0"].map actOf =
      [some 0x05414840, some 0x9DADD051, some 0xD59DD818, some 0xF3C89141] := by decide +kernel
-- R133, R135: a constant leaves no room for .sat, and a P form takes no wp. R121, R127: a negative number, an underscore, a
-- decimal, and a scale.
theorem test_asm_values : (actOf "-> add.h.sat d4, i0, k7", actOf "-> pset +p1 wp p2") = (none, none) ∧
    (payload? (lexFrom [] ".h -1, 0x1_0".toList), payload? (lexFrom [] ".f32 -1.5, 3".toList),
      payload? (lexFrom [] ".e8 -3".toList)) = (some 0x10FFFF, some 0x40400000BFC00000, some 124) := by decide +kernel

/-- A source of several lines. -/
def sourceOf (l : List String) : List Char := l.flatMap fun x => x.toList ++ ['\n']

/-- A source of one graph: idiom 1 without its body. -/
def loopSource : List Char :=
  sourceOf [".graph demo ; one loop", ".element gen C pred 0x01", ".edge 20 gen.o1 -> gen.i0 fifo 2", ".init 20 d t1 .w 3",
    ".slot gen 0 when p0 i0:d/t1 -> addi.s o1, i0, #-1 pop i0 wp p0", ".endg"]

/-- What foras reports of a source. -/
def reported (l : List String) : Option Nat :=
  match assemble (sourceOf l) with
  | .error n => some n
  | .ok _ => none

theorem test_assembles : (match parseLines (sourceLines loopSource) with
    | .ok gs => gs.map fun g => (g.name, g.badLine?, g.size)
    | .error _ => []) = [("demo".toList, none, 1184)] := by decide +kernel
-- R139: a record's line is reported ahead of the slot that uses its entry; an error of the text comes before every other;
-- WALK is refused in every source.
theorem test_reports : [[".graph g", ".element a C", ".slot a 0 when i0:d/t2 -> nop", ".format t2 0x80000000", ".endg"],
    [".graph g", ".element a C", ".format t2 0x80000000", ".edge", ".endg"],
    [".graph g", ".element a E", ".edge 1 a.o0 -> a.i0", ".slot a 0 -> walk o0, d1", ".endg"]].map reported =
    [some 4, some 4, some 4] := by decide +kernel
theorem test_comments : (linesOf "a ; b\nc".toList).map uncomment = (linesOf "a ;\nc;d".toList).map uncomment := by
  decide +kernel

end Sys2Proof.Tests
end

section
/-! R110: the manual's worked slot line, read piece by piece: its words on either side of the arrow, the trigger term by
term, and the action from its mnemonic, clauses and operands. -/

namespace Sys2Proof.Proofs.WorkedSlot

open Sys2Proof Sys2Proof.Machine

/-! ### How a slot line is read -/

/-- The first arrow of a line is where it is cut. -/
theorem cutArrow_append_arrow (l r : List Lex) (h : Lex.arrow ∉ l) : cutArrow (l ++ .arrow :: r) = some (l, r) := by
  induction l with
  | nil => rfl
  | cons x l ih =>
    have hl : Lex.arrow ∉ l := fun hm => h (.tail x hm)
    cases x with
    | arrow => exact absurd (.head l) h
    | comma => simp [cutArrow, ih hl]
    | word w => simp [cutArrow, ih hl]

/-- Words with neither comma nor arrow between them are one group. -/
theorem groups_map_word (ws : List (List Char)) : groups (ws.map .word) = some [ws] := by
  induction ws with
  | nil => rfl
  | cons w ws ih => simp [groups, ih]

@[simp] theorem plainWords_map_word (ws : List (List Char)) : plainWords (ws.map .word) = some ws := by
  simp [plainWords, groups_map_word]

/-- `when` and its terms give the trigger word with V set and each term added in turn (R130, R131). -/
theorem trigger?_when_terms (ts : List (List Char)) (h : ts ≠ []) :
    trigger? (("when".toList :: ts).map .word) = ts.foldlM trigTerm? 0x80000000 := by
  have hk : isKw "when" "when".toList = true := by decide
  simp only [trigger?, plainWords_map_word, Option.bind_eq_bind, Option.bind_some, hk, bne_iff_ne.mpr h, Bool.and_self,
    if_true]

/-- Whether a piece of a line opens a clause (R130). -/
def opensClause : Lex → Bool
  | .word w => isKw "pop" w || isKw "wp" w
  | _ => false

/-- The pieces of an action before its first clause are its operands, and the words from there on its clauses (R130). -/
theorem action?_of_pieces {m : List Char} {opc : Nat} {mods : List (List Char)} {ops : List Lex} {k : List Char}
    {ws : List (List Char)} {pop : BitVec 4} {wp : Option Nat} (hm : opcodeOf? m = some (opc, mods))
    (hops : ∀ x ∈ ops, opensClause x = false) (hk : opensClause (.word k) = true)
    (hcl : clauses? (k :: ws) = some (pop, wp)) :
    action? (.word m :: (ops ++ (k :: ws).map .word)) = operands? opc mods ops pop wp := by
  have hcut (r : List Lex) : action? (.word m :: r) = (opcodeOf? m).bind fun x =>
      (plainWords (r.dropWhile fun x => !opensClause x)).bind fun ws => (clauses? ws).bind fun c =>
        operands? x.1 x.2 (r.takeWhile fun x => !opensClause x) c.1 c.2 := rfl
  have hno : ∀ x ∈ ops, (!opensClause x) = true := by simpa using hops
  have htake : (ops ++ (k :: ws).map Lex.word).takeWhile (fun x => !opensClause x) = ops := by
    simp [List.takeWhile_append_of_pos hno, hk]
  have hdrop : (ops ++ (k :: ws).map Lex.word).dropWhile (fun x => !opensClause x) = (k :: ws).map .word := by
    simp [List.dropWhile_append_of_pos hno, hk]
  simp only [hcut, htake, hdrop, plainWords_map_word, hm, hcl, Option.bind_some]

/-- A line whose two sides are read assembles to the trigger word and the encoded instruction (R87, R89, R130). -/
theorem assembleSlot_of_sides {text : String} {l r : List Lex} {t : Word} {i : Instr}
    (hlex : lexFrom [] (uncomment text.toList) = l ++ .arrow :: r) (hl : Lex.arrow ∉ l)
    (ht : trigger? l = some t) (hi : action? r = some i) : assembleSlot text = some ⟨t, encode i⟩ := by
  simp [assembleSlot, slotText?, hlex, cutArrow_append_arrow l r hl, ht, hi]

/-! ### The worked line -/

/-- The terms between `when` and the arrow. -/
def terms : List (List Char) := ["p0", "!p1", "i0:d/t2", "i1:d"].map String.toList

/-- The operands between the mnemonic and the first clause. -/
def operandText : List Lex :=
  [.word "d2".toList, .comma, .word "i0".toList, .comma, .word "i1".toList]

/-- The clauses at the end of the line. -/
def clauseWords : List (List Char) := ["pop", "i0", "i1", "wp", "p1"].map String.toList

/-- The instruction with the fields of the action row of R110. -/
def instr : Instr := .ffmaF32 ⟨.reg 2, .head 0, .head 1, 0b0011, 0b1001, 0⟩

theorem lexFrom_line :
    lexFrom [] (uncomment "when p0 !p1 i0:d/t2 i1:d -> ffma.f32 d2, i0, i1 pop i0 i1 wp p1".toList) =
      ("when".toList :: terms).map .word ++
        .arrow :: .word "ffma.f32".toList :: (operandText ++ clauseWords.map .word) := by
  decide

/-- The terms set PMASK and PVAL bit 0, then PMASK bit 1, then TAG0 and C0, then C1 (R131). -/
theorem foldlM_trigTerm?_terms : terms.foldlM trigTerm? 0x80000000 = some 0xA0120301 := by
  have h0 : trigTerm? 0x80000000 "p0".toList = some 0x80000101 := by decide
  have h1 : trigTerm? 0x80000101 "!p1".toList = some 0x80000301 := by decide
  have h2 : trigTerm? 0x80000301 "i0:d/t2".toList = some 0xA0020301 := by decide
  have h3 : trigTerm? 0xA0020301 "i1:d".toList = some 0xA0120301 := by decide
  simp only [terms, List.map_cons, List.map_nil, List.foldlM_cons, List.foldlM_nil, h0, h1, h2, h3, Option.bind_eq_bind,
    Option.bind_some, Option.pure_def]

theorem opcodeOf?_ffma_f32 : opcodeOf? "ffma.f32".toList = some (0x69, []) := by decide

theorem clauses?_clauseWords : clauses? clauseWords = some (0b0011, some 1) := by decide

theorem operands?_operandText : operands? 0x69 [] operandText 0b0011 (some 1) = some instr := by decide

theorem action?_line :
    action? (.word "ffma.f32".toList :: (operandText ++ clauseWords.map .word)) = some instr :=
  (action?_of_pieces opcodeOf?_ffma_f32 (by decide) (by decide) clauses?_clauseWords).trans operands?_operandText

/-- The fields of the action row of R110, each in its place, are its action word (R89). -/
theorem encode_instr : encode instr = 0x69289390 :=
  calc encode instr
    _ = 0x69#8 ++ 2#4 ++ 8#4 ++ 9#4 ++ 0b0011#4 ++ 0b1001#4 ++ 0#4 := rfl
    _ = 0x69289390 := by decide

/-- Settles O59: the terms left of the arrow give the trigger word, and the instruction right of it encodes to the action
word. -/
theorem workedSlotAssembles : Obligations.WorkedSlotAssembles := by
  have ht : trigger? (("when".toList :: terms).map .word) = some 0xA0120301 :=
    (trigger?_when_terms terms (by decide)).trans foldlM_trigTerm?_terms
  have h := assembleSlot_of_sides lexFrom_line (by decide) ht action?_line
  rwa [encode_instr] at h

end Sys2Proof.Proofs.WorkedSlot
end

section
/-! R174 to R178: the integer families, the shifts and ADDI in every shape. First what each lane operation computes at
every width, then the payload built from its lanes, then the firing that completes with it. -/

namespace Sys2Proof.Proofs.IntegerRuns

open Sys2Proof Sys2Proof.Machine

/-! ### The exact result modulo the lane width, under either reading (R176) -/

theorem ofInt_add_readings {w : Nat} (a b : BitVec w) :
    BitVec.ofInt w ((a.toNat : Int) + b.toNat) = BitVec.ofInt w (a.toInt + b.toInt) := by
  simp [BitVec.ofInt_add]

theorem ofInt_sub_readings {w : Nat} (a b : BitVec w) :
    BitVec.ofInt w ((a.toNat : Int) - b.toNat) = BitVec.ofInt w (a.toInt - b.toInt) := by
  simp [Int.sub_eq_add_neg, BitVec.ofInt_add, BitVec.ofInt_neg]

theorem ofInt_mul_readings {w : Nat} (a b : BitVec w) :
    BitVec.ofInt w ((a.toNat : Int) * b.toNat) = BitVec.ofInt w (a.toInt * b.toInt) := by
  simp [BitVec.ofInt_mul]

/-! ### Lane operations -/

theorem clampInt_bounds {x lo hi : Int} (h : lo ≤ hi) : lo ≤ clampInt x lo hi ∧ clampInt x lo hi ≤ hi := by
  unfold clampInt
  split
  · exact ⟨le_refl _, h⟩
  · split <;> omega

/-- A number that a lane can hold unsigned is read back. -/
theorem toNat_ofInt_of_mem {w : Nat} {n : Int} (h0 : 0 ≤ n) (h1 : n ≤ 2 ^ w - 1) :
    ((BitVec.ofInt w n).toNat : Int) = n := by
  have hlt : n < (2 ^ w : Nat) := by push_cast; omega
  rw [BitVec.toNat_ofInt, Int.emod_eq_of_lt h0 hlt, Int.toNat_of_nonneg h0]

/-- SAT of an operation whose wrapped result is the same under either reading (R176). -/
theorem satLane_satRel {w : Nat} (hw : 0 < w) {op : Int → Int → Int} {a b : BitVec w}
    (hop : BitVec.ofInt w (op a.toNat b.toNat) = BitVec.ofInt w (op a.toInt b.toInt)) (isat : Nat) :
    SatRel w isat op a b (satLane w isat op a b) := by
  refine ⟨fun h => ?signed, fun h => ?unsigned, fun h1 h2 => ?wrapped⟩
  case signed =>
    have hpos : (0 : Int) < 2 ^ (w - 1) := by positivity
    obtain ⟨hlo, hhi⟩ :=
      clampInt_bounds (x := op a.toInt b.toInt) (lo := -2 ^ (w - 1)) (hi := 2 ^ (w - 1) - 1) (by omega)
    rw [satLane, if_pos h, BitVec.toInt_ofInt_eq_self hw hlo (by omega)]
  case unsigned =>
    have hpos : (0 : Int) < 2 ^ w := by positivity
    obtain ⟨hlo, hhi⟩ := clampInt_bounds (x := op a.toNat b.toNat) (lo := 0) (hi := 2 ^ w - 1) (by omega)
    rw [satLane, if_neg (by omega), if_pos h, toNat_ofInt_of_mem hlo hhi]
  case wrapped =>
    rw [satLane, if_neg h1, if_neg h2]
    exact ⟨rfl, hop⟩

/-- The high half of an unsigned product fits the lane. -/
theorem toNat_mulhLane_one {w : Nat} (a b : BitVec w) : (mulhLane w 1 a b).toNat = a.toNat * b.toNat / 2 ^ w := by
  have hlt : a.toNat * b.toNat / 2 ^ w < 2 ^ w :=
    Nat.div_lt_of_lt_mul (Nat.mul_lt_mul'' a.isLt b.isLt)
  rw [mulhLane, if_pos rfl, BitVec.toNat_ofNat, Nat.mod_eq_of_lt hlt]

/-- The high half of a signed product fits the lane: the factors are at most half the lane's range in size. -/
theorem toInt_mulhLane {w sgn : Nat} (hw : 0 < w) (hs : sgn ≠ 1) (a b : BitVec w) :
    (mulhLane w sgn a b).toInt = a.toInt * b.toInt / 2 ^ w := by
  have hpos : (0 : Int) < 2 ^ (w - 1) := by positivity
  have htwice : (2 : Int) ^ w = 2 * 2 ^ (w - 1) := by rw [← pow_succ', Nat.sub_add_cancel hw]
  have hsize (x : BitVec w) : |x.toInt| ≤ 2 ^ (w - 1) := abs_le.mpr ⟨x.le_toInt, BitVec.toInt_lt.le⟩
  have hprod : |a.toInt * b.toInt| ≤ 2 ^ (w - 1) * 2 ^ (w - 1) := by
    rw [abs_mul]
    exact mul_le_mul (hsize a) (hsize b) (abs_nonneg _) hpos.le
  obtain ⟨hlo, hhi⟩ := abs_le.mp hprod
  have hlo' : -2 ^ (w - 1) ≤ a.toInt * b.toInt / 2 ^ w := by
    rw [htwice, Int.le_ediv_iff_mul_le (by omega)]
    nlinarith
  have hhi' : a.toInt * b.toInt / 2 ^ w < 2 ^ (w - 1) := by
    rw [htwice, Int.ediv_lt_iff_lt_mul (by omega)]
    nlinarith
  rw [mulhLane, if_neg hs, BitVec.toInt_ofInt_eq_self hw hlo' hhi']

/-- The order of MIN and MAX (R175): unsigned under a 1, else signed. -/
theorem ltLane_iff {w sgn : Nat} {a b : BitVec w} :
    ltLane w sgn a b = true ↔ if sgn = 1 then a.toNat < b.toNat else a.toInt < b.toInt := by
  unfold ltLane
  split <;> simp

/-- A MOD of 1 as the number that the lane operations take. -/
theorem toNat_mod_eq_one_iff (md : BitVec 4) : md.toNat = 1 ↔ md = 1 := BitVec.toNat_inj (y := 1#4)

/-- MULH under its MOD (R175). -/
theorem mulhLane_spec {w : Nat} (hw : 0 < w) (md : BitVec 4) (a b : BitVec w) :
    if md = 1 then (mulhLane w md.toNat a b).toNat = a.toNat * b.toNat / 2 ^ w
    else (mulhLane w md.toNat a b).toInt = a.toInt * b.toInt / 2 ^ w := by
  split
  next h => subst h; exact toNat_mulhLane_one a b
  next h => exact toInt_mulhLane hw (mt (toNat_mod_eq_one_iff md).mp h) a b

/-- MIN under its MOD (R175). -/
theorem minLane_spec {w : Nat} (md : BitVec 4) (a b : BitVec w) :
    if md = 1 then (if ltLane w md.toNat b a then b else a).toNat = min a.toNat b.toNat
    else (if ltLane w md.toNat b a then b else a).toInt = min a.toInt b.toInt := by
  simp only [ltLane_iff, toNat_mod_eq_one_iff]
  split <;> split <;> omega

/-- MAX under its MOD (R175). -/
theorem maxLane_spec {w : Nat} (md : BitVec 4) (a b : BitVec w) :
    if md = 1 then (if ltLane w md.toNat a b then b else a).toNat = max a.toNat b.toNat
    else (if ltLane w md.toNat a b then b else a).toInt = max a.toInt b.toInt := by
  simp only [ltLane_iff, toNat_mod_eq_one_iff]
  split <;> split <;> omega

theorem toNat_shlLane {w : Nat} (a b : BitVec w) :
    (shlLane w a b).toNat = if b.toNat < w then a.toNat * 2 ^ b.toNat % 2 ^ w else 0 := by
  unfold shlLane
  split
  · rw [BitVec.toNat_shiftLeft, Nat.shiftLeft_eq]
  · rfl

theorem toNat_shrLane {w : Nat} (a b : BitVec w) :
    (shrLane w a b).toNat = if b.toNat < w then a.toNat / 2 ^ b.toNat else 0 := by
  unfold shrLane
  split
  · rw [BitVec.toNat_ushiftRight, Nat.shiftRight_eq_div_pow]
  · rfl

/-- SRA rounds down below the lane width, and from there on gives the sign (R177). -/
theorem sraLane_spec {w : Nat} (a b : BitVec w) :
    if b.toNat < w then (sraLane w a b).toInt = a.toInt / 2 ^ b.toNat
    else sraLane w a b = if a.toInt < 0 then BitVec.allOnes w else 0 := by
  split
  next h => rw [sraLane, if_pos h, BitVec.toInt_sshiftRight, Int.shiftRight_eq_div_pow]; norm_cast
  next h => rw [sraLane, if_neg h]

/-! ### From lanes to payloads, and from payloads to firings -/

theorem shWidth_pos (sh : Shape) : 0 < shWidth sh := by cases sh <;> decide

/-- The lanes that a shape computes lie inside the payload (R174). -/
theorem shWidth_mul_shLanes_le (sh : Shape) : shWidth sh * shLanes sh ≤ 256 := by cases sh <;> decide

/-- A result computed lane by lane satisfies what its lane function satisfies; its other lanes are zero. -/
theorem lanesRel_intLanes {sh : Shape} {h : BitVec (shWidth sh) → BitVec (shWidth sh) → BitVec (shWidth sh)}
    {R : BitVec (shWidth sh) → BitVec (shWidth sh) → BitVec (shWidth sh) → Prop} (hR : ∀ a b, R a b (h a b))
    (a b : Payload) : LanesRel sh (intLanes sh h a b) a b R := by
  have hlane := lane_ofLanes (f := fun i => h (lane a (shWidth sh) i) (lane b (shWidth sh) i)) (shWidth_pos sh)
    (shWidth_mul_shLanes_le sh)
  constructor
  · intro l hl
    rw [intLanes, hlane, if_pos hl]
    exact hR _ _
  · intro l hl
    rw [intLanes, hlane, if_neg (by omega)]

/-- An instruction that is a lane-wise family runs, and its lanes satisfy what the lane function satisfies under the
effective MOD (R92, R174). -/
theorem intRuns_of_intOp {s : State} {c : Ctx} {sh : Shape} {f : RForm} {i : Instr}
    {h : BitVec 4 → BitVec (shWidth sh) → BitVec (shWidth sh) → BitVec (shWidth sh)}
    {R : BitVec (shWidth sh) → BitVec (shWidth sh) → BitVec (shWidth sh) → Prop}
    (hs : s.ctx? = some c) (hf : c.readyR f none) (hi : exec i s = intOp sh f s h)
    (hR : ∀ a b, R a b (h (modOf f) a b)) : IntRuns s c sh i f R := by
  obtain ⟨hclean, htag⟩ := hf
  refine ⟨intLanes sh (h (modOf f)) (c.opA f) (c.opB f), ?_, lanesRel_intLanes hR _ _⟩
  rw [hi]
  exact ordinaryR_next hs rfl hclean htag

/-! ### What the families are (R175, R177) -/

section
variable (sh : Shape) (f : RForm) (s : State)

theorem exec_add : exec (.add sh f) s = intOp sh f s fun md => satLane _ md.toNat (· + ·) := rfl
theorem exec_sub : exec (.sub sh f) s = intOp sh f s fun md => satLane _ md.toNat (· - ·) := rfl
theorem exec_mul : exec (.mul sh f) s = intOp sh f s fun md => satLane _ md.toNat (· * ·) := rfl
theorem exec_mulh : exec (.mulh sh f) s = intOp sh f s fun md => mulhLane _ md.toNat := rfl
theorem exec_min : exec (.min sh f) s = intOp sh f s fun md a b => if ltLane _ md.toNat b a then b else a := rfl
theorem exec_max : exec (.max sh f) s = intOp sh f s fun md a b => if ltLane _ md.toNat a b then b else a := rfl
theorem exec_shl : exec (.shl sh f) s = intOp sh f s fun _ => shlLane _ := rfl
theorem exec_shr : exec (.shr sh f) s = intOp sh f s fun _ => shrLane _ := rfl
theorem exec_sra : exec (.sra sh f) s = intOp sh f s fun _ => sraLane _ := rfl

end

/-! ### The statements -/

/-- ADDI adds the sign-extended IMM in every computed lane (R175). -/
theorem addi_runs {s : State} {c : Ctx} (sh : Shape) {f : IForm} (hs : s.ctx? = some c) (hf : c.readyI f none) :
    ∃ r, exec (.addi sh f) s = .next (c.firedI s f ⟨r, lowNonzero r, none⟩) ∧
      LanesRel sh r (c.src (idxI f) f.sa) 0 fun a _ z => z = a + f.imm.signExtend (shWidth sh) := by
  obtain ⟨hclean, htag⟩ := hf
  have hexec : exec (.addi sh f) s = execAddi sh f s := rfl
  refine ⟨intLanes sh (fun x _ => x + f.imm.signExtend (shWidth sh)) (c.src (idxI f) f.sa) 0, ?_,
    lanesRel_intLanes (R := fun a _ z => z = a + f.imm.signExtend _) (fun _ _ => rfl) _ _⟩
  rw [hexec]
  exact ordinaryI_next hs rfl hclean htag

/-- Settles O1: each family is a lane-wise operation, and each lane operation gives what its rule asks. -/
theorem integerArithmeticRuns : Obligations.IntegerArithmeticRuns := by
  intro s c sh hs
  have hw := shWidth_pos sh
  refine ⟨fun f hf => ⟨?add, ?sub, ?mul, ?mulh, ?min, ?max⟩, fun f hf => addi_runs sh hs hf⟩
  case add => exact intRuns_of_intOp hs hf (exec_add sh f s) fun a b => satLane_satRel hw (ofInt_add_readings a b) _
  case sub => exact intRuns_of_intOp hs hf (exec_sub sh f s) fun a b => satLane_satRel hw (ofInt_sub_readings a b) _
  case mul => exact intRuns_of_intOp hs hf (exec_mul sh f s) fun a b => satLane_satRel hw (ofInt_mul_readings a b) _
  case mulh => exact intRuns_of_intOp hs hf (exec_mulh sh f s) fun a b => mulhLane_spec hw _ a b
  case min => exact intRuns_of_intOp hs hf (exec_min sh f s) fun a b => minLane_spec _ a b
  case max => exact intRuns_of_intOp hs hf (exec_max sh f s) fun a b => maxLane_spec _ a b

/-- Settles O3: each shift is a lane-wise operation that takes its count from the whole lane of B. -/
theorem shiftCountsUnmasked : Obligations.ShiftCountsUnmasked := by
  intro s c sh f hs hf
  refine ⟨?shl, ?shr, ?sra⟩
  case shl => exact intRuns_of_intOp hs hf (exec_shl sh f s) fun a b => toNat_shlLane a b
  case shr => exact intRuns_of_intOp hs hf (exec_shr sh f s) fun a b => toNat_shrLane a b
  case sra => exact intRuns_of_intOp hs hf (exec_sra sh f s) fun a b => sraLane_spec a b

end Sys2Proof.Proofs.IntegerRuns
end

section
/-! R146, R149, R150: the moves, and the two instructions that read and write the predicate byte. -/

namespace Sys2Proof.Proofs.MovesAndPredicates

open Sys2Proof Sys2Proof.Machine

/-! ### Results -/

theorem lane32_resMovi (imm : BitVec 8) {l : Nat} (hl : l < 8) : lane32 (resMovi imm) l = imm.signExtend 32 := by
  rw [lane32, resMovi, lane_allLanes (by decide) hl]

/-- Sign extension to a word keeps a number, so it gives 0 of 0 alone. -/
theorem signExtend_eq_zero_iff (imm : BitVec 8) : imm.signExtend 32 = 0 ↔ imm = 0 := by
  have hkeep : (imm.signExtend 32).toInt = imm.toInt := BitVec.toInt_signExtend_of_le (by decide)
  rw [← BitVec.toInt_inj, hkeep, ← BitVec.toInt_inj]
  rfl

/-- The condition of MOVI (R146). -/
theorem defaultCond_resMovi (imm : BitVec 8) : defaultCond (resMovi imm) = (imm != 0) := by
  rw [defaultCond, lane32_resMovi imm (by decide), Bool.eq_iff_iff]
  simp only [bne_iff_ne, ne_eq, signExtend_eq_zero_iff]

/-- A predicate after PPUT (R150). -/
theorem pputPreds_bit (p imm v : BitVec 8) {n : Nat} (hn : n < 8) :
    (pputPreds p imm v).getLsbD n = if imm.getLsbD n then v.getLsbD n else p.getLsbD n := by
  simp only [pputPreds, BitVec.getLsbD_or, BitVec.getLsbD_and, BitVec.getLsbD_not, hn, decide_true, Bool.true_and]
  cases imm.getLsbD n <;> simp

/-! ### Firings -/

section
variable {s : State} {c : Ctx} (hs : s.ctx? = some c)
include hs

theorem mov_runs {f : RForm} (hf : c.readyR f none) :
    exec (.mov f) s = .next (c.firedR s f ⟨c.opA f, lowNonzero (c.opA f), none⟩) := by
  obtain ⟨hclean, htag⟩ := hf
  have hexec : exec (.mov f) s = execMov f s := rfl
  rw [hexec]
  exact ordinaryR_next hs rfl hclean htag

theorem movk_runs {f : IForm} (hk : f.sa = .const) (hf : c.readyI f none) :
    exec (.movk f) s = .next (c.firedI s f
      ⟨c.el.img.consts.get (Fin.ofNat 16 (idxI f).toNat),
        lowNonzero (c.el.img.consts.get (Fin.ofNat 16 (idxI f).toNat)), none⟩) := by
  obtain ⟨hclean, htag⟩ := hf
  have hexec : exec (.movk f) s = execMovk f s := rfl
  have hsrc : c.src (f.imm.extractLsb' 0 4) f.sa = c.el.img.consts.get (Fin.ofNat 16 (idxI f).toNat) := by
    rw [hk]; rfl
  rw [hexec]
  exact ordinaryI_next hs (congrArg Out.plain hsrc) hclean htag

/-- With no head or constant among its sources, MOVI pushes a token of tag 1, LAST 0 and COORD 0 (R143). -/
theorem movi_runs {f : IForm} (hz : f.sa = .zero) (ht : c.inSets (pushesOf f.dst ⟨1, .data, false, false, 0, 0⟩)) :
    exec (.movi f) s = .next (c.fired s ((c.el.writeDst f.dst (resMovi f.imm)).withPw f.pw (f.imm != 0))
      (pushesOf f.dst ⟨1, .data, false, false, 0, resMovi f.imm⟩) f.pop 0) := by
  have hexec : exec (.movi f) s = execMovi f s := rfl
  have htok (v : Payload) : c.tok (f.imm.extractLsb' 0 4) [f.sa] none v = ⟨1, .data, false, false, 0, v⟩ := by
    rw [hz]; rfl
  have hclean : [f.sa].any c.poisoned = false := by rw [hz]; rfl
  have hread : readMask [f.sa] = 0 := by rw [hz]; rfl
  have hout : Out.plain (resMovi f.imm) = ⟨resMovi f.imm, f.imm != 0, none⟩ := by
    rw [Out.plain, defaultCond_resMovi]
  rw [hexec, execMovi, ordinaryI_next hs hout hclean (by rw [htok]; exact ht), htok, hread]
  rfl

theorem pget_runs {f : RForm} (hf : c.readyR f none) :
    exec (.pget f) s = .next (c.firedR s f ⟨c.el.p.setWidth 256, lowNonzero (c.el.p.setWidth 256), none⟩) := by
  obtain ⟨hclean, htag⟩ := hf
  have hexec : exec (.pget f) s = execPget f s := rfl
  rw [hexec]
  exact ordinaryR_next hs rfl hclean htag

theorem pput_runs {f : IForm} (hclean : c.clean [f.sa]) :
    exec (.pput f) s = .next (c.fired s { c.el with p := pputPreds c.el.p f.imm ((c.src 0 f.sa).extractLsb' 0 8) } []
      f.pop (readMask [f.sa])) := by
  have hexec : exec (.pput f) s = execPput f s := rfl
  rw [hexec, execPput, withCtx_of hs]
  exact quiet_next hclean

end

/-! ### The statement -/

theorem movesRun : MovesRun := fun _s _c hs =>
  ⟨fun _f hf => mov_runs hs hf, fun _f hk hf => movk_runs hs hk hf, fun f hz ht =>
    ⟨resMovi f.imm, fun _l hl => lane32_resMovi f.imm hl, movi_runs hs hz ht⟩⟩

theorem predicateReadsAndWrites : PredicateReadsAndWrites := by
  refine fun s c hs => ⟨fun f hf => ⟨c.el.p.setWidth 256, fun n hn => ?_, fun n hn => ?_, pget_runs hs hf⟩,
    fun f hclean => ⟨_, fun n hn => ?_, pput_runs hs hclean⟩⟩
  · rw [BitVec.getLsbD_setWidth, decide_eq_true (by omega : n < 256), Bool.true_and]
  · rw [BitVec.getLsbD_setWidth, BitVec.getLsbD_of_ge _ _ hn, Bool.and_false]
  · rw [pputPreds_bit _ _ _ hn, BitVec.getLsbD_extractLsb', decide_eq_true hn, Bool.true_and, Nat.zero_add]

/-- Settles O4: the three moves run (R146), and PGET reads and PPUT writes the predicate byte (R149, R150). -/
theorem movesAndPredicatesRun : Obligations.MovesAndPredicatesRun := ⟨movesRun, predicateReadsAndWrites⟩

end Sys2Proof.Proofs.MovesAndPredicates
end

section
/-! R89 to R99: the word of an instruction and the instruction of a word. A row of the opcode map builds an instruction
of the row's own opcode and form, and the fields of a form stand in its word side by side. -/

namespace Sys2Proof.Proofs.Encoding

open Sys2Proof Sys2Proof.Machine Sys2Proof.Laws.Opcode

/-! ### Operand codes (R90) -/

@[simp] theorem ofCode_code_src (x : Src) : Src.ofCode x.code = .ok x := by
  cases x with
  | reg n => revert n; decide
  | head n => revert n; decide
  | const => rfl
  | zero => rfl

@[simp] theorem ofCode_code_dst (x : Dst) : Dst.ofCode x.code = .ok x := by
  cases x with
  | reg n => revert n; decide
  | out n => revert n; decide
  | discard => rfl

theorem code_of_ofCode_src {c : BitVec 4} {x : Src} (h : Src.ofCode c = .ok x) : x.code = c := by
  have hall : ∀ c : BitVec 4, ((Src.ofCode c).toOption.map Src.code).getD c = c := by decide
  simpa [h, Except.toOption] using hall c

theorem code_of_ofCode_dst {c : BitVec 4} {x : Dst} (h : Dst.ofCode c = .ok x) : x.code = c := by
  have hall : ∀ c : BitVec 4, ((Dst.ofCode c).toOption.map Dst.code).getD c = c := by decide
  simpa [h, Except.toOption] using hall c

/-! ### The fields of a form (R89)

Each lemma takes the width `v` of the part above as an argument, so that a rewrite with it reads the 32 of a word as a sum. -/

/-- A field that lies above the part a word ends in. -/
theorem field_above (v : Nat) {w n l : Nat} {x : BitVec v} {y : BitVec w} (h : w ≤ n) :
    (x ++ y).extractLsb' n l = x.extractLsb' (n - w) l :=
  BitVec.extractLsb'_append_eq_of_le h

/-- A field that is the part a word ends in. -/
theorem field_last (v : Nat) {w : Nat} {x : BitVec v} {y : BitVec w} : (x ++ y).extractLsb' 0 w = y :=
  (BitVec.extractLsb'_append_eq_of_add_le (by omega)).trans BitVec.extractLsb'_eq_self

/-- Two fields side by side are one field. -/
theorem fields_join {n : Nat} (w : BitVec n) (m k l : Nat) {lo : Nat} (h : m = lo + k) :
    w.extractLsb' m l ++ w.extractLsb' lo k = w.extractLsb' lo (l + k) :=
  BitVec.extractLsb'_append_extractLsb'_eq_extractLsb' h

theorem ofWord_word_R (opc : BitVec 8) (f : RForm) : RForm.ofWord ((Form.R f).word opc) = .ok f := by
  simp [RForm.ofWord, Form.word, -bind_pure_comp, field_above 28, field_above 24, field_above 20, field_above 16, field_above 12,
    field_last 28, field_last 24, field_last 20, field_last 16, field_last 12, field_last 8]
  rfl

theorem ofWord_word_I (opc : BitVec 8) (f : IForm) : IForm.ofWord ((Form.I f).word opc) = .ok f := by
  simp [IForm.ofWord, Form.word, -bind_pure_comp, field_above 28, field_above 24, field_above 16, field_above 12,
    field_last 28, field_last 24, field_last 16, field_last 12, field_last 8]
  rfl

theorem ofWord_word_P (opc : BitVec 8) (f : PForm) : PForm.ofWord ((Form.P f).word opc) = .ok f := by
  simp [PForm.ofWord, Form.word, field_above 28, field_above 24, field_above 16, field_last 28, field_last 24, field_last 16,
    field_last 8]

theorem ofWord_word_X (opc : BitVec 8) (f : XForm) : XForm.ofWord ((Form.X f).word opc) = .ok f := by
  simp [XForm.ofWord, Form.word, -bind_pure_comp, field_above 24, field_above 20, field_above 16, field_above 12,
    field_last 24, field_last 20, field_last 16, field_last 12, field_last 8]
  rfl

/-- The opcode stands in the top byte of every form's word. -/
theorem extractLsb'_word {x : Form} (opc : BitVec 8) (h : x ≠ .event) : (x.word opc).extractLsb' 24 8 = opc := by
  cases x with
  | event => exact absurd rfl h
  | R f => simp [Form.word, field_above 28, field_above 24, field_above 20, field_above 16, field_above 12, field_above 8]
  | I f => simp [Form.word, field_above 28, field_above 24, field_above 16, field_above 12, field_above 8]
  | P f => simp [Form.word, field_above 28, field_above 24, field_above 16, field_above 8]
  | X f => simp [Form.word, field_above 24, field_above 20, field_above 16, field_above 12, field_above 8]

theorem bind_eq_ok {ε α β : Type} {x : Except ε α} {f : α → Except ε β} {b : β} :
    x >>= f = .ok b ↔ ∃ a, x = .ok a ∧ f a = .ok b := by
  cases x <;> simp [bind, Except.bind]

theorem map_eq_ok {ε α β : Type} {x : Except ε α} {f : α → β} {b : β} :
    x.map f = .ok b ↔ ∃ a, x = .ok a ∧ f a = b := by
  cases x <;> simp [Except.map]

/-- The word of the form that a word reads as, under the word's own opcode, is that word. -/
theorem word_of_ofWord_R {w : BitVec 32} {f : RForm} (h : RForm.ofWord w = .ok f) :
    (Form.R f).word (w.extractLsb' 24 8) = w := by
  simp only [RForm.ofWord, bind_eq_ok] at h
  obtain ⟨d, hd, a, ha, b, hb, h⟩ := h
  cases h
  simp [Form.word, code_of_ofCode_src ha, code_of_ofCode_src hb, code_of_ofCode_dst hd, fields_join w 24 4 8,
    fields_join w 20 4 12, fields_join w 16 4 16, fields_join w 12 4 20, fields_join w 8 4 24, fields_join w 4 4 28]

theorem word_of_ofWord_I {w : BitVec 32} {f : IForm} (h : IForm.ofWord w = .ok f) :
    (Form.I f).word (w.extractLsb' 24 8) = w := by
  simp only [IForm.ofWord, bind_eq_ok] at h
  obtain ⟨d, hd, a, ha, h⟩ := h
  cases h
  simp [Form.word, code_of_ofCode_src ha, code_of_ofCode_dst hd, fields_join w 24 4 8,
    fields_join w 20 4 12, fields_join w 16 8 16, fields_join w 8 4 24, fields_join w 4 4 28]

theorem word_of_ofWord_P {w : BitVec 32} {f : PForm} (h : PForm.ofWord w = .ok f) :
    (Form.P f).word (w.extractLsb' 24 8) = w := by
  unfold PForm.ofWord at h
  split at h
  next hz =>
    cases h
    have hz' : (0 : BitVec 4) = w.extractLsb' 0 4 := hz.symm
    simp only [Form.word, hz']
    simp [fields_join w 24 8 8, fields_join w 16 8 16, fields_join w 8 4 24, fields_join w 4 4 28]
  next => cases h

theorem word_of_ofWord_X {w : BitVec 32} {f : XForm} (h : XForm.ofWord w = .ok f) :
    (Form.X f).word (w.extractLsb' 24 8) = w := by
  simp only [XForm.ofWord, bind_eq_ok] at h
  obtain ⟨d, hd, a, ha, b, hb, h⟩ := h
  cases h
  simp [Form.word, code_of_ofCode_src ha, code_of_ofCode_src hb, code_of_ofCode_dst hd, fields_join w 24 4 8,
    fields_join w 20 4 12, fields_join w 16 4 16, fields_join w 12 4 20, fields_join w 8 8 24]

/-! ### Rows of the opcode map (R99 to R107) -/

/-- The row of an instruction's opcode builds the instruction back from its fields. -/
theorem opcode_statement (i : Instr) : Statement i := by
  cases i with
  | nop f => exact nop f
  | mov f => exact mov f
  | movk f => exact movk f
  | movi f => exact movi f
  | sel f => exact sel f
  | pset f => exact pset f
  | pget f => exact pget f
  | pput f => exact pput f
  | fwd f => exact fwd f
  | emitc f => exact emitc f
  | retag f => exact retag f
  | sendl f => exact sendl f
  | crdget f => exact crdget f
  | crdset f => exact crdset f
  | cnti f => exact cnti f
  | bcast f => exact bcast f
  | shuf f => exact shuf f
  | pack f => exact pack f
  | unpkl f => exact unpkl f
  | unpkh f => exact unpkh f
  | halt f => exact halt f
  | trap f => exact trap f
  | done f => exact done f
  | drain f => exact drain f
  | join f => exact join f
  | joinf f => exact joinf f
  | time f => exact time f
  | stat f => exact stat f
  | perf f => exact perf f
  | addx f => exact addx f
  | ltok f => exact ltok f
  | mulx f => exact mulx f
  | add sh f => exact add sh f
  | sub sh f => exact sub sh f
  | mul sh f => exact mul sh f
  | mulh sh f => exact mulh sh f
  | and sh f => exact and sh f
  | or sh f => exact or sh f
  | xor sh f => exact xor sh f
  | shl sh f => exact shl sh f
  | shr sh f => exact shr sh f
  | sra sh f => exact sra sh f
  | min sh f => exact min sh f
  | max sh f => exact max sh f
  | ceq sh f => exact ceq sh f
  | clt sh f => exact clt sh f
  | cltu sh f => exact cltu sh f
  | addi sh f => exact addi sh f
  | faddF32 f => exact faddF32 f
  | faddF16 f => exact faddF16 f
  | faddBF16 f => exact faddBF16 f
  | fsubF32 f => exact fsubF32 f
  | fsubF16 f => exact fsubF16 f
  | fsubBF16 f => exact fsubBF16 f
  | fmulF32 f => exact fmulF32 f
  | fmulF16 f => exact fmulF16 f
  | fmulBF16 f => exact fmulBF16 f
  | ffmaF32 f => exact ffmaF32 f
  | ffmaF16 f => exact ffmaF16 f
  | ffmaBF16 f => exact ffmaBF16 f
  | fminF32 f => exact fminF32 f
  | fminF16 f => exact fminF16 f
  | fminBF16 f => exact fminBF16 f
  | fmaxF32 f => exact fmaxF32 f
  | fmaxF16 f => exact fmaxF16 f
  | fmaxBF16 f => exact fmaxBF16 f
  | fceqF32 f => exact fceqF32 f
  | fceqF16 f => exact fceqF16 f
  | fceqBF16 f => exact fceqBF16 f
  | fcltF32 f => exact fcltF32 f
  | fcltF16 f => exact fcltF16 f
  | fcltBF16 f => exact fcltBF16 f
  | fcleF32 f => exact fcleF32 f
  | fcleF16 f => exact fcleF16 f
  | fcleBF16 f => exact fcleBF16 f
  | fabsF32 f => exact fabsF32 f
  | fabsF16 f => exact fabsF16 f
  | fabsBF16 f => exact fabsBF16 f
  | fnegF32 f => exact fnegF32 f
  | fnegF16 f => exact fnegF16 f
  | fnegBF16 f => exact fnegBF16 f
  | fcvtF32 f => exact fcvtF32 f
  | fcvtF16 f => exact fcvtF16 f
  | fcvtBF16 f => exact fcvtBF16 f
  | ftoiF32 f => exact ftoiF32 f
  | ftoiF16 f => exact ftoiF16 f
  | ftoiBF16 f => exact ftoiBF16 f
  | itofF32 f => exact itofF32 f
  | itofF16 f => exact itofF16 f
  | itofBF16 f => exact itofBF16 f
  | fnarrowF32 f => exact fnarrowF32 f
  | fnarrowF16 f => exact fnarrowF16 f
  | fnarrowBF16 f => exact fnarrowBF16 f
  | fwidenF32 f => exact fwidenF32 f
  | fwidenF16 f => exact fwidenF16 f
  | fwidenBF16 f => exact fwidenBF16 f
  | exp2 f => exact exp2 f
  | log2 f => exact log2 f
  | rcp f => exact rcp f
  | sqrt f => exact sqrt f
  | rsqrt f => exact rsqrt f
  | exp f => exact exp f
  | tanh f => exact tanh f
  | sigm f => exact sigm f
  | gelu f => exact gelu f
  | rand f => exact rand f
  | xclr f => exact xclr f
  | xadd f => exact xadd f
  | xsq f => exact xsq f
  | xrd f => exact xrd f
  | xvar f => exact xvar f
  | smax f => exact smax f
  | mldb f => exact mldb f
  | mlds f => exact mlds f
  | mswap f => exact mswap f
  | mzero f => exact mzero f
  | mrow q f => exact mrow q f
  | mrows q f => exact mrows q f
  | mchain f => exact mchain f
  | mout f => exact mout f
  | moutq f => exact moutq f
  | mgrp f => exact mgrp f
  | maccr f => exact maccr f
  | maccw f => exact maccw f
  | msplit f => exact msplit f
  | mbias f => exact mbias f
  | mstat f => exact mstat f
  | swcfg f => exact swcfg f
  | swpush f => exact swpush f
  | swemit f => exact swemit f
  | swflush f => exact swflush f
  | isect f => exact isect f
  | icnt f => exact icnt f
  | cmpr f => exact cmpr f
  | expnd f => exact expnd f
  | wsplit f => exact wsplit f
  | wjoin f => exact wjoin f
  | argmx f => exact argmx f
  | xpose f => exact xpose f
  | xthr f => exact xthr f
  | ltab f => exact ltab f
  | lwire f => exact lwire f
  | leval f => exact leval f
  | lemit f => exact lemit f
  | lpop f => exact lpop f
  | lunx f => exact lunx f
  | lctx f => exact lctx f
  | lin f => exact lin f
  | steer f => exact steer f
  | slots f => exact slots f
  | reord f => exact reord f
  | rels f => exact rels f
  | merge f => exact merge f
  | seqno f => exact seqno f
  | ld f => exact ld f
  | st f => exact st f
  | ldw f => exact ldw f
  | stw f => exact stw f
  | wmap f => exact wmap f
  | wsync f => exact wsync f
  | winv f => exact winv f
  | wclose f => exact wclose f
  | aadd f => exact aadd f
  | amax f => exact amax f
  | amin f => exact amin f
  | axchg f => exact axchg f
  | acas f => exact acas f
  | aor f => exact aor f
  | aand f => exact aand f
  | adet f => exact adet f
  | aclose f => exact aclose f
  | drv f => exact drv f
  | drvx f => exact drvx f
  | drvq f => exact drvq f
  | agen f => exact agen f
  | agstr f => exact agstr f
  | park f => exact park f
  | unpark f => exact unpark f
  | xlat f => exact xlat f
  | xinv f => exact xinv f
  | fence f => exact fence f
  | cwait f => exact cwait f
  | csig f => exact csig f
  | bara f => exact bara f
  | barw f => exact barw f
  | bari f => exact bari f
  | put f => exact put f
  | puts f => exact puts f
  | get f => exact get f
  | red f => exact red f
  | redr f => exact redr f
  | lsend f => exact lsend f
  | lrecv f => exact lrecv f
  | lq f => exact lq f
  | lnch f => exact lnch f
  | sysc f => exact sysc f
  | flth f => exact flth f
  | preq f => exact preq f
  | ckpt f => exact ckpt f
  | tbkt f => exact tbkt f
  | walk f => exact walk f
  | walkl f => exact walkl f
  | _ => exact of_event _ rfl

/-- A row builds, from the fields of its form, an instruction of that form under the row's own opcode. -/
def rowBuilds (opc : BitVec 8) : Builder → Prop
  | .R mk => ∀ f, (mk f).form = .R f ∧ (mk f).opcode = opc
  | .I mk => ∀ f, (mk f).form = .I f ∧ (mk f).opcode = opc
  | .P mk => ∀ f, (mk f).form = .P f ∧ (mk f).opcode = opc
  | .X mk => ∀ f, (mk f).form = .X f ∧ (mk f).opcode = opc

/-- A table of sixteen rows builds as its opcodes ask: those with the high four bits `j`. -/
def tableBuilds (j : Nat) (t : Nat → Builder) : Prop := ∀ k, k < 16 → rowBuilds (BitVec.ofNat 8 (16 * j + k)) (t k)

theorem tableBuilds_0 : tableBuilds 0 builder0 := by
  intro k hk; interval_cases k <;> exact fun f => ⟨rfl, rfl⟩
theorem tableBuilds_1 : tableBuilds 1 builder1 := by
  intro k hk; interval_cases k <;> exact fun f => ⟨rfl, rfl⟩
theorem tableBuilds_2 : tableBuilds 2 builder2 := by
  intro k hk; interval_cases k <;> exact fun f => ⟨rfl, rfl⟩
theorem tableBuilds_3 : tableBuilds 3 builder3 := by
  intro k hk; interval_cases k <;> exact fun f => ⟨rfl, rfl⟩
theorem tableBuilds_4 : tableBuilds 4 builder4 := by
  intro k hk; interval_cases k <;> exact fun f => ⟨rfl, rfl⟩
theorem tableBuilds_5 : tableBuilds 5 builder5 := by
  intro k hk; interval_cases k <;> exact fun f => ⟨rfl, rfl⟩
theorem tableBuilds_6 : tableBuilds 6 builder6 := by
  intro k hk; interval_cases k <;> exact fun f => ⟨rfl, rfl⟩
theorem tableBuilds_7 : tableBuilds 7 builder7 := by
  intro k hk; interval_cases k <;> exact fun f => ⟨rfl, rfl⟩
theorem tableBuilds_8 : tableBuilds 8 builder8 := by
  intro k hk; interval_cases k <;> exact fun f => ⟨rfl, rfl⟩
theorem tableBuilds_9 : tableBuilds 9 builder9 := by
  intro k hk; interval_cases k <;> exact fun f => ⟨rfl, rfl⟩
theorem tableBuilds_A : tableBuilds 10 builderA := by
  intro k hk; interval_cases k <;> exact fun f => ⟨rfl, rfl⟩
theorem tableBuilds_B : tableBuilds 11 builderB := by
  intro k hk; interval_cases k <;> exact fun f => ⟨rfl, rfl⟩
theorem tableBuilds_C : tableBuilds 12 builderC := by
  intro k hk; interval_cases k <;> exact fun f => ⟨rfl, rfl⟩
theorem tableBuilds_D : tableBuilds 13 builderD := by
  intro k hk; interval_cases k <;> exact fun f => ⟨rfl, rfl⟩
theorem tableBuilds_E : tableBuilds 14 builderE := by
  intro k hk; interval_cases k <;> exact fun f => ⟨rfl, rfl⟩
theorem tableBuilds_F : tableBuilds 15 builderF := by
  intro k hk; interval_cases k <;> exact fun f => ⟨rfl, rfl⟩

/-- The row of an opcode is the row of its table that its low four bits number. -/
theorem rowBuilds_of_table {opc : BitVec 8} {j : Nat} {t : Nat → Builder} (ht : tableBuilds j t) (hj : opc.toNat / 16 = j) :
    rowBuilds opc (t (opc.toNat % 16)) := by
  have hopc : BitVec.ofNat 8 (16 * j + opc.toNat % 16) = opc := by
    rw [← hj, Nat.div_add_mod]
    simp
  have hrow := ht (opc.toNat % 16) (Nat.mod_lt _ (by decide))
  rwa [hopc] at hrow

theorem builder_rowBuilds (opc : BitVec 8) : rowBuilds opc (builder opc) := by
  have hlt : opc.toNat / 16 < 16 := by have := opc.isLt; omega
  unfold builder
  split
  next h => exact rowBuilds_of_table tableBuilds_0 h
  next h => exact rowBuilds_of_table tableBuilds_1 h
  next h => exact rowBuilds_of_table tableBuilds_2 h
  next h => exact rowBuilds_of_table tableBuilds_3 h
  next h => exact rowBuilds_of_table tableBuilds_4 h
  next h => exact rowBuilds_of_table tableBuilds_5 h
  next h => exact rowBuilds_of_table tableBuilds_6 h
  next h => exact rowBuilds_of_table tableBuilds_7 h
  next h => exact rowBuilds_of_table tableBuilds_8 h
  next h => exact rowBuilds_of_table tableBuilds_9 h
  next h => exact rowBuilds_of_table tableBuilds_A h
  next h => exact rowBuilds_of_table tableBuilds_B h
  next h => exact rowBuilds_of_table tableBuilds_C h
  next h => exact rowBuilds_of_table tableBuilds_D h
  next h => exact rowBuilds_of_table tableBuilds_E h
  next h => exact rowBuilds_of_table tableBuilds_F (by grind)

/-! ### Decoding what was encoded -/

theorem isEvent_eq_false_iff (i : Instr) : i.isEvent = false ↔ i.form ≠ .event := by
  unfold Instr.isEvent
  cases i.form <;> simp

/-- A word's opcode picks the row, whose form reads the fields back. -/
theorem decodeFields_encode {i : Instr} (h : i.isEvent = false) : decodeFields (encode i) = .ok i := by
  have hform := (isEvent_eq_false_iff i).mp h
  have hrow := opcode_statement i
  rw [Statement, h, cond_false] at hrow
  rw [decodeFields, encode, extractLsb'_word _ hform]
  revert hrow
  cases hf : i.form with
  | event => exact absurd hf hform
  | R f => cases builder i.opcode <;> simp [built, ofWord_word_R, Except.map]
  | I f => cases builder i.opcode <;> simp [built, ofWord_word_I, Except.map]
  | P f => cases builder i.opcode <;> simp [built, ofWord_word_P, Except.map]
  | X f => cases builder i.opcode <;> simp [built, ofWord_word_X, Except.map]

/-- A DST that its column allows holds 12 where the instruction does not name it (R91). -/
theorem unnamed_of_dstOk {u : DstUse} {d : Dst} (h : dstOk u d = true) : (u != .none || d == .discard) = true := by
  cases u <;> cases d <;> simp_all [dstOk]

/-- A source that its column allows holds 13 where the instruction does not name it (R91). -/
theorem unnamed_of_srcOk {u : SrcUse} {sel : BitVec 4} {x : Src} (h : srcOk u sel x = true) :
    (u != .none || x == .zero) = true := by
  cases u <;> cases x <;> simp_all [srcOk]

theorem isEvent_of_operandsOk {i : Instr} (h : operandsOk i = true) : i.isEvent = false := by
  rw [isEvent_eq_false_iff]
  intro hf
  simp [operandsOk, hf] at h

theorem unnamedOk_of_operandsOk {i : Instr} (h : operandsOk i = true) : i.unnamedOk = true := by
  revert h
  unfold operandsOk Instr.unnamedOk
  cases i.form with
  | R f =>
    simp only [Bool.and_eq_true]
    exact fun ⟨⟨hd, ha⟩, hb⟩ => ⟨⟨unnamed_of_dstOk hd, unnamed_of_srcOk ha⟩, unnamed_of_srcOk hb⟩
  | I f =>
    simp only [Bool.and_eq_true]
    exact fun ⟨⟨hd, ha⟩, _⟩ => ⟨unnamed_of_dstOk hd, unnamed_of_srcOk ha⟩
  | X f =>
    simp only [Bool.and_eq_true]
    exact fun ⟨⟨⟨⟨hd, ha⟩, hb⟩, _⟩, _⟩ => ⟨⟨unnamed_of_dstOk hd, unnamed_of_srcOk ha⟩, unnamed_of_srcOk hb⟩
  | P f => exact id
  | event => exact id

/-- Settles O49: the fields read back, and what the loader asks of the operands implies what the decoder asks of them. -/
theorem encodingRoundTrips : Obligations.EncodingRoundTrips := by
  intro i hi
  have hops : operandsOk i = true := by
    simp only [Instr.wellFormed, instrOk, Bool.and_eq_true] at hi
    exact hi.1.1
  simp [decode, decodeFields_encode (isEvent_of_operandsOk hops), unnamedOk_of_operandsOk hops, bind, Except.bind]

/-! ### Encoding what was decoded -/

theorem encode_of_decodeFields {w : BitVec 32} {i : Instr} (h : decodeFields w = .ok i) :
    encode i = w ∧ i.isEvent = false := by
  rw [isEvent_eq_false_iff, encode]
  have hrow := builder_rowBuilds (w.extractLsb' 24 8)
  unfold decodeFields at h
  cases hb : builder (w.extractLsb' 24 8) with
  | R mk =>
    simp only [hb, map_eq_ok] at h hrow
    obtain ⟨f, hf, rfl⟩ := h
    obtain ⟨hform, hopc⟩ := hrow f
    simp [hform, hopc, word_of_ofWord_R hf]
  | I mk =>
    simp only [hb, map_eq_ok] at h hrow
    obtain ⟨f, hf, rfl⟩ := h
    obtain ⟨hform, hopc⟩ := hrow f
    simp [hform, hopc, word_of_ofWord_I hf]
  | P mk =>
    simp only [hb, map_eq_ok] at h hrow
    obtain ⟨f, hf, rfl⟩ := h
    obtain ⟨hform, hopc⟩ := hrow f
    simp [hform, hopc, word_of_ofWord_P hf]
  | X mk =>
    simp only [hb, map_eq_ok] at h hrow
    obtain ⟨f, hf, rfl⟩ := h
    obtain ⟨hform, hopc⟩ := hrow f
    simp [hform, hopc, word_of_ofWord_X hf]

/-- Settles O50: every bit of the word is an opcode bit or a bit of a field, and a row builds no event. -/
theorem decodingLosesNothing : Obligations.DecodingLosesNothing := by
  intro w i h
  simp only [decode, bind_eq_ok] at h
  obtain ⟨j, hj, h⟩ := h
  split at h
  · cases h
    exact encode_of_decodeFields hj
  · cases h

/-- Settles O48: each word is decoded. -/
theorem wordsDecode : Obligations.WordsDecode := by
  refine ⟨?_, ?_, ?_, ?_, ?_, ?_, ?_, ?_⟩ <;> decide

end Sys2Proof.Proofs.Encoding
end

section
/-! R145 to R178: the integer logic, and the control opcodes 0x00 to 0x1F. An instruction that reads, computes, writes and
pops in one step fires with what it computes; then each result is read lane by lane. -/

namespace Sys2Proof.Proofs.ControlRuns

open Sys2Proof Sys2Proof.Machine Sys2Proof.Proofs.IntegerRuns

/-! ### Firings of the three result forms -/

section
variable {s : State} {c : Ctx} (hs : s.ctx? = some c)
include hs

theorem fires_of_ordinaryR {i : Instr} {f : RForm} {h : Ctx → BitVec 4 → Payload → Payload → Out} {o : Out}
    (hi : exec i s = ordinaryR s f h) (ho : h c (modOf f) (c.opA f) (c.opB f) = o) (hr : c.readyR f o.tag) :
    exec i s = .next (c.firedR s f o) :=
  hi.trans (ordinaryR_next hs ho hr.1 hr.2)

theorem fires_of_ordinaryI {i : Instr} {f : IForm} {h : Ctx → BitVec 8 → Payload → Out} {o : Out}
    (hi : exec i s = ordinaryI s f h) (ho : h c f.imm (c.src (idxI f) f.sa) = o) (hr : c.readyI f o.tag) :
    exec i s = .next (c.firedI s f o) :=
  hi.trans (ordinaryI_next hs ho hr.1 hr.2)

theorem fires_of_ordinaryX {i : Instr} {f : XForm} {h : Ctx → BitVec 8 → Payload → Payload → Out} {o : Out}
    (hi : exec i s = ordinaryX s f h) (ho : h c f.cnt (c.src 0 f.sa) (c.src 0 f.sb) = o)
    (hr : c.readyX f [f.sa, f.sb] o.tag) : exec i s = .next (c.firedX s f [f.sa, f.sb] o.tag o.res) := by
  rw [hi, ordinaryX, withCtx_of hs, ho]
  exact ordinaryX_next hr.1 hr.2

end

/-! ### AND, OR, XOR and the comparisons (R175, R178) -/

section
variable (sh : Shape) (f : RForm) (s : State)

theorem exec_and : exec (.and sh f) s = intOp sh f s fun _ a b => a &&& b := rfl
theorem exec_or : exec (.or sh f) s = intOp sh f s fun _ a b => a ||| b := rfl
theorem exec_xor : exec (.xor sh f) s = intOp sh f s fun _ a b => a ^^^ b := rfl
theorem exec_ceq : exec (.ceq sh f) s = intCmp sh f s fun a b => a == b := rfl
theorem exec_clt : exec (.clt sh f) s = intCmp sh f s fun a b => decide (a.toInt < b.toInt) := rfl
theorem exec_cltu : exec (.cltu sh f) s = intCmp sh f s fun a b => decide (a.toNat < b.toNat) := rfl

end

/-- A comparison runs: each lane is all ones or zero by its outcome, and the condition is the outcome in lane 0. -/
theorem cmp_runs {s : State} {c : Ctx} {sh : Shape} {f : RForm} {i : Instr}
    {h : BitVec (shWidth sh) → BitVec (shWidth sh) → Bool} {P : BitVec (shWidth sh) → BitVec (shWidth sh) → Prop}
    [hd : ∀ a b, Decidable (P a b)] (hs : s.ctx? = some c) (hf : c.readyR f none) (hi : exec i s = intCmp sh f s h)
    (hP : ∀ a b, h a b = true ↔ P a b) :
    ∃ r k, exec i s = .next (c.firedR s f ⟨r, k, none⟩) ∧
      (k = true ↔ P (lane (c.opA f) (shWidth sh) 0) (lane (c.opB f) (shWidth sh) 0)) ∧
      LanesRel sh r (c.opA f) (c.opB f) fun a b z => z = if P a b then BitVec.allOnes _ else 0 := by
  refine ⟨_, _, fires_of_ordinaryR hs hi rfl hf, hP _ _, lanesRel_intLanes ?_ _ _⟩
  intro a b
  simp [boolLane, ← hP]

/-- Settles O2: AND, OR and XOR work lane by lane, and a comparison by its outcome in each lane. -/
theorem integerLogicRuns : Obligations.IntegerLogicRuns := by
  intro s c sh f hs hf
  refine ⟨?and, ?or, ?xor, ?ceq, ?clt, ?cltu⟩
  case and => exact intRuns_of_intOp hs hf (exec_and sh f s) fun _ _ => rfl
  case or => exact intRuns_of_intOp hs hf (exec_or sh f s) fun _ _ => rfl
  case xor => exact intRuns_of_intOp hs hf (exec_xor sh f s) fun _ _ => rfl
  case ceq => exact cmp_runs hs hf (exec_ceq sh f s) fun _ _ => beq_iff_eq
  case clt => exact cmp_runs hs hf (exec_clt sh f s) fun _ _ => decide_eq_true_iff
  case cltu => exact cmp_runs hs hf (exec_cltu sh f s) fun _ _ => decide_eq_true_iff

/-! ### The P forms (R96, R162, R165, R223, R233) -/

section
variable {s : State} {c : Ctx} (hs : s.ctx? = some c)
include hs

theorem nop_runs (f : PForm) :
    exec (.nop f) s = .next (c.fired s (c.el.withSetClr f.set f.clr) [] f.pop 0) := by
  have hexec : exec (.nop f) s = execNop f s := rfl
  rw [hexec, execNop, withCtx_of hs]
  exact pform_next c s f _

theorem pset_runs (f : PForm) :
    exec (.pset f) s = .next (c.fired s (c.el.withSetClr f.set f.clr) [] f.pop 0) := nop_runs hs f

theorem halt_runs (f : PForm) :
    exec (.halt f) s = .next (c.fired s ({ c.el with stop := .halted }.withSetClr f.set f.clr) [] f.pop 0) := by
  have hexec : exec (.halt f) s = execHalt f s := rfl
  rw [hexec, execHalt, withCtx_of hs]
  exact pform_next c s f _

theorem drain_runs (f : PForm) :
    exec (.drain f) s = .next (c.fired s ({ c.el with stop := .draining }.withSetClr f.set f.clr) [] f.pop 0) := by
  have hexec : exec (.drain f) s = execDrain f s := rfl
  rw [hexec, execDrain, withCtx_of hs]
  exact pform_next c s f _

theorem swflush_runs (f : PForm) {x : SSt} (hx : c.el.ks = .s x) :
    exec (.swflush f) s = .next (c.fired s ((c.el.setS { x with ring := [] }).withSetClr f.set f.clr) [] f.pop 0) := by
  have hexec : exec (.swflush f) s = execSwflush f s := rfl
  simp only [hexec, execSwflush, withCtx_of hs, Ctx.withS, hx]
  exact pform_next c s f _

theorem mswap_runs (f : PForm) {m : MSt} (hm : c.el.ks = .m m) (hw : c.el.engine? .weights = none)
    (hsc : c.el.engine? .scales = none) :
    exec (.mswap f) s = .next (c.fired s
      { (c.el.setM { m with active := !m.active }).withSetClr f.set f.clr with firing := none } [] f.pop 0) := by
  have hexec : exec (.mswap f) s = execMswap f s := rfl
  simp only [hexec, execMswap, withCtx_of hs, Ctx.withM, hm, hw, hsc, Option.isSome_none, Bool.or_self, Bool.false_eq_true,
    if_false]
  exact finish_nil

end

/-- Settles O5: one predicate byte, that of SET and CLR, serves all six. -/
theorem pFormsRun : Obligations.PFormsRun := by
  intro s c f hs
  refine ⟨setClr c.el.p f.set f.clr, fun n hn => setClr_bit _ _ _ hn, nop_runs hs f, pset_runs hs f, halt_runs hs f,
    drain_runs hs f, fun x hx => swflush_runs hs f hx, fun m hm hw hsc => mswap_runs hs f hm hw hsc⟩

/-! ### Results lane by lane (R158 to R160, R173) -/

theorem shapeWidth_cases (n : Nat) : shapeWidth n = 32 ∨ shapeWidth n = 16 ∨ shapeWidth n = 8 := by
  unfold shapeWidth
  split
  · exact .inl rfl
  · split
    · exact .inr (.inl rfl)
    · exact .inr (.inr rfl)

theorem shapeWidth_pos (n : Nat) : 0 < shapeWidth n := by
  rcases shapeWidth_cases n with h | h | h <;> omega

theorem lane_resBcast {w l i : Nat} {a : Payload} (hw : 0 < w) (hi : i < 256 / w) :
    lane (resBcast w l a) w i = lane a w l := lane_allLanes hw hi

theorem lane_resShuf (a b : Payload) {j : Nat} (hj : j < 32) :
    lane (resShuf a b) 8 j =
      if 128 ≤ (lane b 8 j).toNat then 0 else lane a 8 ((lane b 8 j).toNat % 32) := lane_allLanes (by decide) hj

/-- The lanes of A, then those of B, each cut to half its width (R160). -/
theorem lane_resPack (n : Nat) (a b : Payload) {l : Nat} (hl : l < 256 / shapeWidth n) :
    lane (resPack (shapeWidth n) a b) (shapeWidth n / 2) l = (lane a (shapeWidth n) l).setWidth (shapeWidth n / 2) ∧
      lane (resPack (shapeWidth n) a b) (shapeWidth n / 2) (256 / shapeWidth n + l) =
        (lane b (shapeWidth n) l).setWidth (shapeWidth n / 2) := by
  have hw : 0 < shapeWidth n / 2 ∧ 256 / shapeWidth n + l < 256 / (shapeWidth n / 2) := by
    rcases shapeWidth_cases n with h | h | h <;> rw [h] at hl ⊢ <;> omega
  constructor
  · rw [resPack, lane_allLanes hw.1 (by omega), if_pos hl]
  · rw [resPack, lane_allLanes hw.1 hw.2, if_neg (by omega), Nat.add_sub_cancel_left]

theorem lane_resUnpk (n off : Nat) (a : Payload) {l : Nat} (hl : l < 256 / shapeWidth n) :
    lane (resUnpk (shapeWidth n) off a) (shapeWidth n) l =
      (lane a (shapeWidth n / 2) (off + l)).signExtend (shapeWidth n) := lane_allLanes (shapeWidth_pos n) hl

theorem laneArrangementRuns : LaneArrangementRuns := by
  intro s c hs
  refine ⟨?bcast, fun f hf => ⟨?shuf, ?rest⟩⟩
  case bcast =>
    rintro f w rfl hf
    have hi : exec (.bcast f) s = execBcast f s := rfl
    exact ⟨resBcast (shapeWidth (f.cnt.toNat / 64)) (f.cnt.toNat % 64) (c.src 0 f.sa),
      fun l hl => lane_resBcast (shapeWidth_pos _) hl, fires_of_ordinaryX hs (o := Out.plain _) hi rfl hf⟩
  case shuf =>
    have hi : exec (.shuf f) s = execShuf f s := rfl
    exact ⟨_, fun j hj => lane_resShuf _ _ hj, fires_of_ordinaryR hs hi rfl hf⟩
  case rest =>
    rintro w h rfl rfl
    have hpack : exec (.pack f) s = execPack f s := rfl
    have hunpkl : exec (.unpkl f) s = execUnpkl f s := rfl
    have hunpkh : exec (.unpkh f) s = execUnpkh f s := rfl
    refine ⟨⟨_, fun l hl => lane_resPack _ _ _ hl, fires_of_ordinaryR hs hpack rfl hf⟩,
      ⟨resUnpk (shapeWidth (modOf f).toNat) 0 (c.opA f), fun l hl => ?_, fires_of_ordinaryR hs hunpkl rfl hf⟩,
      ⟨_, fun l hl => lane_resUnpk _ _ _ hl, fires_of_ordinaryR hs hunpkh rfl hf⟩⟩
    rw [lane_resUnpk _ _ _ hl, Nat.zero_add]

theorem lane32_ofWords_of_le {ws : List Word} {l : Nat} (h : ws.length ≤ l) : lane32 (ofWords ws) l = 0 := by
  rw [lane32_ofWords]
  split
  · simp [h]
  · rfl

theorem lane32_ofWords_of_lt {ws : List Word} {l : Nat} (h : l < 8) : lane32 (ofWords ws) l = ws.getD l 0 := by
  rw [lane32_ofWords, if_pos h]

/-- CNTI (R161): the count after this one fits a word. -/
theorem counterInstructionCounts : CounterInstructionCounts := by
  rintro s c f x hs hf rfl
  have hi : exec (.cnti f) s = execCnti f s := rfl
  refine ⟨ofWords [BitVec.ofNat 32 (cntiNext (lane32 (c.src (idxI f) f.sa) 0).toNat f.imm.toNat).1], ?_,
    fun l hl => lane32_ofWords_of_le hl, fires_of_ordinaryI hs hi ?_ hf⟩
  · rw [lane32_ofWords_of_lt (by decide), List.getD_cons_zero, BitVec.toNat_ofNat, cntiNext]
    split <;> simp
  · simp only [cntiNext, Out.withCond]
    split
    next h => rw [decide_eq_true h]
    next h => rw [decide_eq_false h]

/-- Bits [63:56] of a number are the part of it from 2^56 on. -/
theorem extractLsb'_high_ne_zero (x : BitVec 64) : (x.extractLsb' 56 8 != 0) = decide (2 ^ 56 ≤ x.toNat) := by
  rw [Bool.eq_iff_iff, bne_iff_ne, decide_eq_true_iff, ne_eq, ← BitVec.toNat_inj, BitVec.extractLsb'_toNat,
    Nat.shiftRight_eq_div_pow]
  have := x.isLt
  simp
  omega

theorem addressArithmetic : AddressArithmetic := by
  intro s c f hs hf
  have haddx : exec (.addx f) s = execAddx f s := rfl
  have hmulx : exec (.mulx f) s = execMulx f s := rfl
  refine ⟨⟨resAddx (c.opA f) (c.opB f), fun j hj => ?_, fires_of_ordinaryR hs haddx ?_ hf⟩,
    ⟨resMulx (c.opA f) (c.opB f), fun j hj => ?_, fires_of_ordinaryR hs hmulx rfl hf⟩⟩
  · rw [resAddx, lane_allLanes (by decide) hj, BitVec.toNat_add]
  · rw [← extractLsb'_high_ne_zero]
    rfl
  · rw [resMulx, lane_allLanes (by decide) hj, BitVec.toNat_mul]

/-- Settles O7: lane arrangement, the counter, and the wide arithmetic. -/
theorem arrangementCountersAndAddressesRun : Obligations.ArrangementCountersAndAddressesRun :=
  ⟨laneArrangementRuns, counterInstructionCounts, addressArithmetic⟩

/-! ### Sidebands (R147, R151 to R155) -/

theorem lane32_zero (l : Nat) : lane32 0 l = 0 := by
  simp [lane32, lane]

/-- A payload whose words are all zero is zero. -/
theorem payload_ext {a b : Payload} (h : ∀ l, l < 8 → lane32 a l = lane32 b l) : a = b := by
  apply BitVec.eq_of_getLsbD_eq
  intro i hi
  have hl := congrArg (·.getLsbD (i % 32)) (h (i / 32) (by omega))
  have hmod : i % 32 < 32 := Nat.mod_lt _ (by decide)
  simpa [lane32, lane, BitVec.getLsbD_extractLsb', hmod, Nat.div_add_mod] using hl

/-- The word that LTOK gives of TAG, KIND, LAST and POISON holds their sum (R155). -/
theorem toNat_ltokWord (h : Token) :
    (BitVec.ofNat 32 (h.tag.toNat + 8 * kindCode h.kind + (if h.last then 32 else 0) + (if h.poison then 64 else 0))).toNat =
      h.tag.toNat + 8 * kindCode h.kind + (if h.last then 32 else 0) + (if h.poison then 64 else 0) := by
  have htag := h.tag.isLt
  have hkind : kindCode h.kind ≤ 3 := by cases h.kind <;> simp [kindCode]
  rw [BitVec.toNat_ofNat, Nat.mod_eq_of_lt]
  split <;> split <;> omega

/-- What LTOK gives is the one payload that the rule describes. -/
theorem eq_resLtok {x : Option Token} {r : Payload}
    (hr : match x with
      | some h => lane32 r 0 = h.coord.setWidth 32 ∧
          (lane32 r 1).toNat = h.tag.toNat + 8 * kindCode h.kind + (if h.last then 32 else 0) +
            (if h.poison then 64 else 0) ∧ (∀ l, 2 ≤ l → lane32 r l = 0)
      | none => r = 0) : r = resLtok x := by
  cases x with
  | none => exact hr
  | some h =>
    obtain ⟨h0, h1, h2⟩ := hr
    refine payload_ext fun l hl => ?_
    rw [resLtok, lane32_ofWords_of_lt hl]
    match l with
    | 0 => exact h0
    | 1 => exact BitVec.eq_of_toNat_eq (h1.trans (toNat_ltokWord h).symm)
    | l + 2 => exact h2 _ (by omega)

/-- The low 16 bits of A are those of its lane 0. -/
theorem setWidth_lane32_zero (v : Payload) : (lane32 v 0).setWidth 16 = v.extractLsb' 0 16 := by
  apply BitVec.eq_of_getLsbD_eq
  intro i hi
  have : i < 32 := by omega
  simp [lane32, lane, hi, this]

section
variable {s : State} {c : Ctx} (hs : s.ctx? = some c)
include hs

theorem sel_runs {f : RForm} {x : Src} (hx : x = if c.el.p.getLsbD ((modOf f).toNat % 8) then f.sa else f.sb)
    (hclean : c.clean [f.sa, f.sb]) (ht : c.inSets (pushesOf f.dst (c.tok f.md [x] none (c.src f.md x)))) :
    exec (.sel f) s = .next (c.fired s ((c.el.writeDst f.dst (c.src f.md x)).withPw f.pw (lowNonzero (c.src f.md x)))
      (pushesOf f.dst (c.tok f.md [x] none (c.src f.md x))) f.pop (readMask [f.sa, f.sb])) := by
  have hi : exec (.sel f) s = execSel f s := rfl
  subst hx
  rw [hi, execSel, withCtx_of hs, if_neg (by rw [hclean]; decide)]
  exact finish_next ht

theorem emitc_runs {f : RForm} {v : BitVec 16} (hv : v = (c.opA f).extractLsb' 0 16) (hclean : c.clean [f.sa, f.sb]) :
    exec (.emitc f) s = .next (c.fired s ((c.el.writeDst f.dst (c.opB f)).withPw f.pw (v != 0))
      (pushesOf f.dst ⟨0, .control, false, false, v, c.opB f⟩) f.pop (readMask [f.sa, f.sb])) := by
  have hi : exec (.emitc f) s = execEmitc f s := rfl
  rw [← setWidth_lane32_zero] at hv
  subst hv
  rw [hi, execEmitc, withCtx_of hs, if_neg (by rw [hclean]; decide)]
  exact finish_next (tagsOk_control _ _ _ rfl)

theorem sendl_runs {f : RForm} {t : Token} (ht : t = c.tok f.md [f.sa] none (c.opA f)) (hclean : c.clean [f.sa])
    (hset : c.inSets (pushesOf f.dst t)) :
    exec (.sendl f) s = .next (c.fired s ((c.el.writeDst f.dst (c.opA f)).withPw f.pw (lowNonzero (c.opA f)))
      (pushesOf f.dst { t with last := true }) f.pop (readMask [f.sa])) := by
  have hi : exec (.sendl f) s = execSendl f s := rfl
  have hpoison : c.poisoned f.sa = false := by simpa [Ctx.clean] using hclean
  have hset' : c.g.tagsOk c.e (pushesOf f.dst { t with last := true }) = true := by
    rw [← hset]
    cases f.dst <;> rfl
  subst ht
  rw [hi, execSendl, withCtx_of hs, if_neg (by rw [hpoison]; decide)]
  exact finish_next hset'

theorem ltok_runs {f : RForm} {r : Payload} (hr : r = resLtok (c.srcTok? f.sa))
    (ht : c.inSets (pushesOf f.dst (c.tok f.md [f.sa] none r))) :
    exec (.ltok f) s = .next (c.fired s ((c.el.writeDst f.dst r).withPw f.pw (lowNonzero r))
      (pushesOf f.dst (c.tok f.md [f.sa] none r)) f.pop 0) := by
  have hi : exec (.ltok f) s = execLtok f s := rfl
  subst hr
  rw [hi, execLtok, withCtx_of hs]
  exact finish_next ht

theorem retag_runs {f : IForm} (hf : c.readyI f (some (f.imm.extractLsb' 0 3))) :
    exec (.retag f) s = .next (c.firedI s f
      ⟨c.src (idxI f) f.sa, lowNonzero (c.src (idxI f) f.sa), some (f.imm.extractLsb' 0 3)⟩) := by
  have hi : exec (.retag f) s = execRetag f s := rfl
  exact fires_of_ordinaryI hs hi rfl hf

end

theorem sidebandInstructionsRun : SidebandInstructionsRun := by
  refine fun s c hs => ⟨fun f => ⟨?sel, ?emitc, ?sendl, ?ltok⟩, fun f hf => retag_runs hs hf⟩
  case sel => exact fun x hx hclean ht => sel_runs hs hx hclean ht
  case emitc => exact fun v hv hclean => emitc_runs hs hv hclean
  case sendl => exact fun t ht hclean hset => sendl_runs hs ht hclean hset
  case ltok => exact fun r ht hr => ltok_runs hs (eq_resLtok hr) ht

theorem fwd_eq {s : State} {c : Ctx} (hs : s.ctx? = some c) (f : RForm) :
    exec (.fwd f) s = match c.srcTok? f.sa, f.dst with
      | some t, .out o => c.finish s (c.el.withPw f.pw (defaultCond t.payload)) [(o, t)] f.pop (readMask [f.sa])
      | some t, .discard => c.finish s (c.el.withPw f.pw (defaultCond t.payload)) [] f.pop 0
      | _, _ => exec (.mov f) s := by
  have hi : exec (.fwd f) s = execFwd f s := rfl
  have hm : exec (.mov f) s = execMov f s := rfl
  rw [hi, hm, execFwd, execMov, ordinaryR, withCtx_of hs, withCtx_of hs] <;> rfl

theorem forwardKeepsToken : ForwardKeepsToken := by
  intro s c f hs
  refine ⟨fun t o ht hd hset => ?_, fun t ht hd => ?_, fun h => ?_⟩
  · rw [fwd_eq hs, ht, hd]
    exact finish_next hset
  · rw [fwd_eq hs, ht, hd]
    exact finish_nil
  · rw [fwd_eq hs]
    rcases h with h | ⟨n, h⟩
    · rw [h]
    · cases c.srcTok? f.sa <;> rw [h]

/-- Settles O8: each instruction's result and the sideband of the token it pushes. -/
theorem sidebandAndForwardRun : Obligations.SidebandAndForwardRun := ⟨sidebandInstructionsRun, forwardKeepsToken⟩

/-! ### Limits, ends and joins (R157, R163, R164, R166 to R168) -/

/-- What a POP changes of an element: its inputs and three kinds of counter (R94, R171). -/
theorem popIn_frame (el : Elem) (cy : Nat) (rd : Bool) (i : Fin 4) :
    ∃ ins perf ep pd, el.popIn cy rd i = { el with ins := ins, perf := perf, emptyPop := ep, poisonDiscard := pd } := by
  unfold Elem.popIn
  split
  · exact ⟨_, _, _, _, rfl⟩
  · split
    · split
      · exact ⟨_, _, _, _, rfl⟩
      · dsimp only
        split <;> exact ⟨_, _, _, _, rfl⟩
    · exact ⟨_, _, _, _, rfl⟩

theorem popAll_frame (el : Elem) (cy : Nat) (pop rd : BitVec 4) :
    ∃ ins perf ep pd, el.popAll cy pop rd = { el with ins := ins, perf := perf, emptyPop := ep, poisonDiscard := pd } := by
  unfold Elem.popAll
  generalize ([0, 1, 2, 3] : List (Fin 4)) = l
  induction l generalizing el with
  | nil => exact ⟨_, _, _, _, rfl⟩
  | cons i l ih =>
    rw [List.foldl_cons]
    split
    · obtain ⟨_, _, _, _, h⟩ := popIn_frame el cy (rd.getLsbD i.val) i
      rw [h]
      exact ih _
    · exact ih _

/-- A field of an element that POP does not concern stays. -/
theorem popAll_keeps {α : Type} {f : Elem → α}
    (hf : ∀ el ins perf ep pd, f { el with ins := ins, perf := perf, emptyPop := ep, poisonDiscard := pd } = f el)
    (el : Elem) (cy : Nat) (pop rd : BitVec 4) : f (el.popAll cy pop rd) = f el := by
  obtain ⟨_, _, _, _, h⟩ := popAll_frame el cy pop rd
  rw [h, hf]

section
variable (el : Elem) (cy : Nat) (pop rd : BitVec 4)

@[simp] theorem popAll_firing : (el.popAll cy pop rd).firing = el.firing := popAll_keeps (fun _ _ _ _ _ => rfl) _ _ _ _
@[simp] theorem popAll_joinCt : (el.popAll cy pop rd).joinCt = el.joinCt := popAll_keeps (fun _ _ _ _ _ => rfl) _ _ _ _
@[simp] theorem popAll_joinToks : (el.popAll cy pop rd).joinToks = el.joinToks :=
  popAll_keeps (fun _ _ _ _ _ => rfl) _ _ _ _

end

theorem toNat_satInc {w : Nat} (hw : 0 < w) (x : BitVec w) : (satInc x).toNat = min (x.toNat + 1) (2 ^ w - 1) := by
  have hlt := x.isLt
  unfold satInc
  split
  next h => subst h; rw [BitVec.toNat_allOnes]; omega
  next h =>
    have hne : x.toNat ≠ 2 ^ w - 1 := fun e => h (BitVec.eq_of_toNat_eq (by rw [BitVec.toNat_allOnes, e]))
    have h1 : (1 : BitVec w).toNat = 1 := (BitVec.toNat_ofNat 1 w).trans (Nat.mod_eq_of_lt (Nat.one_lt_two_pow hw.ne'))
    rw [BitVec.toNat_add, h1, Nat.mod_eq_of_lt (by omega)]
    omega

section
variable {s : State} {c : Ctx} (hs : s.ctx? = some c)
include hs

theorem crdset_runs {f : RForm} (hclean : c.clean [f.sa]) :
    exec (.crdset f) s = .next (c.fired s
      ({ c.el with outLimit := c.el.outLimit.set (Fin.ofNat 4 (modOf f).toNat) (lane32 (c.opA f) 0).toNat }.withPw f.pw
        false) [] f.pop (readMask [f.sa])) := by
  have hi : exec (.crdset f) s = execCrdset f s := rfl
  rw [hi, execCrdset, withCtx_of hs]
  exact quiet_next hclean

theorem done_runs {f : IForm} (hclean : c.clean [f.sa]) {decl n : BitVec 16}
    (hd : decl = if f.imm = 0 then c.el.declared else f.imm.setWidth 16) (hn : n = satInc c.el.endCt) :
    exec (.done f) s = .next (c.fired s
      ({ c.el with endCt := n, declared := decl }.withPw f.pw (decide (decl.toNat ≤ n.toNat))) [] f.pop
      (readMask [f.sa])) := by
  have hi : exec (.done f) s = execDone f s := rfl
  subst hd hn
  rw [hi, execDone, withCtx_of hs]
  exact quiet_next hclean

end

theorem limitsAndEndCounts : LimitsAndEndCounts := by
  refine fun s c hs => ⟨fun f hclean => crdset_runs hs hclean, fun f decl n hclean hd hn => done_runs hs hclean hd ?_⟩
  exact BitVec.eq_of_toNat_eq (hn.trans (toNat_satInc (by decide) c.el.endCt).symm)

/-- The count of JOINF is CNT[4:0] (R168). -/
theorem eq_setWidth_low5 (x cnt : BitVec 8) : x = (cnt.extractLsb' 0 5).setWidth 8 ↔ x.toNat = cnt.toNat % 32 := by
  rw [← BitVec.toNat_inj]
  simp
  omega

theorem joinTok_eq (cnt : BitVec 8) : joinTok cnt.toNat = ⟨0, .control, false, false, cnt.setWidth 16, 0⟩ := by
  rw [joinTok, controlTok, BitVec.ofNat_toNat]

theorem joinsCount : JoinsCount := by
  rintro s c f k jc hs rfl rfl
  have hj : exec (.join f) s = execJoin f s := rfl
  have hjf : exec (.joinf f) s = execJoinf f s := rfl
  refine ⟨fun h => ?counts, fun h => ?emits, ?_⟩
  case counts =>
    rw [hj, execJoin, withCtx_of hs, if_neg h]
    exact finish_nil
  case emits =>
    rw [hj, execJoin, withCtx_of hs, if_pos h, joinTok_eq]
    exact finish_next (tagsOk_control _ _ _ rfl)
  rintro l rfl
  refine ⟨fun h => ?countsF, fun h => ?waitsF⟩
  case countsF =>
    rw [hjf, execJoinf, withCtx_of hs, if_neg (mt (eq_setWidth_low5 _ _).mp h)]
    exact finish_nil
  case waitsF =>
    rw [hjf, execJoinf, withCtx_of hs, if_pos ((eq_setWidth_low5 _ _).mpr h)]
    refine ⟨_, _, ⟨c.slot, .joinf f, .wait, 0, 0, none, [], [], .empty, 0, (f.cnt.extractLsb' 0 5).toNat, 0⟩, rfl, rfl,
      popAll_firing _ _ _ _, rfl, rfl, rfl, ?_, popAll_joinCt _ _ _ _, popAll_joinToks _ _ _ _⟩
    simp

/-- Settles O9: CRDSET, DONE, the two joins, and TRAP. -/
theorem limitsEndsAndJoinsRun : Obligations.LimitsEndsAndJoinsRun :=
  ⟨limitsAndEndCounts, joinsCount, fun s c f hs => by
    have hi : exec (.trap f) s = execTrap f s := rfl
    rw [hi, execTrap, withCtx_of hs]
    rfl⟩

end Sys2Proof.Proofs.ControlRuns
end

section
/-! R171: a read of the squashed firings. `sset` and `sget` read back what they write on canonical maps only, and nothing asks
that the counters of an element are one, so what PERF 2 reads is not always what the counter was set to. -/

namespace Sys2Proof.Proofs.StatusReads

open Sys2Proof Sys2Proof.Machine Sys2Proof.Proofs.ControlRuns

/-- An element record with nothing in it. -/
def blankRec : ElemRec :=
  ⟨.C, 0, false, 0, 0, 0, Vector.replicate 32 ⟨0, 0⟩, Vector.replicate 16 0, Vector.replicate 16 0⟩

/-- An element at rest with these counters. -/
def elemWith (perf : List (Nat × BitVec 64)) : Elem :=
  ⟨blankRec, Vector.replicate 8 0, 0, Vector.replicate 4 .empty, Vector.replicate 4 0, .none, 0, 0, Vector.replicate 32 0, [],
    0, 0, perf, .c XS.clear XS.clear, .arm, none, [], 0, [], [], [], false, none, 0⟩

/-- A graph that holds that element alone. -/
def graphWith (el : Elem) : GraphSt := ⟨Vector.replicate 8 0, [el], [], 1, 0, [], 0, [], [], []⟩

/-- A machine whose region slot 0 holds that graph. -/
def stateWith (el : Elem) : State :=
  { State.reset with regions := [{ Region.empty with g := some (graphWith el) }] }

/-- The firing of slot 0 of that element. -/
def ctxWith (el : Elem) : Ctx :=
  ⟨0, 0, 0, { Region.empty with g := some (graphWith el) }, graphWith el, el⟩

theorem ctx?_stateWith (el : Elem) : (stateWith el).ctx? = some (ctxWith el) := rfl

/-- PERF with a discarded result, of the squashed firings. -/
def readSquashed : XForm := ⟨.discard, .zero, .zero, 0, 2⟩

/-- The counters after that firing completes in slot 0: it adds to counters 1 and 32 (R171). -/
def bumped (p : List (Nat × BitVec 64)) : List (Nat × BitVec 64) :=
  sset 0 (sset 0 p 1 (sget 0 p 1 + 1)) 32 (sget 0 (sset 0 p 1 (sget 0 p 1 + 1)) 32 + 1)

/-- The counters of element 0 of region slot 0. -/
def perfAt (s : State) : Option (List (Nat × BitVec 64)) :=
  (s.at? 0 0 0).map fun c => c.el.perf

theorem perfAt_fired (el x : Elem) (t : State) (n : Nat) (ht : t = { stateWith el with freeCtr := n }) :
    perfAt ((ctxWith el).fired t x [] 0 0) = some (bumped x.perf) := by
  subst ht
  rfl

theorem exec_perf_two {s : State} {c : Ctx} (hs : s.ctx? = some c) :
    exec (.perf readSquashed) s =
      .next (c.fired { s with freeCtr := s.freeCtr + 1 } (c.el.countSquashed s.freeCtr) [] 0 0) := by
  have hi : exec (.perf readSquashed) s = execPerf readSquashed s := rfl
  rw [hi, execPerf, if_pos (by rfl), withCtx_of hs]
  rfl

/-- The value that, once counter 2 has risen, leaves 0 in it. -/
def opposite : BitVec 64 := - Config.freeWord64 0

/-- Counters that name counter 2 twice. -/
def twice : List (Nat × BitVec 64) := [(2, opposite), (2, 5)]

theorem countSquashed_twice : ((elemWith twice).countSquashed 0).perf = [(2, 5)] := by
  simp [Elem.countSquashed, elemWith, twice, opposite, sget, sset]

/-- Refutes O6: where the counters name counter 2 twice and the first rises to 0, its entry goes, and what PERF 2 reads is the
second, which no write of that value to counter 2 leaves behind. -/
theorem not_statusReadsRun : ¬ Obligations.StatusReadsRun := by
  intro h
  have hready : (ctxWith (elemWith twice)).readyX readSquashed [readSquashed.sa, readSquashed.sb] none := ⟨rfl, rfl⟩
  obtain ⟨r, el, t, hr, -, hel, ht, hexec⟩ :=
    ((h _ _ (ctx?_stateWith (elemWith twice))).2 readSquashed hready).2 rfl
  rw [exec_perf_two (ctx?_stateWith (elemWith twice))] at hexec
  have hperf : some (bumped ((elemWith twice).countSquashed 0).perf) = some (bumped el.perf) := by
    rw [← perfAt_fired (elemWith twice) _ _ _ rfl, ← perfAt_fired (elemWith twice) el t _ ht]
    exact congrArg perfAt (Host.Outcome.next.inj hexec)
  have hwritten : el.perf = sset 0 twice 2 (sget 0 el.perf 2) := congrArg Elem.perf hel
  rw [countSquashed_twice] at hperf
  by_cases hy : sget 0 el.perf 2 = 0
  · have hlist : el.perf = [(2, 5)] := by rw [hwritten, hy]; rfl
    rw [hlist] at hy
    exact absurd hy (by decide)
  · have hlist : el.perf = [(2, sget 0 el.perf 2), (2, 5)] := by
      conv_lhs => rw [hwritten]
      rw [twice, sset, if_neg (by decide), if_pos rfl, if_neg hy]
    rw [hlist] at hperf
    have hlen := congrArg (fun o => (o.getD []).length) hperf
    simp [bumped, sset, sget] at hlen

end Sys2Proof.Proofs.StatusReads
end

section
/-! R181 to R210: vector floating point, conversions, special functions, and the exact accumulators. A family is one
operation over its variant; each lane of the payload it packs is the code that its rule gives. -/

namespace Sys2Proof.Proofs.FloatRuns

open Sys2Proof Sys2Proof.Machine Sys2Proof.Proofs.ControlRuns

/-! ### Lanes and conditions -/

theorem FVar.w_pos (v : FVar) : 0 < v.w := by cases v <;> decide

theorem FVar.w_mul_n (v : FVar) : v.w * v.n ≤ 256 := by cases v <;> decide

theorem lane_pack (v : FVar) (f : Nat → Nat) {l : Nat} (hl : l < v.n) : lane (v.pack f) v.w l = BitVec.ofNat v.w (f l) := by
  rw [FVar.pack, lane_ofLanes (FVar.w_pos v) (FVar.w_mul_n v), if_pos hl]

theorem lane32_allLanes (f : Nat → Word) {l : Nat} (hl : l < 8) : lane32 (allLanes 32 f) l = f l :=
  lane_allLanes (by decide) hl

theorem any_range_iff {n : Nat} {p : Nat → Bool} : (List.range n).any p = true ↔ ∃ l, l < n ∧ p l = true := by
  simp [List.any_eq_true]

theorem laneNaN_iff {f : Fmt} {w n : Nat} {r : Payload} :
    laneNaN f w n r = true ↔ ∃ l, l < n ∧ (f.value (lane r w l).toNat).isNaN = true := any_range_iff

/-! ### The shared shapes of a family -/

section
variable {s : State} {c : Ctx} (hs : s.ctx? = some c)
include hs

/-- An instruction that packs a code of the variant in every lane. -/
theorem floatRuns_of_pack {v : FVar} {f : RForm} {i : Instr} {h : Ctx → BitVec 4 → Payload → Payload → Out} {code : Nat → Nat}
    (hi : exec i s = ordinaryR s f h)
    (ho : h c (modOf f) (c.opA f) (c.opB f) = ⟨v.pack code, laneNaN v.fmt v.w v.n (v.pack code), some (c.vtag v)⟩)
    (hr : c.readyR f (some (c.vtag v))) : FloatRuns s c v i f code :=
  ⟨v.pack code, _, fun _ hl => lane_pack v code hl, laneNaN_iff, fires_of_ordinaryR hs hi ho hr⟩

theorem floatOp_runs {v : FVar} {f : RForm} {i : Instr} {h : Ctx → (Nat → RMode) → Nat → Val → Val → Val} {rm : Nat → RMode}
    (hi : exec i s = floatOp v f s h) (hrm : rm = c.rmode s (modOf f).toNat) (hr : c.readyR f (some (c.vtag v))) :
    FloatRuns s c v i f fun l => roundTo v.fmt (rm l) (h c rm l (v.val (c.opA f) l) (v.val (c.opB f) l)) := by
  subst hrm
  exact floatRuns_of_pack hs hi rfl hr

theorem floatExact_runs {v : FVar} {f : RForm} {i : Instr} {h : Val → Val → Val} (hi : exec i s = floatExact v f s h)
    (hr : c.readyR f (some (c.vtag v))) :
    FloatRuns s c v i f fun l => roundTo v.fmt .rne (h (v.val (c.opA f) l) (v.val (c.opB f) l)) :=
  floatRuns_of_pack hs hi rfl hr

theorem floatCmp_runs {v : FVar} {f : RForm} {i : Instr} {h : Val → Val → Bool} (hi : exec i s = floatCmp v f s h)
    (hr : c.readyR f (some 1)) : CompareRuns s c v i f h := by
  refine ⟨_, fun l hl => ?_, fires_of_ordinaryR hs hi rfl hr⟩
  rw [lane_pack v _ hl]
  split
  · exact BitVec.eq_of_toNat_eq (by simp)
  · rfl

end

/-! ### Arithmetic (R187) -/

section
variable (v : FVar) (f : RForm) (s : State)

theorem exec_fadd : exec (faddOf v f) s = opFadd v f s := by cases v <;> rfl
theorem exec_fsub : exec (fsubOf v f) s = opFsub v f s := by cases v <;> rfl
theorem exec_fmul : exec (fmulOf v f) s = opFmul v f s := by cases v <;> rfl
theorem exec_ffma : exec (ffmaOf v f) s = opFfma v f s := by cases v <;> rfl
theorem exec_fmin : exec (fminOf v f) s = opFminmax false v f s := by cases v <;> rfl
theorem exec_fmax : exec (fmaxOf v f) s = opFminmax true v f s := by cases v <;> rfl
theorem exec_fabs : exec (fabsOf v f) s = opFabs v f s := by cases v <;> rfl
theorem exec_fneg : exec (fnegOf v f) s = opFneg v f s := by cases v <;> rfl
theorem exec_fceq : exec (fceqOf v f) s = opFceq v f s := by cases v <;> rfl
theorem exec_fclt : exec (fcltOf v f) s = opFclt v f s := by cases v <;> rfl
theorem exec_fcle : exec (fcleOf v f) s = opFcle v f s := by cases v <;> rfl
theorem exec_fcvt : exec (fcvtOf v f) s = opFcvt v f s := by cases v <;> rfl
theorem exec_ftoi : exec (ftoiOf v f) s = opFtoi v f s := by cases v <;> rfl
theorem exec_itof : exec (itofOf v f) s = opItof v f s := by cases v <;> rfl
theorem exec_fwiden : exec (fwidenOf v f) s = opFwiden v f s := by cases v <;> rfl

end

theorem exec_fnarrow (v : FVar) (f : XForm) (s : State) : exec (fnarrowOf v f) s = opFnarrow v f s := by cases v <;> rfl

/-- Settles O10: each family rounds its exact result once in every lane. -/
theorem floatArithmeticRuns : Obligations.FloatArithmeticRuns := by
  intro s c v f rm hs hr hrm
  exact ⟨floatOp_runs hs (exec_fadd v f s) hrm hr, floatOp_runs hs (exec_fsub v f s) hrm hr,
    floatOp_runs hs (exec_fmul v f s) hrm hr, floatOp_runs hs (exec_ffma v f s) hrm hr⟩

/-- Settles O11: minima, maxima and signs are exact, and a comparison gives all ones or zero. -/
theorem floatSelectionRuns : Obligations.FloatSelectionRuns := by
  intro s c v f hs
  refine ⟨fun hr => ?_, fun hr => ?_⟩
  · exact ⟨floatExact_runs hs (h := Val.minmax false) (exec_fmin v f s) hr,
      floatExact_runs hs (h := Val.minmax true) (exec_fmax v f s) hr,
      floatExact_runs hs (h := fun x _ => x.abs) (exec_fabs v f s) hr,
      floatExact_runs hs (h := fun x _ => x.negate) (exec_fneg v f s) hr⟩
  · exact ⟨floatCmp_runs hs (exec_fceq v f s) hr, floatCmp_runs hs (exec_fclt v f s) hr,
      floatCmp_runs hs (exec_fcle v f s) hr⟩

/-! ### Conversions (R190 to R195) -/

section
variable {s : State} {c : Ctx} (hs : s.ctx? = some c) {v : FVar}
include hs

theorem fcvt_runs {f : RForm} {rm : Nat → RMode} (hrm : rm = c.rmode s (modOf f).toNat)
    (hr : c.readyR f (some (c.vtag v))) :
    FloatRuns s c v (fcvtOf v f) f fun l =>
      if v = .f32 then roundTo fp32 .rne (integral (rm l) (FVar.f32.val (c.opA f) l))
      else roundTo v.fmt (rm l) (if l < 8 then FVar.f32.val (c.opA f) l else FVar.f32.val (c.opB f) (l - 8)) := by
  subst hrm
  refine floatRuns_of_pack hs (exec_fcvt v f s) ?_ hr
  cases v <;> rfl

theorem itof_runs {f : RForm} {rm : Nat → RMode} {x : Nat → Val} (hrm : rm = c.rmode s (modOf f).toNat)
    (hx : x = fun l => .ofInt (if l < 8 then (lane32 (c.opA f) l).toInt else (lane32 (c.opB f) (l - 8)).toInt))
    (hr : c.readyR f (some (c.vtag v))) :
    exec (itofOf v f) s = .next (c.firedR s f ⟨v.pack fun l => roundTo v.fmt (rm l) (x l),
      (List.range v.n).any fun l => v.fmt.overflows (rm l) (x l), some (c.vtag v)⟩) := by
  subst hrm hx
  exact fires_of_ordinaryR hs (exec_itof v f s) rfl hr

theorem ftoi_runs {f : RForm} {rm : Nat → RMode} (hrm : rm = c.rmode s (modOf f).toNat) (hr : c.readyR f (some 1)) :
    exec (ftoiOf v f) s = .next (c.firedR s f
      ⟨allLanes 32 fun l => BitVec.ofNat 32 (roundTo int32 (rm l) (v.val (c.opA f) l)),
        (List.range 8).any fun l => outOfInt32 (rm l) (v.val (c.opA f) l), some 1⟩) := by
  subst hrm
  exact fires_of_ordinaryR hs (exec_ftoi v f s) rfl hr

theorem fwiden_runs {f : RForm} {r : Payload} (hres : r = allLanes 32 fun l => rneFP32 (v.val (c.opA f) l))
    (hr : c.readyR f (some 0)) :
    exec (fwidenOf v f) s = .next (c.firedR s f ⟨r, laneNaN fp32 32 8 r, some 0⟩) := by
  subst hres
  exact fires_of_ordinaryR hs (exec_fwiden v f s) rfl hr

theorem fnarrow_runs {f : XForm} {t : Fmt} {tag : BitVec 3} {rm : Nat → RMode} (htag : tag = f.cnt.extractLsb' 5 3)
    (ht : c.g.fmt? tag = some t) (hrm : rm = c.rmode s (f.cnt.toNat % 16)) (hr : c.readyX f [f.sa, f.sb] (some tag)) :
    exec (fnarrowOf v f) s = .next (c.firedX s f [f.sa, f.sb] (some tag)
      (packFmt t (2 * v.n) fun j => roundTo t (rm j)
        (if j < v.n then v.val (c.src 0 f.sa) j else v.val (c.src 0 f.sb) (j - v.n)))) := by
  subst htag hrm
  obtain ⟨hclean, hset⟩ := hr
  have hp : ¬ ([f.sa, f.sb].any c.poisoned = true) := by rw [hclean]; decide
  simp only [exec_fnarrow, opFnarrow, withCtx_of hs, if_neg hp, ht]
  exact ordinaryX_next (o := ⟨_, false, some _⟩) hclean hset

end

/-- Settles O12: each conversion lane by lane, with the condition of its rule. -/
theorem floatConversionsRun : Obligations.FloatConversionsRun := by
  intro s c v hs
  refine ⟨fun f rm hrm => ⟨fun hr => ⟨fcvt_runs hs hrm hr, ?itof⟩, fun hr => ?ftoi, fun hr => ?fwiden⟩,
    fun f t tag rm htag ht hrm hr => fnarrow_runs hs htag ht hrm hr⟩
  case itof =>
    exact ⟨_, _, fun l hl => lane_pack v _ hl, any_range_iff, itof_runs hs hrm rfl hr⟩
  case ftoi =>
    exact ⟨_, _, fun l hl => lane32_allLanes _ hl, any_range_iff, ftoi_runs hs hrm hr⟩
  case fwiden =>
    exact ⟨_, _, fun l hl => lane32_allLanes _ hl, laneNaN_iff, fwiden_runs hs rfl hr⟩

/-! ### Special functions, random bits and the soft maximum (R196 to R198, R205 to R210) -/

section
variable {s : State} {c : Ctx} (hs : s.ctx? = some c) {f : RForm}
include hs

theorem specialOp_runs {i : Instr} {h : Word → Word} (hi : exec i s = specialOp f s h) (hr : c.readyR f (some 0)) :
    ∃ (r : Payload) (k : Bool), (∀ l, l < 8 → lane32 r l = h (lane32 (c.opA f) l)) ∧
      (k = true ↔ ∃ l, l < 8 ∧ (val32 (lane32 r l)).isNaN = true) ∧ exec i s = .next (c.firedR s f ⟨r, k, some 0⟩) :=
  ⟨_, _, fun _ hl => lane32_allLanes _ hl, laneNaN_iff, fires_of_ordinaryR hs hi rfl hr⟩

theorem rand_runs (hr : c.readyR f (some 1)) {r : Payload}
    (hres : r = allLanes 32 fun l =>
      (kch (s.seedOf c.reg) (lane32 (c.opB f) 0) (lane32 (c.opB f) 1 ++ lane32 (c.opA f) l)).1) :
    exec (.rand f) s = .next (c.firedR s f ⟨r, lowNonzero r, some 1⟩) := by
  have hi : exec (.rand f) s = execRand f s := rfl
  subst hres
  exact fires_of_ordinaryR hs hi rfl hr

theorem smax_norm_runs (hm : modOf f = 1) (hr : c.readyR f (some 0)) :
    exec (.smax f) s = .next (c.firedR s f ⟨smaxNorm (c.opA f) (c.opB f), (SMaxSt.ofPayload (c.opB f)).empty?, some 0⟩) := by
  have hi : exec (.smax f) s = execSmax f s := rfl
  exact fires_of_ordinaryR hs hi (if_pos hm) hr

theorem smax_state_runs {st : SMaxSt} (hm : modOf f ≠ 1) (hr : c.readyR f (some 1))
    (hst : st = if modOf f = 2 then smaxMerge (c.opA f) (c.opB f) else smaxAdd (c.opA f) (c.opB f)) :
    exec (.smax f) s = .next (c.firedR s f ⟨st.payload, st.empty?, some 1⟩) := by
  have hi : exec (.smax f) s = execSmax f s := rfl
  subst hst
  exact fires_of_ordinaryR hs hi (if_neg hm) hr

end

/-- Settles O13: one shared shape for the nine functions, then RAND and the three forms of SMAX. -/
theorem specialFunctionsRun : Obligations.SpecialFunctionsRun := by
  refine fun s c f hs => ⟨fun hr i h hih => ?_, fun hr => ⟨_, fun l hl => lane32_allLanes _ hl, rand_runs hs hr rfl⟩,
    fun hm hr => smax_norm_runs hs hm hr, fun st hm hr hst => smax_state_runs hs hm hr hst⟩
  have hi : exec i s = specialOp f s h := by
    simp only [List.mem_cons, Prod.mk.injEq, List.not_mem_nil, or_false] at hih
    rcases hih with ⟨rfl, rfl⟩ | ⟨rfl, rfl⟩ | ⟨rfl, rfl⟩ | ⟨rfl, rfl⟩ | ⟨rfl, rfl⟩ | ⟨rfl, rfl⟩ | ⟨rfl, rfl⟩ | ⟨rfl, rfl⟩ |
      ⟨rfl, rfl⟩ <;> rfl
  exact specialOp_runs hs hi hr

/-! ### Exact accumulators (R199 to R204) -/

section
variable {s : State} {c : Ctx} (hs : s.ctx? = some c) {x y : XS} (hk : c.el.ks = .c x y)
include hs hk

theorem xclr_runs (f : IForm) :
    exec (.xclr f) s = .next (c.fired s
      ({ c.el with ks := .c (if f.imm = 1 then x else ⟨0, 0, 0, 0⟩) (if f.imm = 0 then y else ⟨0, 0, 0, 0⟩) }.withPw f.pw
        false) [] f.pop 0) := by
  have hi : exec (.xclr f) s = execXclr f s := rfl
  rw [hi, execXclr, withCtx_of hs, Ctx.withXa, hk]
  exact quiet_next rfl

theorem xadd_runs {f : XForm} {fm : Fmt} {vs : List Val} (hv : c.xvals f.sa = some (fm, vs)) (hclean : c.clean [f.sa]) :
    exec (.xadd f) s = .next (c.fired s
      { c.el with ks := if f.cnt.getLsbD 0 then .c x (xsAddAll y vs) else .c (xsAddAll x vs) y } [] f.pop
      (readMask [f.sa])) := by
  have hi : exec (.xadd f) s = execXadd f s := rfl
  have hp : ¬ (c.poisoned f.sa = true) := by simpa [Ctx.clean] using hclean
  simp only [hi, execXadd, withCtx_of hs, Ctx.withXa, hk, if_neg hp, hv]
  exact quiet_next hclean

theorem xsq_runs {f : XForm} {fm : Fmt} {vs : List Val} (hv : c.xvals f.sa = some (fm, vs)) {h : Val → Val}
    (hclean : c.clean [f.sa, f.sb]) (hz : f.sb = .zero → h = squareFor fm)
    (hnz : f.sb ≠ .zero → h = centredSquare (val32 (lane32 (c.src 0 f.sb) 0))) :
    exec (.xsq f) s = .next (c.fired s
      { c.el with ks := if f.cnt.getLsbD 0 then .c x (xsAddAll y (vs.map h)) else .c (xsAddAll x (vs.map h)) y } [] f.pop
      (readMask [f.sa, f.sb])) := by
  have hi : exec (.xsq f) s = execXsq f s := rfl
  have hp : ¬ ((c.poisoned f.sa || c.poisoned f.sb) = true) := by simpa [Ctx.clean] using hclean
  simp only [hi, execXsq, withCtx_of hs, Ctx.withXa, hk, if_neg hp, hv]
  have hfn : (match f.sb with
      | .zero => squareFor fm
      | sb => centredSquare (val32 (lane32 (c.src 0 sb) 0))) = h := by
    cases hsb : f.sb with
    | zero => exact (hz hsb).symm
    | _ => rw [hnz (by rw [hsb]; nofun), hsb]
  rw [← hfn]
  exact quiet_next hclean

theorem xrd_runs {f : XForm} {t : Fmt} {tag : BitVec 3} {rm : Nat → RMode} (htag : tag = f.cnt.extractLsb' 5 3)
    (ht : c.g.fmt? tag = some t) (hrm : rm = c.rmode s (f.cnt.toNat % 16)) (hr : c.readyX f [] (some tag)) :
    exec (.xrd f) s = .next (c.firedX s f [] (some tag)
      (packFmt t 1 fun _ => xsRound (if f.cnt.getLsbD 4 then y else x) 1 t (rm 0))) := by
  have hi : exec (.xrd f) s = execXrd f s := rfl
  subst htag hrm
  simp only [hi, execXrd, withCtx_of hs, Ctx.withXa, hk, ht]
  exact ordinaryX_next (o := ⟨_, false, some _⟩) hr.1 hr.2

theorem xvar_runs {f : XForm} {t : Fmt} {tag : BitVec 3} {rm : Nat → RMode} {n : Nat} (htag : tag = f.cnt.extractLsb' 5 3)
    (ht : c.g.fmt? tag = some t) (hrm : rm = c.rmode s (f.cnt.toNat % 16)) (hr : c.readyX f [f.sa] (some tag))
    (hn : n = (lane32 (c.src 0 f.sa) 0).toNat) :
    exec (.xvar f) s = .next (c.firedX s f [f.sa] (some tag) (packFmt t 2 fun i =>
      if i = 0 then (if n = 0 then roundTo t (rm 0) .nan else xsRound x n t (rm 0))
      else if n = 0 then roundTo t (rm 1) .nan
      else if (lane32 (c.src 0 f.sa) 1).getLsbD 0 then xsRound y n t (rm 1)
      else roundTo t (rm 1) (onePassVar x y n))) := by
  have hi : exec (.xvar f) s = execXvar f s := rfl
  subst htag hrm hn
  have hp : ¬ (c.poisoned f.sa = true) := by simpa [Ctx.clean] using hr.1
  simp only [hi, execXvar, withCtx_of hs, Ctx.withXa, hk, if_neg hp, ht]
  exact ordinaryX_next (o := ⟨_, false, some _⟩) hr.1 hr.2

end

/-- Settles O14: the accumulators are cleared, added to, and read out. -/
theorem exactAccumulatorsRun : Obligations.ExactAccumulatorsRun := by
  refine fun s c x y hs hk => ⟨xclr_runs hs hk, fun f fm vs hv => ⟨xadd_runs hs hk hv, fun h hclean hz hnz =>
    xsq_runs hs hk hv hclean hz hnz⟩, fun f t tag rm htag ht hrm => ⟨xrd_runs hs hk htag ht hrm, fun n hr hn =>
    xvar_runs hs hk htag ht hrm hr hn⟩⟩

end Sys2Proof.Proofs.FloatRuns
end

section
/-! R232 to R236, R238, R244, R247: gathering and scattering lanes, the running maximum, thresholds, free places, the pair's
control, and the sliding window. -/

namespace Sys2Proof.Proofs.ShapeRuns

open Sys2Proof Sys2Proof.Machine Sys2Proof.Proofs.ControlRuns Sys2Proof.Proofs.FloatRuns

/-! ### The lanes that a mask selects (R236) -/

theorem filter_range_lt {p : Nat → Bool} {n l : Nat} (h : l ≤ n) :
    ((List.range n).filter p).filter (fun k => decide (k < l)) = (List.range l).filter p := by
  obtain ⟨k, rfl⟩ := Nat.exists_eq_add_of_le h
  rw [List.filter_comm, List.range_add, List.filter_append]
  have hlow : (List.range l).filter (fun k => decide (k < l)) = List.range l := by
    simp [List.filter_eq_self]
  have hhigh : ((List.range k).map (l + ·)).filter (fun k => decide (k < l)) = [] := by
    simp [List.filter_eq_nil_iff]
  rw [hlow, hhigh, List.append_nil]

/-- The selected lane `l` stands at the place that the number of selected lanes below it names. -/
theorem getD_filter_range {p : Nat → Bool} {n l : Nat} (hl : l < n) (hp : p l = true) :
    ((List.range l).filter p).length < ((List.range n).filter p).length ∧
      ((List.range n).filter p).getD ((List.range l).filter p).length 0 = l := by
  obtain ⟨k, rfl⟩ := Nat.exists_eq_add_of_lt hl
  have hsplit : (List.range (l + k + 1)).filter p =
      (List.range l).filter p ++ l :: ((List.range k).map (l + 1 + ·)).filter p := by
    rw [show l + k + 1 = l + (1 + k) by omega, List.range_add, List.filter_append, List.range_add]
    simp [hp, List.filter_map, Function.comp_def, Nat.add_assoc]
  rw [hsplit]
  simp

theorem selected_length (w : Nat) (b : Payload) : (selected w b).length = below w b (256 / w) := rfl

theorem selected_length_le (w : Nat) (b : Payload) : (selected w b).length ≤ 256 / w := by
  rw [selected]
  exact (List.length_filter_le _ _).trans_eq List.length_range

theorem lane_resCmpr (w : Nat) (hw : 0 < w) (a b : Payload) (i : Nat) :
    lane (resCmpr w a b) w i = if i < (selected w b).length then lane a w ((selected w b).getD i 0) else 0 :=
  lane_ofLanes hw ((Nat.mul_le_mul_left w (selected_length_le w b)).trans (Nat.mul_div_le 256 w)) i

/-- CMPR puts a selected lane behind the selected lanes below it. -/
theorem lane_resCmpr_below {w : Nat} (hw : 0 < w) (a : Payload) {b : Payload} {l : Nat} (hl : l < 256 / w)
    (hb : lane b w l ≠ 0) : lane (resCmpr w a b) w (below w b l) = lane a w l := by
  obtain ⟨hlt, hget⟩ := getD_filter_range (p := fun l => lane b w l != 0) hl (by simpa using hb)
  rw [lane_resCmpr w hw, if_pos (show below w b l < (selected w b).length from hlt)]
  exact congrArg (lane a w) hget

theorem lane_resExpnd {w : Nat} (hw : 0 < w) (a b : Payload) {l : Nat} (hl : l < 256 / w) :
    lane (resExpnd w a b) w l = if lane b w l = 0 then 0 else lane a w (below w b l) := by
  have hbelow : ((selected w b).filter (· < l)).length = below w b l := by
    rw [selected, filter_range_lt (Nat.le_of_lt hl)]
    rfl
  rw [resExpnd, lane_allLanes hw hl, hbelow]
  by_cases h : lane b w l = 0 <;> simp [h]

theorem compressAndExpandRun : CompressAndExpandRun := by
  rintro s c f w hs hr rfl
  have hw := shapeWidth_pos (modOf f).toNat
  have hcmpr : exec (.cmpr f) s = execCmpr f s := rfl
  have hexpnd : exec (.expnd f) s = execExpnd f s := rfl
  obtain ⟨hclean, htag⟩ := hr
  refine ⟨⟨resCmpr (shapeWidth (modOf f).toNat) (c.opA f) (c.opB f), _, rfl, fun l hl hb => lane_resCmpr_below hw _ hl hb,
    fun l hl _ => ?_, ?_⟩,
    ⟨resExpnd (shapeWidth (modOf f).toNat) (c.opA f) (c.opB f), fun l hl => lane_resExpnd hw _ _ hl,
      fires_of_ordinaryR hs hexpnd rfl ⟨hclean, htag⟩⟩⟩
  · rw [lane_resCmpr _ hw, if_neg (by rw [selected_length]; exact Nat.not_lt.mpr hl)]
  · have hset : c.g.tagsOk c.e (pushesOf f.dst
        { c.tok f.md [f.sa, f.sb] none (resCmpr (shapeWidth (modOf f).toNat) (c.opA f) (c.opB f)) with
          coord := BitVec.ofNat 16 (below (shapeWidth (modOf f).toNat) (c.opB f) (256 / shapeWidth (modOf f).toNat)) }) =
        true := by
      rw [← htag]
      unfold Ctx.pushR
      cases f.dst <;> rfl
    rw [hcmpr, execCmpr, withCtx_of hs, if_neg (by rw [hclean]; decide)]
    exact finish_next hset

/-! ### The maximum, thresholds and free places (R238, R244, R247) -/

theorem getLsbD_resXthr (fm : Fmt) (a : Payload) (ks : Vector Payload 16) {n j : Nat} (hn : n < 16) (hj : j < 16) :
    (resXthr fm a ks).getLsbD (16 * n + j) = true ↔
      let x := fm.value (lane a 16 n).toNat
      let t := fm.value (lane (ks.get (Fin.ofNat 16 n)) 16 j).toNat
      t.lt x = true ∨ t.eq x = true := by
  have hdiv : (16 * n + j) / 16 = n := by omega
  have hmod : (16 * n + j) % 16 = j := by omega
  have hlt : 16 * n + j < 256 := by omega
  rw [resXthr, getLsbD_ofLanes (by decide) (by decide)]
  simp [hdiv, hmod, hlt, Nat.mod_one]

section
variable {s : State} {c : Ctx} (hs : s.ctx? = some c) {f : RForm}
include hs

theorem argmx_runs (hr : c.readyR f (some 1)) :
    exec (.argmx f) s = .next (c.firedR s f
      ⟨resArgmx (c.opA f) (c.opB f), (val32 (lane32 (resArgmx (c.opA f) (c.opB f)) 0)).isNaN, some 1⟩) := by
  have hi : exec (.argmx f) s = execArgmx f s := rfl
  exact fires_of_ordinaryR hs hi rfl hr

theorem xthr_runs {fm : Fmt} (hfm : c.g.fmt? (c.el.img.ctags.get 0) = some fm) (hr : c.readyR f (some c.g.sliceTag))
    {r : Payload} (hres : r = resXthr fm (c.opA f) c.el.img.consts) :
    exec (.xthr f) s = .next (c.firedR s f ⟨r, lowNonzero r, some c.g.sliceTag⟩) := by
  have hi : exec (.xthr f) s = execXthr f s := rfl
  subst hres
  refine fires_of_ordinaryR hs hi ?_ hr
  simp only [hfm, Option.getD_some]
  rfl

theorem slots_runs (hr : c.readyR f none) :
    exec (.slots f) s = .next (c.firedR s f
      ⟨resSlots c, decide (0 < c.g.freePlaces c.e (Fin.ofNat 4 (modOf f).toNat)), none⟩) := by
  have hi : exec (.slots f) s = execSlots f s := rfl
  exact fires_of_ordinaryR hs hi rfl hr

end

theorem maximumThresholdsAndSpaceRun : MaximumThresholdsAndSpaceRun := by
  refine fun s c f hs => ⟨fun hr => argmx_runs hs hr,
    fun fm hfm hr => ⟨_, fun n j hn hj => getLsbD_resXthr fm _ _ hn hj, xthr_runs hs hfm hr rfl⟩,
    fun hr => ⟨resSlots c, fun o => ?_, fun o ho => ?_, fun l hl => lane32_ofWords_of_le hl, slots_runs hs hr⟩⟩
  · rw [resSlots, lane32_ofWords_of_lt (by omega)]
    match o with
    | 0 => rfl
    | 1 => rfl
    | 2 => rfl
    | 3 => rfl
  · rw [resSlots, lane32_ofWords_of_lt (by decide), lane32_ofWords_of_lt (by decide), ho]
    exact ⟨rfl, rfl⟩

/-! ### The pair and the sliding window (R232 to R235) -/

section
variable {s : State} {c : Ctx} (hs : s.ctx? = some c)
include hs

theorem isect_runs (f : IForm) :
    exec (.isect f) s = .next (c.fired s
      ({ c.el with pair := if f.imm.getLsbD 0 then { c.el.pair with active := true }
          else { c.el.pair with active := false, drain := none } }.withPw f.pw false) [] f.pop 0) := by
  have hi : exec (.isect f) s = execIsect f s := rfl
  rw [hi, execIsect, withCtx_of hs]
  exact quiet_next rfl

theorem icnt_runs {f : RForm} {r : Payload} {p : Pair}
    (hr : r = if c.el.img.isect then ofWords [c.el.pair.disc0, c.el.pair.disc1, c.el.pair.matched, c.el.pair.drains] else 0)
    (hp : p = if modOf f = 1 then { c.el.pair with disc0 := 0, disc1 := 0, matched := 0, drains := 0 } else c.el.pair)
    (ht : c.inSets (pushesOf f.dst (c.tok f.md [f.sa, f.sb] none r))) :
    exec (.icnt f) s = .next (c.fired s (({ c.el with pair := p }.writeDst f.dst r).withPw f.pw (lowNonzero r))
      (pushesOf f.dst (c.tok f.md [f.sa, f.sb] none r)) f.pop 0) := by
  have hi : exec (.icnt f) s = execIcnt f s := rfl
  subst hr hp
  rw [hi, execIcnt, withCtx_of hs]
  exact finish_next ht

theorem swcfg_runs {f : RForm} {x : SSt} {w : Nat} (hk : c.el.ks = .s x) (hclean : c.clean [f.sa])
    (hw : w = (lane32 (c.opA f) 0).toNat) (h1 : 1 ≤ w) (h2 : w ≤ c.el.img.pword.toNat % 256 * 1024 / 32) :
    exec (.swcfg f) s = .next (c.fired s ({ c.el with ks := .s { x with ringW := w, ring := [] } }.withPw f.pw false) []
      f.pop (readMask [f.sa])) := by
  have hi : exec (.swcfg f) s = execSwcfg f s := rfl
  have hp : ¬ (c.poisoned f.sa = true) := by simpa [Ctx.clean] using hclean
  have hfit : (decide ((lane32 (c.src f.md f.sa) 0).toNat = 0) ||
      decide (pwSlide c.el.img.pword * 1024 / 32 < (lane32 (c.src f.md f.sa) 0).toNat)) = false := by
    have hw' : w = (lane32 (c.src f.md f.sa) 0).toNat := hw
    rw [← hw', Bool.or_eq_false_iff]
    exact ⟨decide_eq_false (by omega), decide_eq_false (Nat.not_lt.mpr h2)⟩
  subst hw
  simp only [hi, execSwcfg, withCtx_of hs, Ctx.withS, hk, if_neg hp]
  rw [if_neg (by rw [hfit]; decide)]
  exact quiet_next hclean

theorem swpush_runs {f : RForm} {x : SSt} {l : List RingEnt} (hk : c.el.ks = .s x) (hclean : c.clean [f.sa])
    (h1 : 1 ≤ x.ringW) (h2 : x.ring.length ≤ x.ringW)
    (hl : l = (if x.ring.length = x.ringW then x.ring.drop 1 else x.ring) ++ [⟨c.opA f, c.tagOf f.md [f.sa]⟩]) :
    exec (.swpush f) s = .next (c.fired s
      ({ c.el with ks := .s { x with ring := l } }.withPw f.pw (decide (l.length = x.ringW))) [] f.pop
      (readMask [f.sa])) := by
  have hi : exec (.swpush f) s = execSwpush f s := rfl
  have hp : ¬ (c.poisoned f.sa = true) := by simpa [Ctx.clean] using hclean
  have hring : ringPush x.ringW x.ring ⟨c.opA f, c.tagOf f.md [f.sa]⟩ = l := by
    rw [hl, ringPush]
    by_cases hfull : x.ring.length = x.ringW
    · rw [if_pos hfull.ge, if_pos hfull, hfull, Nat.add_sub_cancel_left]
    · rw [if_neg (by omega), if_neg hfull]
  simp only [hi, execSwpush, withCtx_of hs, Ctx.withS, hk, if_neg hp, if_neg (show ¬ x.ringW = 0 by omega)]
  rw [← hring]
  exact quiet_next hclean

end

/-- Settles O15: the shapes, the maximum, thresholds and free places, the pair's control, and the sliding window. -/
theorem shapeInstructionsRun : Obligations.ShapeInstructionsRun := by
  refine ⟨compressAndExpandRun, maximumThresholdsAndSpaceRun, fun s c hs => ⟨fun f => isect_runs hs f,
    fun f r p hr hp ht => icnt_runs hs hr hp ht⟩, fun s c x f hs hk hclean => ⟨fun w hw h1 h2 =>
    swcfg_runs hs hk hclean hw h1 h2, fun l h1 h2 hl => swpush_runs hs hk hclean h1 h2 hl⟩⟩

end Sys2Proof.Proofs.ShapeRuns
end

section
/-! R213, R214, R223 to R231: the accumulators of a matrix element, the firings that take their tokens one at a time, and the
load engines. -/

namespace Sys2Proof.Proofs.MatrixRuns

open Sys2Proof Sys2Proof.Machine Sys2Proof.Proofs.ControlRuns

/-! ### One bit of a flag word, and eight columns of a row -/

theorem setRow_bit (w : BitVec 64) (r : Nat) (v : Bool) {q : Nat} (hq : q < 64) :
    (setRow w r v).getLsbD q = if q = r then v else w.getLsbD q := by
  have hpow : (BitVec.ofNat 64 (2 ^ r)).getLsbD q = decide (r = q) := by
    rw [BitVec.getLsbD_ofNat, Nat.testBit_two_pow, decide_eq_true hq, Bool.true_and]
  cases v
  · rw [setRow, if_neg Bool.false_ne_true, BitVec.getLsbD_and, BitVec.getLsbD_not, hpow]
    by_cases h : q = r
    · simp [h]
    · rw [decide_eq_false (Ne.symm h), if_neg h]
      simp [hq]
  · rw [setRow, if_pos rfl, BitVec.getLsbD_or, hpow]
    by_cases h : q = r
    · simp [h]
    · rw [decide_eq_false (Ne.symm h), if_neg h, Bool.or_false]

theorem setCols_eq (m : MSt) (r j : Nat) (f : Nat → Word) :
    m.setCols r j f = { m with acc := ssetMany 0 m.acc (128 * r + 8 * j) ((List.range 8).map f) } := by
  simp [MSt.setCols, MSt.setCol, List.range_succ, ssetMany, Nat.add_assoc]

section
variable {m : MSt} (h : swf 0 m.acc = true)
include h

theorem swf_setCols (r j : Nat) (f : Nat → Word) : swf 0 (m.setCols r j f).acc = true := by
  rw [setCols_eq]
  exact swf_ssetMany h

theorem col_setCols_inside (r j : Nat) (f : Nat → Word) {i : Nat} (hi : i < 8) :
    (m.setCols r j f).col r (8 * j + i) = f i := by
  have hin := sget_ssetMany_inside (d := (0 : Word)) (vs := (List.range 8).map f) (i := 128 * r + 8 * j) h (n := i)
    (by simpa using hi)
  rw [setCols_eq, MSt.col, ← Nat.add_assoc]
  simpa using hin

theorem col_setCols_outside (r j : Nat) (f : Nat → Word) {q n : Nat}
    (hn : ¬ ∃ i, i < 8 ∧ 128 * q + n = 128 * r + (8 * j + i)) : (m.setCols r j f).col q n = m.col q n := by
  rw [setCols_eq, MSt.col, MSt.col]
  refine sget_ssetMany_outside h ?_
  by_contra hc
  simp only [List.length_map, List.length_range] at hc
  exact hn ⟨128 * q + n - (128 * r + 8 * j), by omega, by omega⟩

end

/-! ### MZERO (R226) -/

/-- The first `k` groups of eight columns of a row cleared. -/
def zeroCols (m : MSt) (r k : Nat) : MSt := (List.range k).foldl (fun m j => m.setCols r j fun _ => 0) m

theorem zeroCols_succ (m : MSt) (r k : Nat) :
    zeroCols m r (k + 1) = (zeroCols m r k).setCols r k fun _ => 0 := by
  simp [zeroCols, List.range_succ]

theorem zeroCols_rest (m : MSt) (r k : Nat) : zeroCols m r k = { m with acc := (zeroCols m r k).acc } := by
  induction k with
  | zero => rfl
  | succ k ih =>
    rw [zeroCols_succ, setCols_eq, ih]

theorem swf_zeroCols {m : MSt} (h : swf 0 m.acc = true) (r k : Nat) : swf 0 (zeroCols m r k).acc = true := by
  induction k with
  | zero => exact h
  | succ k ih => rw [zeroCols_succ]; exact swf_setCols ih r k _

theorem col_zeroCols {m : MSt} (h : swf 0 m.acc = true) (r k q n : Nat) :
    (zeroCols m r k).col q n =
      if 128 * r ≤ 128 * q + n ∧ 128 * q + n < 128 * r + 8 * k then 0 else m.col q n := by
  induction k with
  | zero => rw [if_neg (by omega)]; rfl
  | succ k ih =>
    rw [zeroCols_succ]
    by_cases hin : ∃ i, i < 8 ∧ 128 * q + n = 128 * r + (8 * k + i)
    · obtain ⟨i, hi, he⟩ := hin
      rw [if_pos (by omega), MSt.col, he]
      exact col_setCols_inside (swf_zeroCols h r k) r k _ hi
    · rw [col_setCols_outside (swf_zeroCols h r k) r k _ hin, ih]
      have hout : ¬ (128 * r + 8 * k ≤ 128 * q + n ∧ 128 * q + n < 128 * r + 8 * (k + 1)) := fun hc =>
        hin ⟨128 * q + n - (128 * r + 8 * k), by omega, by omega⟩
      exact if_congr (by omega) rfl rfl

/-- The flags of a row dropped. -/
def dropFlags (m : MSt) (r : Nat) : MSt :=
  { m with primed := setRow m.primed r false, rowInt := setRow m.rowInt r false, sticky := setRow m.sticky r false }

/-- A row cleared, with its flags. -/
def zeroRow (m : MSt) (r : Nat) : MSt := dropFlags (zeroCols m r 16) r

/-- `m'` is `m` with the rows that `hit` names cleared, in their columns and their flags, and nothing else changed. -/
structure Zeroed (m m' : MSt) (hit : Nat → Prop) : Prop where
  canonical : swf 0 m'.acc = true
  cleared : ∀ r n, r < 64 → n < 128 → hit r → m'.col r n = 0
  kept : ∀ r n, r < 64 → n < 128 → ¬ hit r → m'.col r n = m.col r n
  primed : ∀ r, r < 64 → (m'.primed.getLsbD r = true ↔ ¬ hit r ∧ m.primed.getLsbD r = true)
  rowInt : ∀ r, r < 64 → (m'.rowInt.getLsbD r = true ↔ ¬ hit r ∧ m.rowInt.getLsbD r = true)
  sticky : ∀ r, r < 64 → (m'.sticky.getLsbD r = true ↔ ¬ hit r ∧ m.sticky.getLsbD r = true)
  rest : m' = { m with acc := m'.acc, primed := m'.primed, rowInt := m'.rowInt, sticky := m'.sticky }

theorem zeroed_nil {m : MSt} (h : swf 0 m.acc = true) : Zeroed m m fun r => r ∈ ([] : List Nat) := by
  constructor
  case canonical => exact h
  all_goals simp

theorem setRow_false_iff (w : BitVec 64) (a : Nat) {r : Nat} (hr : r < 64) :
    (setRow w a false).getLsbD r = true ↔ r ≠ a ∧ w.getLsbD r = true := by
  rw [setRow_bit w a false hr]
  split <;> simp [*]

/-- The columns of row `a` cleared in `z`, then its flags, then the rows of `l`. -/
theorem zeroed_row {m z m' : MSt} {a : Nat} {l : List Nat}
    (hcol : ∀ r n, n < 128 → z.col r n = if r = a then 0 else m.col r n) (hrest : z = { m with acc := z.acc })
    (h : Zeroed (dropFlags z a) m' (· ∈ l)) : Zeroed m m' (· ∈ a :: l) := by
  have hprimed : z.primed = m.primed := by rw [hrest]
  have hrowInt : z.rowInt = m.rowInt := by rw [hrest]
  have hsticky : z.sticky = m.sticky := by rw [hrest]
  have hcol' : ∀ r n, n < 128 → (dropFlags z a).col r n = if r = a then 0 else m.col r n := hcol
  refine ⟨h.canonical, fun r n hr hn hin => ?_, fun r n hr hn hin => ?_, fun r hr => ?_, fun r hr => ?_, fun r hr => ?_, ?_⟩
  · by_cases hl : r ∈ l
    · exact h.cleared r n hr hn hl
    · rw [h.kept r n hr hn hl, hcol' r n hn, if_pos (by simpa [hl] using hin)]
  · obtain ⟨hne, hl⟩ := not_or.mp (List.mem_cons.not.mp hin)
    rw [h.kept r n hr hn hl, hcol' r n hn, if_neg hne]
  · rw [h.primed r hr, dropFlags, setRow_false_iff _ _ hr, hprimed, List.mem_cons]
    tauto
  · rw [h.rowInt r hr, dropFlags, setRow_false_iff _ _ hr, hrowInt, List.mem_cons]
    tauto
  · rw [h.sticky r hr, dropFlags, setRow_false_iff _ _ hr, hsticky, List.mem_cons]
    tauto
  · rw [h.rest, dropFlags, hrest]

theorem zeroed_foldl (l : List Nat) {m : MSt} (hm : swf 0 m.acc = true) : Zeroed m (l.foldl zeroRow m) (· ∈ l) := by
  induction l generalizing m with
  | nil => exact zeroed_nil hm
  | cons a l ih =>
    have hcol := col_zeroCols hm a 16
    have hrest := zeroCols_rest m a 16
    have hcanon := swf_zeroCols hm a 16
    rw [List.foldl_cons, zeroRow]
    generalize zeroCols m a 16 = z at hcol hrest hcanon
    exact zeroed_row (fun r n hn => (hcol r n).trans (if_congr (by omega) rfl rfl)) hrest
      (ih (m := dropFlags z a) hcanon)

/-- A row marked as primed, on its path. -/
def markRow (m : MSt) (r : Nat) (int : Bool) : MSt :=
  { m with primed := setRow m.primed r true, rowInt := setRow m.rowInt r int }

section
variable {s : State} {c : Ctx} {m : MSt} (hs : s.ctx? = some c) (hk : c.el.ks = .m m)
include hs hk

theorem mzero_runs (hm : swf 0 m.acc = true) (f : IForm) :
    ∃ m', Zeroed m m' (fun r => f.imm = 255 ∨ f.imm.toNat = r) ∧
      exec (.mzero f) s = .next (c.fired s ({ c.el with ks := .m m' }.withPw f.pw false) [] f.pop 0) := by
  have hi : exec (.mzero f) s = execMzero f s := rfl
  have hrun : exec (.mzero f) s = .next (c.fired s ((c.el.setM
      ((if f.imm = 255 then List.range 64 else [f.imm.toNat]).foldl zeroRow m)).withPw f.pw false) [] f.pop 0) := by
    simp only [hi, execMzero, withCtx_of hs, Ctx.withM, hk]
    exact quiet_next rfl
  refine ⟨_, ?_, hrun⟩
  have hz := zeroed_foldl (if f.imm = 255 then List.range 64 else [f.imm.toNat]) hm
  have hmem : ∀ r, r < 64 → (r ∈ (if f.imm = 255 then List.range 64 else [f.imm.toNat]) ↔
      f.imm = 255 ∨ f.imm.toNat = r) := by
    intro r hr
    by_cases h : f.imm = 255
    · simp [h, hr]
    · rw [if_neg h, List.mem_singleton, or_iff_right h, eq_comm]
  exact ⟨hz.canonical, fun r n hr hn h => hz.cleared r n hr hn ((hmem r hr).mpr h),
    fun r n hr hn h => hz.kept r n hr hn ((hmem r hr).not.mpr h), fun r hr => by rw [hz.primed r hr, hmem r hr],
    fun r hr => by rw [hz.rowInt r hr, hmem r hr], fun r hr => by rw [hz.sticky r hr, hmem r hr], hz.rest⟩

theorem msplit_runs (f : IForm) :
    exec (.msplit f) s = .next (c.fired s
      ({ c.el with ks := .m { m with half := f.imm.getLsbD 0 } }.withPw f.pw false) [] f.pop 0) := by
  have hi : exec (.msplit f) s = execMsplit f s := rfl
  simp only [hi, execMsplit, withCtx_of hs, Ctx.withM, hk]
  exact quiet_next rfl

/-! ### Reading and writing eight columns (R229) -/

theorem maccr_runs {f : XForm} {r j : Nat} {v : Payload} (hr : r = f.cnt.toNat % 64)
    (hj : j = (lane32 (c.src 0 f.sa) 0).toNat) (hle : j ≤ 15) (hclean : c.clean [f.sa])
    (hv : ∀ i, i < 8 → lane32 v i = m.col r (8 * j + i))
    (ht : c.inSets (pushesOf f.dst (dataTok (m.rowTag r) false j v))) :
    exec (.maccr f) s = .next (c.fired s (c.el.writeDst f.dst v)
      (pushesOf f.dst (dataTok (m.rowTag r) false j v)) f.pop (readMask [f.sa])) := by
  have hi : exec (.maccr f) s = execMaccr f s := rfl
  have hp : ¬ (c.poisoned f.sa = true) := by simpa [Ctx.clean] using hclean
  have hcols : m.cols r j = v := payload_ext fun i hi8 => (lane_allLanes (by decide) hi8).trans (hv i hi8).symm
  subst hr hj
  simp only [hi, execMaccr, withCtx_of hs, Ctx.withM, hk, if_neg hp, rowOf]
  rw [if_neg (by omega), hcols]
  exact finish_next ht

theorem maccw_exec {f : XForm} {r j : Nat} (hr : r = f.cnt.toNat % 64) (hj : j = (lane32 (c.src 0 f.sb) 0).toNat)
    (hle : j ≤ 15) (hclean : c.clean [f.sa, f.sb]) {z : MSt} (hz : m.setCols r j (lane32 (c.src 0 f.sa)) = z) :
    exec (.maccw f) s = .next (c.fired s { c.el with ks := .m (markRow z r
      ((c.srcTok? f.sa).any fun t => t.tag == 1)) } [] f.pop (readMask [f.sa, f.sb])) := by
  subst hr hj
  have hi : exec (.maccw f) s = execMaccw f s := rfl
  have hp : ¬ ([f.sa, f.sb].any c.poisoned = true) := by rw [hclean]; decide
  simp only [hi, execMaccw, withCtx_of hs, Ctx.withM, hk, if_neg hp, rowOf]
  rw [if_neg (by omega), quiet_next hclean, hz]
  cases c.srcTok? f.sa <;> rfl

omit hs hk in
theorem col_markRow (z : MSt) (r : Nat) (int : Bool) (q n : Nat) : (markRow z r int).col q n = z.col q n := by
  rw [MSt.col, MSt.col, markRow]

omit hs hk in
theorem markRow_eq {z : MSt} {acc : List (Nat × Word)} (h : z = { m with acc := acc }) (r : Nat) (int : Bool) :
    markRow z r int = { m with
      acc := (markRow z r int).acc, primed := setRow m.primed r true, rowInt := setRow m.rowInt r int } := by
  subst h
  rfl

theorem maccw_runs (hm : swf 0 m.acc = true) {f : XForm} {r j : Nat} (hr : r = f.cnt.toNat % 64)
    (hj : j = (lane32 (c.src 0 f.sb) 0).toNat) (hle : j ≤ 15) (hclean : c.clean [f.sa, f.sb]) :
    ∃ m', swf 0 m'.acc = true ∧ (∀ i, i < 8 → m'.col r (8 * j + i) = lane32 (c.src 0 f.sa) i) ∧
      (∀ q n, ¬ (∃ i, i < 8 ∧ 128 * q + n = 128 * r + (8 * j + i)) → m'.col q n = m.col q n) ∧
      m' = { m with acc := m'.acc, primed := setRow m.primed r true
                    rowInt := setRow m.rowInt r ((c.srcTok? f.sa).any fun t => t.tag == 1) } ∧
      exec (.maccw f) s = .next (c.fired s { c.el with ks := .m m' } [] f.pop (readMask [f.sa, f.sb])) := by
  have hcanon := swf_setCols hm r j (lane32 (c.src 0 f.sa))
  have hin := fun i (hi8 : i < 8) => col_setCols_inside hm r j (lane32 (c.src 0 f.sa)) hi8
  have hout := fun q n => col_setCols_outside (q := q) (n := n) hm r j (lane32 (c.src 0 f.sa))
  have hrest := setCols_eq m r j (lane32 (c.src 0 f.sa))
  generalize hz : m.setCols r j (lane32 (c.src 0 f.sa)) = z at hcanon hin hout hrest
  refine ⟨markRow z r ((c.srcTok? f.sa).any fun t => t.tag == 1), ?_, ?_, ?_, ?_, ?_⟩
  · rw [markRow]
    exact hcanon
  · exact fun i hi8 => (col_markRow z _ _ _ _).trans (hin i hi8)
  · exact fun q n hn => (col_markRow z _ _ _ _).trans (hout q n hn)
  · exact markRow_eq hrest r _
  · exact maccw_exec hs hk hr hj hle hclean hz

end

/-! ### MSTAT (R231) -/

/-- The bits of the status lane. -/
theorem statusBits : ∀ a b c d e f g : Bool,
    let bit (b : Bool) (n : Nat) : Nat := if b then 2 ^ n else 0
    let w := BitVec.ofNat 32 (bit a 0 + bit b 1 + bit c 2 + bit d 3 + bit e 4 + bit f 5 + bit g 6)
    w.getLsbD 0 = a ∧ w.getLsbD 1 = b ∧ w.getLsbD 2 = c ∧ w.getLsbD 3 = d ∧ w.getLsbD 4 = e ∧ w.getLsbD 5 = f ∧
      w.getLsbD 6 = g := by
  decide

theorem mstat_exec {s : State} {c : Ctx} {m : MSt} (hs : s.ctx? = some c) (hk : c.el.ks = .m m) {f : RForm}
    (ht : c.inSets (c.pushR f ⟨0, false, none⟩)) :
    exec (.mstat f) s = .next (c.fired s
      (({ c.el with ks := .m (if modOf f = 1 then { m with sticky := 0 } else m) }.writeDst f.dst
        (mstatRes c.el m)).withPw f.pw (m.sticky != 0)) (c.pushR f ⟨mstatRes c.el m, false, none⟩) f.pop 0) := by
  have hi : exec (.mstat f) s = execMstat f s := rfl
  have hel : (if modOf f = 1 then c.el.setM { m with sticky := 0 } else c.el) =
      { c.el with ks := .m (if modOf f = 1 then { m with sticky := 0 } else m) } := by
    split
    · rfl
    · rw [← hk]
  simp only [hi, execMstat, withCtx_of hs, Ctx.withM, hk, hel]
  exact finish_next (by rw [tagsOk_pushesOf c _ _ _ _ _ 0]; exact ht)

/-- Settles O16: cleared rows, the half, eight columns, and the status. -/
theorem matrixAccessRuns : Obligations.MatrixAccessRuns := by
  refine fun s c m hs hk hm => ⟨fun f => ⟨?mzero, msplit_runs hs hk f⟩, fun f r j hr =>
    ⟨fun hj hle hclean v hv ht => maccr_runs hs hk hr hj hle hclean hv ht,
      fun hj hle hclean => maccw_runs hs hk hm hr hj hle hclean⟩, fun f ht => ?mstat⟩
  case mzero =>
    obtain ⟨m', hz, hrun⟩ := mzero_runs hs hk hm f
    refine ⟨m', hz.canonical, fun r n hr hn => ?_, fun r hr => ⟨hz.primed r hr, hz.rowInt r hr, hz.sticky r hr⟩, hz.rest, hrun⟩
    split
    · exact hz.cleared r n hr hn ‹_›
    · exact hz.kept r n hr hn ‹_›
  case mstat =>
    refine ⟨mstatRes c.el m, lane32_ofWords_of_lt (by decide), lane32_ofWords_of_lt (by decide), ?_,
      lane32_ofWords_of_lt (by decide), lane32_ofWords_of_lt (by decide), lane32_ofWords_of_lt (by decide),
      lane32_ofWords_of_lt (by decide), mstat_exec hs hk ht⟩
    rw [mstatRes, lane32_ofWords_of_lt (by decide)]
    exact statusBits _ _ _ _ _ _ _

end Sys2Proof.Proofs.MatrixRuns
end

section
/-! R67, R213, R214: firings that take or push several tokens, and the load engines. -/

namespace Sys2Proof.Proofs.StreamRuns

open Sys2Proof Sys2Proof.Machine Sys2Proof.Proofs.ControlRuns

/-! ### Taking tokens (R213, R230, R268, R277) -/

section
variable {s : State} {c : Ctx} (hs : s.ctx? = some c)
include hs

theorem streamFiringsIssue_of {f : XForm} {n o : Fin 4} {i : Instr} (hsa : f.sa = .head n)
    (h : ((∃ m, c.el.ks = .m m) ∧ (i = .mchain f ∨ i = .mbias f ∨ ∃ q, i = .mrow q f ∨ i = .mrows q f)) ∨ i = .wjoin f ∨
      (f.dst = .out o ∧ i = .xpose f) ∨ ((∃ x, c.el.ks = .l x) ∧ i = .lin f)) :
    exec i s = .next (c.held s c.el (.start c.slot i .take)) := by
  have hstream : ∀ i, c.stream s i f.sa = .next (c.held s c.el (.start c.slot i .take)) := fun i => by
    rw [Ctx.stream, hsa]
    rfl
  rcases h with ⟨⟨m, hk⟩, rfl | rfl | ⟨q, rfl | rfl⟩⟩ | rfl | ⟨hd, rfl⟩ | ⟨⟨x, hk⟩, rfl⟩
  · have hi : exec (.mchain f) s = execMchain f s := rfl
    rw [hi, execMchain, withCtx_of hs, Ctx.withM, hk]
    exact hstream _
  · have hi : exec (.mbias f) s = execMbias f s := rfl
    rw [hi, execMbias, withCtx_of hs, Ctx.withM, hk]
    exact hstream _
  · have hi : exec (.mrow q f) s = execMrow q f s := rfl
    rw [hi, execMrow, withCtx_of hs, Ctx.withM, hk]
    exact hstream _
  · have hi : exec (.mrows q f) s = execMrows q f s := rfl
    rw [hi, execMrows, withCtx_of hs, Ctx.withM, hk]
    exact hstream _
  · have hi : exec (.wjoin f) s = execWjoin f s := rfl
    rw [hi, execWjoin, withCtx_of hs]
    exact hstream _
  · have hi : exec (.xpose f) s = execXpose f s := rfl
    rw [hi, execXpose, withCtx_of hs, hd]
    exact hstream _
  · have hi : exec (.lin f) s = execLin f s := rfl
    rw [hi, execLin, withCtx_of hs, Ctx.withL, hk]
    exact hstream _

omit hs in
theorem groupNext_row {el : Elem} {x : Firing} {o : Fin 4} (h : x.i < min x.g x.n) :
    groupNext el x o = .more el { x with stage := .take, row := .empty } := if_pos h

omit hs in
theorem groupNext_excess {el : Elem} {x : Firing} {o : Fin 4} (h : ¬ x.i < min x.g x.n) (h' : x.i < x.g) :
    groupNext el x o = .more el { x with stage := .skip } := (if_neg h).trans (if_pos h')

omit hs in
theorem groupNext_end {el : Elem} {x : Firing} {o : Fin 4} (h : ¬ x.i < min x.g x.n) (h' : ¬ x.i < x.g) :
    groupNext el x o =
      .push el { x with toks := [groupEnd (min x.g x.n)] } [(o, groupEnd (min x.g x.n))] :=
  (if_neg h).trans (if_neg h')

/-- MGRP with its control token taken, before the first row. -/
def groupFiring (c : Ctx) (f : XForm) (t : Token) : Firing :=
  { Firing.start c.slot (.mgrp f) .take with b := t.payload, g := t.coord.toNat, n := f.cnt.toNat }

section
variable {f : XForm} {m : MSt} {n k o : Fin 4} {t : Token} (hk : c.el.ks = .m m) (hsa : f.sa = .head n)
  (hsb : f.sb = .head k) (hd : f.dst = .out o) (ht : c.el.head? n = some t) (hp : t.poison = false)
  (hc : t.kind = .control)
include hk hsa hsb hd ht hp hc

theorem mgrp_more {x : Firing}
    (hnext : groupNext (c.el.takeHead s.cycle n) (groupFiring c f t) o = .more (c.el.takeHead s.cycle n) x) :
    exec (.mgrp f) s = .next (c.held s (c.el.takeHead s.cycle n) x) := by
  have hi : exec (.mgrp f) s = execMgrp f s := rfl
  rw [groupFiring] at hnext
  simp only [hi, execMgrp, withCtx_of hs, Ctx.withM, hk, hsa, hsb, hd, headOf?, outOf?, ht, hp, hc, hnext,
    Bool.false_eq_true, if_false, ne_eq, not_true_eq_false]
  rfl

theorem mgrp_push {x : Firing} {q : List (Fin 4 × Token)}
    (hnext : groupNext (c.el.takeHead s.cycle n) (groupFiring c f t) o = .push (c.el.takeHead s.cycle n) x q) :
    exec (.mgrp f) s = c.pushList s (c.el.takeHead s.cycle n) x q f.pop 0 := by
  have hi : exec (.mgrp f) s = execMgrp f s := rfl
  rw [groupFiring] at hnext
  simp only [hi, execMgrp, withCtx_of hs, Ctx.withM, hk, hsa, hsb, hd, headOf?, outOf?, ht, hp, hc, hnext,
    Bool.false_eq_true, if_false, ne_eq, not_true_eq_false]

theorem mgrp_rows (hcoord : t.coord ≠ 0) :
    exec (.mgrp f) s = .next (c.held s (c.el.takeHead s.cycle n)
      { Firing.start c.slot (.mgrp f) (if f.cnt = 0 then .skip else .take) with
          b := t.payload, g := t.coord.toNat, n := f.cnt.toNat }) := by
  have hpos : 0 < t.coord.toNat := Nat.pos_of_ne_zero fun h => hcoord (BitVec.eq_of_toNat_eq h)
  by_cases hcnt : f.cnt = 0
  · have hmin : ¬ 0 < min t.coord.toNat f.cnt.toNat := by simp [hcnt]
    rw [if_pos hcnt]
    exact mgrp_more hs hk hsa hsb hd ht hp hc (groupNext_excess hmin hpos)
  · have hcpos : 0 < f.cnt.toNat := Nat.pos_of_ne_zero fun h => hcnt (BitVec.eq_of_toNat_eq h)
    rw [if_neg hcnt]
    exact mgrp_more hs hk hsa hsb hd ht hp hc (groupNext_row (lt_min hpos hcpos))

theorem mgrp_empty (hcoord : t.coord = 0) :
    exec (.mgrp f) s = .next (c.fired s { c.el.takeHead s.cycle n with firing := none }
      [(o, ⟨0, .control, false, false, 0, 0⟩)] f.pop 0) := by
  have hzero : ¬ 0 < t.coord.toNat := by simp [hcoord]
  have hmin : ¬ 0 < min t.coord.toNat f.cnt.toNat := by simp [hcoord]
  have hend : groupEnd (min t.coord.toNat f.cnt.toNat) = ⟨0, .control, false, false, 0, 0⟩ := by
    simp [hcoord, groupEnd, controlTok]
  have htags : c.inSets [(o, ⟨0, .control, false, false, 0, 0⟩)] := tagsOk_control c (.out o) _ rfl
  rw [mgrp_push hs hk hsa hsb hd ht hp hc (groupNext_end hmin hzero), groupFiring, hend]
  exact finish_next htags

end

theorem wmap_issues {f : XForm} {x : SSt} {n : Fin 4} {win : Window} (hk : c.el.ks = .s x) (hsb : f.sb = .head n)
    (hclean : c.clean [f.sa]) (hfree : x.mapWaits (winOf f.cnt) (c.src 0 f.sa) = false)
    (hok : x.mapCheck c.el.img.pword (winOf f.cnt) (c.src 0 f.sa) = some win) :
    exec (.wmap f) s = .next (c.held s c.el { Firing.start c.slot (.wmap f) .take with a := c.src 0 f.sa }) := by
  have hi : exec (.wmap f) s = execWmap f s := rfl
  have hp : ¬ (c.poisoned f.sa = true) := by simpa [Ctx.clean] using hclean
  simp only [hi, execWmap, withCtx_of hs, Ctx.withS, hk, hsb, headOf?, if_neg hp, hfree, hok, Bool.false_eq_true, if_false]
  rfl

theorem drv_issues {f : RForm} (hclean : c.clean [f.sa, f.sb]) :
    exec (.drv f) s = .next (c.held s c.el { Firing.start c.slot (.drv f) .wait with a := c.opA f, b := c.opB f }) := by
  have hi : exec (.drv f) s = execDrv f s := rfl
  have hp : ¬ ([f.sa, f.sb].any c.poisoned = true) := by rw [hclean]; decide
  rw [hi, execDrv, withCtx_of hs, if_neg hp]
  rfl

end

/-- Settles O17: the firings that take their tokens one at a time issue and stay incomplete. -/
theorem takingFiringsIssue : Obligations.TakingFiringsIssue := by
  refine ⟨fun s c f n o i hs hsa h => streamFiringsIssue_of hs hsa h, ?rows,
    fun s c hs => ⟨fun f x n win hk hsb hclean hfree hok => wmap_issues hs hk hsb hclean hfree hok,
      fun f hclean => drv_issues hs hclean⟩⟩
  case rows =>
    intro s c f m n k o t hs hk hsa hsb hd ht hp hc
    exact ⟨mgrp_rows hs hk hsa hsb hd ht hp hc, mgrp_empty hs hk hsa hsb hd ht hp hc⟩

/-! ### Load engines (R214) -/

/-- A firing that starts an engine does so where the engine and the input are free, and else waits. -/
theorem load_runs {s : State} {c : Ctx} {i : Instr} {k : EngKind} {n : Fin 4} {pop : BitVec 4} {ctx : Nat} {split : Bool}
    {h : Elem → Elem} {ks : KindSt} (hi : exec i s = c.load s i k (.head n) pop ctx split h)
    (hh : h c.el = { c.el with ks := ks }) :
    (c.el.engine? k = none → (c.el.ins.get n).claimed = false →
      exec i s = .next (c.fired s (Elem.modInput { c.el with
        ks := ks, firing := none, engines := c.el.engines ++ [⟨k, c.slot, n, ctx, split, none, 0, false⟩] } n
          fun x => { x with claimed := true }) [] pop 0)) ∧
    ((c.el.engine? k).isSome ∨ (c.el.ins.get n).claimed = true →
      exec i s = .next (c.held s c.el (.start c.slot i .wait))) := by
  rw [hi, Ctx.load, hh]
  refine ⟨fun hnone hfree => ?_, fun hbusy => ?_⟩
  · have hidle : ¬ (c.el.busy k n = true) := by simp [Elem.busy, hnone, hfree]
    simp only [headOf?, if_neg hidle]
    exact finish_nil
  · have hbusy' : c.el.busy k n = true := by simpa [Elem.busy, Bool.or_eq_true] using hbusy
    simp only [headOf?, if_pos hbusy']
    rfl

/-- Settles O18: each load engine starts, claims its input, and waits while either is busy. -/
theorem loadEnginesStart : Obligations.LoadEnginesStart := by
  intro s c f n i k ctx split ks hs hsa h
  rcases h with ⟨m, hk, ⟨rfl, rfl, rfl, rfl, rfl⟩ | ⟨rfl, rfl, rfl, rfl, rfl⟩⟩ | ⟨x, hk, rfl, rfl, rfl, ⟨rfl, rfl⟩ | ⟨rfl, rfl⟩⟩
  · have hi : exec (.mldb f) s = execMldb f s := rfl
    refine load_runs (h := fun el => el.setM _) ?_ rfl
    rw [hi, execMldb, withCtx_of hs, Ctx.withM, hk, ← hsa]
  · have hi : exec (.mlds f) s = execMlds f s := rfl
    refine load_runs (h := id) ?_ (by rw [← hk, id])
    rw [hi, execMlds, withCtx_of hs, Ctx.withM, hk, ← hsa]
  · have hi : exec (.ltab f) s = execLtab f s := rfl
    refine load_runs (h := id) ?_ (by rw [← hk, id])
    rw [hi, execLtab, withCtx_of hs, Ctx.withL, hk, ← hsa]
    rfl
  · have hi : exec (.lwire f) s = execLwire f s := rfl
    refine load_runs (h := id) ?_ (by rw [← hk, id])
    rw [hi, execLwire, withCtx_of hs, Ctx.withL, hk, ← hsa]
    rfl

/-! ### Pushing a series of tokens (R67, R71, R398) -/

/-- A firing that pushes a list pushes its first token and keeps the rest, or raises FORMAT. -/
theorem pushesRun_of_pushList {s : State} {c : Ctx} {i : Instr} {o : Fin 4} {ts : List Token} {pop read : BitVec 4}
    (hi : exec i s = c.pushList s c.el (.start c.slot i .push) (ts.map fun t => (o, t)) pop read) :
    PushesRun s c i o ts pop read := by
  rw [PushesRun, hi]
  match ts with
  | [] => exact ⟨fun _ => finish_nil, fun h => absurd rfl h⟩
  | [t] =>
    refine ⟨fun h => finish_next h, fun h => ?_⟩
    have hno : ¬ (c.g.tagsOk c.e [(o, t)] = true) := h
    exact if_neg hno
  | t :: u :: r => exact ⟨fun h => if_pos h, fun h => if_neg h⟩

theorem seriesOf_map (n base : Nat) (tag : Nat → BitVec 3) (v : Nat → Payload) :
    SeriesOf ((List.range n).map fun j => dataTok (tag j) (j + 1 == n) (base + j) (v j)) n tag base v := by
  refine ⟨by simp, fun j hj => ?_⟩
  rw [List.getElem?_map, List.getElem?_range hj]
  rfl

/-- The tokens of a row, of counts or of a transposition: the last is told by its number. -/
theorem seriesOf_last (n base : Nat) (tag : BitVec 3) (v : Nat → Payload) :
    SeriesOf ((List.range (n + 1)).map fun j => dataTok tag (j == n) (base + j) (v j)) (n + 1) (fun _ => tag) base v := by
  have h := seriesOf_map (n + 1) base (fun _ => tag) v
  simpa only [Nat.reduceBeqDiff] using h

section
variable {s : State} {c : Ctx} (hs : s.ctx? = some c) {f : XForm} {o : Fin 4} (hd : f.dst = .out o)
include hs hd

theorem mout_runs {m : MSt} {r : Nat} (hk : c.el.ks = .m m) (hr : r = f.cnt.toNat % 64) :
    SeriesOf (m.rowTokens r 0) 16 (fun _ => if m.rowInt.getLsbD r then 1 else 0) 0 (m.cols r) ∧
      PushesRun s c (.mout f) o (m.rowTokens r 0) f.pop 0 := by
  have hi : exec (.mout f) s = execMout f s := rfl
  refine ⟨seriesOf_last 15 0 _ _, pushesRun_of_pushList ?_⟩
  rw [hi, execMout, withCtx_of hs, Ctx.withM, hk, hd, hr]
  rfl

theorem moutq_runs {m : MSt} {r mode : Nat} {tag : BitVec 3} {t : Fmt} (hk : c.el.ks = .m m) (hr : r = f.cnt.toNat % 64)
    (hclean : c.clean [f.sa]) (ht : moutqTarget? c.g (c.src 0 f.sa) = some (tag, t, mode)) :
    PushesRun s c (.moutq f) o (m.quantTokens r tag t (c.rmode s mode)) f.pop (readMask [f.sa]) := by
  have hi : exec (.moutq f) s = execMoutq f s := rfl
  have hp : ¬ (c.poisoned f.sa = true) := by simpa [Ctx.clean] using hclean
  refine pushesRun_of_pushList ?_
  simp only [hi, execMoutq, withCtx_of hs, Ctx.withM, hk, hd, outOf?, if_neg hp, ht, hr, rowOf]

omit hs hd in
theorem byteOf_ofBytes_map {p : Nat} (hp : p ≤ 32) (g : Nat → Byte) (b : Nat) :
    byteOf (ofBytes ((List.range p).map g)) b = if b < p then g b else 0 := by
  have hlen : min ((List.range p).map g).length 32 = p := by simpa using hp
  rw [byteOf, ofBytes, hlen, lane_ofLanes (by decide) (by omega)]
  split
  · rename_i hb
    simp [List.getD_eq_getElem?_getD, hb]
  · rfl

theorem wsplit_runs {p : Nat} (hp : p = pieceBytes f.cnt) (hclean : c.clean [f.sa]) :
    ∃ ts : List Token, ts.length = 32 / p ∧
      (∀ j, j < 32 / p → ∃ v : Payload,
        ts[j]? = some ⟨c.tagOf 0 [f.sa], .data, (c.sideOf [f.sa]).1 && j + 1 == 32 / p, false, BitVec.ofNat 16 j, v⟩ ∧
          (∀ b, b < p → byteOf v b = byteOf (c.src 0 f.sa) (p * j + b)) ∧ ∀ b, p ≤ b → b < 32 → byteOf v b = 0) ∧
      PushesRun s c (.wsplit f) o ts f.pop (readMask [f.sa]) := by
  have hi : exec (.wsplit f) s = execWsplit f s := rfl
  have hpois : ¬ (c.poisoned f.sa = true) := by simpa [Ctx.clean] using hclean
  have hle : p ≤ 32 := by rw [hp, pieceBytes]; split <;> [decide; split <;> decide]
  refine ⟨splitTokens p (c.src 0 f.sa) (c.tagOf 0 [f.sa]) (c.sideOf [f.sa]).1, by simp [splitTokens], fun j hj => ?_, ?_⟩
  · refine ⟨ofBytes ((List.range p).map fun k => byteOf (c.src 0 f.sa) (p * j + k)), ?_, fun b hb => ?_, fun b hb _ => ?_⟩
    · rw [splitTokens, List.getElem?_map, List.getElem?_range hj]
      rfl
    · rw [byteOf_ofBytes_map hle, if_pos hb]
    · rw [byteOf_ofBytes_map hle, if_neg (Nat.not_lt.mpr hb)]
  · refine pushesRun_of_pushList ?_
    simp only [hi, execWsplit, withCtx_of hs, hd, outOf?, if_neg hpois, hp]

theorem swemit_runs {x : SSt} {n : Nat} (hk : c.el.ks = .s x) (hn : n = min f.cnt.toNat x.ring.length) :
    ∃ ts, SeriesOf ts n (fun j => (x.ring.getD j default).tag) 0 (fun j => (x.ring.getD j default).payload) ∧
      PushesRun s c (.swemit f) o ts f.pop 0 := by
  have hi : exec (.swemit f) s = execSwemit f s := rfl
  have hlen : (x.ring.take f.cnt.toNat).length = n := by rw [hn, List.length_take]
  refine ⟨ringTokens x.ring f.cnt.toNat, ⟨by simp [ringTokens, hlen], fun j hj => ?_⟩, pushesRun_of_pushList ?_⟩
  · have hget : (x.ring.take f.cnt.toNat).getD j default = x.ring.getD j default := by
      have hjn : j < f.cnt.toNat := by omega
      simp [List.getD_eq_getElem?_getD, hjn]
    simp only [ringTokens, hlen, List.getElem?_map, List.getElem?_range hj, Option.map_some, hget, Nat.zero_add]
    rfl
  · rw [hi, execSwemit, withCtx_of hs, Ctx.withS, hk, hd]
    rfl

section
variable {x : LSt} {a : Nat} (hk : c.el.ks = .l x) (hclean : c.clean [f.sa]) (ha : a = (lane32 (c.src 0 f.sa) 0).toNat)
include hk hclean ha

theorem lemit_runs (hle : a + f.cnt.toNat ≤ 1024) :
    ∃ ts, SeriesOf ts f.cnt.toNat (fun _ => c.g.sliceTag) a (fun j => sget 0 x.p (a + j)) ∧
      PushesRun s c (.lemit f) o ts f.pop (readMask [f.sa]) := by
  have hi : exec (.lemit f) s = execLemit f s := rfl
  have hpois : ¬ (c.poisoned f.sa = true) := by simpa [Ctx.clean] using hclean
  refine ⟨_, seriesOf_map f.cnt.toNat a (fun _ => c.g.sliceTag) fun j => sget 0 x.p (a + j), pushesRun_of_pushList ?_⟩
  subst ha
  simp only [hi, execLemit, withCtx_of hs, Ctx.withL, hk, hd, outOf?, if_neg hpois]
  rw [if_neg (by omega)]

theorem lpop_runs {g : Nat} (hg : g = (lane32 (c.src 0 f.sa) 1).toNat) (h1 : 1 ≤ g) (hle : a + g ≤ 1024) :
    ∃ ts v, SeriesOf ts 16 (fun _ => c.g.int16Tag) 0 v ∧
      (∀ j m, j < 16 → m < 16 → lane (v j) 16 m =
        BitVec.ofNat 16 ((List.range g).filter fun i => (sget 0 x.p (a + i)).getLsbD (16 * j + m)).length) ∧
      PushesRun s c (.lpop f) o ts f.pop (readMask [f.sa]) := by
  have hi : exec (.lpop f) s = execLpop f s := rfl
  have hpois : ¬ (c.poisoned f.sa = true) := by simpa [Ctx.clean] using hclean
  refine ⟨countTokens x c.g.int16Tag a g, fun j => allLanes 16 fun m =>
      BitVec.ofNat 16 ((List.range g).filter fun i => (sget 0 x.p (a + i)).getLsbD (16 * j + m)).length, ?_,
    fun j m _ hm => lane_allLanes (by decide) hm, pushesRun_of_pushList ?_⟩
  · have h := seriesOf_last 15 0 c.g.int16Tag fun j => allLanes 16 fun m =>
      BitVec.ofNat 16 ((List.range g).filter fun i => (sget 0 x.p (a + i)).getLsbD (16 * j + m)).length
    simp only [Nat.zero_add] at h
    exact h
  · subst ha hg
    simp only [hi, execLpop, withCtx_of hs, Ctx.withL, hk, hd, outOf?, if_neg hpois]
    rw [if_neg]
    simp only [Bool.or_eq_true, decide_eq_true_eq]
    omega

theorem lunx_runs (hle : a ≤ 768) :
    ∃ ts v, SeriesOf ts 256 (fun _ => c.g.sliceTag) 0 v ∧
      (∀ j n, j < 256 → n < 256 → (v j).getLsbD n = (sget 0 x.p (a + n)).getLsbD j) ∧
      PushesRun s c (.lunx f) o ts f.pop (readMask [f.sa]) := by
  have hi : exec (.lunx f) s = execLunx f s := rfl
  have hpois : ¬ (c.poisoned f.sa = true) := by simpa [Ctx.clean] using hclean
  refine ⟨transposed c.g.sliceTag ((List.range 256).map fun i => sget 0 x.p (a + i)), fun j => ofLanes 1 (fun n =>
      BitVec.ofBool ((((List.range 256).map fun i => sget 0 x.p (a + i)).getD n 0).getLsbD j)) 256, ?_,
    fun j n _ hn => ?_, pushesRun_of_pushList ?_⟩
  · have h := seriesOf_last 255 0 c.g.sliceTag fun j => ofLanes 1 (fun n =>
      BitVec.ofBool ((((List.range 256).map fun i => sget 0 x.p (a + i)).getD n 0).getLsbD j)) 256
    simp only [Nat.zero_add] at h
    exact h
  · rw [getLsbD_ofLanes (by decide) (by decide)]
    simp [Nat.mod_one, hn, List.getD_eq_getElem?_getD]
  · subst ha
    simp only [hi, execLunx, withCtx_of hs, Ctx.withL, hk, hd, outOf?, if_neg hpois]
    rw [if_neg (by omega)]

end

end

/-- Settles O20: a firing that owes tokens pushes the first of them and keeps the rest. -/
theorem tokenSeriesRun : Obligations.TokenSeriesRun := by
  refine ⟨?rows, ?tiles, ?lookups⟩
  case rows =>
    intro s c f m o r hs hk hd hr
    obtain ⟨hseries, hpush⟩ := mout_runs hs hd hk hr
    exact ⟨⟨_, m.cols r, fun j i _ hi => lane_allLanes (by decide) hi, hseries, hpush⟩,
      fun tag t mode hclean ht => moutq_runs hs hd hk hr hclean ht⟩
  case tiles =>
    intro s c f o hs hd
    refine ⟨fun p hp hclean => wsplit_runs hs hd (hp.trans ?_) hclean, fun x n hk hn => swemit_runs hs hd hk hn⟩
    rw [pieceBytes]
    split <;> simp_all
  case lookups =>
    intro s c f x o a g hs hk hd hclean ha hg
    exact ⟨lemit_runs hs hd hk hclean ha, fun h1 hle => lpop_runs hs hd hk hclean ha hg h1 hle,
      lunx_runs hs hd hk hclean ha⟩

/-! ### The lookup unit (R241, R245) -/

theorem cellOut_bit (table : BitVec 64) (pins : List Payload) {n : Nat} (hn : n < 256) :
    (cellOut table pins).getLsbD n = table.getLsbD
      ((List.range 6).map fun j => if (pins.getD j 0).getLsbD n then 2 ^ j else 0).sum := by
  rw [cellOut, getLsbD_ofLanes (by decide) (by decide)]
  simp [hn, Nat.mod_one]

/-- What cell `i` of a context reads in a pass. -/
def passCell (x : LSt) (k i : Nat) : Payload :=
  cellOut (sget 0 x.tables (1024 * k + i))
    ((List.range 6).map fun j => x.source (sget 0 x.wires (6 * (1024 * k + i) + j)).toNat)

theorem pass_outputs (x : LSt) (k cycle : Nat) :
    (x.pass k cycle).p = ssetMany 0 [] 0 ((List.range 1024).map (passCell x k)) := by
  have hcell : passCell x k = fun i => cellOut (sget 0 x.tables (1024 * k + i))
      ((List.range 6).map fun j => x.source (sget 0 x.wires (6 * (1024 * k + i) + j)).toNat) := funext fun _ => rfl
  rw [hcell, LSt.pass]

theorem pass_eq (x : LSt) (k cycle : Nat) :
    x.pass k cycle = { x with p := (x.pass k cycle).p, ctx := Fin.ofNat 8 k, passAt := some cycle } := by
  simp only [LSt.pass]

theorem pass_output (x : LSt) (k cycle : Nat) {i : Nat} (hi : i < 1024) : sget 0 (x.pass k cycle).p i = passCell x k i := by
  have hcell : ∀ q : Nat → Payload, ∀ m, i < m → sget 0 (ssetMany 0 [] 0 ((List.range m).map q)) i = q i := by
    intro q m hm
    have h := sget_ssetMany_inside (d := (0 : Payload)) (m := []) (i := 0) (n := i) (vs := (List.range m).map q) rfl
      (by simpa using hm)
    rwa [Nat.zero_add, List.getElem_map, List.getElem_range] at h
  rw [pass_outputs, hcell (passCell x k) 1024 hi]

theorem leval_runs {s : State} {c : Ctx} {f : XForm} {x x' : LSt} {k : Nat} (hs : s.ctx? = some c) (hk : c.el.ks = .l x)
    (hkf : k = f.cnt.toNat % 8) (htab : c.el.engineInto .table k = false) (hwire : c.el.engineInto .wiring k = false)
    (hfree : x.unitFree s.cycle = true) (hvalid : x.invalid.getLsbD k = false) (hx : x.pass k s.cycle = x') :
    exec (.leval f) s = .next (c.fired s { c.el with ks := .l x', firing := none } [] f.pop 0) := by
  have hi : exec (.leval f) s = execLeval f s := rfl
  have hctx : ctxOf f.cnt = k := hkf.symm
  simp only [hi, execLeval, withCtx_of hs, Ctx.withL, hk, hctx, htab, hwire, hfree, hvalid, hx, Bool.or_self, Bool.not_true,
    Bool.false_eq_true, if_false]
  exact finish_nil

theorem lookupPassRuns : LookupPassRuns := by
  intro s c f x k hs hk hkf htab hwire hfree hvalid
  refine ⟨(x.pass k s.cycle).p, fun i n hi hn => ?_, ?_⟩
  · rw [pass_output x _ s.cycle hi, passCell, cellOut_bit _ _ hn]
    refine congrArg (fun l : List Nat => BitVec.getLsbD _ l.sum) (List.map_congr_left fun j hj => ?_)
    simp [List.getD_eq_getElem?_getD, List.mem_range.mp hj]
  · exact leval_runs hs hk hkf htab hwire hfree hvalid (pass_eq x k s.cycle)

/-- The bits of the context's status. -/
theorem contextBits (a b c d : Bool) :
    let bit (b : Bool) (n : Nat) : Nat := if b then 2 ^ n else 0
    let r := ofWords [BitVec.ofNat 32 (bit a 0 + bit b 1 + bit c 2 + bit d 3)]
    r.getLsbD 0 = a ∧ r.getLsbD 1 = b ∧ r.getLsbD 2 = c ∧ r.getLsbD 3 = d ∧ ∀ n, 4 ≤ n → r.getLsbD n = false := by
  have hbit : ∀ (w : Word) n, (ofWords [w]).getLsbD n = (decide (n < 32) && w.getLsbD n) := by
    intro w n
    rw [ofWords, getLsbD_ofLanes (by decide) (by decide)]
    by_cases hn : n < 32
    · simp [hn, Nat.div_eq_of_lt hn, Nat.mod_eq_of_lt hn, show n < 256 by omega]
    · obtain ⟨q, hq⟩ : ∃ q, n / 32 = q + 1 := ⟨n / 32 - 1, by omega⟩
      simp [hn, hq]
  simp only [hbit]
  refine ⟨?_, ?_, ?_, ?_, fun n hn => ?_⟩
  · revert a b c d; decide
  · revert a b c d; decide
  · revert a b c d; decide
  · revert a b c d; decide
  · have hlt : (if a then 2 ^ 0 else 0) + (if b then 2 ^ 1 else 0) + (if c then 2 ^ 2 else 0) + (if d then 2 ^ 3 else 0) <
        2 ^ 4 := by revert a b c d; decide
    rw [BitVec.getLsbD_ofNat, Nat.testBit_lt_two_pow (Nat.lt_of_lt_of_le hlt (Nat.pow_le_pow_right (by decide) hn)),
      Bool.and_false, Bool.and_false]

theorem contextStatusRuns : ContextStatusRuns := by
  intro s c f x k hs hk hkf ht
  have hi : exec (.lctx f) s = execLctx f s := rfl
  subst hkf
  obtain ⟨h0, h1, h2, h3, hrest⟩ := contextBits
    (!x.invalid.getLsbD (ctxOf f.imm) && !c.el.engineInto .table (ctxOf f.imm) && !c.el.engineInto .wiring (ctxOf f.imm))
    (c.el.engineInto .table (ctxOf f.imm)) (c.el.engineInto .wiring (ctxOf f.imm)) (x.invalid.getLsbD (ctxOf f.imm))
  refine ⟨_, _, ?_, h0, h1, h2, h3, hrest, ?_⟩
  · simp [ctxOf, and_assoc]
  · simp only [hi, execLctx, withCtx_of hs, Ctx.withL, hk]
    exact ordinary_next rfl (by rw [tagsOk_pushesOf c _ _ _ _ _ 0]; exact ht)

/-- Settles O19: a lookup pass and the status of a context. -/
theorem lookupRuns : Obligations.LookupRuns := ⟨lookupPassRuns, contextStatusRuns⟩

end Sys2Proof.Proofs.StreamRuns
end

section
/-! R246, R248 to R252: steering, merging, stamping and reordering. -/

namespace Sys2Proof.Proofs.SteeringRuns

open Sys2Proof Sys2Proof.Machine Sys2Proof.Proofs.ControlRuns

/-! ### STEER (R246) -/

theorem steerMap_eq (m : Byte) : steerMap m = if m.toNat < 128 then some (Fin.ofNat 4 (m.toNat % 4)) else none := by
  have htop : m.getLsbD 7 = decide (128 ≤ m.toNat) := by
    have hlt := m.isLt
    rw [BitVec.getLsbD, Nat.testBit_eq_decide_div_mod_eq, decide_eq_decide]
    omega
  rw [steerMap, htop]
  by_cases h : m.toNat < 128
  · rw [if_pos h, if_neg (by simpa using h)]
  · rw [if_neg h, if_pos (by simpa using h)]

/-- An output that drives no edge discards. -/
def driven (c : Ctx) : Option (Fin 4) → Option (Fin 4)
  | some o => if (c.g.edge? c.e o).isSome then some o else none
  | none => none

theorem driven_ite (c : Ctx) (p : Prop) [Decidable p] (o : Fin 4) :
    driven c (if p then some o else none) = if p ∧ (c.g.edge? c.e o).isSome then some o else none := by
  by_cases h : p
  · rw [if_pos h, driven]
    exact if_congr (by simp [h]) rfl rfl
  · rw [if_neg h, if_neg fun hc => h hc.1]
    rfl

/-- One output of the choice of the widest. -/
def widestStep (g : GraphSt) (e : Nat) (best : Option (Fin 4)) (o : Fin 4) : Option (Fin 4) :=
  if (g.edge? e o).isNone then best
  else
    match best with
    | none => some o
    | some b => if g.freePlaces e b < g.freePlaces e o then some o else some b

/-- What a step chooses stood before it or drives an edge. -/
theorem widestStep_cases {g : GraphSt} {e : Nat} {best : Option (Fin 4)} {a b : Fin 4}
    (h : widestStep g e best a = some b) : best = some b ∨ (g.edge? e b).isSome := by
  cases ha : g.edge? e a with
  | none => exact .inl (by simpa [widestStep, ha] using h)
  | some x =>
    cases best with
    | none =>
      have hab : a = b := by simpa [widestStep, ha] using h
      exact .inr (by simp [← hab, ha])
    | some b' =>
      by_cases hlt : g.freePlaces e b' < g.freePlaces e a
      · have hab : a = b := by simpa [widestStep, ha, hlt] using h
        exact .inr (by simp [← hab, ha])
      · exact .inl (by simpa [widestStep, ha, hlt] using h)

/-- The widest output drives an edge. -/
theorem edge_of_widest {g : GraphSt} {e : Nat} {o : Fin 4} (h : g.widest? e = some o) : (g.edge? e o).isSome := by
  have hkeep : ∀ (l : List (Fin 4)) (best : Option (Fin 4)), (∀ b, best = some b → (g.edge? e b).isSome) →
      ∀ o, l.foldl (widestStep g e) best = some o → (g.edge? e o).isSome := by
    intro l
    induction l with
    | nil => exact fun best hb o h => hb o h
    | cons a l ih => exact fun best hb => ih _ fun b hstep => (widestStep_cases hstep).elim (hb b) id
  exact hkeep [0, 1, 2, 3] none (fun b hb => nomatch hb) o h

theorem driven_widest (c : Ctx) : driven c (c.g.widest? c.e) = c.g.widest? c.e := by
  cases h : c.g.widest? c.e with
  | none => rfl
  | some o => exact if_pos (edge_of_widest h)

theorem steerTo_eq (c : Ctx) (md : Nat) (t : Token) (b : Payload) :
    c.steerTo md t b = driven c
      (if md = 0 then (if (lane32 t.payload 0).toNat ≤ 3 then some (Fin.ofNat 4 (lane32 t.payload 0).toNat) else none)
      else if md = 1 then steerMap (byteOf b t.tag.toNat)
      else if md = 2 then c.g.widest? c.e
      else if (lane32 t.payload 0).toNat < 32 then steerMap (byteOf b (lane32 t.payload 0).toNat) else none) := rfl

/-- The output that each mode of STEER chooses. -/
theorem steerTo_of {c : Ctx} {f : RForm} {t : Token} {md v : Nat} {o : Option (Fin 4)} (hle : md ≤ 3)
    (hv : v = (lane32 t.payload 0).toNat)
    (h0 : md = 0 → o = if v ≤ 3 ∧ (c.g.edge? c.e (Fin.ofNat 4 v)).isSome then some (Fin.ofNat 4 v) else none)
    (h2 : md = 2 → o = c.g.widest? c.e)
    (hmap : ∀ m : Byte, (md = 1 ∧ m = byteOf (c.opB f) t.tag.toNat) ∨ (md = 3 ∧ v < 32 ∧ m = byteOf (c.opB f) v) →
      o = if m.toNat < 128 ∧ (c.g.edge? c.e (Fin.ofNat 4 (m.toNat % 4))).isSome then some (Fin.ofNat 4 (m.toNat % 4))
        else none)
    (h3 : md = 3 → 32 ≤ v → o = none) : c.steerTo md t (c.opB f) = o := by
  rw [steerTo_eq, ← hv]
  obtain rfl | rfl | rfl | rfl : md = 0 ∨ md = 1 ∨ md = 2 ∨ md = 3 := by omega
  · rw [h0 rfl, if_pos rfl, driven_ite]
  · rw [if_neg (by decide), if_pos rfl, steerMap_eq, driven_ite, ← hmap _ (.inl ⟨rfl, rfl⟩)]
  · rw [if_neg (by decide), if_neg (by decide), if_pos rfl, driven_widest, h2 rfl]
  · rw [if_neg (by decide), if_neg (by decide), if_neg (by decide)]
    by_cases h : v < 32
    · rw [if_pos h, steerMap_eq, driven_ite, ← hmap _ (.inr ⟨rfl, h, rfl⟩)]
    · rw [if_neg h, h3 rfl (Nat.le_of_not_lt h)]
      rfl

theorem steerRoutes : SteerRoutes := by
  intro s c f t md v o hs ht hb hmd hle hpois hv h0 h2 hmap h3
  have hi : exec (.steer f) s = execSteer f s := rfl
  have hto : c.steerTo (modOf f).toNat t (c.src f.md f.sb) = o := hmd ▸ steerTo_of hle hv h0 h2 hmap h3
  have hp : ¬ (((t.poison && ((modOf f).toNat == 0 || (modOf f).toNat == 3)) || c.poisoned f.sb) = true) := by
    rw [hb, Bool.or_false, ← hmd]
    intro h
    obtain ⟨hpo, hmode⟩ := Bool.and_eq_true_iff.mp h
    rcases hpois hpo with rfl | rfl <;> exact absurd hmode (by decide)
  refine ⟨fun k hk hset => ?_, fun hnone => ?_⟩
  · simp only [hi, execSteer, withCtx_of hs, ht, if_neg hp, hto, hk]
    exact finish_next hset
  · simp only [hi, execSteer, withCtx_of hs, ht, if_neg hp, hto, hnone]
    exact finish_nil

/-! ### MERGE (R249) -/

/-- Whether MERGE may take an input. -/
def mergeable (el : Elem) (pop : BitVec 4) (i : Fin 4) : Bool :=
  pop.getLsbD i.val && el.present i && !(el.ins.get i).claimed

/-- One input of MERGE's choice. -/
def mergeStep (el : Elem) (pop : BitVec 4) (best : Option (Fin 4)) (i : Fin 4) : Option (Fin 4) :=
  if !(pop.getLsbD i.val && el.present i) || (el.ins.get i).claimed then best
  else
    match best with
    | none => some i
    | some b => if (el.ins.get i).headAt < (el.ins.get b).headAt then some i else some b

section
variable {el : Elem} {pop : BitVec 4} {i : Fin 4}

theorem mergeStep_skip {best : Option (Fin 4)} {j : Fin 4} (h : mergeable el pop j = false) :
    mergeStep el pop best j = best := by
  refine if_pos ?_
  revert h
  rw [mergeable]
  cases pop.getLsbD j.val <;> cases el.present j <;> cases (el.ins.get j).claimed <;> simp

theorem mergeStep_some {b j : Fin 4} (h : mergeable el pop j = true) :
    mergeStep el pop (some b) j = if (el.ins.get j).headAt < (el.ins.get b).headAt then some j else some b := by
  refine if_neg ?_
  revert h
  rw [mergeable]
  cases pop.getLsbD j.val <;> cases el.present j <;> cases (el.ins.get j).claimed <;> simp

theorem mergeStep_none {j : Fin 4} (h : mergeable el pop j = true) : mergeStep el pop none j = some j := by
  refine if_neg ?_
  revert h
  rw [mergeable]
  cases pop.getLsbD j.val <;> cases el.present j <;> cases (el.ins.get j).claimed <;> simp

/-- What stands before input `i` is later than it: nothing, or an input whose head came later. -/
def Later (el : Elem) (i : Fin 4) (best : Option (Fin 4)) : Prop :=
  ∀ b, best = some b → (el.ins.get i).headAt < (el.ins.get b).headAt

theorem foldl_before (l : List (Fin 4)) {best : Option (Fin 4)} (hbest : Later el i best)
    (h : ∀ j ∈ l, mergeable el pop j = true → (el.ins.get i).headAt < (el.ins.get j).headAt) :
    Later el i (l.foldl (mergeStep el pop) best) := by
  induction l generalizing best with
  | nil => exact hbest
  | cons a l ih =>
    refine ih (fun b hb => ?_) fun j hj => h j (List.mem_cons_of_mem _ hj)
    cases ha : mergeable el pop a with
    | false => rw [mergeStep_skip ha] at hb; exact hbest b hb
    | true =>
      have hlater := h a List.mem_cons_self ha
      cases best with
      | none => rw [mergeStep_none ha] at hb; cases hb; exact hlater
      | some b' =>
        rw [mergeStep_some ha] at hb
        split at hb
        · cases hb; exact hlater
        · cases hb; exact hbest _ rfl

theorem foldl_after (l : List (Fin 4))
    (h : ∀ j ∈ l, mergeable el pop j = true → (el.ins.get i).headAt ≤ (el.ins.get j).headAt) :
    l.foldl (mergeStep el pop) (some i) = some i := by
  induction l with
  | nil => rfl
  | cons a l ih =>
    have hstep : mergeStep el pop (some i) a = some i := by
      cases ha : mergeable el pop a with
      | false => exact mergeStep_skip ha
      | true => rw [mergeStep_some ha, if_neg (Nat.not_lt.mpr (h a List.mem_cons_self ha))]
    rw [List.foldl_cons, hstep]
    exact ih fun j hj => h j (List.mem_cons_of_mem _ hj)

theorem foldl_earliest (l r : List (Fin 4)) (hi : mergeable el pop i = true)
    (hl : ∀ j ∈ l, mergeable el pop j = true → (el.ins.get i).headAt < (el.ins.get j).headAt)
    (hr : ∀ j ∈ r, mergeable el pop j = true → (el.ins.get i).headAt ≤ (el.ins.get j).headAt) :
    (l ++ i :: r).foldl (mergeStep el pop) none = some i := by
  have hbefore := foldl_before (pop := pop) (best := none) l (fun b hb => nomatch hb) hl
  have hstep : mergeStep el pop (l.foldl (mergeStep el pop) none) i = some i := by
    cases hb : l.foldl (mergeStep el pop) none with
    | none => exact mergeStep_none hi
    | some b => rw [mergeStep_some hi, if_pos (hbefore b hb)]
  rw [List.foldl_append, List.foldl_cons, hstep]
  exact foldl_after r hr

/-- The inputs are the ones below `i`, `i`, and the ones above. -/
theorem inputs_split (i : Fin 4) : ∃ l r : List (Fin 4), ([0, 1, 2, 3] : List (Fin 4)) = l ++ i :: r ∧ ∀ j ∈ l, j < i := by
  match i with
  | 0 => exact ⟨[], [1, 2, 3], rfl, by simp⟩
  | 1 => exact ⟨[0], [2, 3], rfl, by decide⟩
  | 2 => exact ⟨[0, 1], [3], rfl, by decide⟩
  | 3 => exact ⟨[0, 1, 2], [], rfl, by decide⟩

theorem mergeFrom_earliest (hi : mergeable el pop i = true)
    (h : ∀ j, mergeable el pop j = true → (el.ins.get i).headAt < (el.ins.get j).headAt ∨
      ((el.ins.get i).headAt = (el.ins.get j).headAt ∧ i ≤ j)) : el.mergeFrom pop = some i := by
  obtain ⟨l, r, hsplit, hlt⟩ := inputs_split i
  have hfold : el.mergeFrom pop = ([0, 1, 2, 3] : List (Fin 4)).foldl (mergeStep el pop) none := rfl
  rw [hfold, hsplit]
  refine foldl_earliest l r hi (fun j hj hm => ?_) fun j _ hm => ?_
  · exact (h j hm).resolve_right fun hc => absurd hc.2 (Fin.not_le.mpr (hlt j hj))
  · rcases h j hm with hlater | ⟨heq, _⟩
    · exact Nat.le_of_lt hlater
    · exact Nat.le_of_eq heq

end

theorem mergeTakesEarliest : MergeTakesEarliest := by
  intro s c f i t hs ht hmin hpop hpres hfree hset
  have hi : exec (.merge f) s = execMerge f s := rfl
  have hfrom : c.el.mergeFrom f.pop = some i := by
    refine mergeFrom_earliest (by simp [mergeable, hpop, hpres, hfree]) fun j hj => ?_
    simp only [mergeable, Bool.and_eq_true, Bool.not_eq_true'] at hj
    exact hmin j hj.1.1 hj.1.2 hj.2
  simp only [hi, execMerge, withCtx_of hs, hfrom, ht]
  exact finish_next hset

/-! ### SEQNO (R248) -/

theorem sequenceNumbersStamp : SequenceNumbersStamp := by
  intro s c f x k t hs hk hkf ht hset
  have hi : exec (.seqno f) s = execSeqno f s := rfl
  subst hkf
  simp only [hi, execSeqno, withCtx_of hs, Ctx.withX, hk]
  cases hsrc : c.srcTok? f.sa with
  | none =>
    rw [hsrc] at ht
    subst ht
    exact finish_next hset
  | some h =>
    rw [hsrc] at ht
    subst ht
    exact finish_next hset

/-- Settles O21: STEER routes its head, MERGE takes the earliest, and SEQNO stamps. -/
theorem steeringRuns : Obligations.SteeringRuns := ⟨steerRoutes, mergeTakesEarliest, sequenceNumbersStamp⟩

/-! ### Reorder buffers (R250 to R252) -/

section
variable {b : RBuf} {t : Token}

theorem insert_token (hk : t.kind ≠ .control) (hd : b.dist t.coord < 64) (hfree : sget .free b.cells (b.dist t.coord) = .free) :
    b.insert t = .held { b with cells := sset .free b.cells (b.dist t.coord) (.tok t) } := by
  rw [RBuf.insert]
  rw [if_neg (by omega), if_neg (by omega)]
  split
  · exact absurd ‹_› hk
  · exact if_pos hfree

theorem insert_gaps (hk : t.kind = .control) {n : Nat} (hn : n = max (lane32 t.payload 0).toNat 1)
    (hd : b.dist t.coord + n ≤ 64) (hfree : ∀ i, i < n → sget .free b.cells (b.dist t.coord + i) = .free) :
    b.insert t = .held { b with cells := ssetMany .free b.cells (b.dist t.coord) (List.replicate n .gap) } := by
  have hpos : 1 ≤ n := hn ▸ Nat.le_max_right _ _
  have hok : ¬ ((decide (64 < b.dist t.coord + n) ||
      (List.range n).any fun i => sget .free b.cells (b.dist t.coord + i) != .free) = true) := by
    simp only [Bool.or_eq_true, decide_eq_true_eq, List.any_eq_true, List.mem_range, bne_iff_ne, not_or, not_exists, not_and,
      not_not]
    exact ⟨by omega, hfree⟩
  rw [RBuf.insert]
  rw [if_neg (by omega), if_neg (by omega), hk, ← hn]
  exact if_neg hok

theorem insert_behind (hd : 32768 ≤ b.dist t.coord) : b.insert t = .seq := if_pos hd

end

section
variable {s : State} {c : Ctx} {f : XForm} {x : XSt} {k : Fin 8} (hs : s.ctx? = some c) (hk : c.el.ks = .x x)
  (hkf : k = Fin.ofNat 8 (f.cnt.toNat % 8))
include hs hk hkf

theorem reord_held {t : Token} {b : RBuf} (ht : c.srcTok? f.sa = some t) (hp : t.kind = .control → t.poison = false)
    (hd : (x.bufs.get k).dist t.coord < 64) (hins : (x.bufs.get k).insert t = .held b) :
    exec (.reord f) s = .next (c.fired s { c.el with ks := .x { x with bufs := x.bufs.set k b } } [] f.pop
      (readMask [f.sa])) := by
  have hi : exec (.reord f) s = execReord f s := rfl
  have hfar : (x.bufs.get k).tooFar t = false := by simp [RBuf.tooFar, Nat.not_le.mpr hd]
  have hpois : ¬ ((decide (t.kind = .control) && t.poison) = true) := by
    simp only [Bool.and_eq_true, decide_eq_true_eq, not_and, Bool.not_eq_true]
    exact hp
  subst hkf
  simp only [hi, execReord, withCtx_of hs, Ctx.withX, hk, ht, hfar, hins, if_neg hpois, Bool.false_eq_true, if_false]
  exact finish_nil

theorem reord_behind {t : Token} (ht : c.srcTok? f.sa = some t) (hp : t.kind = .control → t.poison = false)
    (hd : 32768 ≤ (x.bufs.get k).dist t.coord) : exec (.reord f) s = .next (s.raiseTrap c.r c.e c.slot 7 0) := by
  have hi : exec (.reord f) s = execReord f s := rfl
  have hfar : (x.bufs.get k).tooFar t = false := by simp [RBuf.tooFar, Nat.not_lt.mpr hd]
  have hpois : ¬ ((decide (t.kind = .control) && t.poison) = true) := by
    simp only [Bool.and_eq_true, decide_eq_true_eq, not_and, Bool.not_eq_true]
    exact hp
  have hins := insert_behind hd
  subst hkf
  simp only [hi, execReord, withCtx_of hs, Ctx.withX, hk, ht, hfar, hins, if_neg hpois, Bool.false_eq_true, if_false]
  rfl

theorem rels_runs {b : RBuf} {q : Option Token} (hrel : RBuf.release 65 (x.bufs.get k) = (b, q))
    (hcell : sget .free (x.bufs.get k).cells 0 ≠ .free) (hset : c.inSets ((q.map (pushesOf f.dst)).getD [])) :
    exec (.rels f) s = .next (c.fired s { c.el with ks := .x { x with bufs := x.bufs.set k b } }
      ((q.map (pushesOf f.dst)).getD []) f.pop 0) := by
  have hi : exec (.rels f) s = execRels f s := rfl
  subst hkf
  simp only [hi, execRels, withCtx_of hs, Ctx.withX, hk, if_neg hcell, hrel]
  cases q <;> exact finish_next hset

end

/-- Settles O22: a token goes to its place, a control token marks gaps, and RELS releases. -/
theorem reorderBuffersRun : Obligations.ReorderBuffersRun := by
  intro s c f x k hs hk hkf
  refine ⟨fun t d ht hd => ⟨fun hkind hlt hfree => ?_, fun n hkind hp hn hle hfree => ?_, fun hle hp => ?_⟩,
    fun b q hrel => ⟨fun t htok => ?_, fun hcell hset => rels_runs hs hk hkf hrel hcell hset⟩⟩
  · subst hd
    exact reord_held hs hk hkf ht (fun h => absurd h hkind) hlt (insert_token hkind hlt hfree)
  · subst hd
    have hpos : 1 ≤ n := hn ▸ Nat.le_max_right _ _
    exact reord_held hs hk hkf ht (fun _ => hp) (by rw [RBuf.dist]; omega) (insert_gaps hkind hn hle hfree)
  · subst hd
    exact reord_behind hs hk hkf ht hp hle
  · rw [RBuf.release, htok] at hrel
    cases hrel
    exact ⟨rfl, rfl⟩

end Sys2Proof.Proofs.SteeringRuns
end

section
/-! R64, R67, R88, R326, R379, R427: what a step takes up, which slot issues, and the state after reset. -/

namespace Sys2Proof.Proofs.Steps

open Sys2Proof Sys2Proof.Machine

/-! ### Reset (R427) -/

/-- Settles O53: what reset leaves. -/
theorem resetState : Obligations.ResetState := by
  refine ⟨⟨memory_reset_wf, List.length_replicate⟩, fun g hg => ?_, rfl, rfl, rfl⟩
  rw [List.eq_of_mem_replicate hg]
  exact ⟨rfl, rfl⟩

/-! ### What a step takes up (R64, R326) -/

section
variable {s u : State} {rest : List Choice} (hu : u = { s with agenda := rest }) (hawake : s.plat.boot ≠ .safe)
include hu hawake

theorem awake_taken : u.asleep = false := by
  rw [hu, State.asleep, beq_eq_false_iff_ne]
  exact hawake

omit hawake in
theorem step_taken {ch : Choice} (h : s.agenda = ch :: rest) : step s = u.take ch := by
  rw [step, h, hu]

theorem step_fire {r e : Nat} (h : s.agenda = .fire r e :: rest) : step s = u.fire r e := by
  rw [step_taken hu h, State.take, State.act, awake_taken hu hawake]
  rfl

theorem step_event {i : Instr} (h : s.agenda = .event i :: rest) (hi : i.isEvent = true) : step s = exec i u := by
  rw [step_taken hu h, State.take, State.act, awake_taken hu hawake, hi]
  rfl

theorem step_tick {n : Nat} (h : s.agenda = .tick n :: rest) : step s = .next (u.tick n) := by
  rw [step_taken hu h, State.take, awake_taken hu hawake]
  rfl

end

theorem fire_none {u : State} {r e : Nat} {c : Ctx} (hc : u.live? r e = some c) (h : u.nextSlot? c = none) :
    u.fire r e = .next u := by
  simp only [State.fire, State.issue?, hc, h]

theorem fire_some {u : State} {r e : Nat} {c : Ctx} {k : Fin 32} (hc : u.live? r e = some c) (h : u.nextSlot? c = some k) :
    u.fire r e = match decode (c.el.slot k).act with
      | .error w => .fault (.badSlot w)
      | .ok i => exec i { (u.modRegion r fun x => { x with quietAt := none }) with focus := ⟨r, e, k.val⟩ } := by
  simp only [State.fire, State.issue?, hc, h]
  cases decode (c.el.slot k).act <;> rfl

/-- Settles O51: a step runs what its agenda names. -/
theorem stepRunsTheDecodedInstruction : Obligations.StepRunsTheDecodedInstruction := by
  intro s u rest hu hawake
  refine ⟨fun r e c hag hc => ⟨fun k i hk hdec => ?_, fun k w hk hdec => ?_, fun hnone => ?_⟩,
    fun i hag hi => step_event hu hawake hag hi, fun n hag => ⟨u.tick n, step_tick hu hawake hag, ?_⟩⟩
  · rw [step_fire hu hawake hag, fire_some hc hk, hdec]
  · rw [step_fire hu hawake hag, fire_some hc hk, hdec]
  · rw [step_fire hu hawake hag, fire_none hc hnone]
  · rw [hu]
    exact ⟨rfl, rfl, rfl⟩

/-! ### Which slot issues (R64, R67, R162, R165, R379, R407) -/

theorem find_finRange {n : Nat} {p : Fin n → Bool} {k : Fin n} :
    (List.finRange n).find? p = some k ↔ p k = true ∧ ∀ j, j < k → p j = false := by
  rw [List.find?_eq_some_iff_getElem]
  refine and_congr_right fun _ => ⟨fun ⟨i, hi, hik, hbelow⟩ j hj => ?_, fun h => ?_⟩
  · rw [List.getElem_finRange] at hik
    have hlt : j.val < i := by rw [← hik] at hj; exact hj
    have hj' := hbelow j.val hlt
    rw [List.getElem_finRange] at hj'
    simpa using hj'
  · refine ⟨k.val, by simp, by simp, fun j hj => ?_⟩
    simpa using h ⟨j, by omega⟩ hj

theorem drainHeld_iff (c : Ctx) :
    c.drainHeld = true ↔ c.g.liveFed c.e ≠ [] ∧ ∀ i, i ∈ c.g.liveFed c.e → c.el.head? i = some drainMarker := by
  simp [Ctx.drainHeld, Elem.drainAt]

theorem mayIssue_iff (c : Ctx) :
    c.mayIssue = true ↔ c.el.stop = .none ∧ c.el.firing = none ∧ c.el.saved = false ∧
      ¬ (c.g.liveFed c.e ≠ [] ∧ ∀ i, i ∈ c.g.liveFed c.e → c.el.head? i = some drainMarker) := by
  rw [← drainHeld_iff]
  simp [Ctx.mayIssue, Elem.mayIssue, and_assoc]

theorem qualifies_valid {s : State} {c : Ctx} {k : Fin 32} (h : (c.el.slot k).trig.getLsbD 31 = false) :
    s.qualifies c k = false := by
  have hvalid : validOf (c.el.slot k).trig = false := h
  rw [State.qualifies, State.qualifiesButSpace, Elem.triggers, hvalid]
  simp

/-- Settles O52: the lowest slot that qualifies issues, and none while the element may not. -/
theorem lowestQualifyingSlotIssues : Obligations.LowestQualifyingSlotIssues := by
  refine fun s c => ⟨fun k => ?_, fun k h => qualifies_valid h⟩
  rw [State.nextSlot?]
  by_cases hmay : c.mayIssue = true
  · obtain ⟨hstop, hfiring, hsaved, hdrain⟩ := (mayIssue_iff c).mp hmay
    rw [if_pos hmay, find_finRange]
    tauto
  · rw [if_neg hmay]
    have hnot := (mayIssue_iff c).not.mp hmay
    simp only [reduceCtorEq, false_iff]
    tauto

end Sys2Proof.Proofs.Steps
end

section
/-! R65, R69 to R71, R94 to R96: what a firing leaves alone. What a push changes in a graph, and what a firing keeps in its
element. -/

namespace Sys2Proof.Proofs.Frames

open Sys2Proof Sys2Proof.Machine Sys2Proof.Proofs.ControlRuns

/-! ### Vectors -/

theorem get_set_same {α : Type} {n : Nat} (v : Vector α n) (i : Fin n) (x : α) : (v.set i x).get i = x := by
  simp [Vector.get_eq_getElem]

theorem get_set_ne {α : Type} {n : Nat} (v : Vector α n) {i k : Fin n} (x : α) (h : k ≠ i) : (v.set i x).get k = v.get k := by
  have hne : ¬ i.val = k.val := fun e => h (Fin.ext e.symm)
  simp [Vector.get_eq_getElem, hne]

/-! ### What a push changes (R69, R70) -/

/-- Whether an output that `outs` names feeds input `k` of element `q`. -/
def Reaches (g : GraphSt) (e : Nat) (outs : Fin 4 → Prop) (q : Nat) (k : Fin 4) : Prop :=
  ∃ o, outs o ∧ ∃ d, g.edge? e o = some d ∧ ∃ y, y ∈ d.cons ∧ y.elem = q ∧ y.input = k

/-- `x` is element `el` with tokens on their way to the inputs that `reached` names, and, where it is the producer, with its
counters. -/
structure ElemPushed (own : Prop) (reached : Fin 4 → Prop) (el x : Elem) : Prop where
  rest : x = { el with ins := x.ins, perf := x.perf }
  perf : ¬ own → x.perf = el.perf
  ins : ∀ k, x.ins.get k = { el.ins.get k with inflight := (x.ins.get k).inflight }
  unreached : ∀ k, ¬ reached k → x.ins.get k = el.ins.get k

/-- Pushes of element `e` on the outputs that `outs` names lead from graph `g` to graph `h`. -/
structure Pushed (e : Nat) (outs : Fin 4 → Prop) (g h : GraphSt) : Prop where
  rest : h = { g with elems := h.elems }
  elems : ∀ q el, g.elems[q]? = some el →
    ∃ x, h.elems[q]? = some x ∧ ElemPushed (q = e) (Reaches g e outs q) el x

theorem ElemPushed.refl (own : Prop) (reached : Fin 4 → Prop) (el : Elem) : ElemPushed own reached el el :=
  ⟨rfl, fun _ => rfl, fun _ => rfl, fun _ _ => rfl⟩

theorem ElemPushed.trans {own : Prop} {reached : Fin 4 → Prop} {a b c : Elem} (h1 : ElemPushed own reached a b)
    (h2 : ElemPushed own reached b c) : ElemPushed own reached a c := by
  refine ⟨?_, fun h => (h2.perf h).trans (h1.perf h), fun k => ?_, fun k h => (h2.unreached k h).trans (h1.unreached k h)⟩
  · rw [h2.rest, h1.rest]
  · rw [h2.ins k, h1.ins k]

theorem Pushed.refl (e : Nat) (outs : Fin 4 → Prop) (g : GraphSt) : Pushed e outs g g :=
  ⟨rfl, fun _ el h => ⟨el, h, .refl _ _ el⟩⟩

/-- Pushes leave the edges alone. -/
theorem Pushed.edge? {e : Nat} {outs : Fin 4 → Prop} {g h : GraphSt} (hp : Pushed e outs g h) (q : Nat) (o : Fin 4) :
    h.edge? q o = g.edge? q o := by
  rw [hp.rest]
  rfl

theorem Pushed.trans {e : Nat} {outs : Fin 4 → Prop} {a b c : GraphSt} (h1 : Pushed e outs a b) (h2 : Pushed e outs b c) :
    Pushed e outs a c := by
  refine ⟨?_, fun q el hq => ?_⟩
  · rw [h2.rest, h1.rest]
  · obtain ⟨x, hx, hex⟩ := h1.elems q el hq
    obtain ⟨y, hy, hey⟩ := h2.elems q x hx
    have hreach : Reaches b e outs q = Reaches a e outs q := by
      funext k
      simp only [Reaches, h1.edge?]
    rw [hreach] at hey
    exact ⟨y, hy, hex.trans hey⟩

/-- Writing one element by a change that pushes may make. -/
theorem pushed_setElem {e q : Nat} {outs : Fin 4 → Prop} {g : GraphSt} {el x : Elem} (hq : g.elems[q]? = some el)
    (h : ElemPushed (q = e) (Reaches g e outs q) el x) : Pushed e outs g (g.setElem q x) := by
  refine ⟨rfl, fun p y hp => ?_⟩
  by_cases hpq : p = q
  · subst hpq
    rw [hq] at hp
    cases hp
    exact ⟨x, setElem_same hq, h⟩
  · exact ⟨y, by rw [setElem_ne hpq, hp], .refl _ _ y⟩

theorem elemPushed_inflight {own : Prop} {reached : Fin 4 → Prop} {el : Elem} {i : Fin 4} (hi : reached i) (t : Token) :
    ElemPushed own reached el (el.modInput i fun n => { n with inflight := n.inflight ++ [t] }) := by
  refine ⟨rfl, fun _ => rfl, fun k => ?_, fun k hk => ?_⟩
  · by_cases h : k = i
    · subst h
      rw [Elem.modInput, get_set_same]
    · rw [Elem.modInput, get_set_ne _ _ h]
  · exact get_set_ne _ _ fun e => hk (e ▸ hi)

theorem pushed_modIn {e q : Nat} {outs : Fin 4 → Prop} {g : GraphSt} {i : Fin 4} (h : Reaches g e outs q i) (t : Token) :
    Pushed e outs g (g.modIn q i fun n => { n with inflight := n.inflight ++ [t] }) := by
  rw [GraphSt.modIn]
  split
  · exact pushed_setElem ‹_› (elemPushed_inflight h t)
  · exact .refl e outs g

theorem pushed_send {e : Nat} {outs : Fin 4 → Prop} (g : GraphSt) {o : Fin 4} (ho : outs o) (t : Token) :
    Pushed e outs g (g.send e o t) := by
  rw [GraphSt.send]
  split
  · exact .refl e outs g
  · rename_i d hd
    have hfold : ∀ (l : List Consumer) (h : GraphSt), (∀ y ∈ l, y ∈ d.cons) → Pushed e outs g h →
        Pushed e outs g (l.foldl (fun g k => g.modIn k.elem k.input fun n => { n with inflight := n.inflight ++ [t] }) h) := by
      intro l
      induction l with
      | nil => exact fun h _ hp => hp
      | cons y l ih =>
        intro h hl hp
        refine ih _ (fun z hz => hl z (List.mem_cons_of_mem _ hz)) (hp.trans (pushed_modIn ?_ t))
        exact ⟨o, ho, d, (hp.edge? e o).trans hd, y, hl y List.mem_cons_self, rfl, rfl⟩
    exact hfold d.cons g (fun _ h => h) (.refl e outs g)

theorem pushed_push {e : Nat} {outs : Fin 4 → Prop} (g : GraphSt) {o : Fin 4} (ho : outs o) (t : Token) :
    Pushed e outs g (g.push e o t) := by
  have hsend := pushed_send (e := e) g ho t
  simp only [GraphSt.push]
  split
  · split
    · exact hsend
    · exact hsend.trans (pushed_setElem ‹_› ⟨rfl, fun h => absurd rfl h, fun _ => rfl, fun _ _ => rfl⟩)
  · exact hsend

theorem pushed_pushAll {e : Nat} {outs : Fin 4 → Prop} (g : GraphSt) (l : List (Fin 4 × Token)) (h : ∀ p ∈ l, outs p.1) :
    Pushed e outs g (g.pushAll e l) := by
  rw [GraphSt.pushAll]
  induction l generalizing g with
  | nil => exact .refl e outs g
  | cons p l ih =>
    exact (pushed_push g (h p List.mem_cons_self) p.2).trans (ih _ fun q hq => h q (List.mem_cons_of_mem _ hq))

/-! ### What a firing keeps in its element (R94 to R96) -/

/-- `b` is what a firing of `i` leaves of element `a`: its registers but for DST, its predicates but for PW, SET, CLR and the
mask of PPUT, and what only some instructions change. -/
structure Kept (i : Instr) (a b : Elem) : Prop where
  reg : ∀ n, formDst i.form ≠ .reg n → b.d.get n = a.d.get n
  pred : ∀ n, n < 8 → mayWritePred i n = false → b.p.getLsbD n = a.p.getLsbD n
  img : b.img = a.img
  limit : i.info.opc ≠ 0x0D → b.outLimit = a.outLimit
  ends : i.info.opc ≠ 0x16 → b.endCt = a.endCt ∧ b.declared = a.declared
  joins : i.info.opc ≠ 0x18 → i.info.opc ≠ 0x19 → b.joinCt = a.joinCt ∧ b.joinToks = a.joinToks
  kind : i.info.kinds = .all → b.ks = a.ks
  outs : b.outs = a.outs
  dues : b.dues = a.dues
  issueQ : b.issueQ = a.issueQ
  seq : b.seq = a.seq
  issuer : b.issuer = a.issuer
  saved : b.saved = a.saved

/-- `b` is `a` but for what no clause of `Kept` names. -/
def SameKept (a b : Elem) : Prop :=
  b = { a with
    ins := b.ins, stop := b.stop, emptyPop := b.emptyPop, poisonDiscard := b.poisonDiscard, perf := b.perf, pair := b.pair
    firing := b.firing, engines := b.engines, marked := b.marked }

section
variable {i : Instr} {a b c : Elem}

theorem Kept.refl (i : Instr) (a : Elem) : Kept i a a :=
  ⟨fun _ _ => rfl, fun _ _ _ => rfl, rfl, fun _ => rfl, fun _ => ⟨rfl, rfl⟩, fun _ _ => ⟨rfl, rfl⟩, fun _ => rfl, rfl, rfl, rfl,
    rfl, rfl, rfl⟩

theorem Kept.trans (h : Kept i a b) (k : Kept i b c) : Kept i a c where
  reg n hn := (k.reg n hn).trans (h.reg n hn)
  pred n h8 hn := (k.pred n h8 hn).trans (h.pred n h8 hn)
  img := k.img.trans h.img
  limit ho := (k.limit ho).trans (h.limit ho)
  ends ho := ⟨(k.ends ho).1.trans (h.ends ho).1, (k.ends ho).2.trans (h.ends ho).2⟩
  joins h1 h2 := ⟨(k.joins h1 h2).1.trans (h.joins h1 h2).1, (k.joins h1 h2).2.trans (h.joins h1 h2).2⟩
  kind hk := (k.kind hk).trans (h.kind hk)
  outs := k.outs.trans h.outs
  dues := k.dues.trans h.dues
  issueQ := k.issueQ.trans h.issueQ
  seq := k.seq.trans h.seq
  issuer := k.issuer.trans h.issuer
  saved := k.saved.trans h.saved

theorem kept_of_same (h : SameKept a b) : Kept i a b := by
  rw [h]
  exact ⟨fun _ _ => rfl, fun _ _ _ => rfl, rfl, fun _ => rfl, fun _ => ⟨rfl, rfl⟩, fun _ _ => ⟨rfl, rfl⟩, fun _ => rfl, rfl, rfl,
    rfl, rfl, rfl, rfl⟩

theorem kept_ks (ks : KindSt) {l : List ElemKind} (h : i.info.kinds = .only l) : Kept i a { a with ks := ks } :=
  ⟨fun _ _ => rfl, fun _ _ _ => rfl, rfl, fun _ => rfl, fun _ => ⟨rfl, rfl⟩, fun _ _ => ⟨rfl, rfl⟩,
    fun hall => (by rw [h] at hall; cases hall), rfl, rfl, rfl, rfl, rfl, rfl⟩

theorem kept_preds {p : BitVec 8} (h : ∀ n, n < 8 → mayWritePred i n = false → p.getLsbD n = a.p.getLsbD n) :
    Kept i a { a with p := p } :=
  ⟨fun _ _ => rfl, h, rfl, fun _ => rfl, fun _ => ⟨rfl, rfl⟩, fun _ _ => ⟨rfl, rfl⟩, fun _ => rfl, rfl, rfl, rfl, rfl, rfl, rfl⟩

theorem kept_writeDst {d : Dst} (h : formDst i.form = d) (v : Payload) : Kept i a (a.writeDst d v) := by
  cases d with
  | reg n =>
    refine ⟨fun m hm => ?_, fun _ _ _ => rfl, rfl, fun _ => rfl, fun _ => ⟨rfl, rfl⟩, fun _ _ => ⟨rfl, rfl⟩, fun _ => rfl, rfl,
      rfl, rfl, rfl, rfl, rfl⟩
    exact get_set_ne _ _ fun e => hm (e ▸ h)
  | _ => exact .refl i a

theorem writePw_bit (p : BitVec 8) (pw : BitVec 4) (k : Bool) {n : Nat} (hn : n < 8)
    (h : (pw.getLsbD 3 && (pw.extractLsb' 0 3).toNat == n) = false) : (writePw p pw k).getLsbD n = p.getLsbD n := by
  rw [writePw]
  split
  · rename_i h3
    rw [setPred_bit p _ k hn, if_neg]
    intro e
    rw [h3, ← e, Bool.true_and, beq_self_eq_true] at h
    cases h
  · rfl

theorem kept_withPw_R {f : RForm} (h : i.form = .R f) (k : Bool) : Kept i a (a.withPw f.pw k) :=
  kept_preds fun n hn hw => writePw_bit a.p f.pw k hn (by rw [mayWritePred, h] at hw; exact hw)

theorem kept_withPw_I {f : IForm} (h : i.form = .I f) (k : Bool) : Kept i a (a.withPw f.pw k) :=
  kept_preds fun n hn hw => writePw_bit a.p f.pw k hn (by
    rw [mayWritePred, h] at hw
    exact (Bool.or_eq_false_iff.mp hw).1)

theorem kept_withSetClr {f : PForm} (h : i.form = .P f) : Kept i a (a.withSetClr f.set f.clr) :=
  kept_preds fun n hn hw => by
    rw [mayWritePred, h] at hw
    obtain ⟨hset, hclr⟩ := Bool.or_eq_false_iff.mp hw
    rw [setClr_bit a.p f.set f.clr hn, hset, hclr]
    rfl

theorem kept_popAll (cy : Nat) (pop rd : BitVec 4) : Kept i a (a.popAll cy pop rd) := by
  refine kept_of_same ?_
  obtain ⟨_, _, _, _, h⟩ := popAll_frame a cy pop rd
  rw [h]
  rfl

theorem kept_completed (slot : Nat) : Kept i a (a.completed slot) := kept_of_same rfl

theorem kept_takeHead (cy : Nat) (k : Fin 4) : Kept i a (a.takeHead cy k) := kept_of_same rfl

end

end Sys2Proof.Proofs.Frames
end

section
/-! The opcodes 0x00 to 0xCF: what each of their firings can do to the machine. -/

namespace Sys2Proof.Proofs.Computing

open Sys2Proof Sys2Proof.Machine Sys2Proof.Proofs.ControlRuns Sys2Proof.Proofs.Frames

/-- What a firing of `i` in context `c` that computes can lead to: its trap, no change, or its element written and tokens
pushed to the output that it names. -/
inductive Computed (s : State) (c : Ctx) (i : Instr) : State → Prop
  | trap (n code imm : Nat) : Computed s c i (State.raiseTrap { s with freeCtr := n } c.r c.e c.slot code imm)
  | same : Computed s c i s
  | done (n : Nat) (el : Elem) (l : List (Fin 4 × Token)) (hel : Kept i c.el el)
      (hl : ∀ p ∈ l, i.info.opc ≠ 0xCA → formDst i.form = .out p.1) :
      Computed s c i (State.setGraph { s with freeCtr := n } c.r ((c.g.setElem c.e el).pushAll c.e l))

/-- An outcome that is a next state is one of those. -/
def Computes (s : State) (c : Ctx) (i : Instr) (o : Res) : Prop := ∀ t, o = .next t → Computed s c i t

section
variable {s : State} {c : Ctx} {i : Instr}

/-! ### Outcomes of the shared operations -/

theorem computes_next {t : State} (h : Computed s c i t) : Computes s c i (.next t) := by
  intro u hu
  cases hu
  exact h

theorem computes_refused {x : Refusal} : Computes s c i (.refused x) := fun _ h => nomatch h

theorem computes_trap {code : Nat} : Computes s c i (c.trap s code) := computes_next (.trap s.freeCtr code 0)

theorem computes_ite {p : Prop} [Decidable p] {a b : Res} (ha : Computes s c i a) (hb : Computes s c i b) :
    Computes s c i (if p then a else b) := by
  split
  · exact ha
  · exact hb

/-- What a destination pushes goes to the output that it names. -/
theorem out_of_pushesOf {d : Dst} {t : Token} {p : Fin 4 × Token} (h : p ∈ pushesOf d t) : d = .out p.1 := by
  cases d with
  | out o => rw [List.mem_singleton.mp h]
  | _ => cases h

theorem computes_finish {el : Elem} {l : List (Fin 4 × Token)} {pop rd : BitVec 4} {n : Nat} (hel : Kept i c.el el)
    (hl : ∀ p ∈ l, i.info.opc ≠ 0xCA → formDst i.form = .out p.1) :
    Computes s c i (c.finish { s with freeCtr := n } el l pop rd) := by
  refine computes_ite (computes_next ?_) (computes_next (.trap n trapFORMAT 0))
  exact .done n _ l (hel.trans ((kept_popAll _ _ _).trans (kept_completed _))) hl

/-- A firing that writes its element and pushes to its destination. -/
theorem computes_finish_dst {el : Elem} {t : Token} {pop rd : BitVec 4} {d : Dst} (hel : Kept i c.el el)
    (hd : formDst i.form = d) : Computes s c i (c.finish s el (pushesOf d t) pop rd) :=
  computes_finish (n := s.freeCtr) hel fun _ hp _ => hd.trans (out_of_pushesOf hp)

theorem computes_finish_nil {el : Elem} {pop rd : BitVec 4} (hel : Kept i c.el el) :
    Computes s c i (c.finish s el [] pop rd) := computes_finish (n := s.freeCtr) hel fun _ hp => nomatch hp

theorem computes_quiet {el : Elem} {l : List Src} {pop : BitVec 4} (hel : Kept i c.el el) :
    Computes s c i (c.quiet s l el pop) := computes_ite computes_trap (computes_finish_nil hel)

theorem computes_put {el : Elem} (hel : Kept i c.el el) : Computes s c i (.next (c.put s el)) :=
  computes_next (.done s.freeCtr el [] hel fun _ hp => nomatch hp)

theorem kept_firing {a b : Elem} (h : Kept i a b) (x : Option Firing) : Kept i a { b with firing := x } :=
  h.trans (kept_of_same rfl)

theorem computes_hold {el : Elem} {f : Firing} (hel : Kept i c.el el) : Computes s c i (c.hold s el f) :=
  computes_put (kept_firing hel _)

theorem computes_complete {el : Elem} {pop rd : BitVec 4} (hel : Kept i c.el el) :
    Computes s c i (c.complete s el [] pop rd) := computes_finish_nil (kept_firing hel none)

/-- A firing that owes tokens to its output. -/
theorem computes_pushList {el : Elem} {f : Firing} {l : List (Fin 4 × Token)} {pop rd : BitVec 4} (hel : Kept i c.el el)
    (hl : ∀ p ∈ l, formDst i.form = .out p.1) : Computes s c i (c.pushList s el f l pop rd) := by
  rw [Ctx.pushList.eq_def]
  split
  · exact computes_complete hel
  · exact computes_finish (n := s.freeCtr) (kept_firing hel none) fun p hp _ => hl p hp
  · rename_i x r _
    refine computes_ite (computes_next ?_) computes_trap
    exact .done s.freeCtr _ [x] (kept_firing hel _) fun p hp _ => hl p (by
      rw [List.mem_singleton.mp hp]
      exact List.mem_cons_self)

theorem out_of_series {d : Dst} {o : Fin 4} (ho : outOf? d = some o) (ts : List Token) :
    ∀ p ∈ ts.map fun t => (o, t), d = .out p.1 := by
  intro p hp
  obtain ⟨t, _, rfl⟩ := List.mem_map.mp hp
  cases d with
  | out k => cases ho; rfl
  | _ => cases ho

/-! ### Ordinary firings -/

section
variable (hs : s.ctx? = some c)
include hs

theorem computes_withCtx {f : Ctx → Res} (h : Computes s c i (f c)) : Computes s c i (withCtx s f) := by
  rw [withCtx_of hs]
  exact h

theorem computes_ordinaryR {f : RForm} (hi : i.form = .R f) (h : Ctx → BitVec 4 → Payload → Payload → Out) :
    Computes s c i (ordinaryR s f h) := by
  have hd : formDst i.form = f.dst := by rw [hi]; rfl
  exact computes_withCtx hs (computes_ite computes_trap
    (computes_finish_dst ((kept_writeDst hd _).trans (kept_withPw_R hi _)) hd))

theorem computes_ordinaryI {f : IForm} (hi : i.form = .I f) (h : Ctx → BitVec 8 → Payload → Out) :
    Computes s c i (ordinaryI s f h) := by
  have hd : formDst i.form = f.dst := by rw [hi]; rfl
  exact computes_withCtx hs (computes_ite computes_trap
    (computes_finish_dst ((kept_writeDst hd _).trans (kept_withPw_I hi _)) hd))

omit hs in
/-- An ordinary firing of an X form, which writes no predicate. -/
theorem computes_ordinary_X {f : XForm} (hi : i.form = .X f) {l : List Src} {o : Out} :
    Computes s c i (c.ordinary s l f.dst 0 f.pop 0 o) := by
  have hd : formDst i.form = f.dst := by rw [hi]; rfl
  refine computes_ite computes_trap (computes_finish_dst ?_ hd)
  rw [withPw_zero]
  exact kept_writeDst hd _

theorem computes_ordinaryX {f : XForm} (hi : i.form = .X f) (h : Ctx → BitVec 8 → Payload → Payload → Out) :
    Computes s c i (ordinaryX s f h) := computes_withCtx hs (computes_ordinary_X hi)

omit hs in
/-- A P-form firing that changes nothing of its element that `Kept` names. -/
theorem computes_pform {f : PForm} (hi : i.form = .P f) {el : Elem} (hel : Kept i c.el el) :
    Computes s c i (c.pform s f el) := computes_finish_nil (hel.trans (kept_withSetClr hi))

end

/-! ### The control opcodes 0x00 to 0x1F -/

section
variable (hs : s.ctx? = some c)
include hs

theorem computes_sel (f : RForm) : Computes s c (.sel f) (execSel f s) :=
  computes_withCtx hs (computes_ite computes_trap
    (computes_finish_dst ((kept_writeDst rfl _).trans (kept_withPw_R rfl _)) rfl))

theorem computes_pput (f : IForm) : Computes s c (.pput f) (execPput f s) := by
  refine computes_withCtx hs (computes_quiet (kept_preds fun n hn hw => ?_))
  have himm : f.imm.getLsbD n = false := (Bool.or_eq_false_iff.mp hw).2
  rw [pputPreds, BitVec.getLsbD_or, BitVec.getLsbD_and, BitVec.getLsbD_and, BitVec.getLsbD_not, himm, decide_eq_true hn]
  simp

theorem computes_fwd (f : RForm) : Computes s c (.fwd f) (execFwd f s) := by
  refine computes_withCtx hs ?_
  split
  · rename_i t o _ hd
    exact computes_finish (n := s.freeCtr) (kept_withPw_R rfl _) fun p hp _ => by
      rw [List.mem_singleton.mp hp]
      exact hd
  · exact computes_finish_nil (kept_withPw_R rfl _)
  · exact computes_ite computes_trap (computes_finish_dst ((kept_writeDst rfl _).trans (kept_withPw_R rfl _)) rfl)

theorem computes_emitc (f : RForm) : Computes s c (.emitc f) (execEmitc f s) :=
  computes_withCtx hs (computes_ite computes_trap
    (computes_finish_dst ((kept_writeDst rfl _).trans (kept_withPw_R rfl _)) rfl))

theorem computes_sendl (f : RForm) : Computes s c (.sendl f) (execSendl f s) :=
  computes_withCtx hs (computes_ite computes_trap
    (computes_finish_dst ((kept_writeDst rfl _).trans (kept_withPw_R rfl _)) rfl))

theorem computes_ltok (f : RForm) : Computes s c (.ltok f) (execLtok f s) :=
  computes_withCtx hs (computes_finish_dst ((kept_writeDst rfl _).trans (kept_withPw_R rfl _)) rfl)

theorem computes_crdset (f : RForm) : Computes s c (.crdset f) (execCrdset f s) := by
  refine computes_withCtx hs (computes_quiet (Kept.trans ?_ (kept_withPw_R rfl _)))
  exact ⟨fun _ _ => rfl, fun _ _ _ => rfl, rfl, fun h => absurd rfl h, fun _ => ⟨rfl, rfl⟩, fun _ _ => ⟨rfl, rfl⟩, fun _ => rfl,
    rfl, rfl, rfl, rfl, rfl, rfl⟩

theorem computes_trapInstr (f : IForm) : Computes s c (.trap f) (execTrap f s) :=
  computes_withCtx hs (computes_next (.trap s.freeCtr trapUSER f.imm.toNat))

theorem computes_done (f : IForm) : Computes s c (.done f) (execDone f s) := by
  refine computes_withCtx hs (computes_quiet (Kept.trans ?_ (kept_withPw_I rfl _)))
  exact ⟨fun _ _ => rfl, fun _ _ _ => rfl, rfl, fun _ => rfl, fun h => absurd rfl h, fun _ _ => ⟨rfl, rfl⟩, fun _ => rfl,
    rfl, rfl, rfl, rfl, rfl, rfl⟩

omit hs in
/-- What JOIN and JOINF change of their element. -/
theorem kept_joins {a b : Elem} (h : i.info.opc = 0x18 ∨ i.info.opc = 0x19)
    (hb : b = { a with joinCt := b.joinCt, joinToks := b.joinToks, firing := b.firing }) : Kept i a b := by
  rw [hb]
  exact ⟨fun _ _ => rfl, fun _ _ _ => rfl, rfl, fun _ => rfl, fun _ => ⟨rfl, rfl⟩,
    fun h1 h2 => (h.elim h1 h2).elim, fun _ => rfl, rfl, rfl, rfl, rfl, rfl, rfl⟩

theorem computes_join (f : XForm) : Computes s c (.join f) (execJoin f s) :=
  computes_withCtx hs (computes_ite
    (computes_finish_dst ((kept_joins (.inl rfl) rfl).trans (kept_writeDst rfl _)) rfl)
    (computes_finish_nil (kept_joins (.inl rfl) rfl)))

theorem computes_joinf (f : XForm) : Computes s c (.joinf f) (execJoinf f s) := by
  refine computes_withCtx hs (computes_ite (computes_put ?_) (computes_finish_nil (kept_joins (.inr rfl) rfl)))
  exact (kept_joins (.inr rfl) rfl).trans (kept_popAll _ _ _)

theorem computes_perf (f : XForm) : Computes s c (.perf f) (execPerf f s) := by
  refine computes_ite ?_ (computes_ordinaryX hs rfl _)
  refine computes_withCtx hs (computes_ite computes_trap ?_)
  exact computes_finish ((kept_of_same (b := c.el.countSquashed s.freeCtr) rfl).trans (kept_writeDst rfl _)) fun p hp _ =>
    out_of_pushesOf hp

end

/-! ### Kinds of element -/

theorem computes_withXa {f : XS → XS → Res} (h : ∀ x y, Computes s c i (f x y)) : Computes s c i (c.withXa f) := by
  rw [Ctx.withXa.eq_def]
  split
  · exact h _ _
  · exact computes_refused

theorem computes_withM {f : MSt → Res} (h : ∀ m, Computes s c i (f m)) : Computes s c i (c.withM f) := by
  rw [Ctx.withM.eq_def]
  split
  · exact h _
  · exact computes_refused

theorem computes_withS {f : SSt → Res} (h : ∀ x, Computes s c i (f x)) : Computes s c i (c.withS f) := by
  rw [Ctx.withS.eq_def]
  split
  · exact h _
  · exact computes_refused

theorem computes_withL {f : LSt → Res} (h : ∀ x, Computes s c i (f x)) : Computes s c i (c.withL f) := by
  rw [Ctx.withL.eq_def]
  split
  · exact h _
  · exact computes_refused

theorem computes_withX {f : XSt → Res} (h : ∀ x, Computes s c i (f x)) : Computes s c i (c.withX f) := by
  rw [Ctx.withX.eq_def]
  split
  · exact h _
  · exact computes_refused

section
variable (hs : s.ctx? = some c)
include hs

/-! ### Conversions and exact accumulators -/

theorem computes_fnarrow {f : XForm} (hi : i.form = .X f) (v : FVar) : Computes s c i (opFnarrow v f s) := by
  refine computes_withCtx hs (computes_ite computes_trap ?_)
  dsimp only
  split
  · exact computes_refused
  · exact computes_ordinary_X hi

theorem computes_xclr (f : IForm) : Computes s c (.xclr f) (execXclr f s) :=
  computes_withCtx hs (computes_withXa fun _ _ => computes_quiet ((kept_ks _ rfl).trans (kept_withPw_I rfl _)))

theorem computes_xadd (f : XForm) : Computes s c (.xadd f) (execXadd f s) := by
  refine computes_withCtx hs (computes_withXa fun _ _ => computes_ite computes_trap ?_)
  split
  · exact computes_trap
  · exact computes_quiet (kept_ks _ rfl)

theorem computes_xsq (f : XForm) : Computes s c (.xsq f) (execXsq f s) := by
  refine computes_withCtx hs (computes_withXa fun _ _ => computes_ite computes_trap ?_)
  split
  · exact computes_trap
  · exact computes_quiet (kept_ks _ rfl)

theorem computes_xrd (f : XForm) : Computes s c (.xrd f) (execXrd f s) := by
  refine computes_withCtx hs (computes_withXa fun _ _ => ?_)
  dsimp only
  split
  · exact computes_refused
  · exact computes_ordinary_X rfl

theorem computes_xvar (f : XForm) : Computes s c (.xvar f) (execXvar f s) := by
  refine computes_withCtx hs (computes_ite computes_trap (computes_withXa fun _ _ => ?_))
  dsimp only
  split
  · exact computes_refused
  · exact computes_ordinary_X rfl

/-! ### Matrix elements -/

omit hs in
theorem computes_stream (sa : Src) : Computes s c i (c.stream s i sa) := by
  rw [Ctx.stream.eq_def]
  split
  · exact computes_refused
  · exact computes_hold (.refl i c.el)

omit hs in
theorem computes_load {k : EngKind} {sa : Src} {pop : BitVec 4} {ctx : Nat} {split : Bool} {h : Elem → Elem}
    (hh : Kept i c.el (h c.el)) : Computes s c i (c.load s i k sa pop ctx split h) := by
  rw [Ctx.load.eq_def]
  split
  · exact computes_refused
  · exact computes_ite (computes_hold (.refl i c.el)) (computes_complete (hh.trans (kept_of_same rfl)))

theorem computes_mldb (f : XForm) : Computes s c (.mldb f) (execMldb f s) :=
  computes_withCtx hs (computes_withM fun _ => computes_load (kept_ks _ rfl))

theorem computes_mlds (f : XForm) : Computes s c (.mlds f) (execMlds f s) :=
  computes_withCtx hs (computes_withM fun _ => computes_load (.refl _ _))

theorem computes_mswap (f : PForm) : Computes s c (.mswap f) (execMswap f s) :=
  computes_withCtx hs (computes_withM fun _ => computes_ite (computes_hold (.refl _ c.el))
    (computes_complete ((kept_ks _ rfl).trans (kept_withSetClr rfl))))

theorem computes_mzero (f : IForm) : Computes s c (.mzero f) (execMzero f s) :=
  computes_withCtx hs (computes_withM fun _ => computes_quiet ((kept_ks _ rfl).trans (kept_withPw_I rfl _)))

theorem computes_mrow (q : AWidth) (f : XForm) : Computes s c (.mrow q f) (execMrow q f s) :=
  computes_withCtx hs (computes_withM fun _ => computes_stream f.sa)

theorem computes_mrows (q : AWidth) (f : XForm) : Computes s c (.mrows q f) (execMrows q f s) :=
  computes_withCtx hs (computes_withM fun _ => computes_stream f.sa)

theorem computes_mchain (f : XForm) : Computes s c (.mchain f) (execMchain f s) :=
  computes_withCtx hs (computes_withM fun _ => computes_stream f.sa)

theorem computes_mbias (f : XForm) : Computes s c (.mbias f) (execMbias f s) :=
  computes_withCtx hs (computes_withM fun _ => computes_stream f.sa)

theorem computes_mout (f : XForm) : Computes s c (.mout f) (execMout f s) := by
  refine computes_withCtx hs (computes_withM fun _ => ?_)
  split
  · exact computes_refused
  next ho => exact computes_pushList (.refl _ c.el) (out_of_series ho _)

theorem computes_moutq (f : XForm) : Computes s c (.moutq f) (execMoutq f s) := by
  refine computes_withCtx hs (computes_withM fun _ => ?_)
  split
  · exact computes_refused
  next ho =>
    refine computes_ite computes_trap ?_
    split
    · exact computes_trap
    · exact computes_pushList (.refl _ c.el) (out_of_series ho _)

theorem computes_mgrp (f : XForm) : Computes s c (.mgrp f) (execMgrp f s) := by
  refine computes_withCtx hs (computes_withM fun _ => ?_)
  split
  next n _ o _ _ ho =>
    split
    · exact computes_refused
    · refine computes_ite computes_trap (computes_ite computes_trap ?_)
      have htake : Kept (.mgrp f) c.el (c.el.takeHead s.cycle n) := kept_takeHead _ _
      unfold groupNext
      dsimp only
      split_ifs
      · exact computes_hold htake
      · exact computes_hold htake
      · exact computes_pushList htake (out_of_series ho [_])
  · exact computes_refused

theorem computes_maccr (f : XForm) : Computes s c (.maccr f) (execMaccr f s) :=
  computes_withCtx hs (computes_withM fun _ => computes_ite computes_trap (computes_ite computes_trap
    (computes_finish_dst (kept_writeDst rfl _) rfl)))

theorem computes_maccw (f : XForm) : Computes s c (.maccw f) (execMaccw f s) :=
  computes_withCtx hs (computes_withM fun _ => computes_ite computes_trap (computes_ite computes_trap
    (computes_quiet (kept_ks _ rfl))))

theorem computes_msplit (f : IForm) : Computes s c (.msplit f) (execMsplit f s) :=
  computes_withCtx hs (computes_withM fun _ => computes_quiet ((kept_ks _ rfl).trans (kept_withPw_I rfl _)))

theorem computes_mstat (f : RForm) : Computes s c (.mstat f) (execMstat f s) := by
  refine computes_withCtx hs (computes_withM fun _ => computes_finish_dst
    (Kept.trans ?_ ((kept_writeDst rfl _).trans (kept_withPw_R rfl _))) rfl)
  split
  · exact kept_ks _ rfl
  · exact .refl _ _

/-! ### Tiles, pairs and tokens in pieces -/

theorem computes_swcfg (f : RForm) : Computes s c (.swcfg f) (execSwcfg f s) :=
  computes_withCtx hs (computes_withS fun _ => computes_ite computes_trap (computes_ite computes_trap
    (computes_quiet ((kept_ks _ rfl).trans (kept_withPw_R rfl _)))))

theorem computes_swpush (f : RForm) : Computes s c (.swpush f) (execSwpush f s) :=
  computes_withCtx hs (computes_withS fun _ => computes_ite computes_trap (computes_ite computes_trap
    (computes_quiet ((kept_ks _ rfl).trans (kept_withPw_R rfl _)))))

theorem computes_swemit (f : XForm) : Computes s c (.swemit f) (execSwemit f s) := by
  refine computes_withCtx hs (computes_withS fun _ => ?_)
  split
  · exact computes_refused
  next ho => exact computes_pushList (.refl _ c.el) (out_of_series ho _)

theorem computes_swflush (f : PForm) : Computes s c (.swflush f) (execSwflush f s) :=
  computes_withCtx hs (computes_withS fun _ => computes_pform rfl (kept_ks _ rfl))

theorem computes_isect (f : IForm) : Computes s c (.isect f) (execIsect f s) := by
  refine computes_withCtx hs (computes_quiet (Kept.trans ?_ (kept_withPw_I rfl _)))
  exact kept_of_same rfl

theorem computes_icnt (f : RForm) : Computes s c (.icnt f) (execIcnt f s) := by
  refine computes_withCtx hs (computes_finish_dst (Kept.trans ?_ ((kept_writeDst rfl _).trans (kept_withPw_R rfl _))) rfl)
  exact kept_of_same rfl

theorem computes_cmpr (f : RForm) : Computes s c (.cmpr f) (execCmpr f s) :=
  computes_withCtx hs (computes_ite computes_trap
    (computes_finish_dst ((kept_writeDst rfl _).trans (kept_withPw_R rfl _)) rfl))

theorem computes_wsplit (f : XForm) : Computes s c (.wsplit f) (execWsplit f s) := by
  refine computes_withCtx hs ?_
  split
  · exact computes_refused
  next ho => exact computes_ite computes_trap (computes_pushList (.refl _ c.el) (out_of_series ho _))

theorem computes_wjoin (f : XForm) : Computes s c (.wjoin f) (execWjoin f s) := computes_withCtx hs (computes_stream f.sa)

/-! ### Lookup elements -/

theorem computes_xpose (f : XForm) : Computes s c (.xpose f) (execXpose f s) := by
  refine computes_withCtx hs ?_
  split
  · exact computes_refused
  · exact computes_stream f.sa

theorem computes_ltab (f : XForm) : Computes s c (.ltab f) (execLtab f s) :=
  computes_withCtx hs (computes_withL fun _ => computes_load (.refl _ _))

theorem computes_lwire (f : XForm) : Computes s c (.lwire f) (execLwire f s) :=
  computes_withCtx hs (computes_withL fun _ => computes_load (.refl _ _))

theorem computes_leval (f : XForm) : Computes s c (.leval f) (execLeval f s) :=
  computes_withCtx hs (computes_withL fun _ => computes_ite computes_trap (computes_ite (computes_hold (.refl _ c.el))
    (computes_complete (kept_ks _ rfl))))

theorem computes_lemit (f : XForm) : Computes s c (.lemit f) (execLemit f s) := by
  refine computes_withCtx hs (computes_withL fun _ => ?_)
  split
  · exact computes_refused
  next ho =>
    exact computes_ite computes_trap (computes_ite computes_trap (computes_pushList (.refl _ c.el) (out_of_series ho _)))

theorem computes_lpop (f : XForm) : Computes s c (.lpop f) (execLpop f s) := by
  refine computes_withCtx hs (computes_withL fun _ => ?_)
  split
  · exact computes_refused
  next ho =>
    exact computes_ite computes_trap (computes_ite computes_trap (computes_pushList (.refl _ c.el) (out_of_series ho _)))

theorem computes_lunx (f : XForm) : Computes s c (.lunx f) (execLunx f s) := by
  refine computes_withCtx hs (computes_withL fun _ => ?_)
  split
  · exact computes_refused
  next ho =>
    exact computes_ite computes_trap (computes_ite computes_trap (computes_pushList (.refl _ c.el) (out_of_series ho _)))

theorem computes_lctx (f : IForm) : Computes s c (.lctx f) (execLctx f s) :=
  computes_withCtx hs (computes_withL fun _ => computes_ite computes_trap
    (computes_finish_dst ((kept_writeDst rfl _).trans (kept_withPw_I rfl _)) rfl))

theorem computes_lin (f : XForm) : Computes s c (.lin f) (execLin f s) :=
  computes_withCtx hs (computes_withL fun _ => computes_stream f.sa)

/-! ### Steering and reordering -/

theorem computes_steer (f : RForm) : Computes s c (.steer f) (execSteer f s) := by
  refine computes_withCtx hs ?_
  split
  · exact computes_refused
  · refine computes_ite computes_trap ?_
    split
    · exact computes_finish (n := s.freeCtr) (kept_withPw_R rfl _) fun _ _ h => absurd rfl h
    · exact computes_finish_nil ((kept_of_same (b := c.el.perfInc 8) rfl).trans (kept_withPw_R rfl _))

theorem computes_seqno (f : IForm) : Computes s c (.seqno f) (execSeqno f s) :=
  computes_withCtx hs (computes_withX fun _ =>
    computes_finish_dst ((kept_ks _ rfl).trans ((kept_writeDst rfl _).trans (kept_withPw_I rfl _))) rfl)

theorem computes_merge (f : RForm) : Computes s c (.merge f) (execMerge f s) := by
  refine computes_withCtx hs ?_
  split
  · exact computes_next .same
  · split
    · exact computes_next .same
    · exact computes_finish_dst (kept_withPw_R rfl _) rfl

theorem computes_reord (f : XForm) : Computes s c (.reord f) (execReord f s) := by
  refine computes_withCtx hs (computes_withX fun x => ?_)
  split
  · exact computes_refused
  · refine computes_ite (computes_next .same) (computes_ite computes_trap ?_)
    split
    · exact computes_next .same
    · exact computes_trap
    · exact computes_finish_nil (kept_ks _ rfl)

theorem computes_rels (f : XForm) : Computes s c (.rels f) (execRels f s) := by
  refine computes_withCtx hs (computes_withX fun x => computes_ite (computes_next .same) ?_)
  rcases RBuf.release 65 (x.bufs.get (Fin.ofNat 8 (f.cnt.toNat % 8))) with ⟨b, _ | t⟩
  · exact computes_finish_nil (kept_ks _ rfl)
  · exact computes_finish_dst (kept_ks _ rfl) rfl

end

/-! ### The float, special and integer operations -/

section
variable (hs : s.ctx? = some c) {f : RForm} (hi : i.form = .R f)
include hs hi

theorem computes_intOp {sh : Shape} (h : BitVec 4 → BitVec (shWidth sh) → BitVec (shWidth sh) → BitVec (shWidth sh)) :
    Computes s c i (intOp sh f s h) := by
  rw [intOp]
  exact computes_ordinaryR hs hi _

theorem computes_intCmp {sh : Shape} (h : BitVec (shWidth sh) → BitVec (shWidth sh) → Bool) :
    Computes s c i (intCmp sh f s h) := by
  rw [intCmp]
  exact computes_ordinaryR hs hi _

theorem computes_opFadd (v : FVar) : Computes s c i (opFadd v f s) := by
  rw [opFadd, floatOp]
  exact computes_ordinaryR hs hi _

theorem computes_opFsub (v : FVar) : Computes s c i (opFsub v f s) := by
  rw [opFsub, floatOp]
  exact computes_ordinaryR hs hi _

theorem computes_opFmul (v : FVar) : Computes s c i (opFmul v f s) := by
  rw [opFmul, floatOp]
  exact computes_ordinaryR hs hi _

theorem computes_opFfma (v : FVar) : Computes s c i (opFfma v f s) := by
  rw [opFfma, floatOp]
  exact computes_ordinaryR hs hi _

theorem computes_opFminmax (k : Bool) (v : FVar) : Computes s c i (opFminmax k v f s) := by
  rw [opFminmax, floatExact]
  exact computes_ordinaryR hs hi _

theorem computes_opFceq (v : FVar) : Computes s c i (opFceq v f s) := by
  rw [opFceq, floatCmp]
  exact computes_ordinaryR hs hi _

theorem computes_opFclt (v : FVar) : Computes s c i (opFclt v f s) := by
  rw [opFclt, floatCmp]
  exact computes_ordinaryR hs hi _

theorem computes_opFcle (v : FVar) : Computes s c i (opFcle v f s) := by
  rw [opFcle, floatCmp]
  exact computes_ordinaryR hs hi _

theorem computes_opFabs (v : FVar) : Computes s c i (opFabs v f s) := by
  rw [opFabs, floatExact]
  exact computes_ordinaryR hs hi _

theorem computes_opFneg (v : FVar) : Computes s c i (opFneg v f s) := by
  rw [opFneg, floatExact]
  exact computes_ordinaryR hs hi _

theorem computes_opFcvt (v : FVar) : Computes s c i (opFcvt v f s) := by
  rw [opFcvt]
  exact computes_ordinaryR hs hi _

theorem computes_opFtoi (v : FVar) : Computes s c i (opFtoi v f s) := by
  rw [opFtoi]
  exact computes_ordinaryR hs hi _

theorem computes_opItof (v : FVar) : Computes s c i (opItof v f s) := by
  rw [opItof]
  exact computes_ordinaryR hs hi _

theorem computes_opFwiden (v : FVar) : Computes s c i (opFwiden v f s) := by
  rw [opFwiden]
  exact computes_ordinaryR hs hi _

theorem computes_specialOp (h : Word → Word) : Computes s c i (specialOp f s h) := by
  rw [specialOp]
  exact computes_ordinaryR hs hi _

end

end

/-! ### All the opcodes below 0xD0 -/

/-- A firing of an opcode below 0xD0 traps, changes nothing, or writes its element and pushes to its output. -/
theorem computes_exec {s : State} {c : Ctx} {i : Instr} (hs : s.ctx? = some c) (hev : i.isEvent = false)
    (hopc : i.info.opc < 0xD0) : Computes s c i (exec i s) := by
  cases i
  case mov f => exact (computes_ordinaryR hs rfl _ : Computes s c (.mov f) (execMov f s))
  case pget f => exact (computes_ordinaryR hs rfl _ : Computes s c (.pget f) (execPget f s))
  case crdget f => exact (computes_ordinaryR hs rfl _ : Computes s c (.crdget f) (execCrdget f s))
  case shuf f => exact (computes_ordinaryR hs rfl _ : Computes s c (.shuf f) (execShuf f s))
  case pack f => exact (computes_ordinaryR hs rfl _ : Computes s c (.pack f) (execPack f s))
  case unpkl f => exact (computes_ordinaryR hs rfl _ : Computes s c (.unpkl f) (execUnpkl f s))
  case unpkh f => exact (computes_ordinaryR hs rfl _ : Computes s c (.unpkh f) (execUnpkh f s))
  case time f => exact (computes_ordinaryR hs rfl _ : Computes s c (.time f) (execTime f s))
  case stat f => exact (computes_ordinaryR hs rfl _ : Computes s c (.stat f) (execStat f s))
  case addx f => exact (computes_ordinaryR hs rfl _ : Computes s c (.addx f) (execAddx f s))
  case mulx f => exact (computes_ordinaryR hs rfl _ : Computes s c (.mulx f) (execMulx f s))
  case rand f => exact (computes_ordinaryR hs rfl _ : Computes s c (.rand f) (execRand f s))
  case smax f => exact (computes_ordinaryR hs rfl _ : Computes s c (.smax f) (execSmax f s))
  case expnd f => exact (computes_ordinaryR hs rfl _ : Computes s c (.expnd f) (execExpnd f s))
  case argmx f => exact (computes_ordinaryR hs rfl _ : Computes s c (.argmx f) (execArgmx f s))
  case xthr f => exact (computes_ordinaryR hs rfl _ : Computes s c (.xthr f) (execXthr f s))
  case slots f => exact (computes_ordinaryR hs rfl _ : Computes s c (.slots f) (execSlots f s))
  case add sh f => exact (computes_intOp hs rfl _ : Computes s c (.add sh f) (execAdd sh f s))
  case sub sh f => exact (computes_intOp hs rfl _ : Computes s c (.sub sh f) (execSub sh f s))
  case mul sh f => exact (computes_intOp hs rfl _ : Computes s c (.mul sh f) (execMul sh f s))
  case mulh sh f => exact (computes_intOp hs rfl _ : Computes s c (.mulh sh f) (execMulh sh f s))
  case and sh f => exact (computes_intOp hs rfl _ : Computes s c (.and sh f) (execAnd sh f s))
  case or sh f => exact (computes_intOp hs rfl _ : Computes s c (.or sh f) (execOr sh f s))
  case xor sh f => exact (computes_intOp hs rfl _ : Computes s c (.xor sh f) (execXor sh f s))
  case shl sh f => exact (computes_intOp hs rfl _ : Computes s c (.shl sh f) (execShl sh f s))
  case shr sh f => exact (computes_intOp hs rfl _ : Computes s c (.shr sh f) (execShr sh f s))
  case sra sh f => exact (computes_intOp hs rfl _ : Computes s c (.sra sh f) (execSra sh f s))
  case min sh f => exact (computes_intOp hs rfl _ : Computes s c (.min sh f) (execMin sh f s))
  case max sh f => exact (computes_intOp hs rfl _ : Computes s c (.max sh f) (execMax sh f s))
  case ceq sh f => exact (computes_intCmp hs rfl _ : Computes s c (.ceq sh f) (execCeq sh f s))
  case clt sh f => exact (computes_intCmp hs rfl _ : Computes s c (.clt sh f) (execClt sh f s))
  case cltu sh f => exact (computes_intCmp hs rfl _ : Computes s c (.cltu sh f) (execCltu sh f s))
  case faddF32 f => exact computes_opFadd hs rfl _
  case faddF16 f => exact computes_opFadd hs rfl _
  case faddBF16 f => exact computes_opFadd hs rfl _
  case fsubF32 f => exact computes_opFsub hs rfl _
  case fsubF16 f => exact computes_opFsub hs rfl _
  case fsubBF16 f => exact computes_opFsub hs rfl _
  case fmulF32 f => exact computes_opFmul hs rfl _
  case fmulF16 f => exact computes_opFmul hs rfl _
  case fmulBF16 f => exact computes_opFmul hs rfl _
  case ffmaF32 f => exact computes_opFfma hs rfl _
  case ffmaF16 f => exact computes_opFfma hs rfl _
  case ffmaBF16 f => exact computes_opFfma hs rfl _
  case fminF32 f => exact computes_opFminmax hs rfl _ _
  case fminF16 f => exact computes_opFminmax hs rfl _ _
  case fminBF16 f => exact computes_opFminmax hs rfl _ _
  case fmaxF32 f => exact computes_opFminmax hs rfl _ _
  case fmaxF16 f => exact computes_opFminmax hs rfl _ _
  case fmaxBF16 f => exact computes_opFminmax hs rfl _ _
  case fceqF32 f => exact computes_opFceq hs rfl _
  case fceqF16 f => exact computes_opFceq hs rfl _
  case fceqBF16 f => exact computes_opFceq hs rfl _
  case fcltF32 f => exact computes_opFclt hs rfl _
  case fcltF16 f => exact computes_opFclt hs rfl _
  case fcltBF16 f => exact computes_opFclt hs rfl _
  case fcleF32 f => exact computes_opFcle hs rfl _
  case fcleF16 f => exact computes_opFcle hs rfl _
  case fcleBF16 f => exact computes_opFcle hs rfl _
  case fabsF32 f => exact computes_opFabs hs rfl _
  case fabsF16 f => exact computes_opFabs hs rfl _
  case fabsBF16 f => exact computes_opFabs hs rfl _
  case fnegF32 f => exact computes_opFneg hs rfl _
  case fnegF16 f => exact computes_opFneg hs rfl _
  case fnegBF16 f => exact computes_opFneg hs rfl _
  case fcvtF32 f => exact computes_opFcvt hs rfl _
  case fcvtF16 f => exact computes_opFcvt hs rfl _
  case fcvtBF16 f => exact computes_opFcvt hs rfl _
  case ftoiF32 f => exact computes_opFtoi hs rfl _
  case ftoiF16 f => exact computes_opFtoi hs rfl _
  case ftoiBF16 f => exact computes_opFtoi hs rfl _
  case itofF32 f => exact computes_opItof hs rfl _
  case itofF16 f => exact computes_opItof hs rfl _
  case itofBF16 f => exact computes_opItof hs rfl _
  case fwidenF32 f => exact computes_opFwiden hs rfl _
  case fwidenF16 f => exact computes_opFwiden hs rfl _
  case fwidenBF16 f => exact computes_opFwiden hs rfl _
  case exp2 f => exact (computes_specialOp hs rfl _ : Computes s c (.exp2 f) (execExp2 f s))
  case log2 f => exact (computes_specialOp hs rfl _ : Computes s c (.log2 f) (execLog2 f s))
  case rcp f => exact (computes_specialOp hs rfl _ : Computes s c (.rcp f) (execRcp f s))
  case sqrt f => exact (computes_specialOp hs rfl _ : Computes s c (.sqrt f) (execSqrt f s))
  case rsqrt f => exact (computes_specialOp hs rfl _ : Computes s c (.rsqrt f) (execRsqrt f s))
  case exp f => exact (computes_specialOp hs rfl _ : Computes s c (.exp f) (execExp f s))
  case tanh f => exact (computes_specialOp hs rfl _ : Computes s c (.tanh f) (execTanh f s))
  case sigm f => exact (computes_specialOp hs rfl _ : Computes s c (.sigm f) (execSigm f s))
  case gelu f => exact (computes_specialOp hs rfl _ : Computes s c (.gelu f) (execGelu f s))
  case movk f => exact (computes_ordinaryI hs rfl _ : Computes s c (.movk f) (execMovk f s))
  case movi f => exact (computes_ordinaryI hs rfl _ : Computes s c (.movi f) (execMovi f s))
  case retag f => exact (computes_ordinaryI hs rfl _ : Computes s c (.retag f) (execRetag f s))
  case cnti f => exact (computes_ordinaryI hs rfl _ : Computes s c (.cnti f) (execCnti f s))
  case addi sh f => exact (computes_ordinaryI hs rfl _ : Computes s c (.addi sh f) (execAddi sh f s))
  case bcast f => exact (computes_ordinaryX hs rfl _ : Computes s c (.bcast f) (execBcast f s))
  case nop f => exact computes_withCtx hs (computes_pform (i := .nop f) rfl (.refl _ c.el))
  case sel f => exact computes_sel hs f
  case pset f => exact computes_withCtx hs (computes_pform (i := .pset f) rfl (.refl _ c.el))
  case pput f => exact computes_pput hs f
  case fwd f => exact computes_fwd hs f
  case emitc f => exact computes_emitc hs f
  case sendl f => exact computes_sendl hs f
  case crdset f => exact computes_crdset hs f
  case halt f => exact computes_withCtx hs (computes_pform (i := .halt f) rfl (kept_of_same rfl))
  case trap f => exact computes_trapInstr hs f
  case done f => exact computes_done hs f
  case drain f => exact computes_withCtx hs (computes_pform (i := .drain f) rfl (kept_of_same rfl))
  case join f => exact computes_join hs f
  case joinf f => exact computes_joinf hs f
  case perf f => exact computes_perf hs f
  case ltok f => exact computes_ltok hs f
  case fnarrowF32 f => exact computes_fnarrow hs (i := .fnarrowF32 f) rfl _
  case fnarrowF16 f => exact computes_fnarrow hs (i := .fnarrowF16 f) rfl _
  case fnarrowBF16 f => exact computes_fnarrow hs (i := .fnarrowBF16 f) rfl _
  case xclr f => exact computes_xclr hs f
  case xadd f => exact computes_xadd hs f
  case xsq f => exact computes_xsq hs f
  case xrd f => exact computes_xrd hs f
  case xvar f => exact computes_xvar hs f
  case mldb f => exact computes_mldb hs f
  case mlds f => exact computes_mlds hs f
  case mswap f => exact computes_mswap hs f
  case mzero f => exact computes_mzero hs f
  case mrow q f => exact computes_mrow hs q f
  case mrows q f => exact computes_mrows hs q f
  case mchain f => exact computes_mchain hs f
  case mout f => exact computes_mout hs f
  case moutq f => exact computes_moutq hs f
  case mgrp f => exact computes_mgrp hs f
  case maccr f => exact computes_maccr hs f
  case maccw f => exact computes_maccw hs f
  case msplit f => exact computes_msplit hs f
  case mbias f => exact computes_mbias hs f
  case mstat f => exact computes_mstat hs f
  case swcfg f => exact computes_swcfg hs f
  case swpush f => exact computes_swpush hs f
  case swemit f => exact computes_swemit hs f
  case swflush f => exact computes_swflush hs f
  case isect f => exact computes_isect hs f
  case icnt f => exact computes_icnt hs f
  case cmpr f => exact computes_cmpr hs f
  case wsplit f => exact computes_wsplit hs f
  case wjoin f => exact computes_wjoin hs f
  case xpose f => exact computes_xpose hs f
  case ltab f => exact computes_ltab hs f
  case lwire f => exact computes_lwire hs f
  case leval f => exact computes_leval hs f
  case lemit f => exact computes_lemit hs f
  case lpop f => exact computes_lpop hs f
  case lunx f => exact computes_lunx hs f
  case lctx f => exact computes_lctx hs f
  case lin f => exact computes_lin hs f
  case steer f => exact computes_steer hs f
  case reord f => exact computes_reord hs f
  case rels f => exact computes_rels hs f
  case merge f => exact computes_merge hs f
  case seqno f => exact computes_seqno hs f
  case ld | st | ldw | stw | wmap | wsync | winv | wclose | aadd | amax | amin | axchg | acas | aor | aand | adet
      | aclose | drv | drvx | drvq | agen | agstr | park | unpark | xlat | xinv | fence | cwait | csig | bara | barw |
      bari | put | puts | get | red | redr | lsend | lrecv | lq | lnch | sysc | flth | preq | ckpt | tbkt | walk |
      walkl =>
    exact absurd hopc (Nat.not_lt.mpr (Nat.le_of_ble_eq_true rfl))
  case tokenArrive | pairStep | streamTokenTake | loadEngineToken | furtherTokenPush | incompleteFiringResume |
      streamEnginePush | send | perform | egress | deliver | push | memoryReply | fill | apply | updateReplay |
      joinfRelease | fenceComplete | counterRaise | barrierArrival | scanEnd | declarationAccept | declarationWithdraw
      | putsSignal | switchReduce | destinationUnreachable | drainMarkerPass | owlQuiescence | externalWaitExpiry |
      signalCounterAdvance | launchWindowWrite | timeTriggerStart | launchWaitMet | admission | agePromotion |
      regionArm | resumeFromRetention | gateRegion | regionRelease | preemptionStart | elementSave | freeze |
      freezeScan | scanOut | faultService | flthReply | restore | shootdown | badgerVisit | bucketRefill |
      configRegisterWrite | reset | bootStage | mailboxUpdate | attestationRequest | marginReplan | thermalThreshold |
      supplyFault | hostCxlAccess | controlCoreAccess | invalidationAcknowledge | linkPacketArrival |
      deviceClockDiscipline =>
    exact Bool.noConfusion hev

/-! ### What such a firing leaves alone -/

theorem set_of_getElem? {α : Type} {l : List α} {n : Nat} {x : α} (h : l[n]? = some x) : l.set n x = l := by
  obtain ⟨hn, rfl⟩ := List.getElem?_eq_some_iff.mp h
  exact List.set_getElem_self hn

section
variable {s t : State} {c : Ctx} {i : Instr}

/-- What is left of the cases of `Computed` once the trap is excluded: the state is that of a graph that its pushes lead to. -/
theorem computed_graph (hs : s.ctx? = some c) (h : Computed s c i t)
    (hno : ∀ n code imm, t ≠ State.raiseTrap { s with freeCtr := n } c.r c.e c.slot code imm) :
    ∃ n el g, t = State.setGraph { s with freeCtr := n } c.r g ∧ Kept i c.el el ∧
      Pushed c.e (fun o => i.info.opc ≠ 0xCA → formDst i.form = .out o) (c.g.setElem c.e el) g := by
  obtain ⟨hreg, hg, hel⟩ := ctx?_some hs
  cases h with
  | trap n code imm => exact absurd rfl (hno n code imm)
  | same =>
    refine ⟨s.freeCtr, c.el, c.g, ?_, .refl i c.el, ?_⟩
    · have hset : s.regions.set c.r { c.reg with g := some c.g } = s.regions := by
        rw [← hg]
        exact set_of_getElem? hreg
      simp only [State.setGraph, State.modRegion, hreg, State.setRegion, hset]
    · have hset : c.g.setElem c.e c.el = c.g := by
        rw [GraphSt.setElem, set_of_getElem? hel]
      rw [hset]
      exact .refl _ _ _
  | done n el l hkept hl => exact ⟨n, el, _, rfl, hkept, pushed_pushAll _ l hl⟩

end

/-- Settles O55: a firing of an opcode below 0xD0 changes nothing outside its element but tokens on their way. -/
theorem computingFiringsStayInTheirElement : Obligations.ComputingFiringsStayInTheirElement := by
  intro s t c i hs hev hopc hexec hno
  obtain ⟨hreg, hg, hel⟩ := ctx?_some hs
  obtain ⟨n, el, g, rfl, _, hpush⟩ := computed_graph hs (computes_exec hs hev hopc t hexec) hno
  have hreg' : State.region? { s with freeCtr := n } c.r = some c.reg := hreg
  refine ⟨?_, fun a => by rw [setGraph_mem], fun q hq => setGraph_region?_ne hq, g, setGraph_region?_same hreg', ?_, ?_⟩
  · simp only [State.setGraph, State.modRegion, hreg', State.setRegion]
  · rw [hpush.rest]
    rfl
  · intro e x he hx
    obtain ⟨y, hy, hxy⟩ := hpush.elems e x (by rw [setElem_ne he, hx])
    refine ⟨y, hy, ?_, fun k => ⟨hxy.ins k, fun hsteer hfeeds => hxy.unreached k ?_⟩⟩
    · have hperf := hxy.perf he
      rw [hxy.rest, hperf]
    · rintro ⟨o, ho, d, hd, z, hz, hze, hzk⟩
      exact hfeeds o (ho hsteer) d hd z hz ⟨hze, hzk⟩

/-- Settles O56: a firing of an opcode below 0xD0 keeps what it does not name in its own element. -/
theorem computingFiringsKeepRegisters : Obligations.ComputingFiringsKeepRegisters := by
  intro s t c d i hs hev hopc hexec hno hd
  obtain ⟨hreg, hg, hel⟩ := ctx?_some hs
  obtain ⟨n, el, g, rfl, hkept, hpush⟩ := computed_graph hs (computes_exec hs hev hopc t hexec) hno
  obtain ⟨x, hx, hxel⟩ := hpush.elems c.e el (setElem_same hel)
  have hdx : d.el = x := by
    have hreg' : State.region? { s with freeCtr := n } c.r = some c.reg := hreg
    rw [State.at?, setGraph_region?_same hreg'] at hd
    simp only [hx] at hd
    rw [← Option.some.inj hd]
  have hall : Kept i c.el d.el := by
    rw [hdx]
    refine hkept.trans (kept_of_same ?_)
    rw [hxel.rest]
    rfl
  exact ⟨hall.reg, hall.pred, hall.img, hall.limit, hall.ends, hall.joins, hall.kind, hall.outs, hall.dues, hall.issueQ,
    hall.seq, hall.issuer, hall.saved⟩

end Sys2Proof.Proofs.Computing
end

section
/-! What a firing leaves of the machine outside its region and its memory system, and that it keeps device memory
canonical and the region slots of the dies: one lemma per operation on the state that a firing uses. -/

namespace Sys2Proof.Proofs.Firings

open Sys2Proof Sys2Proof.Machine Sys2Proof.Proofs.Computing

/-! ### What is kept -/

/-- The parts of the machine that no firing changes, with the number of region slots. -/
def platformOf (s : State) :=
  (s.plat, s.clock, s.cycle, s.agenda, s.choiceCtr, s.link.sentUp, s.link.sentDown, s.link.inbound, s.sched.table,
    s.sched.nextLaunch, s.mem.counters, s.regions.length)

/-- From one state to the next those parts stay, and canonical memory stays canonical. -/
structure Keeps (s t : State) : Prop where
  platform : platformOf t = platformOf s
  wf : Memory.wf s.mem.bytes = true → Memory.wf t.mem.bytes = true

theorem Keeps.refl (s : State) : Keeps s s := ⟨rfl, id⟩

theorem Keeps.trans {s t u : State} (h : Keeps s t) (k : Keeps t u) : Keeps s u :=
  ⟨k.platform.trans h.platform, fun hs => k.wf (h.wf hs)⟩

theorem Keeps.inv {s t : State} (h : Keeps s t) (hs : s.Inv) : t.Inv := by
  refine ⟨h.wf hs.1, ?_⟩
  have hp := h.platform
  simp only [platformOf, Prod.mk.injEq] at hp
  rw [hp.2.2.2.2.2.2.2.2.2.2.2, hs.2]

/-- An update that writes neither those parts nor the bytes of memory. -/
theorem keeps_of {s t : State} (hp : platformOf t = platformOf s) (hb : t.mem.bytes = s.mem.bytes) : Keeps s t :=
  ⟨hp, fun h => hb ▸ h⟩

/-- A step of a fold at a time. -/
theorem keeps_foldl {α : Type} {f : State → α → State} (h : ∀ s x, Keeps s (f s x)) (l : List α) (s : State) :
    Keeps s (l.foldl f s) := by
  induction l generalizing s with
  | nil => exact .refl s
  | cons x l ih => exact (h s x).trans (ih _)

theorem keeps_ite {p : Prop} [Decidable p] {s a b : State} (ha : Keeps s a) (hb : Keeps s b) :
    Keeps s (if p then a else b) := by
  split
  · exact ha
  · exact hb

/-! ### Regions -/

theorem keeps_setRegion (s : State) (r : Nat) (g : Region) : Keeps s (s.setRegion r g) :=
  keeps_of (by simp [platformOf]) rfl

theorem keeps_modRegion (s : State) (r : Nat) (f : Region → Region) : Keeps s (s.modRegion r f) :=
  keeps_of (by simp [platformOf]) (by simp)

theorem keeps_setGraph (s : State) (r : Nat) (g : GraphSt) : Keeps s (s.setGraph r g) := keeps_modRegion s r _

theorem keeps_put (c : Ctx) (s : State) (el : Elem) : Keeps s (c.put s el) := keeps_setGraph s _ _

theorem keeps_releaseRegion (s : State) (r : Nat) : Keeps s (s.releaseRegion r) := by
  unfold State.releaseRegion
  split
  · exact .refl s
  · exact keeps_of (by simp [platformOf, State.freeRegion]) rfl

/-! ### Writes of home copies -/

theorem keeps_homeWrite (s : State) (pa : Nat) (bs : List Byte) : Keeps s (s.homeWrite pa bs) := ⟨rfl, homeWrite_wf⟩

theorem keeps_backWrite (s : State) (pa : Nat) (bs : List Byte) : Keeps s (s.backWrite pa bs) :=
  keeps_ite (.refl s) (keeps_homeWrite s pa bs)

theorem keeps_joinReqs (s : State) (agent pa n mt : Nat) (q : PortReq) : Keeps s (s.joinReqs agent pa n mt q) :=
  keeps_of rfl rfl

theorem keeps_ownAmend (s : State) (a : Nat) (k b : Byte) : Keeps s (s.ownAmend a k b) :=
  keeps_ite (.refl s) (keeps_ite (keeps_joinReqs s _ _ _ _ _) (keeps_backWrite s _ _))

theorem keeps_ownWrite (s : State) (pa : Nat) (bs : List Byte) : Keeps s (s.ownWrite pa bs) :=
  keeps_foldl (fun s _ => keeps_ite (keeps_joinReqs s _ _ _ _ _) (keeps_backWrite s _ _)) _ s

theorem keeps_setAccessed (s : State) (a va : Nat) (x : BitVec 64) : Keeps s (s.setAccessed a va x) :=
  (keeps_ownAmend s _ _ _).trans (keeps_of rfl rfl)

/-! ### The end of a launch and traps -/

theorem keeps_writeStatus (s : State) (l : Launch) (b : Nat) (d : List Byte) (e : List (List Byte)) :
    Keeps s (s.writeStatus l b d e) := by
  unfold State.writeStatus
  split
  · exact .refl s
  · exact keeps_ite (.refl s) (((keeps_ownWrite s _ _).trans (keeps_ownWrite _ _ _)).trans (keeps_of rfl rfl))

theorem keeps_endLaunch (s : State) (l e b : Nat) (d : List Byte) (es : List (List Byte)) :
    Keeps s (s.endLaunch l e b d es) := by
  unfold State.endLaunch
  split
  · exact .refl s
  · refine keeps_ite (.refl s) ?_
    dsimp only
    split
    · exact ((keeps_writeStatus s _ _ _ _).trans (keeps_releaseRegion _ _)).trans (keeps_of rfl rfl)
    · exact (keeps_writeStatus s _ _ _ _).trans (keeps_of rfl rfl)

theorem keeps_trapLaunch (s : State) (l e k c i : Nat) : Keeps s (s.trapLaunch l e k c i) := keeps_endLaunch s _ _ _ _ _

theorem keeps_raiseTrap (s : State) (r e k c i : Nat) : Keeps s (s.raiseTrap r e k c i) := by
  unfold State.raiseTrap
  split
  · exact .refl s
  · split
    · exact keeps_trapLaunch s _ _ _ _ _
    · exact keeps_releaseRegion s r

/-! ### Windows and recalls -/

theorem keeps_reqs (s : State) (l : List Access) : Keeps s { s with mem := { s.mem with reqs := l } } := keeps_of rfl rfl

theorem keeps_dir (s : State) (line : Nat) (d : DirEnt) : Keeps s { s with mem := s.mem.setDir line d } := keeps_of rfl rfl

theorem keeps_setGraphOf (s : State) (l : Nat) (at_ : Option Nat) (g : GraphSt) : Keeps s (s.setGraphOf l at_ g) := by
  unfold State.setGraphOf
  split
  · exact keeps_setGraph s _ _
  · exact keeps_of rfl rfl

theorem keeps_recallOne (s : State) (line : Nat) (m : WinMask) : Keeps s (s.recallOne line m) := by
  unfold State.recallOne
  dsimp only
  split
  · split
    · exact keeps_of rfl rfl
    · split
      · refine Keeps.trans ?_ (keeps_foldl (fun t x => ?_) _ _)
        · exact ((keeps_dir s _ _).trans (keeps_setGraphOf _ _ _ _)).trans (keeps_reqs _ _)
        split
        · exact .refl t
        · exact keeps_homeWrite t _ _
      · exact keeps_of rfl rfl
  · exact keeps_of rfl rfl

theorem keeps_recallWindows (s : State) (line : Nat) (but : Option (Nat × Nat × Nat)) : Keeps s (s.recallWindows line but) :=
  (keeps_foldl (fun s m => keeps_recallOne s line m) _ s).trans (keeps_foldl (fun s _ => keeps_trapLaunch s _ _ _ _ _) _ _)

theorem keeps_countRace (s : State) (line : Nat) (l : Option Nat) : Keeps s (s.countRace line l) := by
  cases l <;> exact keeps_of rfl rfl

theorem keeps_overlapRecall (s : State) (mt pa n : Nat) (but : Option (Nat × Nat × Nat)) (l : Option Nat) :
    Keeps s (s.overlapRecall mt pa n but l) :=
  keeps_ite (.refl s) (keeps_ite ((keeps_recallWindows s _ _).trans (keeps_countRace _ _ _)) (.refl s))

theorem keeps_claim (s : State) (mt pa n launch e w : Nat) (mask : BitVec 16) : Keeps s (s.claim mt pa n launch e w mask) :=
  (keeps_overlapRecall s _ _ _ _ _).trans (keeps_of rfl rfl)

theorem keeps_storeMasks (s : State) (c : Ctx) (id fid : Nat) (win : Window) (w : Fin 8) (off n : Nat) :
    Keeps s (s.storeMasks c id fid win w off n) := by
  unfold State.storeMasks
  split
  · exact .refl s
  · refine keeps_ite (.refl s) (keeps_ite (keeps_claim s _ _ _ _ _ _ _) ?_)
    dsimp only
    split <;> exact keeps_of rfl rfl

/-! ### Outcomes of the shared operations -/

/-- What an outcome that is a next state keeps. -/
def Keeping (s : State) (o : Res) : Prop := ∀ t, o = .next t → Keeps s t

section
variable {s u : State} {c : Ctx}

theorem keeping_next (h : Keeps s u) : Keeping s (.next u) := fun _ ht => Host.Outcome.next.inj ht ▸ h

theorem keeping_refused {x : Refusal} : Keeping s (.refused x) := fun _ h => nomatch h

theorem keeping_ite {p : Prop} [Decidable p] {a b : Res} (ha : Keeping s a) (hb : Keeping s b) :
    Keeping s (if p then a else b) := by
  split
  · exact ha
  · exact hb

theorem keeping_withCtx {f : Ctx → Res} (h : ∀ c, Keeping s (f c)) : Keeping s (withCtx s f) := by
  unfold withCtx
  split
  · exact h _
  · exact fun _ ht => nomatch ht

theorem keeping_withS {f : SSt → Res} (h : ∀ x, Keeping s (f x)) : Keeping s (c.withS f) := by
  unfold Ctx.withS
  split
  · exact h _
  · exact keeping_refused

theorem keeping_withE {f : ESt → Res} (h : ∀ x, Keeping s (f x)) : Keeping s (c.withE f) := by
  unfold Ctx.withE
  split
  · exact h _
  · exact keeping_refused

theorem keeping_trap (h : Keeps s u) {code : Nat} : Keeping s (c.trap u code) := keeping_next (h.trans (keeps_raiseTrap _ _ _ _ _ _))

theorem keeping_finish (h : Keeps s u) {el : Elem} {l : List (Fin 4 × Token)} {pop rd : BitVec 4} :
    Keeping s (c.finish u el l pop rd) :=
  keeping_ite (keeping_next (h.trans (keeps_setGraph _ _ _))) (keeping_trap h)

theorem keeping_memFinish (h : Keeps s u) {el : Elem} {l : List (Fin 4 × Token)} {pop rd : BitVec 4} :
    Keeping s (c.memFinish u el l pop rd) := keeping_finish h

theorem keeping_memFinishFrom (h : Keeps s u) {el : Elem} {l : List (Fin 4 × Token)} {pop rd : BitVec 4} :
    Keeping s (c.memFinishFrom s u el l pop rd) := keeping_ite (keeping_memFinish h) (keeping_trap (.refl s))

theorem keeping_hold {el : Elem} {f : Firing} : Keeping s (c.hold s el f) := keeping_next (keeps_put c s _)

theorem keeping_issue (h : Keeps s u) {l : List Src} {el : Elem} {pop pw : BitVec 4} {o : List OutF} {a : List Access} :
    Keeping s (c.issue u l el pop pw o a) :=
  keeping_next ((h.trans (keeps_put c u _)).trans (keeps_of rfl rfl))

theorem keeping_issueReady {opc : Nat} {l : List Src} {d : Dst} {pop pw : BitVec 4} {t : Token} :
    Keeping s (c.issueReady s opc l d pop pw t) := keeping_issue (.refl s)

theorem keeping_pushList {el : Elem} {f : Firing} {l : List (Fin 4 × Token)} {pop rd : BitVec 4} :
    Keeping s (c.pushList s el f l pop rd) := by
  rw [Ctx.pushList.eq_def]
  split
  · exact keeping_finish (.refl s)
  · exact keeping_finish (.refl s)
  · exact keeping_ite (keeping_next (keeps_setGraph s _ _)) (keeping_trap (.refl s))

end

end Sys2Proof.Proofs.Firings
end

section
/-! What the firings of the opcodes 0xD0 to 0xFF keep: one lemma per instruction. -/

namespace Sys2Proof.Proofs.Firings

open Sys2Proof Sys2Proof.Machine Sys2Proof.Proofs.Computing

variable (s : State)

/-! ### Loads, stores, atomics and groups -/

theorem keeping_ld (f : XForm) : Keeping s (execLd f s) := by
  refine keeping_withCtx fun c => ?_
  split
  · exact keeping_refused
  · refine keeping_ite (keeping_trap (.refl s)) ?_
    split
    · exact keeping_trap (.refl s)
    · exact keeping_ite (keeping_trap (.refl s)) (keeping_issue (.refl s))

theorem keeping_st (f : XForm) : Keeping s (execSt f s) := by
  refine keeping_withCtx fun c => keeping_ite (keeping_trap (.refl s)) ?_
  split
  · exact keeping_trap (.refl s)
  · exact keeping_issue (.refl s)

theorem keeping_atomic (c : Ctx) (f : XForm) (opc n : Nat) (k : Bool) : Keeping s (c.atomic s f opc n k) := by
  refine keeping_ite (keeping_trap (.refl s)) ?_
  dsimp only
  split
  · refine keeping_ite (keeping_trap (.refl s)) ?_
    split
    · exact keeping_trap (.refl s)
    · exact keeping_issue (.refl s)
  · split
    · exact keeping_trap (.refl s)
    · exact keeping_ite (keeping_trap (.refl s)) (keeping_issue (.refl s))

omit s in
theorem openGroup_counters {s : State} {ctx : Nat} {a : Payload} {m : MemSt} {q : Issuer}
    (h : s.openGroup ctx a = some (m, q)) : m.counters = s.mem.counters ∧ m.bytes = s.mem.bytes := by
  unfold State.openGroup at h
  dsimp only at h
  split at h
  · cases h
  · split at h
    · cases h
      exact ⟨rfl, rfl⟩
    · split at h
      · cases h
      · cases h
        exact ⟨rfl, rfl⟩

theorem keeping_adet (f : RForm) : Keeping s (execAdet f s) := by
  refine keeping_withCtx fun c => keeping_ite (keeping_trap (.refl s)) (keeping_ite (keeping_trap (.refl s)) ?_)
  split
  · exact keeping_trap (.refl s)
  · rename_i m q h
    obtain ⟨hc, hb⟩ := openGroup_counters h
    exact keeping_memFinish (keeps_of (by simp only [platformOf, hc]) hb)

theorem keeping_aclose (f : XForm) : Keeping s (execAclose f s) := by
  refine keeping_withCtx fun c => ?_
  split
  · exact keeping_trap (.refl s)
  · exact keeping_issue (.refl s)

/-! ### Windows -/

theorem keeping_ldw (f : XForm) : Keeping s (execLdw f s) := by
  refine keeping_withCtx fun c => keeping_withS fun x => ?_
  split
  · exact keeping_refused
  · refine keeping_ite (keeping_trap (.refl s)) ?_
    dsimp only
    split
    · exact keeping_trap (.refl s)
    · exact keeping_ite (keeping_trap (.refl s)) (keeping_ite (keeping_issue (.refl s))
        (keeping_ite (keeping_issue (.refl s)) (keeping_issue (by exact keeps_of rfl rfl))))

theorem keeping_stw (f : XForm) : Keeping s (execStw f s) := by
  refine keeping_withCtx fun c => keeping_withS fun x => keeping_ite (keeping_trap (.refl s)) ?_
  dsimp only
  split
  · exact keeping_trap (.refl s)
  · refine keeping_ite (keeping_issue (.refl s)) (keeping_ite (keeping_issue (.refl s)) ?_)
    generalize ht : State.storeMasks _ _ _ _ _ _ _ _ = t
    have hk : Keeps s t := by
      rw [← ht]
      exact Keeps.trans (keeps_put c _ _ |> (Keeps.trans (by exact keeps_of rfl rfl) ·)) (keeps_storeMasks _ _ _ _ _ _ _ _)
    split
    · exact keeping_issue hk
    · exact keeping_next hk

theorem keeping_wmap (f : XForm) : Keeping s (execWmap f s) := by
  refine keeping_withCtx fun c => keeping_withS fun x => ?_
  split
  · exact keeping_refused
  · refine keeping_ite (keeping_trap (.refl s)) (keeping_ite keeping_hold ?_)
    split
    · exact keeping_trap (.refl s)
    · exact keeping_hold

theorem keeping_wsync (f : XForm) : Keeping s (execWsync f s) :=
  keeping_withCtx fun _ => keeping_withS fun _ => keeping_ite (keeping_trap (.refl s)) (keeping_issue (.refl s))

theorem keeping_winv (f : XForm) : Keeping s (execWinv f s) :=
  keeping_withCtx fun _ => keeping_withS fun _ => keeping_ite (keeping_trap (.refl s)) (keeping_issue (by exact keeps_of rfl rfl))

theorem keeping_wclose (f : XForm) : Keeping s (execWclose f s) :=
  keeping_withCtx fun _ => keeping_withS fun _ => keeping_ite (keeping_trap (.refl s)) (keeping_issue (.refl s))

/-! ### Derived tensors, address streams, parking and translation -/

theorem keeping_drv (f : RForm) : Keeping s (execDrv f s) :=
  keeping_withCtx fun _ => keeping_ite (keeping_trap (.refl s)) keeping_hold

theorem keeping_drvx (f : RForm) : Keeping s (execDrvx f s) :=
  keeping_withCtx fun _ => keeping_ite (keeping_trap (.refl s))
    (keeping_memFinishFrom (keeps_ite (by exact keeps_of rfl rfl) (.refl s)))

theorem keeping_drvq (f : RForm) : Keeping s (execDrvq f s) :=
  keeping_withCtx fun _ => keeping_ite (keeping_trap (.refl s)) (keeping_memFinish (.refl s))

theorem keeping_agen (f : RForm) : Keeping s (execAgen f s) :=
  keeping_withCtx fun _ => keeping_withE fun _ => keeping_ite (keeping_trap (.refl s))
    (keeping_ite (keeping_trap (.refl s)) (keeping_memFinish (.refl s)))

theorem keeping_agstr (f : XForm) : Keeping s (execAgstr f s) := by
  refine keeping_withCtx fun c => keeping_withE fun x => ?_
  split
  · exact keeping_refused
  · exact keeping_ite keeping_hold (keeping_ite (keeping_trap (.refl s)) (keeping_memFinish (by exact keeps_of rfl rfl)))

theorem keeping_park (f : XForm) : Keeping s (execPark f s) := by
  refine keeping_withCtx fun c => ?_
  dsimp only
  split
  · exact keeping_trap (.refl s)
  · exact keeping_memFinish (.refl s)

theorem keeping_unpark (f : XForm) : Keeping s (execUnpark f s) := by
  refine keeping_withCtx fun c => ?_
  split
  · exact keeping_next (.refl s)
  · exact keeping_memFinish (.refl s)

theorem keeping_xlat (f : RForm) : Keeping s (execXlat f s) := by
  refine keeping_withCtx fun c => keeping_withE fun x => ?_
  cases outOf? f.dst with
  | none => exact keeping_refused
  | some o =>
    cases c.sideOf [f.sa] with
    | mk last coord =>
      cases c.xlatTrap? f with
      | some k => exact keeping_trap (.refl s)
      | none =>
        refine keeping_ite (keeping_issue ?_) (keeping_trap (.refl s))
        split
        · exact keeps_setAccessed s _ _ _
        · exact .refl s

theorem keeping_xinv (f : RForm) : Keeping s (execXinv f s) :=
  keeping_withCtx fun _ => keeping_withE fun _ => keeping_ite (keeping_trap (.refl s)) (keeping_issue (.refl s))

/-! ### Synchronisation -/

theorem keeping_fence (f : IForm) : Keeping s (execFence f s) :=
  keeping_withCtx fun _ => keeping_ite keeping_hold (keeping_memFinish (.refl s))

theorem keeping_cwait (f : RForm) : Keeping s (execCwait f s) :=
  keeping_withCtx fun _ => keeping_ite (keeping_trap (.refl s)) (keeping_ite (keeping_trap (.refl s))
    (keeping_ite (keeping_next (.refl s)) keeping_issueReady))

theorem keeping_csig (f : RForm) : Keeping s (execCsig f s) :=
  keeping_withCtx fun _ => keeping_ite (keeping_trap (.refl s)) (keeping_ite (keeping_trap (.refl s)) (keeping_issue (.refl s)))

theorem keeping_bara (f : RForm) : Keeping s (execBara f s) :=
  keeping_withCtx fun _ => keeping_ite (keeping_trap (.refl s)) (keeping_ite (keeping_trap (.refl s)) (keeping_issue (.refl s)))

theorem keeping_barw (f : RForm) : Keeping s (execBarw f s) :=
  keeping_withCtx fun _ => keeping_ite (keeping_trap (.refl s)) (keeping_ite (keeping_trap (.refl s))
    (keeping_ite (keeping_next (.refl s)) keeping_issueReady))

theorem keeping_bari (f : RForm) : Keeping s (execBari f s) :=
  keeping_withCtx fun _ => keeping_ite (keeping_trap (.refl s)) (keeping_ite (keeping_trap (.refl s))
    (keeping_memFinish (by exact keeps_of rfl rfl)))

/-! ### Link operations -/

theorem keeping_startSend (c : Ctx) (f : XForm) (i : Instr) (opc : Nat) : Keeping s (c.startSend s f i opc) := by
  refine keeping_withE fun x => ?_
  split
  · exact keeping_refused
  · exact keeping_ite keeping_hold (keeping_issue (.refl s))

theorem keeping_sendOp (c : Ctx) (f : XForm) (i : Instr) (opc : Nat) : Keeping s (c.sendOp s f i opc) :=
  keeping_ite (keeping_trap (.refl s)) (keeping_ite (keeping_trap (.refl s)) (keeping_startSend s _ _ _ _))

theorem keeping_get (f : XForm) : Keeping s (execGet f s) :=
  keeping_withCtx fun _ => keeping_ite (keeping_trap (.refl s)) (keeping_ite (keeping_trap (.refl s))
    (keeping_ite (keeping_trap (.refl s)) (keeping_issue (.refl s))))

theorem keeping_red (f : XForm) : Keeping s (execRed f s) := by
  refine keeping_withCtx fun c => keeping_ite (keeping_trap (.refl s)) (keeping_ite (keeping_trap (.refl s)) ?_)
  split
  · exact keeping_startSend s _ _ _ _
  · exact keeping_ite (keeping_trap (.refl s)) (keeping_ite (keeping_next (.refl s)) (keeping_startSend s _ _ _ _))

theorem keeping_redr (f : XForm) : Keeping s (execRedr f s) := by
  refine keeping_withCtx fun c => keeping_withE fun x => keeping_ite (keeping_trap (.refl s))
    (keeping_ite (keeping_trap (.refl s)) ?_)
  have hfail (n : Nat) : Keeps s (c.put (s.meetVoid n c.reg.launch c.e) (c.el.setE x.fail)) :=
    (keeps_of rfl rfl : Keeps s (s.meetVoid n c.reg.launch c.e)).trans (keeps_put c _ _)
  split
  · exact keeping_trap (hfail _)
  · refine keeping_ite (keeping_trap (hfail _)) (keeping_ite (keeping_trap (.refl s)) ?_)
    split
    · split
      · exact keeping_trap (.refl s)
      · exact keeping_ite (keeping_trap (.refl s)) (keeping_issue (by exact keeps_of rfl rfl))
    · exact keeping_next (.refl s)

theorem keeping_lrecv (f : XForm) : Keeping s (execLrecv f s) := by
  refine keeping_withCtx fun c => keeping_withE fun x => keeping_ite (keeping_trap (.refl s))
    (keeping_ite (keeping_trap (.refl s)) ?_)
  dsimp only
  split
  · exact keeping_pushList
  · exact keeping_next (.refl s)
  · exact keeping_refused

theorem keeping_lq (f : RForm) : Keeping s (execLq f s) :=
  keeping_withCtx fun _ => keeping_withE fun _ => keeping_memFinish (.refl s)

/-! ### System -/

theorem keeping_lnch (f : RForm) : Keeping s (execLnch f s) :=
  keeping_withCtx fun _ => keeping_ite (keeping_trap (.refl s)) (keeping_issue (.refl s))

theorem keeping_sysc (f : IForm) : Keeping s (execSysc f s) :=
  keeping_withCtx fun _ => keeping_ite (keeping_trap (.refl s)) (keeping_ite (keeping_trap (.refl s)) (keeping_issue (.refl s)))

theorem keeping_flth (f : RForm) : Keeping s (execFlth f s) := by
  refine keeping_withCtx fun c => ?_
  split
  · exact keeping_ite (keeping_next (.refl s)) keeping_refused
  · exact keeping_ite (keeping_trap (.refl s)) (keeping_ite (keeping_trap (.refl s)) (keeping_ite (keeping_trap (.refl s))
      (keeping_ite (keeping_issue (.refl s)) keeping_issueReady)))

theorem keeping_preReq (c : Ctx) (f : PForm) (k : Bool) : Keeping s (c.preReq s f k) := by
  have h : Keeping s (c.memFinish s (c.el.withSetClr f.set f.clr) [] f.pop 0) := keeping_memFinish (.refl s)
  unfold Ctx.preReq
  split
  · rename_i t ht
    exact keeping_next ((h t ht).trans (keeps_modRegion t _ _))
  · exact h

theorem keeping_tbkt (f : RForm) : Keeping s (execTbkt f s) := keeping_withCtx fun _ => keeping_memFinish (.refl s)

theorem keeping_walk (f : RForm) : Keeping s (execWalk f s) :=
  keeping_withCtx fun _ => keeping_ite (keeping_trap (.refl s)) (keeping_ite (keeping_trap (.refl s)) (keeping_issue (.refl s)))

theorem keeps_releaseXlat (t : State) (tag : Nat) (res : OutF → Except Nat Payload) (e : Nat → Option TlbEnt) :
    Keeps t (t.releaseXlat tag res e) := keeps_of (by simp [platformOf, State.releaseXlat]) rfl

theorem keeping_walkl (f : RForm) : Keeping s (execWalkl f s) := by
  refine keeping_withCtx fun c => keeping_ite (keeping_trap (.refl s)) (keeping_ite (keeping_trap (.refl s)) ?_)
  have h : Keeping s (c.memFinish s (c.el.withPw f.pw false) [] f.pop (readMask [f.sa])) := keeping_memFinish (.refl s)
  split
  · rename_i t ht
    refine keeping_ite (keeping_next ((h t ht).trans (keeps_releaseXlat t _ _ _))) (keeping_next ?_)
    exact ((h t ht).trans (keeps_releaseXlat t _ _ _)).trans (keeps_setAccessed _ _ _ _)
  · exact h

/-! ### Every firing -/

omit s in
/-- Every instruction that is no event runs on the firing under way. -/
theorem exec_eq_withCtx {s : State} {i : Instr} (hev : i.isEvent = false) : ∃ f, exec i s = withCtx s f := by
  cases i
  case perf f =>
    by_cases hf : f.cnt = 2
    · exact ⟨_, if_pos hf⟩
    · exact ⟨_, if_neg hf⟩
  all_goals cases hev <;> exact ⟨_, rfl⟩

omit s in
theorem keeps_computed {s t : State} {c : Ctx} {i : Instr} (h : Computed s c i t) : Keeps s t := by
  cases h with
  | trap n code imm => exact (by exact keeps_of rfl rfl : Keeps s { s with freeCtr := n }).trans (keeps_raiseTrap _ _ _ _ _ _)
  | same => exact .refl s
  | done n el l => exact (by exact keeps_of rfl rfl : Keeps s { s with freeCtr := n }).trans (keeps_setGraph _ _ _)

omit s in
/-- A firing of an opcode from 0xD0 on keeps the platform and canonical memory. -/
theorem keeping_memory {s : State} {i : Instr} (hev : i.isEvent = false) (hopc : ¬ i.info.opc < 0xD0) :
    Keeping s (exec i s) := by
  cases i
  case ld f => exact keeping_ld s f
  case st f => exact keeping_st s f
  case ldw f => exact keeping_ldw s f
  case stw f => exact keeping_stw s f
  case wmap f => exact keeping_wmap s f
  case wsync f => exact keeping_wsync s f
  case winv f => exact keeping_winv s f
  case wclose f => exact keeping_wclose s f
  case aadd f => exact keeping_withCtx fun c => keeping_atomic s c f _ _ _
  case amax f => exact keeping_withCtx fun c => keeping_atomic s c f _ _ _
  case amin f => exact keeping_withCtx fun c => keeping_atomic s c f _ _ _
  case axchg f => exact keeping_withCtx fun c => keeping_atomic s c f _ _ _
  case acas f => exact keeping_withCtx fun c => keeping_atomic s c f _ _ _
  case aor f => exact keeping_withCtx fun c => keeping_atomic s c f _ _ _
  case aand f => exact keeping_withCtx fun c => keeping_atomic s c f _ _ _
  case adet f => exact keeping_adet s f
  case aclose f => exact keeping_aclose s f
  case drv f => exact keeping_drv s f
  case drvx f => exact keeping_drvx s f
  case drvq f => exact keeping_drvq s f
  case agen f => exact keeping_agen s f
  case agstr f => exact keeping_agstr s f
  case park f => exact keeping_park s f
  case unpark f => exact keeping_unpark s f
  case xlat f => exact keeping_xlat s f
  case xinv f => exact keeping_xinv s f
  case fence f => exact keeping_fence s f
  case cwait f => exact keeping_cwait s f
  case csig f => exact keeping_csig s f
  case bara f => exact keeping_bara s f
  case barw f => exact keeping_barw s f
  case bari f => exact keeping_bari s f
  case put f => exact keeping_withCtx fun c => keeping_sendOp s c f _ _
  case puts f => exact keeping_withCtx fun c => keeping_sendOp s c f _ _
  case get f => exact keeping_get s f
  case red f => exact keeping_red s f
  case redr f => exact keeping_redr s f
  case lsend f => exact keeping_withCtx fun c => keeping_sendOp s c f _ _
  case lrecv f => exact keeping_lrecv s f
  case lq f => exact keeping_lq s f
  case lnch f => exact keeping_lnch s f
  case sysc f => exact keeping_sysc s f
  case flth f => exact keeping_flth s f
  case preq f => exact keeping_withCtx fun c => keeping_preReq s c f _
  case ckpt f => exact keeping_withCtx fun c => keeping_preReq s c f _
  case tbkt f => exact keeping_tbkt s f
  case walk f => exact keeping_walk s f
  case walkl f => exact keeping_walkl s f
  case add sh _ | sub sh _ | mul sh _ | mulh sh _ | and sh _ | or sh _ | xor sh _ | shl sh _ | shr sh _ |
      sra sh _ | min sh _ | max sh _ | ceq sh _ | clt sh _ | cltu sh _ | addi sh _ | mrow sh _ | mrows sh _ =>
    cases sh <;> exact absurd (Nat.le_of_ble_eq_true rfl) hopc
  case tokenArrive | pairStep | streamTokenTake | loadEngineToken | furtherTokenPush | incompleteFiringResume |
      streamEnginePush | send | perform | egress | deliver | push | memoryReply | fill | apply | updateReplay |
      joinfRelease | fenceComplete | counterRaise | barrierArrival | scanEnd | declarationAccept | declarationWithdraw
      | putsSignal | switchReduce | destinationUnreachable | drainMarkerPass | owlQuiescence | externalWaitExpiry |
      signalCounterAdvance | launchWindowWrite | timeTriggerStart | launchWaitMet | admission | agePromotion |
      regionArm | resumeFromRetention | gateRegion | regionRelease | preemptionStart | elementSave | freeze |
      freezeScan | scanOut | faultService | flthReply | restore | shootdown | badgerVisit | bucketRefill |
      configRegisterWrite | reset | bootStage | mailboxUpdate | attestationRequest | marginReplan | thermalThreshold |
      supplyFault | hostCxlAccess | controlCoreAccess | invalidationAcknowledge | linkPacketArrival |
      deviceClockDiscipline =>
    exact Bool.noConfusion hev
  all_goals exact absurd (Nat.le_of_ble_eq_true rfl) hopc

/-- What every firing keeps. -/
theorem keeping_exec {s : State} {i : Instr} (hev : i.isEvent = false) : Keeping s (exec i s) := by
  by_cases hopc : i.info.opc < 0xD0
  · intro t ht
    obtain ⟨f, hf⟩ := exec_eq_withCtx (s := s) hev
    cases hs : s.ctx? with
    | some c => exact keeps_computed (computes_exec hs hev hopc t ht)
    | none =>
      rw [hf, withCtx, hs] at ht
      cases ht
  · exact keeping_memory hev hopc

/-- Settles O58: a firing changes regions, memory, launches, declarations and what its element owes the links, no more. -/
theorem firingsKeepThePlatform : Obligations.FiringsKeepThePlatform := by
  intro s t i hev hexec
  have h := (keeping_exec hev t hexec).platform
  simp only [platformOf, Prod.mk.injEq] at h
  obtain ⟨hplat, hclock, hcycle, hagenda, hchoice, hup, hdown, hin, htable, hnext, hctr, -⟩ := h
  exact ⟨hplat, hclock, hcycle, hagenda, hchoice, hup, hdown, hin, htable, hnext, hctr⟩

end Sys2Proof.Proofs.Firings
end

section
/-! The invariant through the operations on the state: canonical memory and the region slots of the dies. Each operation has
its lemma, tagged for `simp`, which carries the invariant through a chain of them. -/

namespace Sys2Proof.Proofs.Invariant

open Sys2Proof Sys2Proof.Machine Sys2Proof.Proofs.Firings

/-! ### Records -/

/-- The invariant of a state written out field by field. -/
@[simp] theorem inv_mk {focus : Focus} {agenda : List Choice} {choiceCtr freeCtr cycle : Nat} {clock : BitVec 64} {nextId : Nat}
    {regions : List Region} {mem : MemSt} {drv : List Decl} {sched : SchedSt} {link : LinkSt} {plat : PlatSt} {volt : VoltSt} :
    State.Inv ⟨focus, agenda, choiceCtr, freeCtr, cycle, clock, nextId, regions, mem, drv, sched, link, plat, volt⟩ ↔
      Memory.wf mem.bytes = true ∧ regions.length = regionSlots := Iff.rfl

section
variable {s : State} (h : s.Inv)
include h

@[simp] theorem inv_wf : Memory.wf s.mem.bytes = true := h.1
@[simp] theorem inv_length : s.regions.length = regionSlots := h.2

/-! ### Operations that firings share -/

@[simp] theorem inv_setRegion {r : Nat} {g : Region} : (s.setRegion r g).Inv := (keeps_setRegion s r g).inv h
@[simp] theorem inv_modRegion {r : Nat} {f : Region → Region} : (s.modRegion r f).Inv := (keeps_modRegion s r f).inv h
@[simp] theorem inv_setGraph {r : Nat} {g : GraphSt} : (s.setGraph r g).Inv := (keeps_setGraph s r g).inv h
@[simp] theorem inv_put {c : Ctx} {el : Elem} : (c.put s el).Inv := (keeps_put c s el).inv h
@[simp] theorem inv_releaseRegion {r : Nat} : (s.releaseRegion r).Inv := (keeps_releaseRegion s r).inv h
@[simp] theorem inv_homeWrite {pa : Nat} {bs : List Byte} : (s.homeWrite pa bs).Inv := (keeps_homeWrite s pa bs).inv h
@[simp] theorem inv_backWrite {pa : Nat} {bs : List Byte} : (s.backWrite pa bs).Inv := (keeps_backWrite s pa bs).inv h
@[simp] theorem inv_joinReqs {g pa n mt : Nat} {q : PortReq} : (s.joinReqs g pa n mt q).Inv := (keeps_joinReqs s g pa n mt q).inv h
@[simp] theorem inv_ownAmend {a : Nat} {k b : Byte} : (s.ownAmend a k b).Inv := (keeps_ownAmend s a k b).inv h
@[simp] theorem inv_ownWrite {pa : Nat} {bs : List Byte} : (s.ownWrite pa bs).Inv := (keeps_ownWrite s pa bs).inv h
@[simp] theorem inv_setAccessed {a va : Nat} {x : BitVec 64} : (s.setAccessed a va x).Inv := (keeps_setAccessed s a va x).inv h
@[simp] theorem inv_writeStatus {l : Launch} {b : Nat} {d : List Byte} {e : List (List Byte)} : (s.writeStatus l b d e).Inv :=
  (keeps_writeStatus s l b d e).inv h
@[simp] theorem inv_endLaunch {l e b : Nat} {d : List Byte} {es : List (List Byte)} : (s.endLaunch l e b d es).Inv :=
  (keeps_endLaunch s l e b d es).inv h
@[simp] theorem inv_trapLaunch {l e k c i : Nat} : (s.trapLaunch l e k c i).Inv := (keeps_trapLaunch s l e k c i).inv h
@[simp] theorem inv_raiseTrap {r e k c i : Nat} : (s.raiseTrap r e k c i).Inv := (keeps_raiseTrap s r e k c i).inv h
@[simp] theorem inv_setGraphOf {l : Nat} {a : Option Nat} {g : GraphSt} : (s.setGraphOf l a g).Inv :=
  (keeps_setGraphOf s l a g).inv h
@[simp] theorem inv_recallWindows {line : Nat} {but : Option (Nat × Nat × Nat)} : (s.recallWindows line but).Inv :=
  (keeps_recallWindows s line but).inv h
@[simp] theorem inv_overlapRecall {mt pa n : Nat} {but : Option (Nat × Nat × Nat)} {l : Option Nat} :
    (s.overlapRecall mt pa n but l).Inv := (keeps_overlapRecall s mt pa n but l).inv h
@[simp] theorem inv_claim {mt pa n l e w : Nat} {m : BitVec 16} : (s.claim mt pa n l e w m).Inv :=
  (keeps_claim s mt pa n l e w m).inv h
@[simp] theorem inv_storeMasks {c : Ctx} {id fid : Nat} {win : Window} {w : Fin 8} {off n : Nat} :
    (s.storeMasks c id fid win w off n).Inv := (keeps_storeMasks s c id fid win w off n).inv h
@[simp] theorem inv_releaseXlat {tag : Nat} {res : OutF → Except Nat Payload} {e : Nat → Option TlbEnt} :
    (s.releaseXlat tag res e).Inv := (keeps_releaseXlat s tag res e).inv h

end

/-- Folds of operations that keep it. -/
theorem inv_foldl {α : Type} {f : State → α → State} (hf : ∀ s x, s.Inv → (f s x).Inv) {s : State} (h : s.Inv) (l : List α) :
    (l.foldl f s).Inv := by
  induction l generalizing s with
  | nil => exact h
  | cons x l ih => exact ih (hf s x h)

section
variable {s : State} (h : s.Inv)
include h

/-! ### Small updates -/

@[simp] theorem inv_setCounter {n : Nat} {v : BitVec 64} : (s.setCounter n v).Inv := h
@[simp] theorem inv_advance {n : Nat} : (s.advance n).Inv := h
@[simp] theorem inv_advance? {n : Option Nat} : (s.advance? n).Inv := by cases n <;> exact h
@[simp] theorem inv_setBarrier {n : Nat} {b : Barrier} : (s.setBarrier n b).Inv := h
@[simp] theorem inv_setGroup {n : Nat} {g : GroupSt} : (s.setGroup n g).Inv := h
@[simp] theorem inv_meetVoid {n l e : Nat} : (s.meetVoid n l e).Inv := h
@[simp] theorem inv_drawFree : s.drawFree.2.Inv := h
@[simp] theorem inv_performNo : s.performNo.1.Inv := h
@[simp] theorem inv_fresh : s.fresh.2.Inv := h
@[simp] theorem inv_replied {a : Access} {v : ReplyVal} : (s.replied a v).Inv := h
@[simp] theorem inv_dropMasks {l : Nat} : (s.dropMasks l).Inv := h
@[simp] theorem inv_freeRegion {r : Nat} {g : Region} : (s.freeRegion r g).Inv := inv_setRegion h
@[simp] theorem inv_modDecl {n : Nat} {f : Decl → Decl} : (s.modDecl n f).Inv := h
@[simp] theorem inv_touchTlb {t : TlbEnt} {va : Nat} : (s.touchTlb t va).Inv := inv_setAccessed h
@[simp] theorem inv_refill {r e : Nat} {g : BitVec 12} {w : Fin 8} : (s.refill r e g w).Inv := h
@[simp] theorem inv_setProg {k : Nat} {p : DrvProg} : (s.setProg k p).Inv := h
@[simp] theorem inv_unqueued {a : Access} : (s.unqueued a).Inv := h
@[simp] theorem inv_answered {a : Access} {v : ReplyVal} : (s.answered a v).Inv := h
@[simp] theorem inv_noteRead {pa : Nat} : (s.noteRead pa).Inv := h
@[simp] theorem inv_hostRead {g : Nat} {bs : List Byte} {b : Bool} : (s.hostRead g bs b).Inv := h
@[simp] theorem inv_eccMark {bad words : List Nat} : (s.eccMark bad words).Inv := h
@[simp] theorem inv_putHolder {line : Nat} {x : Holder} : (s.putHolder line x).Inv := h
@[simp] theorem inv_invalidate {line : Nat} : (s.invalidate line).Inv := h
@[simp] theorem inv_register {line l e w : Nat} {r m : BitVec 16} : (s.register line l e w r m).Inv := h
@[simp] theorem inv_cleanMask {line l e w : Nat} {m : BitVec 16} : (s.cleanMask line l e w m).Inv := h
@[simp] theorem inv_dropWindow {l e w : Nat} : (s.dropWindow l e w).Inv := h
@[simp] theorem inv_countRace {line : Nat} {l : Option Nat} : (s.countRace line l).Inv := by cases l <;> exact h

/-! ### Lines and holders -/

@[simp] theorem inv_keepMark {w : Nat} {b : Bool} : (s.keepMark w b).Inv := by
  unfold State.keepMark
  split <;> exact h

@[simp] theorem inv_writeWord {line : Nat} {x : Holder} {i : Nat} : (s.writeWord line x i).Inv := by
  unfold State.writeWord
  split <;> simp [h]

@[simp] theorem inv_writeHome {line : Nat} {x : Holder} : (s.writeHome line x).Inv :=
  inv_foldl (fun _ _ hs => inv_writeWord hs) h _

@[simp] theorem inv_flushLine {line : Nat} : (s.flushLine line).Inv := by
  unfold State.flushLine
  split
  · exact h
  · exact inv_writeHome h

@[simp] theorem inv_shareLine {line : Nat} : (s.shareLine line).Inv := by
  unfold State.shareLine
  dsimp only
  split <;> exact inv_flushLine h

@[simp] theorem inv_acknowledge {agent line : Nat} : (s.acknowledge agent line).Inv := by
  unfold State.acknowledge
  dsimp only
  split
  · split
    · exact h
    · exact inv_writeHome h
  · split <;> exact h

@[simp] theorem inv_takeLine {agent line : Nat} {st : Moesi} {bad : List Nat} : (s.takeLine agent line st bad).Inv := h

theorem inv_shareFor {agent line : Nat} {bad : List Nat} {t : State} (ht : s.shareFor agent line bad = some t) : t.Inv := by
  unfold State.shareFor at ht
  split at ht
  · cases ht
  · cases ht
    exact inv_takeLine (inv_shareLine h)

@[simp] theorem inv_exclusiveFor {agent line : Nat} : (s.exclusiveFor agent line).1.Inv := by
  unfold State.exclusiveFor
  dsimp only
  split
  · exact h
  · split
    · exact h
    · exact inv_takeLine (inv_flushLine (inv_recallWindows h))

@[simp] theorem inv_storeLine {line off : Nat} {bs : List Byte} {x : Holder} : (s.storeLine line off bs x).Inv := h

@[simp] theorem inv_homeStore {mt pa : Nat} {bs : List Byte} {but : Option (Nat × Nat × Nat)} {l : Option Nat} :
    (s.homeStore mt pa bs but l).Inv := inv_homeWrite (inv_overlapRecall h)

end

/-- The state of a pair that an operation answers. -/
theorem inv_of_fst {α : Type} {p : State × α} {t : State} {x : α} (h : p.1.Inv) (e : p = (t, x)) : t.Inv := by
  rw [e] at h
  exact h

section
variable {s : State} (h : s.Inv)
include h

@[simp] theorem inv_storeFor {agent line off : Nat} {bs : List Byte} : (s.storeFor agent line off bs).1.Inv := by
  unfold State.storeFor
  split
  · exact h
  · split
    · exact h
    · split
      · have ht := inv_of_fst (inv_exclusiveFor h) ‹_›
        dsimp only
        split <;> exact ht
      · exact inv_exclusiveFor h

@[simp] theorem inv_untrackedFor {line : Nat} {q : LineReq} : (s.untrackedFor line q).1.Inv := by
  unfold State.untrackedFor
  split
  · split
    · exact h
    · split <;> simp [h]
  · exact h

@[simp] theorem inv_lineRequest {agent line : Nat} {q : LineReq} : (s.lineRequest agent line q).1.Inv := by
  unfold State.lineRequest
  split
  · exact inv_untrackedFor h
  · cases q with
    | share =>
      dsimp only
      split
      · exact inv_shareFor h ‹_›
      · exact h
    | exclusive =>
      dsimp only
      split <;> simp [h]
    | store off bs => exact inv_storeFor h
    | read _ _ _ => exact h
    | writeback =>
      dsimp only
      split
      · split
        · split <;> simp [h]
        · exact h
      · exact h
    | dropClean =>
      dsimp only
      split
      · split <;> exact h
      · exact h

/-! ### Derived words -/

@[simp] theorem inv_markRows {d : Nat} {bad : Bool} {p : DrvRow → Nat → Bool} : (s.markRows d bad p).Inv := by
  unfold State.markRows
  split <;> exact h

omit h in
/-- Notes of the home order write no byte. -/
theorem noteRows_bytes (d : Decl) (rows : List DrvRow) : (s.noteRows d rows).mem.bytes = s.mem.bytes := by
  have hin (l : List Nat) (m : MemSt) (row : DrvRow) :
      (l.foldl (fun m i => m.note (row.pa / 64 + i) m.performs false) m).bytes = m.bytes := by
    induction l generalizing m with
    | nil => rfl
    | cons i l ih => exact ih _
  have hout (l : List DrvRow) (m : MemSt) :
      (l.foldl (fun m row => (List.range ((row.pa + rowBytes d.baseFmt d.cols - 1) / 64 - row.pa / 64 + 1)).foldl
        (fun m i => m.note (row.pa / 64 + i) m.performs false) m) m).bytes = m.bytes := by
    induction l generalizing m with
    | nil => rfl
    | cons row l ih => exact (ih _).trans (hin _ _ _)
  exact hout rows s.mem

@[simp] theorem inv_noteRows {d : Decl} {rows : List DrvRow} : (s.noteRows d rows).Inv :=
  ⟨by rw [noteRows_bytes]; exact h.1, h.2⟩

theorem inv_drvPart {ctx : Nat} {vas : List Nat} {p : DrvProg} {bad : Bool} {t : State} {q : DrvProg}
    (ht : s.drvPart ctx vas p bad = some (t, q)) : t.Inv := by
  unfold State.drvPart at ht
  dsimp only at ht
  split at ht
  · cases ht; exact h
  · cases ht; exact h
  · split at ht
    · cases ht; exact h
    · split at ht
      · cases ht
      · cases ht
        exact inv_noteRows (inv_markRows h)
  · split at ht
    · split at ht
      · cases ht; exact h
      · cases ht
    · cases ht
      exact inv_noteRows (inv_markRows (by exact h))

theorem inv_drvStep {ctx : Nat} {vas : List Nat} {p : DrvProg} {bad : Bool} {t : State} {q : DrvProg}
    (ht : s.drvStep ctx vas p bad = some (t, q)) : t.Inv := by
  unfold State.drvStep at ht
  split at ht
  · cases ht
    exact inv_drvPart h ‹_›
  · cases ht

@[simp] theorem inv_translate {die ctx va : Nat} {b : Bool} : (s.translate die ctx va b).1.Inv := by
  unfold State.translate
  split
  · exact h
  · split
    · dsimp only
      split <;> exact h
    · exact inv_setAccessed h

omit h in
@[simp] theorem inv_touchVas {die ctx : Nat} (l : List Nat) {s : State} (h : s.Inv) : (s.touchVas die ctx l).Inv := by
  induction l generalizing s with
  | nil => exact h
  | cons va l ih =>
    unfold State.touchVas
    split
    · exact ih (inv_of_fst (inv_translate h) ‹_›)
    · exact inv_of_fst (inv_translate h) ‹_›

@[simp] theorem inv_declTouch {die ctx : Nat} {g : GraphSt} {a b : Payload} : (s.declTouch die g ctx a b).Inv := by
  unfold State.declTouch
  dsimp only
  split
  · split
    · exact h
    · split <;> simp [h]
  · exact h

end

end Sys2Proof.Proofs.Invariant
end

section
/-! The invariant through the access steps: SEND, PERFORM, EGRESS, DELIVER, FILL, APPLY and UPDATE_REPLAY. -/

namespace Sys2Proof.Proofs.Invariant

open Sys2Proof Sys2Proof.Machine Sys2Proof.Proofs.Firings

/-- What an outcome that is a next state keeps of the invariant. -/
def Safe (o : Res) : Prop := ∀ t, o = .next t → t.Inv

theorem safe_next {t : State} (h : t.Inv) : Safe (.next t) := fun _ ht => Host.Outcome.next.inj ht ▸ h

theorem safe_refused {x : Refusal} : Safe (.refused x) := fun _ h => nomatch h

theorem safe_ite {p : Prop} [Decidable p] {a b : Res} (ha : Safe a) (hb : Safe b) : Safe (if p then a else b) := by
  split
  · exact ha
  · exact hb

theorem safe_of_keeping {s : State} {o : Res} (h : s.Inv) (ho : Keeping s o) : Safe o := fun t ht => (ho t ht).inv h

theorem inv_ite {p : Prop} [Decidable p] {a b : State} (ha : a.Inv) (hb : b.Inv) : (if p then a else b).Inv := by
  split
  · exact ha
  · exact hb

section
variable {s : State} (h : s.Inv)
include h

theorem inv_charge {r : Nat} {x : Region} {n : Nat} {out : Bool} {t : State} (ht : s.charge r x n out = some t) : t.Inv := by
  unfold State.charge at ht
  dsimp only at ht
  split at ht
  · cases ht
  · split at ht
    · cases ht; exact h
    · split at ht
      · cases ht; exact h
      · split at ht
        · cases ht; exact h
        · split at ht
          · cases ht; exact h
          · cases ht

theorem safe_send (r e k : Nat) : Safe (execSend r e k s) := by
  unfold execSend
  split
  · exact safe_next h
  · split
    · exact safe_next h
    · refine safe_ite (safe_next h) ?_
      split
      · exact safe_next h
      · rename_i t ht
        have hi : t.Inv := by
          split at ht
          · cases ht; exact h
          · exact inv_charge h ht
        exact safe_next (inv_put hi)

/-! ### The atomic unit and accesses at the home -/

theorem inv_atomicAt {a : Access} {opc : Nat} {rec : Word} : (s.atomicAt a opc rec).1.Inv := by
  refine inv_foldl (fun t x ht => ?_) (inv_noteRead (inv_overlapRecall h)) _
  dsimp only
  exact inv_ite ht (inv_homeWrite ht)

theorem inv_waitWrite {pa : Nat} : (s.waitWrite pa).1.Inv := inv_ite h (inv_invalidate h)

theorem inv_performLoad {a : Access} {bad : List Nat} : (s.performLoad a bad).1.Inv := by
  unfold State.performLoad
  split
  · exact h
  · split
    · split
      · exact h
      · have ht := inv_drvStep h ‹_›
        split
        · exact inv_setProg ht
        · exact ht
    · split
      · exact h
      · exact inv_noteRead (inv_eccMark (inv_ite h (inv_flushLine h)))

theorem inv_performStore {a : Access} {but : Option (Nat × Nat × Nat)} : (s.performStore a but).1.Inv := by
  unfold State.performStore
  split
  · exact h
  · split
    · exact inv_homeStore h
    · exact inv_waitWrite h

theorem inv_performAtomic {a : Access} {opc : Nat} {rec : Word} {bad : List Nat} :
    (s.performAtomic a opc rec bad).1.Inv := by
  unfold State.performAtomic
  split
  · exact h
  · split
    · exact inv_atomicAt (inv_eccMark h)
    · exact inv_waitWrite h

theorem inv_modWindowSt {a : Access} {f : SSt → SSt} : (s.modWindowSt a f).Inv := by
  unfold State.modWindowSt
  split
  · split
    · split
      · exact inv_setGraphOf h
      · exact h
    · exact h
  · exact h

theorem inv_cleanWord {a : Access} {w : Nat} : (s.cleanWord a w).Inv := inv_cleanMask (inv_modWindowSt h)
theorem inv_wordHome {a : Access} {w : Nat} : (s.wordHome a w).Inv := inv_modWindowSt h
theorem inv_wordSent {a : Access} {w : Nat} : (s.wordSent a w).Inv := inv_modWindowSt h

theorem inv_performWback {a : Access} {w : Nat} {st : WbSt} : (s.performWback a w st).1.Inv := by
  unfold State.performWback
  split
  · exact h
  · split
    · have ht := inv_of_fst (inv_performStore h) ‹_›
      exact inv_ite (inv_wordHome ht) (inv_cleanWord (inv_wordHome ht))
    · exact inv_performStore h

theorem inv_performClaim {a : Access} {w : Nat} {m : BitVec 16} : (s.performClaim a w m).1.Inv := by
  unfold State.performClaim
  dsimp only
  split
  · exact h
  · split
    · exact inv_claim h
    · exact inv_waitWrite h

theorem inv_applyUpdate {a : Access} : (s.applyUpdate a).Inv := by
  unfold State.applyUpdate
  split
  · exact inv_atomicAt h
  · exact h

theorem inv_groupDone {ctx g : Nat} : (s.groupDone ctx g).Inv := by
  unfold State.groupDone
  split
  · exact h
  · exact inv_ite (inv_advance (by exact h)) h

theorem inv_serialUpdate {a : Access} {l : HeldLine} {low : Nat} {bad : List Nat} : (s.serialUpdate a l low bad).1.Inv := by
  unfold State.serialUpdate
  split
  · exact h
  · split
    · exact h
    · split
      · exact inv_applyUpdate (inv_eccMark h)
      · exact inv_waitWrite h

theorem inv_performUpdate {a : Access} {g : Nat} {bad : List Nat} : (s.performUpdate a g bad).1.Inv := by
  unfold State.performUpdate
  split
  · exact h
  · exact h
  · dsimp only
    split
    · exact h
    · exact inv_serialUpdate (by exact h)

theorem inv_performClose {a : Access} {g i : Nat} : (s.performClose a g i).1.Inv := inv_groupDone (by exact h)

theorem inv_portRead {a : Access} {g pa n : Nat} {bad : List Nat} : (s.portRead a g pa n bad).1.Inv := by
  unfold State.portRead
  split
  · split
    · exact h
    · split
      · exact h
      · have ht := inv_drvStep h ‹_›
        split
        · exact inv_setProg ht
        · exact inv_hostRead ht
  · split
    · exact h
    · exact inv_hostRead (inv_noteRead (inv_eccMark (inv_ite (inv_flushLine h) h)))

theorem inv_lineRead {a : Access} {g off n : Nat} {bad : List Nat} : (s.lineRead a g off n bad).1.Inv := by
  unfold State.lineRead
  dsimp only
  split
  · exact h
  · split
    · exact inv_portRead h
    · split
      · exact h
      · split
        · exact h
        · have ht := inv_shareFor h ‹_›
          split
          · exact inv_hostRead ht
          · exact ht

theorem inv_amendAt {mt pa : Nat} {k b : Byte} : (s.amendAt mt pa k b).Inv :=
  inv_ite (inv_overlapRecall h) (inv_backWrite (inv_overlapRecall h))

theorem inv_performPort {a : Access} {g : Nat} {q : PortReq} : (s.performPort a g q).1.Inv := by
  unfold State.performPort
  split
  · exact inv_portRead h
  · split
    · exact h
    · split
      · exact inv_homeStore h
      · exact inv_waitWrite h
  · split
    · exact h
    · split
      · exact inv_amendAt h
      · exact inv_waitWrite h
  · exact inv_lineRead h
  · split <;> exact inv_of_fst (inv_lineRequest h) ‹_›

theorem inv_performAt {a : Access} {bad : List Nat} : (s.performAt a bad).1.Inv := by
  unfold State.performAt
  split
  · exact inv_performLoad h
  · exact inv_performStore h
  · exact inv_performAtomic h
  · exact inv_performUpdate h
  · exact inv_performClose h
  · exact inv_performWback h
  · exact inv_performClaim h
  · split
    · exact h
    · exact inv_noteRead (inv_eccMark (inv_flushLine h))
  · exact h
  · exact h
  · exact inv_performPort h

theorem inv_performReq {a : Access} {bad : List Nat} : (s.performReq a bad).Inv := by
  unfold State.performReq
  split
  · exact h
  · split
    · split
      · exact inv_hostRead (inv_unqueued h)
      · exact h
    · split
      · exact inv_of_fst (inv_performAt h) ‹_›
      · exact inv_answered (inv_of_fst (inv_performAt h) ‹_›)
      · exact inv_unqueued (inv_of_fst (inv_performAt h) ‹_›)
      · have ht := inv_of_fst (inv_performAt h) (‹_› : s.performAt a bad = _)
        exact ht

theorem safe_updateReplay (k : Nat) : Safe (execUpdateReplay k s) := by
  unfold execUpdateReplay
  split <;> exact safe_next h

theorem inv_applyFails {a : Access} {code : Nat} : (s.applyFails a code).Inv := by
  unfold State.applyFails
  split
  · exact inv_ite (inv_raiseTrap h) h
  · exact h

theorem safe_apply (x : HeldAt) : Safe (execApply x s) := by
  unfold execApply
  split
  · exact safe_next h
  · split
    · exact safe_next h
    · dsimp only
      split
      · exact safe_next (inv_applyFails (inv_groupDone (by exact h)))
      · exact safe_ite (safe_next (inv_groupDone (inv_applyUpdate (inv_eccMark (by exact h))))) (safe_next (inv_waitWrite h))

/-! ### Fills -/

theorem inv_lateStore {c : Ctx} {o : OutF} {x : SSt} {win : Window} {w : Fin 8} {off n no : Nat} :
    (c.lateStore s o x win w off n no).Inv := by
  have hput (m : MemSt) (hm : m.bytes = s.mem.bytes) (el : Elem) (n : Nat) :
      State.Inv { c.put { s with mem := m } el with nextId := n } := by
    exact inv_put (s := { s with mem := m }) ⟨hm.symm ▸ h.1, h.2⟩
  refine inv_storeMasks ?_
  apply hput
  rfl

theorem inv_resume {c : Ctx} {o : OutF} : (c.resume s o).Inv := by
  unfold Ctx.resume
  dsimp only
  split
  · split
    · exact h
    · split
      · exact inv_ite h (inv_put h)
      · split
        · exact h
        · exact inv_ite (inv_put (inv_performNo h)) (inv_lateStore (inv_performNo h))
  · exact h

theorem inv_resumeAll {r e : Nat} : (s.resumeAll r e).Inv := by
  unfold State.resumeAll
  split
  · exact h
  · refine inv_foldl (fun t o ht => ?_) h _
    split
    · split
      · exact inv_ite (inv_resume ht) ht
      · exact ht
    · exact ht

theorem inv_fillDone {c : Ctx} {a : Access} {w off : Nat} {m : BitVec 16} {bs : List Byte} {p : Nat → Bool} :
    (s.fillDone c a w off m bs p).Inv := by
  unfold State.fillDone
  split
  · exact inv_resumeAll (inv_put (inv_ite (inv_unqueued h) (inv_register (inv_unqueued h))))
  · exact h

theorem inv_fillAt {c : Ctx} {a : Access} {w off : Nat} {m : BitVec 16} {bad : List Nat} : (s.fillAt c a w off m bad).Inv := by
  unfold State.fillAt
  split
  · dsimp only
    split
    · exact h
    · have ht := inv_drvStep h ‹_›
      exact inv_ite (inv_setProg ht) (inv_fillDone ht)
  · exact inv_ite h (inv_fillDone (inv_noteRead (inv_eccMark (inv_ite h (inv_shareLine h)))))

theorem safe_fill (x : WordRead) : Safe (execFill x s) := by
  unfold execFill
  split
  · exact safe_next h
  · split
    · refine safe_ite (safe_next h) ?_
      split
      · exact safe_next h
      · refine safe_ite (safe_next h) ?_
        split
        · exact safe_next h
        · exact safe_next (inv_fillAt h)
    · exact safe_next h

/-! ### Homes outside the package -/

theorem inv_egressed {a : Access} : (s.egressed a).Inv := inv_ite h h

theorem inv_egressRed {a : Access} : (s.egressRed a).Inv := by
  unfold State.egressRed
  dsimp only
  split
  · exact h
  · split
    · exact h
    · split <;> exact h

theorem safe_egress (k : Nat) : Safe (execEgress k s) := by
  unfold execEgress
  split
  · exact safe_next h
  · refine safe_ite (safe_next h) (safe_ite (safe_ite (safe_next (inv_egressRed h)) (safe_ite (safe_next h)
      (safe_next (inv_egressed h)))) ?_)
    split
    · exact safe_next h
    · dsimp only
      split
      · exact safe_ite (safe_next (inv_cleanWord (inv_wordSent (inv_egressed h)))) (safe_next (inv_wordSent (inv_egressed h)))
      · exact safe_next (inv_egressed h)

theorem inv_delivered {a : Access} {v : Option ReplyVal} : (s.delivered a v).Inv := by cases v <;> exact h

theorem safe_deliver (k : Nat) (res : RemoteRes) : Safe (execDeliver k res s) := by
  unfold execDeliver
  split
  · exact safe_next h
  · refine safe_ite (safe_next h) ?_
    split
    · exact safe_ite (safe_next (inv_delivered h)) (safe_next h)
    · exact safe_ite (safe_ite (safe_next (inv_delivered h)) (safe_next h)) (safe_next (inv_delivered h))
    · exact safe_next h
    · split
      · exact safe_next (inv_delivered h)
      · exact safe_ite (safe_next (inv_delivered h)) (safe_ite (safe_next h) (safe_next (inv_fillDone (inv_delivered h))))
    · exact safe_next (inv_delivered h)
    · exact safe_next (inv_modWindowSt (inv_delivered h))
    · exact safe_next (inv_delivered h)
    · split
      · exact safe_next (inv_delivered h)
      · exact safe_next h

end

end Sys2Proof.Proofs.Invariant
end

section
/-! The invariant through submission, the launch window, replies, pushes, releases, counters and declarations. -/

namespace Sys2Proof.Proofs.Invariant

open Sys2Proof Sys2Proof.Machine Sys2Proof.Proofs.Firings

section
variable {s : State} (h : s.Inv)
include h

/-! ### Launches up to admission -/

theorem inv_submit {ctx : Nat} {x : LaunchRec} {entry : Option (Nat × Nat)} : (s.submit ctx x entry).1.Inv := by
  unfold State.submit
  split
  · exact h
  · dsimp only
    split
    · exact h
    · exact inv_ite (inv_advance (inv_writeStatus (by exact h))) (inv_writeStatus (by exact h))

theorem safe_launchWindowWrite (ctx off : Nat) (bs : List Byte) : Safe (execLaunchWindowWrite ctx off bs s) := by
  unfold execLaunchWindowWrite
  split
  · exact safe_next h
  · exact safe_ite (safe_next (inv_submit h)) (safe_next (inv_ite h (inv_ownWrite (by exact h))))

theorem safe_launchWaitMet (l : Nat) : Safe (execLaunchWaitMet l s) := by
  unfold execLaunchWaitMet
  split
  · exact safe_ite (safe_next h) (safe_next h)
  · exact safe_next h

theorem safe_signalCounterAdvance (l : Nat) : Safe (execSignalCounterAdvance l s) := by
  unfold execSignalCounterAdvance
  split
  · exact safe_ite (safe_next (inv_ite h (inv_advance (by exact h)))) (safe_next h)
  · exact safe_next h

theorem safe_timeTriggerStart (idx : Nat) : Safe (execTimeTriggerStart idx s) := by
  unfold execTimeTriggerStart
  split
  · exact safe_next h
  · refine safe_ite (safe_next h) ?_
    dsimp only
    split
    · exact safe_next (inv_submit (by exact h))
    · exact safe_ite (safe_next h) (safe_ite (safe_next (inv_submit (inv_endLaunch (by exact h))))
        (safe_ite (safe_next h) (safe_next (inv_submit (by exact h)))))

/-! ### Replies -/

theorem safe_pushLate {c : Ctx} {el : Elem} {slot : Nat} {o : Fin 4} {t : Token} : Safe (c.pushLate s el slot o t) :=
  safe_ite (safe_next (inv_setGraph h)) (safe_next (inv_raiseTrap h))

theorem inv_replyData {c : Ctx} {o : OutF} {v : Payload} {p : Bool} {no : Nat} : (c.replyData s o v p no).Inv := by
  unfold Ctx.replyData
  split
  · dsimp only
    split
    · exact inv_put (c := c) (el := _) h
    · exact inv_put h
  · exact inv_put h

theorem inv_replyFail {c : Ctx} {o : OutF} {code no : Nat} : (c.replyFail s o code no).Inv := by
  unfold Ctx.replyFail
  exact inv_ite (inv_put h) (inv_raiseTrap (inv_put h))

theorem inv_applyReply {c : Ctx} {y : Reply} : (c.applyReply s y).Inv := by
  unfold Ctx.applyReply
  split
  · exact inv_raiseTrap h
  · split
    · exact h
    · split
      · exact h
      · split
        · exact inv_replyData h
        · exact inv_put h
        · exact inv_replyFail h
        · exact inv_put h

theorem safe_memReply {y : Reply} : Safe (s.memReply y) := by
  unfold State.memReply
  refine safe_ite (safe_next h) ?_
  dsimp only
  split
  · exact safe_ite (safe_next h) (safe_ite (safe_next (inv_setGraph (by exact h)))
      (safe_ite (safe_next (inv_applyReply (by exact h))) (safe_next h)))
  · exact safe_next h

theorem inv_sysReply {l n : Nat} : (s.sysReply l n).1.Inv := by
  unfold State.sysReply
  split
  · split <;> exact h
  · exact h

theorem inv_unmapped {c : Ctx} {el : Elem} {o : OutF} : (c.unmapped s el o).2.Inv := by
  unfold Ctx.unmapped
  dsimp only
  split
  · split
    · exact h
    · exact h
  · exact h

theorem inv_syncRelease {c : Ctx} {o : OutF} : (c.syncRelease s o).Inv :=
  inv_ite (inv_put (inv_performNo h)) (inv_put (inv_unmapped h))

theorem inv_askWalker {c : Ctx} {o : OutF} : (s.askWalker c o).Inv := by
  unfold State.askWalker
  split
  · split
    · exact h
    · dsimp only
      split
      · exact h
      · exact inv_ite h (inv_modRegion (inv_put h))
  · exact h

theorem inv_invalidated {c : Ctx} {o : OutF} : (c.invalidated s o).Inv := by
  unfold Ctx.invalidated
  dsimp only
  split
  · exact inv_put h
  · exact h

theorem safe_serviceReply {r e : Nat} {o : OutF} : Safe (s.serviceReply r e o) := by
  unfold State.serviceReply
  split
  · exact safe_next h
  · rename_i c _
    have hanswer (u : State) (hu : u.Inv) (f : Ctx → Elem) : Safe (match u.at? r e o.slot with
        | some c => .next (c.put u (f c))
        | none => .next u) := by
      split
      · exact safe_next (inv_put hu)
      · exact safe_next hu
    refine safe_ite (safe_next h) (safe_ite (safe_ite (safe_next h) (safe_next (inv_syncRelease h)))
      (safe_ite (safe_next (inv_invalidated h)) (safe_ite ?_ (safe_ite ?_ (safe_ite (safe_next (inv_askWalker h)) (safe_next h))))))
    · exact hanswer _ (inv_submit h) fun c => c.el.setOut _
    · exact hanswer _ (inv_sysReply h) fun c => c.el.setOut _

theorem safe_memoryReply (k : Nat) : Safe (execMemoryReply k s) := by
  unfold execMemoryReply
  split
  · exact safe_memReply h
  · split
    · refine safe_ite (safe_next h) ?_
      dsimp only
      split
      · exact safe_next (inv_applyReply (inv_setGraph h))
      · exact safe_next (inv_setGraph h)
    · split
      · exact safe_serviceReply h
      · exact safe_next h

/-! ### Pushes and releases -/

theorem safe_pushData {c : Ctx} {o : OutF} {k : Fin 4} {t : Token} {rest : List Token} : Safe (c.pushData s o k t rest) := by
  unfold Ctx.pushData
  dsimp only
  split
  · exact safe_pushLate (inv_performNo h)
  · exact safe_pushLate h

theorem safe_pushDue {c : Ctx} {d : Due} {rest : List Due} : Safe (c.pushDue s d rest) := by
  unfold Ctx.pushDue
  dsimp only
  split
  · exact safe_pushLate (inv_unmapped h)
  · exact safe_pushLate h

theorem safe_push (r e : Nat) (which : Option Nat) : Safe (execPush r e which s) := by
  unfold execPush
  split
  · exact safe_next h
  · refine safe_ite (safe_next h) ?_
    split
    · split
      · exact safe_ite (safe_next h) (safe_pushDue h)
      · exact safe_next h
    · split
      · exact safe_next h
      · refine safe_ite (safe_next h) ?_
        split
        · exact safe_ite (safe_next h) (safe_pushData h)
        · exact safe_next h

theorem safe_finish {c : Ctx} {el : Elem} {l : List (Fin 4 × Token)} {pop rd : BitVec 4} : Safe (c.finish s el l pop rd) :=
  safe_of_keeping h (keeping_finish (.refl s))

theorem safe_fenceEnd {c : Ctx} {f : IForm} : Safe (c.fenceEnd s f) := by
  unfold Ctx.fenceEnd Ctx.memFinish
  exact safe_finish h

theorem safe_joinfRelease (r e : Nat) : Safe (execJoinfRelease r e s) := by
  unfold execJoinfRelease
  split
  · exact safe_next h
  · split
    · exact safe_ite (safe_next h) (safe_finish h)
    · exact safe_next h

theorem safe_fenceComplete (r e : Nat) : Safe (execFenceComplete r e s) := by
  unfold execFenceComplete
  split
  · exact safe_next h
  · split
    · exact safe_ite (safe_next h) (safe_fenceEnd h)
    · exact safe_next h

theorem safe_streamDone {k : Nat} : Safe (s.streamDone k) := by
  unfold State.streamDone
  dsimp only
  split
  · exact safe_next h
  · split
    · exact safe_next h
    · split
      · exact safe_ite (safe_next h) (safe_next (inv_advance? (inv_put h)))
      · exact safe_next h

theorem safe_counterRaise (k : Nat) : Safe (execCounterRaise k s) := by
  unfold execCounterRaise
  split
  · split
    · exact safe_next h
    · exact safe_ite (safe_next h) (safe_next (inv_setCounter (inv_put h)))
  · exact safe_streamDone h

theorem safe_barrierArrival (k : Nat) : Safe (execBarrierArrival k s) := by
  unfold execBarrierArrival
  split
  · split
    · exact safe_next h
    · exact safe_ite (safe_next h) (safe_next (inv_setBarrier (inv_put h)))
  · exact safe_next h

/-! ### Declarations -/

theorem safe_declarationAccept (r e : Nat) : Safe (execDeclarationAccept r e s) := by
  unfold execDeclarationAccept
  split
  · exact safe_next h
  · split
    · refine safe_ite (safe_next h) ?_
      dsimp only
      have hfin (c : Ctx) (t : State) (ht : t.Inv) (el : Elem) (l : List (Fin 4 × Token)) (pop rd : BitVec 4) :
          Safe (c.memFinishFrom s t el l pop rd) := safe_ite (safe_finish ht) (safe_next (inv_raiseTrap h))
      split
      · exact hfin _ _ (inv_declTouch h) _ _ _ _
      · exact hfin _ _ (by exact inv_declTouch h) _ _ _ _
    · exact safe_next h

theorem safe_scanEnd (decl row : Nat) (bad : List Nat) : Safe (execScanEnd decl row bad s) := by
  unfold execScanEnd
  split
  · exact safe_next h
  · split
    · exact safe_next h
    · split
      · exact safe_next h
      · exact safe_next h
      · exact safe_ite (safe_next (inv_advance? (inv_modDecl (inv_eccMark h)))) (safe_next (inv_modDecl (inv_eccMark h)))

theorem inv_sendFor {l : List Nat} : (s.sendFor l).Inv := inv_foldl (fun _ _ hs => inv_waitWrite hs) h l

theorem inv_unmapPages {ctx : Nat} {l : List (Nat × List Nat)} : (s.unmapPages ctx l).Inv := by
  have hw : (((l.flatMap (·.2)).foldl (fun s a => s.amendAt (s.mem.typeOf (a / 64)) a 0xFE 0) s)).Inv :=
    inv_foldl (fun _ _ hs => inv_amendAt hs) h _
  exact ⟨hw.1, (List.length_map _).trans hw.2⟩

theorem safe_declarationWithdraw (decl row : Nat) : Safe (execDeclarationWithdraw decl row s) := by
  unfold execDeclarationWithdraw
  split
  · exact safe_next h
  · split
    · dsimp only
      refine safe_ite (safe_ite (safe_next (inv_sendFor h)) (safe_next ?_)) (safe_next h)
      exact inv_unmapPages (inv_advance? (inv_ite (inv_advance? h) h))
    · exact safe_next h

end

end Sys2Proof.Proofs.Invariant
end

section
/-! The invariant through the link: packets of other packages, PUTS signals, failed operations and reductions. -/

namespace Sys2Proof.Proofs.Invariant

open Sys2Proof Sys2Proof.Machine Sys2Proof.Proofs.Firings

section
variable {s : State} (h : s.Inv)
include h

/-! ### Packets of memory -/

theorem inv_ack {src : Nat} {v : RemoteRes} : (s.ack src v).Inv := h
theorem inv_setInbound {x : Inbound} : (s.setInbound x).Inv := h
theorem inv_endInbound {x : Inbound} : (s.endInbound x).Inv := h
theorem inv_answerInbound {x : Inbound} {src : Nat} {v : RemoteRes} : (s.answerInbound x src v).Inv := h
theorem inv_hostPut {k ctx pa : Nat} {v : Payload} : (s.hostPut k ctx pa v).Inv := h
theorem inv_remoteTouch {ctx va : Nat} : (s.remoteTouch ctx va).Inv := inv_translate h

theorem inv_gotToken {x : Inbound} {src flow ctx va n : Nat} {bad : List Nat} {t : Payload × Bool} :
    (s.gotToken x src flow ctx va n bad t).Inv := inv_ite (inv_answerInbound h) (inv_setInbound h)

theorem inv_putStep {x : Inbound} {src flow ctx va : Nat} {data : List Payload} {sig : Option (Bool × Nat)} :
    (s.putStep x src flow ctx va data sig).Inv := by
  unfold State.putStep
  split
  · exact h
  · refine inv_ite h ?_
    dsimp only
    split
    · exact inv_answerInbound (inv_remoteTouch h)
    · exact inv_ite (inv_setInbound (inv_hostPut (inv_remoteTouch h)))
        (inv_ite (inv_ite (inv_answerInbound (inv_homeStore (inv_remoteTouch h)))
          (inv_setInbound (inv_homeStore (inv_remoteTouch h)))) (inv_waitWrite (inv_remoteTouch h)))

theorem inv_getStep {x : Inbound} {src flow ctx va n : Nat} {bad : List Nat} : (s.getStep x src flow ctx va n bad).Inv := by
  have ht : (s.remoteTouch ctx va).Inv := inv_remoteTouch h
  unfold State.getStep
  dsimp only
  split
  · exact inv_answerInbound ht
  · refine inv_ite (inv_gotToken (inv_drawFree ht)) ?_
    split
    · split
      · exact ht
      · exact inv_ite (inv_setInbound (inv_drvStep ht ‹_›)) (inv_gotToken (inv_drvStep ht ‹_›))
    · exact inv_ite ht (inv_gotToken (inv_noteRead (inv_eccMark (inv_ite (inv_flushLine ht) ht))))

theorem inv_sendStep {x : Inbound} {src region elem queue : Nat} {toks : List RxTok} :
    (s.sendStep x src region elem queue toks).Inv := by
  unfold State.sendStep
  split
  · exact h
  · split
    · exact inv_ite (inv_answerInbound h) (inv_ite h (inv_answerInbound (inv_put h)))
    · exact inv_answerInbound h

theorem safe_putsSignal (k : Nat) : Safe (execPutsSignal k s) := by
  unfold execPutsSignal
  split
  · exact safe_next h
  · split
    · refine safe_ite (safe_next h) ?_
      dsimp only
      split
      · exact safe_next h
      · exact safe_ite (safe_next (by exact h)) (safe_next h)
      · exact safe_ite (safe_next (by exact h)) (safe_next h)
    · exact safe_next h

/-! ### Failed operations -/

theorem inv_failLinksAt {c : Ctx} {code : Nat} {p : Nat → Payload → Bool} : (c.failLinks s code p).Inv := by
  unfold Ctx.failLinks
  split
  exact inv_ite (by exact inv_setGraph h) (inv_foldl (fun _ _ hs => inv_replied hs) (by exact inv_setGraph h) _)

theorem inv_failSaved {code : Nat} {x : Launch} {p : Nat → Payload → Bool} : (s.failSaved code x p).Inv := by
  unfold State.failSaved
  split
  · exact h
  · exact h

theorem inv_failRegion {r code : Nat} {p : Nat → Payload → Bool} (l : List Nat) :
    (l.foldl (fun s e => match s.at? r e 0 with
      | some c => c.failLinks s code p
      | none => s) s).Inv :=
  inv_foldl (fun t e ht => by
    split
    · exact inv_failLinksAt ht
    · exact ht) h l

theorem inv_failLinks {code : Nat} {p : Nat → Nat → Payload → Bool} : (s.failLinks code p).Inv := by
  unfold State.failLinks
  generalize List.range regionSlots = regs
  have hr := inv_foldl (s := s) (f := fun s r => match s.region? r with
    | some reg => match reg.g with
      | some g => (List.range g.elems.length).foldl (fun s e => match s.at? r e 0 with
          | some c => c.failLinks s code (p reg.launch)
          | none => s) s
      | none => s
    | none => s) (fun t r ht => by
      split
      · split
        · exact inv_failRegion ht _
        · exact ht
      · exact ht) h regs
  dsimp only
  generalize regs.foldl _ s = t at hr ⊢
  have hl := inv_foldl (f := fun s x => s.failSaved code x (p x.id)) (fun u x hu => inv_failSaved hu) hr t.sched.launches
  generalize t.sched.launches.foldl _ t = u at hl ⊢
  exact inv_foldl (fun _ _ hs => inv_replied hs) (by exact hl) _

theorem safe_destinationUnreachable (dest : LinkDest) : Safe (execDestinationUnreachable dest s) := by
  unfold execDestinationUnreachable
  have ht := inv_failLinks h (code := 3)
    (p := fun l opc a => opc != 0xF3 && (lane32 a 2).toNat == dest.pkg && s.inLinkGroup l dest.linkGroup)
  dsimp only
  generalize s.failLinks 3 _ = t at ht ⊢
  exact safe_next (inv_ite ht ht)

/-! ### Reductions -/

theorem inv_contribStep {x : Inbound} {group port : Nat} {c : Contrib} : (s.contribStep x group port c).Inv := by
  unfold State.contribStep
  split
  · exact h
  · split
    · split
      · exact h
      · exact h
    · exact h

theorem inv_roundResult {group : Nat} {g : GroupSt} {pre : List Round} {x : Round} {rest : List Round} {l : List Payload} :
    (s.roundResult group g pre x rest l).Inv := inv_ite h h

theorem safe_switchReduce (group : Nat) : Safe (execSwitchReduce group s) := by
  unfold execSwitchReduce
  split
  · exact safe_next h
  · split
    · refine safe_ite (safe_next h) ?_
      dsimp only
      split
      · exact safe_next h
      · exact safe_next (inv_roundResult h)
    · exact safe_next h

theorem inv_resultArrives {group : Nat} {l : List Payload} : (s.resultArrives group l).Inv := by
  unfold State.resultArrives
  split
  · exact h
  · split
    · exact inv_ite (inv_roundResult h) h
    · exact h

theorem inv_voidGroup {n : Nat} : (s.voidGroup n).Inv := by
  have ht := inv_failLinks h (code := 4) (p := fun _ opc a => opc == 0xF3 && (lane32 a 0).toNat == n)
  unfold State.voidGroup
  dsimp only
  generalize s.failLinks 4 _ = t at ht ⊢
  exact ht

theorem inv_voidArrives {n : Nat} : (s.voidArrives n).Inv := by
  unfold State.voidArrives
  split
  · exact h
  · exact inv_voidGroup h

/-! ### Arrivals and performances -/

theorem inv_inboundStep {x : Inbound} {bad : List Nat} : (s.inboundStep x bad).Inv := by
  unfold State.inboundStep
  refine inv_ite h ?_
  split
  · exact inv_putStep h
  · exact inv_getStep h
  · exact inv_sendStep h
  · exact inv_contribStep h
  · exact h
  · exact h

theorem safe_perform (k : Nat) (bad : List Nat) : Safe (execPerform k bad s) := by
  unfold execPerform
  split
  · exact safe_next (inv_performReq h)
  · split
    · exact safe_next (inv_inboundStep h)
    · exact safe_next h

theorem safe_linkPacketArrival (p : Packet) : Safe (execLinkPacketArrival p s) := by
  unfold execLinkPacketArrival
  split
  · exact safe_next (inv_resultArrives h)
  · exact safe_next (inv_voidArrives h)
  · exact safe_next (inv_inboundStep (by exact h))

end

end Sys2Proof.Proofs.Invariant
end

section
/-! The invariant through the agents beside the fabric, the tables of the device operating system and admission. -/

namespace Sys2Proof.Proofs.Invariant

open Sys2Proof Sys2Proof.Machine Sys2Proof.Proofs.Firings

section
variable {s : State} (h : s.Inv)
include h

/-! ### Host, control cores, acknowledgements -/

theorem inv_portAccess {agent pa size : Nat} {req : PortReq} : (s.portAccess agent pa size req).Inv :=
  inv_performReq (inv_joinReqs h)

theorem inv_barRead {off n : Nat} : (s.barRead off n).Inv := h

theorem safe_hostCxlAccess (a : HostAcc) : Safe (execHostCxlAccess a s) := by
  cases a with
  | memRead pa n bad => exact safe_next (inv_ite (inv_portAccess h) h)
  | memWrite pa bytes => exact safe_next (inv_ite (inv_portAccess h) h)
  | cache line req => exact safe_next (inv_ite (inv_portAccess h) h)
  | barRead off n => exact safe_next (inv_barRead h)
  | barWrite off bytes => exact safe_ite (safe_launchWindowWrite h _ _ _) (safe_next h)
  | cfgRead off n => exact safe_next (inv_hostRead h)
  | cfgWrite off bytes => exact safe_next h

theorem safe_controlCoreAccess (core line : Nat) (req : LineReq) : Safe (execControlCoreAccess core line req s) :=
  safe_next (inv_ite (inv_portAccess h) h)

theorem safe_invalidationAcknowledge (agent line : Nat) : Safe (execInvalidationAcknowledge agent line s) :=
  safe_next (inv_acknowledge h)

/-! ### Tables -/

theorem safe_bucketRefill (die : Nat) : Safe (execBucketRefill die s) := safe_next h

theorem inv_setBucket {die ctx rate burst : Nat} {b : Bool} : (s.setBucket die ctx rate burst b).Inv := inv_ite h h

theorem inv_createContext {c : ContextCfg} : (s.createContext c).Inv := by
  unfold State.createContext
  have hc : (c.counters.foldl (fun s n => s.setCounter n 0) s).Inv := inv_foldl (fun _ _ hs => inv_setCounter hs) h _
  generalize c.counters.foldl _ s = t at hc ⊢
  exact inv_ite (by exact inv_ownWrite hc) h

theorem inv_destroyContext {ctx : Nat} : (s.destroyContext ctx).Inv := inv_ite h h

/-- Zeroing a frame filters the listed bytes, which leaves them canonical. -/
theorem inv_zeroFrame {frame : Nat} : (s.zeroFrame frame).Inv := by
  unfold State.zeroFrame
  have ht := inv_foldl (f := fun s l => s.overlapRecall (s.mem.typeOf l) (64 * l) 64 none none)
    (fun _ _ hs => inv_overlapRecall hs) h (s.mem.frameLines frame)
  generalize (s.mem.frameLines frame).foldl _ s = t at ht ⊢
  exact ⟨zeroFrame_wf ht.1, ht.2⟩

theorem inv_setFrame {frame : Nat} {owner : Option Nat} {ro derived : Bool} {leaf : Option Nat} :
    (s.setFrame frame owner ro derived leaf).Inv := by
  unfold State.setFrame
  exact inv_ite h (inv_ite (inv_sendFor h) (by exact inv_ite (inv_zeroFrame h) h))

theorem inv_setHostRange {idx : Nat} {r : Option HostRange} : (s.setHostRange idx r).Inv := inv_ite h h

theorem inv_putGroupRecord {n : Nat} {r : Option GroupRec} : (s.putGroupRecord n r).Inv := by
  have ht := inv_voidGroup h (n := n)
  unfold State.putGroupRecord
  generalize s.voidGroup n = t at ht ⊢
  dsimp only
  split
  · exact inv_ite h ht
  · exact inv_ite h ht

theorem inv_setGroupRecord {n : Nat} {r : Option (List Byte)} : (s.setGroupRecord n r).Inv := by
  unfold State.setGroupRecord
  refine inv_ite h ?_
  split
  · exact inv_putGroupRecord h
  · split
    · exact h
    · exact inv_ite (inv_putGroupRecord h) h

theorem inv_setTimeEntry {idx : Nat} {e : Option (Nat × List Byte)} : (s.setTimeEntry idx e).Inv := by
  unfold State.setTimeEntry
  refine inv_ite h ?_
  split
  · exact h
  · exact inv_ite h h

theorem inv_loadWalker {die image : Nat} {pl : Placement} : (s.loadWalker die image pl).Inv := by
  unfold State.loadWalker
  split
  · refine inv_ite ?_ h
    split
    · exact inv_setRegion h
    · exact h
  · exact h

theorem inv_mailed : s.mailed.Inv := h

theorem safe_configRegisterWrite (w : ConfigWrite) : Safe (execConfigRegisterWrite w s) := by
  cases w with
  | createContext c => exact safe_next (inv_createContext h)
  | destroyContext ctx => exact safe_next (inv_destroyContext h)
  | frame frame owner ro derived leaf => exact safe_next (inv_setFrame h)
  | hostRange idx r => exact safe_next (inv_setHostRange h)
  | groupRecord group r => exact safe_next (inv_setGroupRecord h)
  | bucket die ctx rate burst borrower => exact safe_next (inv_setBucket h)
  | timeEntry idx e => exact safe_next (inv_setTimeEntry h)
  | ageLimit die ns => exact safe_next (inv_ite h h)
  | externalWaitLimit ns => exact safe_next h
  | badgerWatermark n => exact safe_next h
  | exportSize gib => exact safe_next (inv_ite h h)
  | walkerGraph die image pl => exact safe_next (inv_loadWalker h)
  | service x => exact safe_next h

theorem safe_shootdown (ctx va : Nat) : Safe (execShootdown ctx va s) :=
  safe_next ⟨h.1, (List.length_map _).trans h.2⟩

theorem inv_clearA {leaf : Option Nat} : (s.clearA leaf).Inv := by
  cases leaf with
  | none => exact h
  | some a => exact inv_ownAmend h

theorem safe_badgerVisit (frame : Nat) : Safe (execBadgerVisit frame s) := by
  unfold execBadgerVisit
  have ht := inv_clearA h (leaf := s.framePte? frame)
  generalize s.clearA (s.framePte? frame) = t at ht ⊢
  exact safe_next (by exact ht)

/-! ### Age promotion and admission -/

theorem inv_sched {d : SchedSt} : ({ s with sched := d } : State).Inv := h

theorem safe_agePromotion (l : Nat) : Safe (execAgePromotion l s) := by
  unfold execAgePromotion
  split
  · exact safe_next h
  · refine safe_ite (safe_next h) (safe_ite (safe_ite (safe_next h) ?_) (safe_ite (safe_next h) (safe_next h)))
    split
    · exact safe_next h
    · dsimp only
      split
      · exact safe_next (inv_modRegion (by exact h))
      · exact safe_next h

theorem inv_cachePut {k : Option CacheKey} {pl : Placement} : (s.cachePut k pl).Inv := by
  cases k with
  | none => exact h
  | some k => exact inv_ite h h

theorem safe_admission (die : Nat) (pl : Placement) : Safe (execAdmission die pl s) := by
  unfold execAdmission
  -- a placement of its own name keeps the kernel from reading the image's pages
  obtain ⟨place, hplace⟩ : ∃ f, f = s.placeImage := ⟨_, rfl⟩
  rw [← hplace]
  refine safe_ite (safe_next h) ?_
  split
  · split
    · exact safe_next h
    · exact safe_next (inv_endLaunch h)
    · split
      · exact safe_next h
      · split
        · exact safe_next h
        · exact safe_next (inv_sched (inv_setRegion (inv_cachePut h)))
  · exact safe_next h

end

end Sys2Proof.Proofs.Invariant
end

section
/-! The invariant through the flow of tokens, streams, loads of images, pre-emption, freezes and quiescence. -/

namespace Sys2Proof.Proofs.Invariant

open Sys2Proof Sys2Proof.Machine Sys2Proof.Proofs.Firings

section
variable {s : State} (h : s.Inv)
include h

/-! ### Pre-emption's end, arrival and the pair -/

theorem inv_parkRegion {r : Nat} {reg : Region} {g : GraphSt} : (s.parkRegion r reg g).Inv := by exact inv_setRegion h

theorem inv_checkpoint {r : Nat} {reg : Region} {g : GraphSt} : (s.checkpoint r reg g).Inv := by exact inv_setRegion h

theorem inv_checkParked {r : Nat} : (s.checkParked r).Inv := by
  unfold State.checkParked
  split
  · split
    · exact inv_ite (inv_ite (inv_checkpoint h) (inv_parkRegion h)) h
    · exact h
  · exact h

theorem inv_parkCut {c : Ctx} {i : Fin 4} {t : Token} {rest : List Token} : (c.parkCut s i t rest).Inv := by
  unfold Ctx.parkCut
  refine inv_ite (inv_setGraph h) ?_
  split
  · exact inv_setGraph h
  · exact inv_raiseTrap h

theorem safe_tokenArrive (r e : Nat) (i : Fin 4) (b : Bool) : Safe (execTokenArrive r e i b s) := by
  unfold execTokenArrive
  dsimp only
  split
  · exact safe_next h
  · refine safe_ite (safe_next h) ?_
    split
    · exact safe_ite (safe_next (inv_checkParked (inv_put h))) (safe_next (inv_parkCut h))
    · split
      · exact safe_next (inv_setGraph h)
      · exact safe_next h

theorem safe_pairStep (r e : Nat) : Safe (execPairStep r e s) := by
  unfold execPairStep
  split
  · exact safe_next h
  · dsimp only
    refine safe_ite (safe_next h) (safe_ite (safe_next (inv_put h)) (safe_ite (safe_next (inv_put h))
      (safe_ite (safe_next (inv_raiseTrap h)) ?_)))
    split
    · split
      · exact safe_ite (safe_next (inv_put h)) (safe_next h)
      · exact safe_next h
    · split
      · exact safe_ite (safe_next (inv_put h)) (safe_next h)
      · exact safe_next h

/-! ### Streams and engines -/

theorem safe_complete {c : Ctx} {el : Elem} {l : List (Fin 4 × Token)} {pop rd : BitVec 4} : Safe (c.complete s el l pop rd) :=
  safe_finish h

theorem safe_hold {c : Ctx} {el : Elem} {f : Firing} : Safe (c.hold s el f) := safe_of_keeping h keeping_hold

theorem safe_trap {c : Ctx} {code : Nat} : Safe (c.trap s code) := safe_of_keeping h (keeping_trap (.refl s))

theorem safe_takeStream {c : Ctx} {f : Firing} {i : Fin 4} {t : Token} : Safe (c.takeStream s f i t) := by
  unfold Ctx.takeStream
  dsimp only
  split
  · exact safe_next h
  · exact safe_trap h
  · exact safe_hold h
  · exact safe_hold h
  · split
    · exact safe_complete h
    · exact safe_complete h

theorem safe_takeSend {c : Ctx} {x : ESt} {g : SendEng} : Safe (c.takeSend s x g) := by
  unfold Ctx.takeSend
  split
  · split
    · exact safe_next (inv_raiseTrap h)
    · dsimp only
      exact safe_ite (safe_next (by exact inv_put h)) (safe_next (inv_put h))
  · exact safe_next h

theorem safe_streamTokenTake (r e : Nat) (t : Taker) : Safe (execStreamTokenTake r e t s) := by
  unfold execStreamTokenTake
  split
  · exact safe_next h
  · split
    · split
      · exact safe_next h
      · split
        · exact safe_next h
        · split
          · exact safe_takeStream h
          · exact safe_next h
    · split
      · split
        · exact safe_ite (safe_next h) (safe_takeSend h)
        · exact safe_next h
      · exact safe_next h

theorem safe_loadEngineToken (r e : Nat) (k : EngKind) : Safe (execLoadEngineToken r e k s) := by
  unfold execLoadEngineToken
  split
  · exact safe_next h
  · split
    · exact safe_next h
    · split
      · refine safe_ite (safe_next h) ?_
        dsimp only
        split
        · exact safe_next (inv_put h)
        · exact safe_next (inv_raiseTrap (inv_put h))
      · exact safe_next h

theorem safe_afterPush {c : Ctx} {f : Firing} : Safe (c.afterPush s f) := by
  unfold Ctx.afterPush
  dsimp only
  split
  · refine safe_ite (safe_ite (safe_trap h) (safe_complete h)) ?_
    split
    · exact safe_next h
    · split
      · exact safe_hold h
      · exact safe_hold h
      · exact safe_next h
  · exact safe_complete h

theorem safe_furtherTokenPush (r e : Nat) : Safe (execFurtherTokenPush r e s) := by
  unfold execFurtherTokenPush
  split
  · exact safe_next h
  · split
    · exact safe_next h
    · split
      · refine safe_ite (safe_next h) (safe_ite (safe_next (inv_raiseTrap h)) ?_)
        dsimp only
        refine safe_ite (safe_next (inv_setGraph h)) ?_
        split
        · exact safe_afterPush (inv_setGraph h)
        · exact safe_next (inv_setGraph h)
      · exact safe_next h

/-- A waiting firing goes on as a firing of its instruction does. -/
theorem safe_resumeOf {i : Instr} {o : Res} (ho : resumeOf i s = some o) : Safe o := by
  have hk {j : Instr} (hj : j.isEvent = false) : Safe (exec j s) := safe_of_keeping h (keeping_exec hj)
  cases i <;> simp only [resumeOf, reduceCtorEq, Option.some.injEq] at ho <;> subst ho
  case mswap f => exact hk (j := .mswap f) rfl
  case mldb f => exact hk (j := .mldb f) rfl
  case mlds f => exact hk (j := .mlds f) rfl
  case ltab f => exact hk (j := .ltab f) rfl
  case lwire f => exact hk (j := .lwire f) rfl
  case leval f => exact hk (j := .leval f) rfl
  case wmap f => exact hk (j := .wmap f) rfl
  case agstr f => exact hk (j := .agstr f) rfl
  case put f => exact hk (j := .put f) rfl
  case puts f => exact hk (j := .puts f) rfl
  case red f => exact hk (j := .red f) rfl
  case lsend f => exact hk (j := .lsend f) rfl

theorem safe_incompleteFiringResume (r e : Nat) : Safe (execIncompleteFiringResume r e s) := by
  unfold execIncompleteFiringResume
  split
  · exact safe_next h
  · split
    · exact safe_next h
    · rename_i f _
      refine safe_ite (safe_next h) ?_
      cases ho : resumeOf f.instr { s with focus := ⟨r, e, f.slot⟩ } with
      | none => exact safe_next h
      | some o => exact safe_resumeOf (s := { s with focus := ⟨r, e, f.slot⟩ }) h ho

theorem safe_streamMiss {c : Ctx} {t : Stream} {va : Nat} : Safe (c.streamMiss s t va) :=
  safe_ite (safe_next h) (safe_next (by exact inv_put h))

theorem safe_streamAccess {c : Ctx} {x : ESt} {t : Stream} {va : Nat} {last : Bool} {data : Payload} {el : Elem} :
    Safe (c.streamAccess s x t va last data el) := by
  unfold Ctx.streamAccess
  refine safe_ite (safe_next (inv_raiseTrap h)) ?_
  split
  · exact safe_streamMiss h
  · dsimp only
    split
    · exact safe_next (inv_touchTlb h)
    · split
      · exact safe_next (inv_raiseTrap (inv_touchTlb h))
      · exact safe_next (by exact inv_put (inv_touchTlb h))

theorem safe_streamEnginePush (r e k : Nat) : Safe (execStreamEnginePush r e k s) := by
  unfold execStreamEnginePush
  split
  · exact safe_next h
  · split
    · split
      · exact safe_next h
      · refine safe_ite (safe_next h) ?_
        dsimp only
        refine safe_ite ?_ (safe_ite ?_ (safe_ite ?_ (safe_ite (safe_ite (safe_streamAccess h) (safe_next h)) ?_)))
        · split
          · exact safe_ite (safe_next h) (safe_pushLate h)
          · exact safe_next (inv_put h)
        · split
          · exact safe_ite (safe_pushLate h) (safe_next h)
          · exact safe_next h
        · split
          · exact safe_ite (safe_pushLate h) (safe_next h)
          · exact safe_next h
        · split
          · exact safe_next h
          · split
            · exact safe_ite (safe_next (inv_raiseTrap h)) (safe_ite (safe_next (inv_raiseTrap h)) (safe_streamAccess h))
            · exact safe_next h
    · exact safe_next h

theorem safe_drainMarkerPass (r e : Nat) : Safe (execDrainMarkerPass r e s) := by
  unfold execDrainMarkerPass
  split
  · exact safe_next h
  · exact safe_ite (safe_next h) (safe_ite (safe_next (inv_put h)) (safe_ite (safe_next (inv_setGraph h)) (safe_next (inv_put h))))

/-! ### Loads -/

theorem inv_armRegion {r : Nat} {reg : Region} {g : GraphSt} : (s.armRegion r reg g).Inv := by exact inv_setRegion h

theorem inv_touchRead {die ctx va n : Nat} : (s.touchRead die ctx va n).Inv := inv_touchVas _ h

theorem inv_loadImage {r : Nat} {reg : Region} {l : Launch} : (s.loadImage r reg l).Inv := by
  rw [State.loadImage.eq_def]
  -- names of their own keep the kernel from reading the image's pages
  obtain ⟨readVa, hread⟩ : ∃ f, f = s.readVa := ⟨_, rfl⟩
  obtain ⟨touchRead, htouch⟩ : ∃ f, f = State.touchRead := ⟨_, rfl⟩
  obtain ⟨bad, hbad⟩ : ∃ f, f = firstBad := ⟨_, rfl⟩
  obtain ⟨imgBad, himg⟩ : ∃ f, f = imageBad := ⟨_, rfl⟩
  obtain ⟨loadErr, herr⟩ : ∃ f, f = s.loadErr? := ⟨_, rfl⟩
  rw [← hread, ← htouch, ← hbad, ← himg, ← herr]
  have hkeep {t : State} (ht : t.Inv) (die ctx va n : Nat) : (touchRead t die ctx va n).Inv := htouch ▸ inv_touchRead ht
  have ht := hkeep h (dieOf r) l.ctx l.record.imageVa.toNat 64
  dsimp only
  split
  · exact inv_endLaunch ht
  · split
    · exact inv_endLaunch ht
    · split
      · exact inv_endLaunch (hkeep ht _ _ _ _)
      · split
        · exact inv_endLaunch (hkeep ht _ _ _ _)
        · split
          · exact inv_endLaunch (hkeep ht _ _ _ _)
          · exact inv_armRegion (inv_sched (hkeep ht _ _ _ _))

theorem inv_loadWalkerImage {r : Nat} {reg : Region} {pa : Nat} : (s.loadWalkerImage r reg pa).Inv := by
  unfold State.loadWalkerImage
  split
  · exact inv_setRegion h
  · exact inv_releaseRegion h

theorem safe_regionArm (r : Nat) : Safe (execRegionArm r s) := by
  unfold execRegionArm
  split
  · exact safe_next h
  · refine safe_ite (safe_next h) ?_
    split
    · exact safe_next (inv_armRegion h)
    · exact safe_next h
    · exact safe_next (inv_loadWalkerImage h)
    · refine safe_ite ?_ ?_
      · split
        · exact safe_next (inv_loadImage h)
        · exact safe_next (inv_releaseRegion h)
      · split
        · exact safe_next (inv_armRegion h)
        · exact safe_next h

/-! ### Pre-emption and freezes -/

theorem safe_preemptionStart (r : Nat) : Safe (execPreemptionStart r s) := by
  unfold execPreemptionStart
  split
  · exact safe_next h
  · refine safe_ite (safe_next h) (safe_ite (safe_next (inv_sched (inv_freeRegion h))) ?_)
    split
    · exact safe_ite (safe_next (inv_setRegion h)) (safe_next h)
    · exact safe_next h

theorem safe_elementSave (r e : Nat) : Safe (execElementSave r e s) := by
  unfold execElementSave
  split
  · exact safe_next h
  · exact safe_ite (safe_next (inv_checkParked (inv_setGraph h))) (safe_next h)

theorem safe_freeze (r : Nat) : Safe (execFreeze r s) := by
  unfold execFreeze
  dsimp only
  exact safe_ite (safe_next h) (safe_next (inv_modRegion h))

theorem safe_freezeScan (r : Nat) : Safe (execFreezeScan r s) := by
  unfold execFreezeScan
  split
  · exact safe_ite (safe_next (inv_setRegion h)) (safe_next h)
  · exact safe_next h

theorem safe_scanOut (r : Nat) : Safe (execScanOut r s) := by
  unfold execScanOut
  split
  · split
    · exact safe_ite (safe_next (inv_sched (inv_setRegion h))) (safe_next h)
    · exact safe_next h
  · exact safe_next h

theorem inv_serviced {r : Nat} {reg : Region} {g : GraphSt} : (s.serviced r reg g).Inv := by exact inv_setRegion h

theorem safe_faultService (r : Nat) (decline : Bool) : Safe (execFaultService r decline s) := by
  unfold execFaultService
  split
  · exact safe_next h
  · split
    · refine safe_ite (safe_next (inv_endLaunch h)) ?_
      split
      · have ht := inv_of_fst (inv_translate h) ‹_›
        exact safe_ite (safe_next (inv_serviced ht)) (safe_next (inv_setRegion ht))
      · exact safe_next (inv_of_fst (inv_translate h) ‹_›)
    · exact safe_next h

theorem safe_flthReply (r e id : Nat) (decline : Bool) : Safe (execFlthReply r e id decline s) := by
  unfold execFlthReply
  -- a name of its own keeps the kernel from walking the page table
  obtain ⟨translate, htr⟩ : ∃ f, f = s.translate := ⟨_, rfl⟩
  have hkeep (die ctx va : Nat) (b : Bool) : (translate die ctx va b).1.Inv := htr ▸ inv_translate h
  rw [← htr]
  split
  · exact safe_next h
  · split
    · exact safe_next h
    · refine safe_ite (safe_next h) ?_
      dsimp only
      refine safe_ite (safe_next (inv_put h)) ?_
      split
      · exact safe_next (inv_put (inv_of_fst (hkeep _ _ _ _) ‹_›))
      · have ht := inv_of_fst (hkeep _ _ _ _) ‹_›
        exact safe_ite (safe_next ht) (safe_next (inv_put ht))

theorem safe_resumeFromRetention (r : Nat) : Safe (execResumeFromRetention r s) := by
  unfold execResumeFromRetention
  split
  · exact safe_ite (safe_next (inv_sched (inv_setRegion h))) (safe_next h)
  · exact safe_next h

theorem safe_gateRegion (r : Nat) : Safe (execGateRegion r s) := by
  unfold execGateRegion
  split
  · exact safe_ite (safe_next (by exact inv_dropMasks (inv_setRegion h))) (safe_next h)
  · exact safe_next h

theorem safe_regionRelease (r : Nat) : Safe (execRegionRelease r s) := by
  unfold execRegionRelease
  split
  · exact safe_ite (safe_next (inv_releaseRegion h)) (safe_next h)
  · exact safe_next h

theorem safe_restore (l die : Nat) (pl : Placement) : Safe (execRestore l die pl s) := by
  unfold execRestore
  -- names of their own keep the kernel from reading the image's pages
  obtain ⟨place, hplace⟩ : ∃ f, f = s.placeAgain := ⟨_, rfl⟩
  obtain ⟨fits, hfits⟩ : ∃ f, f = s.restoreAt? := ⟨_, rfl⟩
  rw [← hplace, ← hfits]
  split
  · exact safe_next h
  · refine safe_ite (safe_next h) ?_
    split
    · exact safe_next h
    · dsimp only
      split
      · refine safe_next (inv_sched (inv_setRegion ?_))
        split
        · exact inv_ite (by exact inv_cachePut h) (inv_freeRegion (inv_cachePut h))
        · exact inv_cachePut h
      · exact safe_next h

/-! ### Quiescence -/

theorem inv_endPart {r : Nat} {reg : Region} {g : GraphSt} : (s.endPart r reg g).Inv :=
  inv_ite (inv_endLaunch h) (inv_sched (inv_setRegion h))

theorem inv_switchPart {r : Nat} {reg : Region} {g : GraphSt} : (s.switchPart r reg g).Inv := by
  exact inv_setRegion h

theorem inv_forceSaves {r : Nat} : (s.forceSaves r).Inv := by
  unfold State.forceSaves
  refine inv_checkParked (inv_foldl (fun t c ht => ?_) h _)
  split
  · exact inv_setGraph ht
  · exact ht

theorem inv_deadlock {r : Nat} {reg : Region} : (s.deadlock r reg).Inv := inv_endLaunch h

theorem safe_owlQuiescence (r : Nat) : Safe (execOwlQuiescence r s) := by
  unfold execOwlQuiescence
  split
  · exact safe_next h
  · split
    · exact safe_next h
    · refine safe_ite (safe_next (inv_switchPart h)) (safe_ite (safe_ite (safe_next (inv_forceSaves h)) (safe_next h))
        (safe_ite (safe_next h) (safe_ite (safe_next (inv_endPart h)) (safe_ite ?_ (safe_next (inv_deadlock h))))))
      split
      · exact safe_next h
      · exact safe_next (inv_setRegion h)

theorem safe_externalWaitExpiry (r : Nat) : Safe (execExternalWaitExpiry r s) := by
  unfold execExternalWaitExpiry
  split
  · exact safe_next h
  · split
    · exact safe_next h
    · exact safe_ite (safe_next (inv_deadlock h)) (safe_next h)

end

end Sys2Proof.Proofs.Invariant
end

section
/-! The invariant through the platform, through every event, and through a step. -/

namespace Sys2Proof.Proofs.Invariant

open Sys2Proof Sys2Proof.Machine Sys2Proof.Proofs.Firings

section
variable {s : State} (h : s.Inv)
include h

/-! ### Boot -/

theorem inv_plat {p : PlatSt} : ({ s with plat := p } : State).Inv := h

theorem inv_safe {reason k : Nat} : (s.safe reason k).Inv := inv_ite h h

theorem inv_bootFailed {k : Nat} : (s.bootFailed k).Inv := by
  unfold State.bootFailed
  exact inv_ite (inv_safe (inv_mailed (inv_plat h))) (by exact h)

theorem inv_stepFailed {stage : Nat} {f : BootFail} : (s.stepFailed stage f).Inv := by
  unfold State.stepFailed
  dsimp only
  split
  · exact inv_ite (inv_bootFailed (inv_plat h)) (inv_safe (inv_plat h))
  · exact inv_safe (inv_plat h)

theorem inv_loadStage {stage : Nat} : (s.loadStage stage).Inv := by
  unfold State.loadStage
  split
  · exact h
  · exact inv_safe (inv_plat h)

theorem inv_startIo1 : s.startIo1.Inv := by
  unfold State.startIo1
  split
  · exact h
  · exact inv_safe (inv_plat h)

theorem inv_lastBoot {f : Option BootFail} : (s.lastBoot f).Inv := by
  unfold State.lastBoot
  split
  · exact inv_stepFailed h
  · exact inv_ite (inv_bootFailed h) h

/-- Stage 2 leaves no byte listed, which is canonical. -/
theorem inv_stage2 {l : List (Nat × Nat)} : (s.stage2 l).Inv := ⟨rfl, h.2⟩

theorem inv_stage0 {f : Option BootFail} : (s.stage0 f).Inv :=
  inv_ite (inv_lastBoot h) (inv_loadStage (by exact inv_lastBoot h))

theorem inv_stageDone {stage : Nat} {run : StageRun} : (s.stageDone stage run).Inv := by
  unfold State.stageDone
  split
  · exact inv_ite (inv_startIo1 h) (inv_loadStage (inv_startIo1 h))
  · exact inv_loadStage (inv_stage2 h)
  · exact h

/-- A reset keeps the bytes, and its region slots are those of `State.reset`. -/
theorem inv_restarted : s.restarted.Inv := ⟨h.1, List.length_replicate⟩

theorem safe_bootStage (fin : StageEnd) (run : StageRun) : Safe (execBootStage fin run s) := by
  unfold execBootStage
  split
  · cases fin with
    | done => exact safe_next (inv_stage0 h)
    | failed f => exact safe_next (inv_stage0 h)
    | cut x => exact safe_next (inv_restarted h)
  · cases fin with
    | done => exact safe_next (inv_stageDone (inv_plat h))
    | failed f => exact safe_ite (safe_next (inv_stageDone (by exact h))) (safe_next (inv_stepFailed (by exact h)))
    | cut x => exact safe_next (inv_restarted (by exact h))
  · exact safe_next h

/-! ### Service life -/

theorem safe_attestationRequest (nonce : List Byte) : Safe (execAttestationRequest nonce s) :=
  safe_ite (safe_next h) (safe_next h)

theorem inv_planMargin {c m : Nat} : (s.planMargin c m).Inv := h

theorem safe_marginReplan (plan : MarginPlan) (slack : Slack) : Safe (execMarginReplan plan slack s) := by
  unfold execMarginReplan
  refine safe_ite (safe_next h) ?_
  cases slack with
  | ok => exact safe_next (inv_planMargin h)
  | slow => exact safe_next (inv_mailed (inv_plat (inv_planMargin h)))
  | failed => exact safe_next (inv_mailed (inv_plat (inv_planMargin h)))

theorem inv_abortAll : s.abortAll.Inv := inv_foldl (fun _ _ hs => inv_endLaunch hs) h _

theorem safe_thermalThreshold (deciC : Nat) : Safe (execThermalThreshold deciC s) := by
  unfold execThermalThreshold
  have ht : ({ s with plat := { s.plat with hottest := deciC } } : State).mailed.Inv := inv_mailed (inv_plat h)
  exact safe_ite (safe_next (inv_safe (inv_abortAll ht)))
    (safe_ite (safe_next (inv_plat ht)) (safe_ite (safe_next (inv_plat ht)) (safe_next ht)))

/-! ### Time, errors and the choice of a slot -/

theorem inv_tick {n : Nat} : (s.tick n).Inv := ⟨h.1, by
  unfold State.tick
  rw [List.length_map, List.length_zipIdx]
  exact h.2⟩

theorem inv_sramError {r e : Nat} {words : List Nat} : (s.sramError r e words).Inv := by
  unfold State.sramError
  split
  · exact h
  · split
    · exact inv_put h
    · exact h

theorem inv_issue {r e : Nat} {t : State} {i : Except DecodeErr Instr} (ht : s.issue? r e = some (t, i)) : t.Inv := by
  unfold State.issue? at ht
  split at ht
  · cases ht
  · split at ht
    · cases ht
    · cases ht
      exact inv_modRegion h

/-! ### Every event -/

theorem safe_exec (i : Instr) : Safe (exec i s) := by
  cases hev : i.isEvent with
  | false => exact safe_of_keeping h (keeping_exec hev)
  | true =>
    cases i
    case tokenArrive r e n b => exact safe_tokenArrive h r e n b
    case pairStep r e => exact safe_pairStep h r e
    case streamTokenTake r e t => exact safe_streamTokenTake h r e t
    case loadEngineToken r e k => exact safe_loadEngineToken h r e k
    case furtherTokenPush r e => exact safe_furtherTokenPush h r e
    case incompleteFiringResume r e => exact safe_incompleteFiringResume h r e
    case streamEnginePush r e k => exact safe_streamEnginePush h r e k
    case send r e k => exact safe_send h r e k
    case perform k bad => exact safe_perform h k bad
    case egress k => exact safe_egress h k
    case deliver k res => exact safe_deliver h k res
    case push r e which => exact safe_push h r e which
    case memoryReply k => exact safe_memoryReply h k
    case fill x => exact safe_fill h x
    case apply x => exact safe_apply h x
    case updateReplay k => exact safe_updateReplay h k
    case joinfRelease r e => exact safe_joinfRelease h r e
    case fenceComplete r e => exact safe_fenceComplete h r e
    case counterRaise k => exact safe_counterRaise h k
    case barrierArrival k => exact safe_barrierArrival h k
    case scanEnd decl row bad => exact safe_scanEnd h decl row bad
    case declarationAccept r e => exact safe_declarationAccept h r e
    case declarationWithdraw decl row => exact safe_declarationWithdraw h decl row
    case putsSignal k => exact safe_putsSignal h k
    case switchReduce group => exact safe_switchReduce h group
    case destinationUnreachable dest => exact safe_destinationUnreachable h dest
    case drainMarkerPass r e => exact safe_drainMarkerPass h r e
    case owlQuiescence r => exact safe_owlQuiescence h r
    case externalWaitExpiry r => exact safe_externalWaitExpiry h r
    case signalCounterAdvance l => exact safe_signalCounterAdvance h l
    case launchWindowWrite ctx off bytes => exact safe_launchWindowWrite h ctx off bytes
    case timeTriggerStart idx => exact safe_timeTriggerStart h idx
    case launchWaitMet l => exact safe_launchWaitMet h l
    case admission die pl => exact safe_admission h die pl
    case agePromotion l => exact safe_agePromotion h l
    case regionArm r => exact safe_regionArm h r
    case resumeFromRetention r => exact safe_resumeFromRetention h r
    case gateRegion r => exact safe_gateRegion h r
    case regionRelease r => exact safe_regionRelease h r
    case preemptionStart r => exact safe_preemptionStart h r
    case elementSave r e => exact safe_elementSave h r e
    case freeze r => exact safe_freeze h r
    case freezeScan r => exact safe_freezeScan h r
    case scanOut r => exact safe_scanOut h r
    case faultService r d => exact safe_faultService h r d
    case flthReply r e id d => exact safe_flthReply h r e id d
    case restore l die pl => exact safe_restore h l die pl
    case shootdown ctx va => exact safe_shootdown h ctx va
    case badgerVisit frame => exact safe_badgerVisit h frame
    case bucketRefill die => exact safe_bucketRefill h die
    case configRegisterWrite w => exact safe_configRegisterWrite h w
    case reset => exact safe_next (inv_restarted h)
    case bootStage fin run => exact safe_bootStage h fin run
    case mailboxUpdate p c d => exact safe_next (inv_mailed (inv_plat h))
    case attestationRequest nonce => exact safe_attestationRequest h nonce
    case marginReplan plan slack => exact safe_marginReplan h plan slack
    case thermalThreshold d => exact safe_thermalThreshold h d
    case supplyFault => exact safe_next (inv_safe h)
    case hostCxlAccess a => exact safe_hostCxlAccess h a
    case controlCoreAccess core line req => exact safe_controlCoreAccess h core line req
    case invalidationAcknowledge agent line => exact safe_invalidationAcknowledge h agent line
    case linkPacketArrival p => exact safe_linkPacketArrival h p
    case deviceClockDiscipline ns => exact safe_next h
    all_goals cases hev

/-! ### A step -/

theorem safe_fire (r e : Nat) : Safe (s.fire r e) := by
  unfold State.fire
  split
  · exact safe_next h
  · exact fun t ht => nomatch ht
  · exact safe_exec (inv_issue h ‹_›) _

theorem safe_act (x : Act) : Safe (s.act x) := by
  cases x with
  | fire r e => exact safe_ite (safe_next h) (safe_fire h r e)
  | event i => exact safe_ite (safe_exec h i) (safe_next h)

omit h in
theorem safe_acts (l : List Act) {s : State} (h : s.Inv) : Safe (s.acts l) := by
  induction l generalizing s with
  | nil => exact safe_next h
  | cons x l ih =>
    unfold State.acts
    split
    · exact ih (safe_act h x _ ‹_›)
    · rename_i hx
      exact fun t ht => absurd ht (hx t)

theorem safe_take (ch : Choice) : Safe (s.take ch) := by
  cases ch with
  | fire r e => exact safe_act h (.fire r e)
  | event i => exact safe_act h (.event i)
  | cycle l => exact safe_acts _ h
  | tick n => exact safe_next (inv_ite h (inv_tick h))
  | evictError words => exact safe_next (inv_ite h h)
  | sramError r e words => exact safe_next (inv_ite h (inv_sramError h))

end

/-- Settles O54: every operation on the state keeps memory canonical and the number of region slots, through every firing and
every event. -/
theorem invariantKept : Obligations.InvariantKept := by
  intro s t h ht
  unfold step at ht
  split at ht
  · exact safe_take (by exact h) _ t ht
  · exact safe_take (by exact h) _ t ht

end Sys2Proof.Proofs.Invariant
end

section
/-! R255 to R257, R265, R271 to R275: port checks, loads, stores, atomics and deterministic groups as they issue. -/

namespace Sys2Proof.Proofs.MemoryRuns

open Sys2Proof Sys2Proof.Machine Sys2Proof.Proofs.ControlRuns

/-! ### Issue and completion of a memory firing (R258, R259) -/

theorem issue_next (c : Ctx) (s : State) (srcs : List Src) (el : Elem) (pop pw : BitVec 4) (outs : List OutF)
    (accs : List Access) : c.issue s srcs el pop pw outs accs = .next (c.issued s srcs el pop pw outs accs) := rfl

theorem memFinish_next {c : Ctx} {s : State} {el : Elem} {l : List (Fin 4 × Token)} {pop rd : BitVec 4} (hset : c.inSets l) :
    c.memFinish s el l pop rd = .next (c.memDone s el l pop rd) := finish_next hset

theorem memFinish_nil {c : Ctx} {s : State} {el : Elem} {pop rd : BitVec 4} :
    c.memFinish s el [] pop rd = .next (c.memDone s el [] pop rd) := memFinish_next rfl

theorem not_poisoned_of_clean {c : Ctx} {x : Src} (hclean : c.clean [x]) : ¬ (c.poisoned x = true) := by
  simpa [Ctx.clean] using hclean

theorem not_any_of_clean {c : Ctx} {l : List Src} (hclean : c.clean l) : ¬ (l.any c.poisoned = true) := by
  rw [hclean]; decide

/-- The tag check of a load's output is that of a push (R71). -/
theorem loadTagOk_outOf (c : Ctx) (d : Dst) (t : Token) : c.loadTagOk (outOf? d) t = c.g.tagsOk c.e (pushesOf d t) := by
  cases d <;> simp [Ctx.loadTagOk, outOf?, pushesOf, GraphSt.tagsOk]

theorem loadTagOk_some (c : Ctx) (o : Fin 4) (t : Token) : c.loadTagOk (some o) t = c.g.tagsOk c.e [(o, t)] :=
  loadTagOk_outOf c (.out o) t

theorem loadTagOk_of_inSets {c : Ctx} {d : Dst} {t : Token} (h : c.inSets (pushesOf d t)) :
    ¬ ((!c.loadTagOk (outOf? d) t) = true) := by
  rw [loadTagOk_outOf, h]; decide

theorem not_loadTagOk_of_not_inSets {c : Ctx} {d : Dst} {t : Token} (h : ¬ c.inSets (pushesOf d t)) :
    (!c.loadTagOk (outOf? d) t) = true := by
  rw [loadTagOk_outOf, Bool.eq_false_iff.mpr h]; rfl

/-! ### The port checks (R256) -/

theorem sizeOf?_of_le {n : Nat} (h : n ≤ 5) : sizeOf? n = some (32 / 2 ^ n) := by
  interval_cases n <;> rfl

theorem sizeOf?_of_lt {n : Nat} (h : 5 < n) : sizeOf? n = none := by
  simp only [sizeOf?]
  rw [if_neg (by omega), if_neg (by omega), if_neg (by omega), if_neg (by omega), if_neg (by omega), if_neg (by omega)]

theorem pageBytes?_of_lt {n : Nat} (h : n < 96) :
    pageBytes? (n / 32) = some (if n < 32 then 2 ^ 16 else if n < 64 then 2 ^ 21 else 2 ^ 30) := by
  have hn : n / 32 = 0 ∧ n < 32 ∨ n / 32 = 1 ∧ 32 ≤ n ∧ n < 64 ∨ n / 32 = 2 ∧ 64 ≤ n := by omega
  rcases hn with ⟨hq, h1⟩ | ⟨hq, h1, h2⟩ | ⟨hq, h1⟩
  · rw [hq, if_pos h1]; rfl
  · rw [hq, if_neg (by omega), if_pos h2]; rfl
  · rw [hq, if_neg (by omega), if_neg (by omega)]; rfl

theorem pageBytes?_of_ge {n : Nat} (h : 96 ≤ n) : pageBytes? (n / 32) = none := by
  simp only [pageBytes?]
  rw [if_neg (by omega), if_neg (by omega), if_neg (by omega)]

/-- A reserved size, page size or memory type raises PARAM. -/
theorem addrParse_error {a : Payload}
    (h : 6 ≤ (lane32 a 5).toNat ∨ 96 ≤ (lane32 a 4).toNat ∨ (lane32 a 4).toNat / 2 % 4 = 3) :
    addrParse a = .error trapPARAM := by
  simp only [addrParse]
  split
  · rename_i n p hn hp
    rcases h with h | h | h
    · rw [sizeOf?_of_lt h] at hn; cases hn
    · rw [pageBytes?_of_ge h] at hp; cases hp
    · rw [if_pos h]
  · rfl

theorem addrParse_ok {a : Payload} (hsize : (lane32 a 5).toNat ≤ 5) (hpage : (lane32 a 4).toNat < 96)
    (hmt : (lane32 a 4).toNat / 2 % 4 ≠ 3) :
    addrParse a = .ok ⟨pair64 a 0, pair64 a 2, pair64 a 6, 32 / 2 ^ (lane32 a 5).toNat,
      if (lane32 a 4).toNat < 32 then 2 ^ 16 else if (lane32 a 4).toNat < 64 then 2 ^ 21 else 2 ^ 30,
      (lane32 a 4).toNat / 2 % 4⟩ := by
  simp only [addrParse, sizeOf?_of_le hsize, pageBytes?_of_lt hpage, if_neg hmt]

/-- An address word that passes all three checks is the one that its fields give. -/
theorem addrParse_of_addrCheck {a : Payload} {w : AddrWord} (h : addrCheck a = .ok w) : addrParse a = .ok w := by
  unfold addrCheck at h
  split at h
  · cases h
  · split at h
    · cases h
    · split at h
      · cases h
      · rw [‹addrParse a = _›]
        exact h

section
variable {s : State} {c : Ctx} (hs : s.ctx? = some c)
include hs

/-! ### LD and ST (R265) -/

theorem ld_trap {f : XForm} {o : Fin 4} {k : Nat} (hd : f.dst = .out o) (hclean : c.clean [f.sa])
    (hw : addrCheck (c.src 0 f.sa) = .error k) : exec (.ld f) s = .next (s.raiseTrap c.r c.e c.slot k 0) := by
  have hi : exec (.ld f) s = execLd f s := rfl
  simp only [hi, execLd, withCtx_of hs, hd, outOf?, if_neg (not_poisoned_of_clean hclean), hw]
  rfl

theorem ld_runs {f : XForm} {o : Fin 4} {w : AddrWord} (hd : f.dst = .out o) (hclean : c.clean [f.sa])
    (hw : addrCheck (c.src 0 f.sa) = .ok w) (hset : c.inSets [(o, c.loadTok f.cnt f.sa)]) :
    exec (.ld f) s = .next (c.issued s [f.sa] c.el f.pop 0
      [{ c.out s 0xD0 with
          va := BitVec.ofNat 64 w.va, cls := 1, dst := some o, cmp := cmpOf f.cnt, hd := some (c.loadTok f.cnt f.sa) }]
      [c.access s.nextId s.nextId 0xD0 .load w 0]) := by
  have hi : exec (.ld f) s = execLd f s := rfl
  simp only [hi, execLd, withCtx_of hs, hd, outOf?, if_neg (not_poisoned_of_clean hclean), hw]
  exact if_neg (loadTagOk_of_inSets (d := .out o) hset)

theorem ld_format {f : XForm} {o : Fin 4} {w : AddrWord} (hd : f.dst = .out o) (hclean : c.clean [f.sa])
    (hw : addrCheck (c.src 0 f.sa) = .ok w) (hset : ¬ c.inSets [(o, c.loadTok f.cnt f.sa)]) :
    exec (.ld f) s = .next (s.raiseTrap c.r c.e c.slot 2 0) := by
  have hi : exec (.ld f) s = execLd f s := rfl
  simp only [hi, execLd, withCtx_of hs, hd, outOf?, if_neg (not_poisoned_of_clean hclean), hw]
  exact if_pos (not_loadTagOk_of_not_inSets (d := .out o) hset)

theorem st_runs {f : XForm} {w : AddrWord} (hclean : c.clean [f.sa, f.sb]) (hw : addrCheck (c.src 0 f.sa) = .ok w) :
    exec (.st f) s = .next (c.issued s [f.sa, f.sb] c.el f.pop 0
      [{ c.out s 0xD1 with va := BitVec.ofNat 64 w.va, cmp := cmpOf f.cnt }]
      [c.access s.nextId s.nextId 0xD1 .store w (c.src 0 f.sb)]) := by
  have hi : exec (.st f) s = execSt f s := rfl
  simp only [hi, execSt, withCtx_of hs, if_neg (not_any_of_clean hclean), hw]
  rfl

/-! ### Atomics (R271, R272) -/

omit hs in
theorem atomicAddr_ok {max : Nat} {a : Payload} {w : AddrWord} (hw : addrCheck a = .ok w) (hlo : 4 ≤ w.size)
    (hhi : w.size ≤ max) : atomicAddr max a = .ok w := by
  have hsize : ¬ ((decide (w.size < 4) || decide (max < w.size)) = true) := by simp; omega
  simp only [atomicAddr, addrParse_of_addrCheck hw, if_neg hsize, hw]

omit hs in
/-- An atomic outside a group issues one access, or raises FORMAT. -/
theorem atomic_outside {f : XForm} {opc max : Nat} {inGroup : Bool} {w : AddrWord} (hclean : c.clean [f.sa, f.sb])
    (hw : addrCheck (c.src 0 f.sa) = .ok w) (hlo : 4 ≤ w.size) (hhi : w.size ≤ max) (hq : c.el.issuer = none) :
    (c.inSets (pushesOf f.dst (c.loadTok f.cnt f.sa)) →
      c.atomic s f opc max inGroup = .next (c.issued s [f.sa, f.sb] c.el f.pop 0
        [{ c.out s opc with
            va := BitVec.ofNat 64 w.va, cls := 1, dst := outOf? f.dst, cmp := cmpOf f.cnt
            hd := some (c.loadTok f.cnt f.sa) }]
        [c.access s.nextId s.nextId opc (.atomic opc (c.g.record (f.cnt.extractLsb' 0 3))) w (c.src 0 f.sb)])) ∧
    (¬ c.inSets (pushesOf f.dst (c.loadTok f.cnt f.sa)) →
      c.atomic s f opc max inGroup = .next (s.raiseTrap c.r c.e c.slot 2 0)) := by
  simp only [Ctx.atomic, if_neg (not_any_of_clean hclean), hq, atomicAddr_ok hw hlo hhi]
  exact ⟨fun hset => if_neg (loadTagOk_of_inSets hset), fun hset => if_pos (not_loadTagOk_of_not_inSets hset)⟩

omit hs in
/-- An atomic of a group issues a numbered update. -/
theorem atomic_inside {f : XForm} {opc max : Nat} {w : AddrWord} {q : Issuer} (hclean : c.clean [f.sa, f.sb])
    (hw : addrCheck (c.src 0 f.sa) = .ok w) (hlo : 4 ≤ w.size) (hhi : w.size ≤ max) (hq : c.el.issuer = some q)
    (hd : ∀ o, f.dst ≠ .out o) :
    c.atomic s f opc max true = .next (c.issued s [f.sa, f.sb]
      { c.el with issuer := some { q with useq := q.useq + 1 } } f.pop 0
      [{ c.out s opc with va := BitVec.ofNat 64 w.va, cmp := cmpOf f.cnt }]
      [c.access s.nextId s.nextId opc (.update opc (c.g.record (f.cnt.extractLsb' 0 3)) q.group q.issuer q.useq) w
        (c.src 0 f.sb)]) := by
  have hout : outOf? f.dst = none := by
    cases hdst : f.dst with
    | out o => exact absurd hdst (hd o)
    | _ => rfl
  simp only [Ctx.atomic, if_neg (not_any_of_clean hclean), hq, hout, atomicAddr_ok hw hlo hhi]
  rfl

end

theorem exec_atomic {s : State} {c : Ctx} (hs : s.ctx? = some c) {f : XForm} {i : Instr} {opc max : Nat}
    (hi : (i, opc, max) ∈ [(.aadd f, 0xD8, 32), (.amax f, 0xD9, 32), (.amin f, 0xDA, 32), (.axchg f, 0xDB, 32),
      (.acas f, 0xDC, 16), (.aor f, 0xDD, 32), (.aand f, 0xDE, 32)]) :
    exec i s = c.atomic s f opc max (decide (opc ≠ 0xDB ∧ opc ≠ 0xDC)) := by
  simp only [List.mem_cons, Prod.mk.injEq, List.not_mem_nil, or_false] at hi
  rcases hi with h | h | h | h | h | h | h <;> obtain ⟨rfl, rfl, rfl⟩ := h <;> exact withCtx_of hs _

/-! ### The obligations -/

/-- Settles O23: each answers the access that its operands name, or the trap FORMAT. -/
theorem accessesIssue : Obligations.AccessesIssue := by
  constructor
  · intro s c f w hs hw
    refine ⟨fun o t hd hclean ht => ?_, fun hclean => st_runs hs hclean hw⟩
    subst ht
    exact ⟨fun hset => ld_runs hs hd hclean hw hset, fun hset => ld_format hs hd hclean hw hset⟩
  · intro s c f i opc max w fmt hs hclean hfmt hi hw hlo hhi
    subst hfmt
    rw [exec_atomic hs hi]
    refine ⟨fun t hq ht => ?_, fun q hq hx hy hd => ?_⟩
    · subst ht
      exact atomic_outside hclean hw hlo hhi hq
    · rw [decide_eq_true ⟨hx, hy⟩]
      exact atomic_inside hclean hw hlo hhi hq hd

/-- Settles O24: the first of the three checks that fails gives the trap of LD. -/
theorem portChecksInOrder : Obligations.PortChecksInOrder := by
  intro s c f o a attr pa limit n page hs hd hclean ha hattr hpa hlimit
  subst ha hattr hpa hlimit
  refine ⟨fun h => ld_trap hs hd hclean ?_, fun hsize hpage hmt hn hp => ?_⟩
  · simp only [addrCheck, addrParse_error h]
    rfl
  · have hparse := addrParse_ok hsize hpage hmt
    rw [← hn, ← hp] at hparse
    refine ⟨fun hal => ld_trap hs hd hclean ?_, fun hal hlim => ld_trap hs hd hclean ?_, fun hal hlo hhi => ?_⟩
    · simp only [addrCheck, hparse, if_pos hal]
      rfl
    · have hbad : (decide (pair64 (c.src 0 f.sa) 2 < pair64 (c.src 0 f.sa) 0 + n) ||
          decide (pair64 (c.src 0 f.sa) 0 + page < pair64 (c.src 0 f.sa) 2)) = true := by simpa using hlim
      simp only [addrCheck, hparse, if_neg (not_not_intro hal), if_pos hbad]
      rfl
    · have hgood : ¬ ((decide (pair64 (c.src 0 f.sa) 2 < pair64 (c.src 0 f.sa) 0 + n) ||
          decide (pair64 (c.src 0 f.sa) 0 + page < pair64 (c.src 0 f.sa) 2)) = true) := by
        rw [Bool.or_eq_true, decide_eq_true_iff, decide_eq_true_iff]; omega
      simp only [addrCheck, hparse, if_neg (not_not_intro hal), if_neg hgood]

/-! ### Deterministic groups (R273, R275) -/

section
variable {s : State} {c : Ctx} (hs : s.ctx? = some c)
include hs

theorem adet_runs {f : RForm} {m : MemSt} {q : Issuer} (hclean : c.clean [f.sa]) (hq : c.el.issuer = none)
    (hopen : s.openGroup c.reg.ctx (c.opA f) = some (m, q)) :
    exec (.adet f) s = .next (c.memDone { s with mem := m } ({ c.el with issuer := some q }.withPw f.pw false) [] f.pop
      (readMask [f.sa])) := by
  have hi : exec (.adet f) s = execAdet f s := rfl
  rw [Ctx.opA] at hopen
  simp only [hi, execAdet, withCtx_of hs, if_neg (not_poisoned_of_clean hclean), hq, Option.isSome_none, Bool.false_eq_true,
    if_false, hopen]
  exact memFinish_nil

omit hs in
theorem openGroup_limits {ctx : Nat} {a : Payload} (hg : (lane32 a 0).toNat ≤ 255)
    (hi : (lane32 a 1).toNat < (lane32 a 2).toNat) (hm : (lane32 a 2).toNat ≤ 1024)
    (hk : s.holdsCounter ctx (lane32 a 3).toNat = true) :
    ¬ ((decide (255 < (lane32 a 0).toNat) || decide ((lane32 a 2).toNat = 0) || decide (1024 < (lane32 a 2).toNat) ||
      decide ((lane32 a 2).toNat ≤ (lane32 a 1).toNat) || !s.holdsCounter ctx (lane32 a 3).toNat) = true) := by
  simp [hk]; omega

theorem aclose_runs {f : XForm} {q : Issuer} (hq : c.el.issuer = some q) :
    exec (.aclose f) s = .next (c.issued s [] { c.el with issuer := none } f.pop 0
      [{ c.out s 0xE0 with cmp := cmpOf f.cnt }]
      [{ c.access s.nextId s.nextId 0xE0 (.close q.group q.issuer) ⟨0, 0, 0, 0, 0, 0⟩ 0 with cost := 0 }]) := by
  have hi : exec (.aclose f) s = execAclose f s := rfl
  simp only [hi, execAclose, withCtx_of hs, hq]
  rfl

end

/-- Settles O25: a group that is there is joined, one that is not is created, and ACLOSE sends its close. -/
theorem deterministicGroupsOpenAndClose : Obligations.DeterministicGroupsOpenAndClose := by
  intro s c hs
  refine ⟨fun f g i m k hclean hq hg hi hm hk hg' hi' hm' hk' => ?_, fun f q hq => aclose_runs hs hq⟩
  subst hg hi hm hk
  have hlim := openGroup_limits (s := s) hg' hi' hm' hk'
  refine ⟨fun hnone => adet_runs hs hclean hq ?_, fun x hx hxm hxk hxi => adet_runs hs hclean hq ?_⟩
  · simp only [State.openGroup, if_neg hlim, hnone]
  · have hsame : ¬ ((decide (x.m ≠ (lane32 (c.opA f) 2).toNat) || decide (x.counter ≠ (lane32 (c.opA f) 3).toNat) ||
        x.opened.contains (lane32 (c.opA f) 1).toNat) = true) := by simp only [hxm, hxk, hxi]; simp
    simp only [State.openGroup, if_neg hlim, hx, if_neg hsame]

end Sys2Proof.Proofs.MemoryRuns
end

section
/-! R260, R269, R270: loads and stores of a window, and its write-back and invalidation, as they issue. -/

namespace Sys2Proof.Proofs.MemoryRuns

open Sys2Proof Sys2Proof.Machine

/-- The completion that is due at once, as an option of a list. -/
theorem dueNow_eq (o : OutF) (no : Nat) :
    o.dueNow no = (o.cmp.map fun k => [⟨o.id, k, cmpTok o.seq o.va o.opc 0, no⟩]).getD [] := by
  unfold OutF.dueNow
  cases o.cmp <;> rfl

theorem needsFill_load {x : SSt} {off n : Nat} {b : Bool} (h : x.anyInvalid off n = b) : x.needsFill false off n = b := by
  simp [SSt.needsFill, h]

theorem needsFill_store (x : SSt) (off n : Nat) : x.needsFill true off n = true ↔ n < 4 ∧ x.anyInvalid off n = true := by
  simp [SSt.needsFill, and_comm]

section
variable {s : State} {c : Ctx} (hs : s.ctx? = some c) {x : SSt} (hx : c.el.ks = .s x)
include hs hx

/-! ### LDW (R260, R269) -/

section
variable {f : XForm} {o : Fin 4} {w : Fin 8} {off n : Nat} {out : OutF} (hd : f.dst = .out o) (hclean : c.clean [f.sa])
  (hw : x.windowCheck (c.src 0 f.sa) false = .ok (w, off, n)) (hset : c.inSets [(o, c.loadTok f.cnt f.sa)])
  (hout : out = { c.out s 0xD2 with
    va := BitVec.ofNat 64 ((x.windows.get w).vaAt off), cls := 1, dst := some o, cmp := cmpOf f.cnt
    hd := some (c.loadTok f.cnt f.sa), arg := c.src 0 f.sa })
include hd hclean hw hset hout

/-- LDW past its checks: a fill, a wait behind earlier accesses, or its token at once. -/
theorem ldw_eq : exec (.ldw f) s =
    if x.needsFill false off n then
      c.issue s [f.sa] c.el f.pop 0 [out] (c.fillAcc s.nextId s.nextId 0xD2 x (x.windows.get w) w off)
    else if c.el.wordsBusy (wordsOf off n) then c.issue s [f.sa] c.el f.pop 0 [out] []
    else c.issue s.performNo.1 [f.sa] { c.el with dues := c.el.dues ++ out.dueNow s.mem.performs } f.pop 0
      [{ out with data := [x.loadTok (c.loadTok f.cnt f.sa) off n], ready := true }] [] := by
  subst hout
  have hi : exec (.ldw f) s = execLdw f s := rfl
  simp only [hi, execLdw, withCtx_of hs, Ctx.withS, hx, hd, outOf?, if_neg (not_poisoned_of_clean hclean), hw]
  exact if_neg (loadTagOk_of_inSets (d := .out o) hset)

theorem ldw_fills (hinv : x.anyInvalid off n = true) :
    exec (.ldw f) s = .next (c.issued s [f.sa] c.el f.pop 0 [out]
      (c.fillAcc s.nextId s.nextId 0xD2 x (x.windows.get w) w off)) := by
  rw [ldw_eq hs hx hd hclean hw hset hout, needsFill_load hinv]
  rfl

theorem ldw_waits (hinv : x.anyInvalid off n = false) (hbusy : c.el.wordsBusy (wordsOf off n) = true) :
    exec (.ldw f) s = .next (c.issued s [f.sa] c.el f.pop 0 [out] []) := by
  rw [ldw_eq hs hx hd hclean hw hset hout, needsFill_load hinv, hbusy]
  rfl

theorem ldw_reads (hinv : x.anyInvalid off n = false) (hbusy : c.el.wordsBusy (wordsOf off n) = false) :
    exec (.ldw f) s = .next (c.issued { s with mem := { s.mem with performs := s.mem.performs + 1 } } [f.sa]
      { c.el with dues := c.el.dues ++
          (out.cmp.map fun k => [⟨s.nextId, k, cmpTok c.el.seq out.va 0xD2 0, s.mem.performs⟩]).getD [] } f.pop 0
      [{ out with data := [x.loadTok (c.loadTok f.cnt f.sa) off n], ready := true }] []) := by
  rw [ldw_eq hs hx hd hclean hw hset hout, needsFill_load hinv, hbusy, dueNow_eq]
  subst hout
  rfl

end

/-! ### STW (R260, R269) -/

section
variable {f : XForm} {w : Fin 8} {off n : Nat} {out : OutF} (hclean : c.clean [f.sa, f.sb])
  (hw : x.windowCheck (c.src 0 f.sa) true = .ok (w, off, n))
  (hout : out = { c.out s 0xD3 with
    va := BitVec.ofNat 64 ((x.windows.get w).vaAt off), cmp := cmpOf f.cnt, arg := c.src 0 f.sa, arg2 := c.src 0 f.sb })
include hclean hw hout

/-- STW past its checks, which needs a fill. -/
theorem stw_fills (hfill : x.needsFill true off n = true) :
    exec (.stw f) s = .next (c.issued s [f.sa, f.sb] c.el f.pop 0 [out]
      (c.fillAcc s.nextId s.nextId 0xD3 x (x.windows.get w) w off)) := by
  subst hout
  have hi : exec (.stw f) s = execStw f s := rfl
  simp only [hi, execStw, withCtx_of hs, Ctx.withS, hx, if_neg (not_any_of_clean hclean), hw]
  exact if_pos hfill

theorem stw_waits (hfill : ¬ x.needsFill true off n = true) (hbusy : c.el.wordsBusy (wordsOf off n) = true) :
    exec (.stw f) s = .next (c.issued s [f.sa, f.sb] c.el f.pop 0 [out] []) := by
  subst hout
  have hi : exec (.stw f) s = execStw f s := rfl
  simp only [hi, execStw, withCtx_of hs, Ctx.withS, hx, if_neg (not_any_of_clean hclean), hw, if_neg hfill]
  exact if_pos hbusy

/-- STW that writes its window: the element as it leaves it, its masks sent home, and then its issue there. -/
theorem stw_writes (hfill : ¬ x.needsFill true off n = true) (hbusy : c.el.wordsBusy (wordsOf off n) = false)
    {fix : Access → Access} {el : Elem} {t u : State} (ht : t = { s with mem := { s.mem with performs := s.mem.performs + 1 } })
    (hfix : fix = restored (wordsOf off n) c.e c.reg.launch (x.windows.get w) w.val s.nextId)
    (hel : el = { c.el with
      ks := .s (x.storeWords s.nextId off (toBytes (c.src 0 f.sb) n)), issueQ := c.el.issueQ.map fix
      dues := c.el.dues ++
        (out.cmp.map fun k => [⟨s.nextId, k, cmpTok c.el.seq out.va 0xD3 0, s.mem.performs⟩]).getD [] })
    (hu : u = (c.put { t with nextId := s.nextId + 2, mem := { t.mem with reqs := t.mem.reqs.map fix } } el).storeMasks c
      (s.nextId + 1) s.nextId (x.windows.get w) w off n) :
    exec (.stw f) s = .next (((u.at? c.r c.e c.slot).map fun d =>
      d.issued u [f.sa, f.sb] d.el f.pop 0 (if out.cmp.isSome then [{ out with ready := true }] else []) []).getD u) := by
  have hi : exec (.stw f) s = execStw f s := rfl
  have hmk : c.put { t with nextId := s.nextId + 2, mem := { t.mem with reqs := t.mem.reqs.map fix } } el =
      c.put { s with nextId := s.nextId + 2, mem := { s.mem with
        performs := s.mem.performs + 1, reqs := s.mem.reqs.map fix } } { c.el.setS
          (x.storeWords s.nextId off (toBytes (c.src 0 f.sb) n)) with
        dues := c.el.dues ++ out.dueNow s.mem.performs, issueQ := c.el.issueQ.map fix } := by
    rw [ht, hel, dueNow_eq, hout]
    rfl
  rw [hmk] at hu
  subst hout hfix
  have hexec : exec (.stw f) s = (match u.at? c.r c.e c.slot with
      | some d => d.issue u [f.sa, f.sb] d.el f.pop 0 (if (cmpOf f.cnt).isSome then [{ c.out s 0xD3 with
          va := BitVec.ofNat 64 ((x.windows.get w).vaAt off), cmp := cmpOf f.cnt, arg := c.src 0 f.sa, arg2 := c.src 0 f.sb
          ready := true }] else []) []
      | none => .next u) := by
    simp only [hi, execStw, withCtx_of hs, Ctx.withS, hx, if_neg (not_any_of_clean hclean), hw, if_neg hfill, hbusy,
      Bool.false_eq_true, if_false]
    rw [hu]
    rfl
  rw [hexec]
  cases u.at? c.r c.e c.slot <;> rfl

end

/-! ### WSYNC, WINV and WCLOSE (R270) -/

section
variable {f : XForm} {w : Fin 8} {win : Window} (hwf : w = Fin.ofNat 8 (f.cnt.toNat % 8)) (hwin : win = x.windows.get w)
  (hm : win.mapped = true) (hc : win.closing = false)
include hwf hwin hm hc

theorem wsync_runs : exec (.wsync f) s = .next (c.issued s [] c.el f.pop 0 [c.winOut s.nextId 0xD5 f win]
    (c.wbacks s.nextId 0xD5 x w)) := by
  have hi : exec (.wsync f) s = execWsync f s := rfl
  subst hwin hwf
  simp only [hi, execWsync, withCtx_of hs, Ctx.withS, hx]
  exact if_neg (by simp only [winOf, hm, hc]; decide)

theorem wclose_runs : exec (.wclose f) s = .next (c.issued s []
    { c.el with ks := .s { x with windows := x.windows.set w { win with closing := true } } } f.pop 0
    [c.winOut s.nextId 0xD7 f win] (c.wbacks s.nextId 0xD7 x w)) := by
  have hi : exec (.wclose f) s = execWclose f s := rfl
  subst hwin hwf
  simp only [hi, execWclose, withCtx_of hs, Ctx.withS, hx]
  exact if_neg (by simp only [winOf, hm, hc]; decide)

theorem winv_runs {keep : Nat → Bool} {again : Access → Access}
    (hkeep : keep = fun k => x.dirty.contains k || decide (4 * k < win.off) || decide (win.off + win.len ≤ 4 * k))
    (hagain : s.refill c.r c.e c.reg.gen w = { s with mem := { s.mem with reqs := s.mem.reqs.map again } }) :
    exec (.winv f) s = .next (c.issued { s with mem := { s.mem with
        performs := s.mem.performs + 1, reqs := s.mem.reqs.map again } } []
      { c.el with
        ks := .s { x with valid := x.valid.filter keep, poison := x.poison.filter keep }
        dues := c.el.dues ++ (c.winOut s.nextId 0xD6 f win).dueNow s.mem.performs } f.pop 0
      (if (c.winOut s.nextId 0xD6 f win).cmp.isSome then [{ c.winOut s.nextId 0xD6 f win with ready := true }] else []) []) := by
  have hi : exec (.winv f) s = execWinv f s := rfl
  have hw : winOf f.cnt = w := hwf.symm
  subst hkeep
  simp only [hi, execWinv, withCtx_of hs, Ctx.withS, hx]
  rw [hw, ← hwin, hagain, if_neg (by rw [hm, hc]; decide)]
  exact issue_next c _ [] _ f.pop 0 _ []

end

end

/-- The refill of a window starts its fills anew and leaves every other access. -/
theorem refill_eq {s : State} {r e : Nat} {gen : BitVec 12} {w : Fin 8} {again : Access → Access}
    (hfill : ∀ a off mask, a.kind = .fill w.val off mask → a.r = r → a.e = e → a.gen = gen → again a = { a with prog := .start })
    (hother : ∀ a, ¬ ((∃ off mask, a.kind = .fill w.val off mask) ∧ a.r = r ∧ a.e = e ∧ a.gen = gen) → again a = a) :
    s.refill r e gen w = { s with mem := { s.mem with reqs := s.mem.reqs.map again } } := by
  have h (a : Access) : (match a.kind with
      | .fill v _ _ => if a.r == r && a.e == e && a.gen == gen && v == w.val then { a with prog := .start } else a
      | _ => a) = again a := by
    split
    · rename_i v off mask hk
      split
      · rename_i hb
        simp only [Bool.and_eq_true, beq_iff_eq] at hb
        obtain ⟨⟨⟨hr, he⟩, hg⟩, hv⟩ := hb
        exact (hfill a off mask (hv ▸ hk) hr he hg).symm
      · rename_i hb
        refine (hother a fun ⟨⟨_, _, hk'⟩, hr, he, hg⟩ => hb ?_).symm
        cases hk.symm.trans hk'
        simp [hr, he, hg]
    · rename_i hk
      exact (hother a fun ⟨⟨off, mask, hk'⟩, _⟩ => hk _ _ _ hk').symm
  have hl : s.mem.reqs.map again = s.mem.reqs.map fun a => match a.kind with
      | .fill v _ _ => if a.r == r && a.e == e && a.gen == gen && v == w.val then { a with prog := .start } else a
      | _ => a := List.map_congr_left fun a _ => (h a).symm
  rw [hl]
  rfl

/-- Settles O26: the cases of a load and of a store of a window, and the three firings on a whole window. -/
theorem windowFiringsIssue : Obligations.WindowFiringsIssue := by
  constructor
  · intro s c f x w off n win busy out t hs hx hwin hbusy ht
    subst hwin hbusy
    refine ⟨fun o hd hclean hw hset hout => ?_, fun hclean hw hout => ?_⟩
    · refine ⟨ldw_fills hs hx hd hclean hw hset hout, ldw_waits hs hx hd hclean hw hset hout, fun hinv hbusy => ?_⟩
      subst ht
      exact ldw_reads hs hx hd hclean hw hset hout hinv hbusy
    · refine ⟨fun hn hinv => ?_, fun hnot hbusy => ?_, fun hnot hbusy fix el u hfix hel hu => ?_⟩
      · exact stw_fills hs hx hclean hw hout ((needsFill_store x off n).mpr ⟨hn, hinv⟩)
      · exact stw_waits hs hx hclean hw hout (mt (needsFill_store x off n).mp hnot) hbusy
      · exact stw_writes hs hx hclean hw hout (mt (needsFill_store x off n).mp hnot) hbusy ht hfix hel hu
  · intro s c f x w win out hs hx hwf hwin hm hc hout
    have ho (opc : Nat) : out opc = c.winOut s.nextId opc f win := by rw [hout, hwf]; rfl
    refine ⟨?_, ?_, fun keep again hkeep hfill hother => ?_⟩
    · rw [ho]
      exact wsync_runs hs hx hwf hwin hm hc
    · rw [ho]
      exact wclose_runs hs hx hwf hwin hm hc
    · rw [ho, winv_runs hs hx hwf hwin hm hc hkeep (refill_eq hfill hother), dueNow_eq]
      rfl

end Sys2Proof.Proofs.MemoryRuns
end

section
/-! R278 to R283: declarations asked for and withdrawn, address streams started, parking and translation. -/

namespace Sys2Proof.Proofs.MemoryRuns

open Sys2Proof Sys2Proof.Machine

theorem inSets_tok {c : Ctx} {d : Dst} {k : BitVec 4} {l : List Src} {tag : Option (BitVec 3)} {v : Payload}
    (h : c.inSets (pushesOf d (c.tok k l tag 0))) : c.inSets (pushesOf d (c.tok k l tag v)) :=
  (tagsOk_pushesOf c d k l tag v 0).trans h

theorem not_inSets_tok {c : Ctx} {d : Dst} {k : BitVec 4} {l : List Src} {tag : Option (BitVec 3)} {v : Payload}
    (h : ¬ c.inSets (pushesOf d (c.tok k l tag 0))) : ¬ c.g.tagsOk c.e (pushesOf d (c.tok k l tag v)) = true := by
  rw [tagsOk_pushesOf c d k l tag v 0]
  exact h

section
variable {s : State} {c : Ctx} (hs : s.ctx? = some c)
include hs

/-! ### DRVX and DRVQ (R278, R351) -/

section
variable {f : RForm} (hclean : c.clean [f.sa])
include hclean

theorem drvx_format (hset : ¬ c.inSets (pushesOf f.dst (c.tok f.md [f.sa] none 0))) :
    exec (.drvx f) s = .next (s.raiseTrap c.r c.e c.slot 2 0) := by
  have hi : exec (.drvx f) s = execDrvx f s := rfl
  rw [hi, execDrvx, withCtx_of hs, if_neg (not_poisoned_of_clean hclean)]
  exact if_neg (not_inSets_tok hset)

theorem drvq_format (hset : ¬ c.inSets (pushesOf f.dst (c.tok f.md [f.sa] none 0))) :
    exec (.drvq f) s = .next (s.raiseTrap c.r c.e c.slot 2 0) := by
  have hi : exec (.drvq f) s = execDrvq f s := rfl
  rw [hi, execDrvq, withCtx_of hs, if_neg (not_poisoned_of_clean hclean)]
  exact if_neg (not_inSets_tok hset)

theorem drvx_runs (hset : c.inSets (pushesOf f.dst (c.tok f.md [f.sa] none 0))) {h st : Nat} {ctr : Option Nat} {r : Payload}
    (hh : h = (lane32 (c.opA f) 0).toNat) (hctr : ctr = counterOf (lane32 (c.opA f) 1))
    (hst : st = s.drvxStatus c.reg.ctx h ctr) (hr : r = drvRes h st) :
    exec (.drvx f) s = .next (c.memDone (if st = 0 then s.modDecl h fun d => { d with withdraw := some ctr } else s)
      ((c.el.writeDst f.dst r).withPw f.pw (decide (st ≠ 0))) (pushesOf f.dst (c.tok f.md [f.sa] none r)) f.pop
      (readMask [f.sa])) := by
  have hi : exec (.drvx f) s = execDrvx f s := rfl
  rw [Ctx.opA] at hh hctr
  subst hh hctr hst hr
  have hne (n : Nat) : (n != 0) = decide (n ≠ 0) := by cases n <;> rfl
  rw [hi, execDrvx, withCtx_of hs, if_neg (not_poisoned_of_clean hclean)]
  dsimp only
  rw [hne]
  exact (if_pos (inSets_tok hset)).trans (memFinish_next (inSets_tok hset))

theorem drvq_runs (hset : c.inSets (pushesOf f.dst (c.tok f.md [f.sa] none 0))) {r : Payload}
    (hr : r = drvqRes (s.declOf? c.reg.ctx (lane32 (c.opA f) 0).toNat)) :
    exec (.drvq f) s = .next (c.memDone s ((c.el.writeDst f.dst r).withPw f.pw (lowNonzero r))
      (pushesOf f.dst (c.tok f.md [f.sa] none r)) f.pop (readMask [f.sa])) := by
  have hi : exec (.drvq f) s = execDrvq f s := rfl
  rw [Ctx.opA] at hr
  subst hr
  rw [hi, execDrvq, withCtx_of hs, if_neg (not_poisoned_of_clean hclean)]
  exact memFinish_next (inSets_tok hset)

end

/-! ### AGEN and AGSTR (R279 to R281) -/

theorem agen_runs {x : ESt} (hx : c.el.ks = .e x) {f : RForm} {st w : Nat} (hclean : c.clean [f.sa, f.sb]) (hst : st < 8)
    (hw : w < 8) (hb : (c.opB f).toNat = st + 16 * w) (hrun : x.runs st = false) :
    exec (.agen f) s = .next (c.memDone s
      ({ c.el with ks := .e { x with agen := sset 0 x.agen (8 * st + w) (c.opA f) } }.withPw f.pw false) [] f.pop
      (readMask [f.sa, f.sb])) := by
  have hi : exec (.agen f) s = execAgen f s := rfl
  have hst' : (c.src f.md f.sb).toNat % 8 = st := by rw [Ctx.opB] at hb; omega
  have hw' : (c.src f.md f.sb).toNat / 16 % 8 = w := by rw [Ctx.opB] at hb; omega
  have hok : ¬ ((decide ((c.src f.md f.sb).toNat ≠ st + 16 * w) || x.runs st) = true) := by
    rw [Ctx.opB] at hb
    simp [hb, hrun]
  simp only [hi, execAgen, withCtx_of hs, Ctx.withE, hx, if_neg (not_any_of_clean hclean), hst', hw', if_neg hok]
  exact memFinish_nil

/-- AGSTR past its checks: the stream starts, and its input, where it has one, is claimed. -/
theorem agstr_runs {x : ESt} (hx : c.el.ks = .e x) {f : XForm} {st : Nat} {o : Fin 4} {input : Option (Fin 4)} {held : Bool}
    {el : Elem} (hst : st = f.cnt.toNat % 8) (hd : f.dst = .out o) (hin : input = headOf? f.sa) (hrun : x.runs st = false)
    (hfree : ∀ i, input = some i → (c.el.ins.get i).claimed = false)
    (hheld : held = ((counterOf (x.streamCounter st)).map (s.holdsCounter c.reg.ctx)).getD true)
    (hok : x.descOk st held = true) (hmode : x.mode st = 3 ↔ input.isSome = true)
    (hel : el = { c.el with ks := .e { x with
      streams := x.streams ++ [⟨s.nextId, st, c.slot, some o, input, 0, 0, false, none⟩] } }) :
    exec (.agstr f) s = .next (c.memDone { s with nextId := s.nextId + 1 }
      ((input.map fun i => el.modInput i fun n => { n with claimed := true }).getD el) [] f.pop 0) := by
  have hi : exec (.agstr f) s = execAgstr f s := rfl
  have hmode' : ((x.mode st == 3) != input.isSome) = false := by
    rw [bne_eq_false_iff_eq, Bool.eq_iff_iff, beq_iff_eq]
    exact hmode
  simp only [hi, execAgstr, withCtx_of hs, Ctx.withE, hx, hd, outOf?, ← hst, ← hin]
  cases hc : counterOf (x.streamCounter st) with
  | none =>
    rw [hc] at hheld
    cases input with
    | none =>
      simp only [hrun, Bool.or_self, Bool.false_eq_true, if_false]
      subst hheld hel
      rw [if_neg (by rw [hmode', Bool.or_false]; exact fun h => by rw [show x.descOk st true = true from hok] at h; cases h)]
      exact memFinish_nil
    | some i =>
      simp only [hrun, hfree i rfl, Bool.or_self, Bool.false_eq_true, if_false]
      subst hheld hel
      rw [if_neg (by rw [hmode', Bool.or_false]; exact fun h => by rw [show x.descOk st true = true from hok] at h; cases h)]
      exact memFinish_nil
  | some n =>
    rw [hc] at hheld
    replace hheld : held = s.holdsCounter c.reg.ctx n := hheld
    cases input with
    | none =>
      simp only [hrun, Bool.or_self, Bool.false_eq_true, if_false]
      rw [← hheld, if_neg (by rw [hmode', hok]; decide)]
      subst hel
      exact memFinish_nil
    | some i =>
      simp only [hrun, hfree i rfl, Bool.or_self, Bool.false_eq_true, if_false]
      rw [← hheld, if_neg (by rw [hmode', hok]; decide)]
      subst hel
      exact memFinish_nil

end

/-- Settles O27: status and query of a declaration, a word of a descriptor, and the start of a stream. -/
theorem queriesAndStreamsRun : Obligations.QueriesAndStreamsRun := by
  constructor
  · intro s c f h hs hclean hh
    refine ⟨fun hset => ⟨drvx_format hs hclean hset, drvq_format hs hclean hset⟩, fun hset => ⟨?_, _, rfl, ?_⟩⟩
    · intro st ctr r hctr hst hr
      exact drvx_runs hs hclean hset hh hctr hst hr
    · exact drvq_runs hs hclean hset (by rw [hh])
  · intro s c x hs hx
    refine ⟨fun f st w hclean hst hw hb hrun => agen_runs hs hx hclean hst hw hb hrun, ?_⟩
    intro f st o input held hst hd hin hrun hfree hheld hok hmode el hel
    exact agstr_runs hs hx hst hd hin hrun hfree hheld hok hmode hel

/-! ### Channels (R282) -/

theorem chan_num (g : GraphSt) (n : Nat) : (g.chan n).num = n := by
  unfold GraphSt.chan
  cases h : g.chans.find? fun c => c.num == n with
  | none => rfl
  | some x => exact beq_iff_eq.mp (List.find?_some (p := fun c : Chan => c.num == n) h)

theorem find_written {l : List Chan} {x : Chan} (h : l.any (fun c => c.num == x.num) = true) :
    (l.map fun c => if c.num = x.num then x else c).find? (fun c => c.num == x.num) = some x := by
  induction l with
  | nil => cases h
  | cons z l ih =>
    rw [List.map_cons, List.find?_cons]
    by_cases hz : z.num = x.num
    · simp [hz]
    · rw [List.any_cons, beq_false_of_ne hz, Bool.false_or] at h
      rw [if_neg hz, beq_false_of_ne hz]
      exact ih h

theorem find_other (l : List Chan) {x : Chan} {k : Nat} (hk : k ≠ x.num) :
    (l.map fun c => if c.num = x.num then x else c).find? (fun c => c.num == k) = l.find? fun c => c.num == k := by
  induction l with
  | nil => rfl
  | cons z l ih =>
    rw [List.map_cons, List.find?_cons, List.find?_cons, ih]
    by_cases hz : z.num = x.num
    · rw [if_pos hz, hz, beq_false_of_ne (Ne.symm hk)]
    · rw [if_neg hz]

/-- A channel that is written reads as written. -/
theorem chan_setChan_same {g : GraphSt} {x : Chan} {n : Nat} (hx : x.num = n) : (g.setChan x).chan n = x := by
  subst hx
  unfold GraphSt.setChan GraphSt.chan
  dsimp only
  split
  · rw [find_written ‹_›]
    rfl
  · rename_i h
    have hn : g.chans.find? (fun c => c.num == x.num) = none :=
      List.find?_eq_none.mpr fun y hy hyn => h (List.any_eq_true.mpr ⟨y, hy, hyn⟩)
    rw [List.find?_append, hn]
    simp

/-- Writing a channel leaves the others. -/
theorem chan_setChan_ne {g : GraphSt} {x : Chan} {k : Nat} (hk : k ≠ x.num) : (g.setChan x).chan k = g.chan k := by
  unfold GraphSt.setChan GraphSt.chan
  dsimp only
  split
  · rw [find_other _ hk]
  · have hx : [x].find? (fun c => c.num == k) = none := by simp [Ne.symm hk]
    rw [List.find?_append, hx, Option.or_none]

/-- What writing a channel of the same number and capacity leaves of the graph. -/
theorem setChan_spec {g : GraphSt} {n : Nat} {x : Chan} {l : List Token} (hn : x.num = n) (hcap : x.cap = (g.chan n).cap)
    (hl : x.store ++ x.spill = l) :
    ((g.setChan x).chan n).store ++ ((g.setChan x).chan n).spill = l ∧ ((g.setChan x).chan n).cap = (g.chan n).cap ∧
      (∀ k, k ≠ n → (g.setChan x).chan k = g.chan k) ∧ g.setChan x = { g with chans := (g.setChan x).chans } := by
  rw [chan_setChan_same hn]
  exact ⟨hl, hcap, fun k hk => chan_setChan_ne (hn ▸ hk), rfl⟩

/-- A channel or its pool with room takes a token at its end. -/
theorem park_room {g : GraphSt} {n : Nat} {t : Token}
    (h : ((g.chan n).spill = [] ∧ (g.chan n).store.length < (g.chan n).cap) ∨ g.spilled < g.spillCap) :
    ∃ y : Chan, g.park n t = some (g.setChan y) ∧ y.num = n ∧ y.cap = (g.chan n).cap ∧
      y.store ++ y.spill = (g.chan n).store ++ (g.chan n).spill ++ [t] := by
  unfold GraphSt.park
  dsimp only
  by_cases hr : (g.chan n).spill = [] ∧ (g.chan n).store.length < (g.chan n).cap
  · refine ⟨{ g.chan n with store := (g.chan n).store ++ [t] }, if_pos (by simpa using hr), chan_num g n, rfl, ?_⟩
    simp [hr.1]
  · refine ⟨{ g.chan n with spill := (g.chan n).spill ++ [t] }, ?_, chan_num g n, rfl, by simp⟩
    rw [if_neg (by simpa using hr), if_pos (h.resolve_left hr)]

theorem park_full {g : GraphSt} {n : Nat} {t : Token} (h : ¬ ((g.chan n).spill = [] ∧ (g.chan n).store.length < (g.chan n).cap))
    (hpool : g.spillCap ≤ g.spilled) : g.park n t = none := by
  unfold GraphSt.park
  dsimp only
  rw [if_neg (by simpa using h), if_neg (by omega)]

/-- The oldest token of a channel leaves it, and the rest stay in order. -/
theorem unpark_oldest {g : GraphSt} {n : Nat} {t : Token} {r : List Token} (h : (g.chan n).store ++ (g.chan n).spill = t :: r) :
    ∃ y : Chan, g.unpark n = some (t, g.setChan y) ∧ y.num = n ∧ y.cap = (g.chan n).cap ∧ y.store ++ y.spill = r := by
  unfold GraphSt.unpark
  cases hst : (g.chan n).store with
  | cons a l =>
    rw [hst, List.cons_append] at h
    obtain ⟨rfl, rfl⟩ := List.cons.inj h
    cases hsp : (g.chan n).spill with
    | cons b m => exact ⟨{ g.chan n with store := l ++ [b], spill := m }, by simp [hst, hsp], chan_num g n, rfl, by simp⟩
    | nil => exact ⟨{ g.chan n with store := l }, by simp [hst, hsp], chan_num g n, rfl, by simp [hsp]⟩
  | nil =>
    rw [hst, List.nil_append] at h
    exact ⟨{ g.chan n with spill := r }, by simp [hst, h], chan_num g n, rfl, by simp [hst]⟩

section
variable {s : State} {c : Ctx} (hs : s.ctx? = some c) (f : XForm)
include hs

theorem park_runs {t : Token} {g : GraphSt} (ht : t = (c.srcTok? f.sa).getD (c.tok 0 [f.sa] none (c.src 0 f.sa)))
    (hg : c.g.park f.cnt.toNat t = some g) :
    exec (.park f) s = .next (({ c with g := g } : Ctx).memDone s c.el [] f.pop (readMask [f.sa])) := by
  have hi : exec (.park f) s = execPark f s := rfl
  subst ht
  simp only [hi, execPark, withCtx_of hs, hg]
  exact memFinish_nil

theorem park_spills {t : Token} (ht : t = (c.srcTok? f.sa).getD (c.tok 0 [f.sa] none (c.src 0 f.sa)))
    (hg : c.g.park f.cnt.toNat t = none) : exec (.park f) s = .next (s.raiseTrap c.r c.e c.slot 12 0) := by
  have hi : exec (.park f) s = execPark f s := rfl
  subst ht
  simp only [hi, execPark, withCtx_of hs, hg]
  rfl

theorem unpark_runs {t : Token} {g : GraphSt} (hg : c.g.unpark f.cnt.toNat = some (t, g)) (hedges : g.edges = c.g.edges)
    (hset : c.inSets (pushesOf f.dst t)) :
    exec (.unpark f) s = .next (({ c with g := g } : Ctx).memDone s c.el (pushesOf f.dst t) f.pop 0) := by
  have hi : exec (.unpark f) s = execUnpark f s := rfl
  have hset' : ({ c with g := g } : Ctx).inSets (pushesOf f.dst t) := by
    have hedge (o : Fin 4) : g.edge? c.e o = c.g.edge? c.e o := by unfold GraphSt.edge?; rw [hedges]
    have htag (o : Fin 4) : g.tagOk c.e o t = c.g.tagOk c.e o t := by unfold GraphSt.tagOk; rw [hedge]
    cases hd : f.dst with
    | out o =>
      rw [hd] at hset
      simpa [Ctx.inSets, pushesOf, GraphSt.tagsOk, htag] using hset
    | _ => rfl
  simp only [hi, execUnpark, withCtx_of hs, hg]
  exact memFinish_next hset'

end

/-- Settles O28: PARK appends to the channel's storage and then to its pool, UNPARK takes its oldest token. -/
theorem parkingQueuesTokens : Obligations.ParkingQueuesTokens := by
  intro s c f n x hs hn hx
  subst hn hx
  refine ⟨fun t ht => ⟨fun hroom => ?_, fun hfull hpool => ?_⟩, fun t r hq hset => ?_⟩
  · obtain ⟨y, hpark, hnum, hcap, hq⟩ := park_room (t := t) hroom
    obtain ⟨hq', hcap', hother, hrest⟩ := setChan_spec hnum hcap hq
    exact ⟨_, hq', hcap', hother, hrest, park_runs hs f ht hpark⟩
  · exact park_spills hs f ht (park_full hfull hpool)
  · obtain ⟨y, hun, hnum, hcap, hr⟩ := unpark_oldest hq
    obtain ⟨hq', hcap', hother, hrest⟩ := setChan_spec hnum hcap hr
    exact ⟨_, hq', hcap', hother, hrest, unpark_runs hs f hun rfl hset⟩

/-! ### Translation (R283) -/

section
variable {s : State} {c : Ctx} (hs : s.ctx? = some c) {x : ESt} (hx : c.el.ks = .e x) {f : RForm} (hclean : c.clean [f.sa])
include hs hx hclean

theorem xinv_runs : exec (.xinv f) s =
    .next (c.issued s [f.sa] c.el f.pop f.pw [{ c.out s 0xE9 with arg := c.opA f }] []) := by
  have hi : exec (.xinv f) s = execXinv f s := rfl
  simp only [hi, execXinv, withCtx_of hs, Ctx.withE, hx, if_neg (not_poisoned_of_clean hclean)]
  rfl

section
variable {o : Fin 4} {intent last : Bool} {coord : BitVec 16} {va : Nat} {out : State → OutF} (hd : f.dst = .out o)
  (hva : va = pair64 (c.opA f) 0) (hlim : (lane32 (c.opA f) 2).toNat ≤ 1)
  (hintent : intent = decide ((lane32 (c.opA f) 2).toNat = 1)) (hside : (last, coord) = c.sideOf [f.sa])
  (hout : out = fun u => { c.out u 0xE8 with
    va := BitVec.ofNat 64 va, cls := 2, dst := some o, arg := c.opA f, hd := some ⟨1, .data, last, false, coord, 0⟩ })

omit hs hx hclean in
include hlim hintent in
theorem intent_bit : (lane32 (c.opA f) 2).getLsbD 0 = intent := by
  rw [hintent, BitVec.getLsbD, Nat.testBit_zero, decide_eq_decide]
  omega

omit hs hx in
include hclean hlim in
theorem xlatTrap?_none : c.xlatTrap? f = none := by
  unfold Ctx.xlatTrap?
  rw [if_neg (not_poisoned_of_clean hclean), if_neg (by rw [Ctx.opA] at hlim; omega)]

include hd hva hlim hintent hside hout

/-- XLAT past its checks, with the entry that hits and with what the node answers at once. -/
theorem xlat_eq {hit : Option TlbEnt} {now : Option (Except Nat Payload)}
    (hhit : (if 2 ^ 56 ≤ va then none else x.tlbHit? c.reg.ctx va) = hit) (hnow : c.xlatNow? x va intent = now) :
    exec (.xlat f) s =
      (let u := hit.elim s fun t => s.touchTlb t va
       let y := now.elim { out u with miss := true } fun r =>
         { out u with data := [xlatTok r va intent last coord], ready := true }
       if y.data.all fun t => c.g.tagOk c.e o t then c.issue u [f.sa] c.el f.pop f.pw [y] [] else c.trap s trapFORMAT) := by
  have hi : exec (.xlat f) s = execXlat f s := rfl
  have hbit : (lane32 (c.src f.md f.sa) 2).getLsbD 0 = intent := intent_bit hlim hintent
  subst hout
  rw [hi, execXlat, withCtx_of hs]
  -- names of their own keep the kernel from comparing the address with 2^56
  obtain ⟨nowOf, hnowOf⟩ : ∃ g, g = c.xlatNow? := ⟨_, rfl⟩
  obtain ⟨pair, hpair⟩ : ∃ g, g = pair64 := ⟨_, rfl⟩
  obtain ⟨trap, htrap⟩ : ∃ g, g = c.xlatTrap? := ⟨_, rfl⟩
  have htrap' : trap f = none := htrap ▸ xlatTrap?_none hclean hlim
  have hva' : pair (c.src f.md f.sa) 0 = va := by rw [hpair]; exact hva.symm
  rw [← hnowOf] at hnow ⊢
  rw [← hpair, ← htrap]
  simp only [Ctx.withE, hx, hd, outOf?, ← hside, htrap', hva', hbit, hhit, hnow]
  cases hit <;> cases now <;> rfl

/-- An XLAT with the answer of its node: its token is ready at once, or raises FORMAT. -/
theorem xlat_answered {hit : Option TlbEnt} {r : Except Nat Payload} {u : State} (hu : u = hit.elim s fun t => s.touchTlb t va)
    (hhit : (if 2 ^ 56 ≤ va then none else x.tlbHit? c.reg.ctx va) = hit) (hnow : c.xlatNow? x va intent = some r) :
    (c.inSets [(o, xlatTok r va intent last coord)] → exec (.xlat f) s = .next (c.issued u [f.sa] c.el f.pop f.pw
      [{ out u with data := [xlatTok r va intent last coord], ready := true }] [])) ∧
    (¬ c.inSets [(o, xlatTok r va intent last coord)] → exec (.xlat f) s = .next (s.raiseTrap c.r c.e c.slot 2 0)) := by
  rw [xlat_eq hs hx hclean hd hva hlim hintent hside hout hhit hnow, ← hu]
  exact ⟨fun h => if_pos h, fun h => if_neg h⟩

/-- An XLAT that its node does not answer waits for the walker. -/
theorem xlat_misses (hhit : (if 2 ^ 56 ≤ va then none else x.tlbHit? c.reg.ctx va) = none)
    (hnow : c.xlatNow? x va intent = none) :
    exec (.xlat f) s = .next (c.issued s [f.sa] c.el f.pop f.pw [{ out s with miss := true }] []) := by
  rw [xlat_eq hs hx hclean hd hva hlim hintent hside hout hhit hnow]
  subst hout
  rfl

end

end

/-- Settles O29: above 2^56 code 3, below it a hit or a miss of the node; XINV is outstanding. -/
theorem translationIssues : Obligations.TranslationIssues := by
  intro s c f x va hs hx hclean hva
  refine ⟨fun o intent last coord out hd hlim hintent hside hout => ⟨fun hbig => ?_, fun t tok u hsmall ht htok hu => ?_,
    fun hsmall hmiss => ?_⟩, xinv_runs hs hx hclean⟩
  · exact (xlat_answered hs hx hclean hd hva hlim hintent hside hout (u := s) (hit := none) rfl (if_pos hbig)
      (if_pos hbig)).1 (tagsOk_control c (.out o) _ rfl)
  · have hnot : ¬ 2 ^ 56 ≤ va := Nat.not_le.mpr hsmall
    have hnow : c.xlatNow? x va intent = some (leafResult t.leaf va intent) := by
      rw [Ctx.xlatNow?, if_neg hnot, ht]
      rfl
    subst htok
    exact xlat_answered hs hx hclean hd hva hlim hintent hside hout (hit := some t) hu ((if_neg hnot).trans ht) hnow
  · have hnot : ¬ 2 ^ 56 ≤ va := Nat.not_le.mpr hsmall
    have hnow : c.xlatNow? x va intent = none := by
      rw [Ctx.xlatNow?, if_neg hnot, hmiss]
      rfl
    exact xlat_misses hs hx hclean hd hva hlim hintent hside hout ((if_neg hnot).trans hmiss) hnow

end Sys2Proof.Proofs.MemoryRuns
end

section
/-! R284 to R299: fences, counters, barriers, link operations and system instructions, as they issue. -/

namespace Sys2Proof.Proofs.MemoryRuns

open Sys2Proof Sys2Proof.Machine Sys2Proof.Proofs.ControlRuns

/-- A payload with a 64-bit value in its low lanes and nothing above is the wide result of that value. -/
theorem eq_resWide {v : Payload} {n : BitVec 64} (hlow : v.extractLsb' 0 64 = n) (hhigh : ∀ l, 2 ≤ l → lane32 v l = 0) :
    v = resWide n := by
  subst hlow
  apply BitVec.eq_of_getLsbD_eq
  intro i hi
  rw [resWide, BitVec.getLsbD_setWidth, BitVec.getLsbD_extractLsb']
  by_cases h : i < 64
  · simp [h, hi]
  · have hl := congrArg (·.getLsbD (i % 32)) (hhigh (i / 32) (by omega))
    have hmod : i % 32 < 32 := Nat.mod_lt _ (by decide)
    simp only [lane32, lane, BitVec.getLsbD_extractLsb', hmod, decide_true, Bool.true_and] at hl
    rw [show 32 * (i / 32) + i % 32 = i from Nat.div_add_mod i 32] at hl
    simp [h, hl]

section
variable {s : State} {c : Ctx} (hs : s.ctx? = some c)
include hs

/-! ### FENCE, CWAIT and CSIG (R286 to R288) -/

theorem fence_completes {f : IForm} (h : s.fenceWaits c s.nextId (fenceLevel f) = false) :
    exec (.fence f) s = .next (c.memDone s (c.el.withPw f.pw false) [] f.pop 0) := by
  have hi : exec (.fence f) s = execFence f s := rfl
  rw [hi, execFence, withCtx_of hs, if_neg (by rw [h]; decide)]
  exact memFinish_nil

theorem fence_waits {f : IForm} (h : s.fenceWaits c s.nextId (fenceLevel f) = true) :
    exec (.fence f) s = .next (c.held s c.el { Firing.start c.slot (.fence f) .wait with n := s.nextId }) := by
  have hi : exec (.fence f) s = execFence f s := rfl
  rw [hi, execFence, withCtx_of hs, if_pos h]
  rfl

omit hs in
/-- Level 0 has no scope to wait for. -/
theorem fenceWaits_zero (n : Nat) : s.fenceWaits c n 0 = false := rfl

omit hs in
theorem issueReady_next (opc : Nat) (l : List Src) (d : Dst) (pop pw : BitVec 4) (t : Token) :
    c.issueReady s opc l d pop pw t = .next (c.issued s l c.el pop pw (c.readyOut s opc d t) []) := by
  cases d <;> rfl

section
variable {f : RForm} (hclean : c.clean [f.sa])
include hclean

theorem cwait_runs {v : Payload} (hheld : s.holdsCounter c.reg.ctx (lane32 (c.opA f) 0).toNat = true)
    (hmet : pair64 (c.opA f) 2 ≤ (s.mem.counter (lane32 (c.opA f) 0).toNat).toNat)
    (hlow : v.extractLsb' 0 64 = s.mem.counter (lane32 (c.opA f) 0).toNat) (hhigh : ∀ l, 2 ≤ l → lane32 v l = 0) :
    exec (.cwait f) s = .next (c.issued s [f.sa] c.el f.pop f.pw (c.readyOut s 0xEB f.dst (c.control [f.sa] 0 v)) []) := by
  have hi : exec (.cwait f) s = execCwait f s := rfl
  have hv := eq_resWide hlow hhigh
  subst hv
  rw [hi, execCwait, withCtx_of hs, if_neg (not_poisoned_of_clean hclean)]
  refine (if_neg ?_).trans ((if_neg ?_).trans (issueReady_next _ _ _ _ _ _))
  · exact fun h => by rw [show s.holdsCounter c.reg.ctx (lane32 (c.src f.md f.sa) 0).toNat = true from hheld] at h; cases h
  · rw [Ctx.opA] at hmet
    rw [State.cwaitMet, decide_eq_true hmet]
    decide

theorem csig_runs (hheld : s.holdsCounter c.reg.ctx (lane32 (c.opA f) 0).toNat = true)
    (hop : (lane32 (c.opA f) 1).toNat ≤ 1) (hne : ¬ (lane32 (c.opA f) 1 = 0 ∧ pair64 (c.opA f) 2 = 0)) :
    exec (.csig f) s = .next (c.issued s [f.sa] c.el f.pop f.pw [{ c.out s 0xEC with arg := c.opA f }] []) := by
  have hi : exec (.csig f) s = execCsig f s := rfl
  have hok : s.csigOk c.reg.ctx (c.opA f) = true := by
    have hne' : ((lane32 (c.opA f) 1 == 0) && (pair64 (c.opA f) 2 == 0)) = false := by
      rw [Bool.eq_false_iff, Ne, Bool.and_eq_true, beq_iff_eq, beq_iff_eq]
      exact hne
    rw [State.csigOk, hheld, decide_eq_true hop, hne']
    rfl
  rw [hi, execCsig, withCtx_of hs, if_neg (not_poisoned_of_clean hclean)]
  exact if_neg (by rw [show s.csigOk c.reg.ctx (c.src f.md f.sa) = true from hok]; decide)

/-! ### BARI, BARA and BARW (R289) -/

theorem bari_runs {n e : Nat} (hn : n = (lane32 (c.opA f) 0).toNat) (he : e = (lane32 (c.opA f) 1).toNat)
    (hheld : s.holdsBarrier c.reg.ctx n = true) (hne : e ≠ 0) :
    exec (.bari f) s = .next (c.memDone (s.setBarrier n ⟨e, e, 0⟩) (c.el.withPw f.pw false) [] f.pop (readMask [f.sa])) := by
  have hi : exec (.bari f) s = execBari f s := rfl
  rw [Ctx.opA] at hn he
  subst hn he
  rw [hi, execBari, withCtx_of hs, if_neg (not_poisoned_of_clean hclean)]
  refine (if_neg ?_).trans memFinish_nil
  rw [hheld, beq_false_of_ne hne]
  decide

section
variable (hheld : s.holdsBarrier c.reg.ctx (lane32 (c.opA f) 0).toNat = true)
  (hlvl : s.boundLevel c.reg.launch ((lane32 (c.opA f) 2).toNat % 8) = true)
include hheld hlvl

omit hs hclean in
theorem barOk_of_held : s.barOk c (c.src f.md f.sa) = true := by
  rw [Ctx.opA] at hheld hlvl
  rw [State.barOk, hheld, hlvl]
  rfl

theorem bara_runs (hset : (s.mem.barrier (lane32 (c.opA f) 0).toNat).expected ≠ 0) :
    exec (.bara f) s = .next (c.issued s [f.sa] c.el f.pop f.pw
      [{ c.out s 0xED with
          dst := outOf? f.dst, arg := c.opA f, level := (lane32 (c.opA f) 2).toNat % 8
          hd := some (c.control [f.sa] (c.sideOf [f.sa]).2 0) }] []) := by
  have hi : exec (.bara f) s = execBara f s := rfl
  rw [hi, execBara, withCtx_of hs, if_neg (not_poisoned_of_clean hclean)]
  refine (if_neg ?_).trans (issue_next _ _ _ _ _ _ _ _)
  rw [Ctx.opA] at hset
  rw [barOk_of_held hheld hlvl, beq_false_of_ne hset]
  decide

theorem barw_runs {d : Nat}
    (hd : d = ((s.mem.barrier (lane32 (c.opA f) 0).toNat).phase - lane32 (c.opA f) 1).toNat) (h1 : 1 ≤ d) (h2 : d ≤ 2 ^ 31) :
    exec (.barw f) s = .next (c.issued s [f.sa] c.el f.pop f.pw
      (c.readyOut s 0xEE f.dst (c.control [f.sa] (c.sideOf [f.sa]).2 0)) []) := by
  have hi : exec (.barw f) s = execBarw f s := rfl
  have hmet : s.barwMet (c.src f.md f.sa) = true := by
    rw [Ctx.opA] at hd
    rw [State.barwMet, ← hd, decide_eq_true h1, decide_eq_true h2]
    rfl
  rw [hi, execBarw, withCtx_of hs, if_neg (not_poisoned_of_clean hclean)]
  refine (if_neg ?_).trans ((if_neg ?_).trans (issueReady_next _ _ _ _ _ _))
  · rw [barOk_of_held hheld hlvl]
    decide
  · rw [hmet]
    decide

end

end

end

/-- Settles O30: with operands that may be used each goes on, issues or waits as its rule says. -/
theorem synchronisationRuns : Obligations.SynchronisationRuns := by
  constructor
  · intro s c hs
    refine ⟨fun f => ⟨fun h => fence_completes hs ?_, fence_waits hs⟩, fun f n hclean hn hheld => ?_⟩
    · rcases h with h | h
      · rw [fenceLevel, h]
        rfl
      · exact h
    · subst hn
      exact ⟨fun v hmet hlow hhigh => cwait_runs hs hclean hheld hmet hlow hhigh, csig_runs hs hclean hheld⟩
  · intro s c f n e lvl d hs hclean hn he hlvl hheld hd
    refine ⟨bari_runs hs hclean hn he hheld, fun hbound => ?_⟩
    subst hn hlvl
    exact ⟨fun hset => bara_runs hs hclean hheld hbound hset, barw_runs hs hclean hheld hbound hd⟩

/-! ### PUT, PUTS, LSEND, RED and GET (R290 to R294) -/

section
variable {s : State} {c : Ctx} (hs : s.ctx? = some c)

/-- A send engine starts and claims its input. -/
theorem startSend_next {x : ESt} (hx : c.el.ks = .e x) {f : XForm} {n : Fin 4} {i : Instr} {opc : Nat} {out : OutF}
    (hb : f.sb = .head n) (hfree : (c.el.ins.get n).claimed = false) (hopc : opc ≠ 0xF2)
    (hout : out = { c.out s opc with
      va := if opc = 0xF0 ∨ opc = 0xF1 then (c.src 0 f.sa).extractLsb' 0 64 else 0, cmp := cmpOf f.cnt, arg := c.src 0 f.sa }) :
    c.startSend s f i opc = .next (c.issued s [f.sa] (Elem.modInput { c.el with ks := .e { x with
      sends := x.sends ++ [⟨s.nextId, c.slot, opc, f.cnt, n, c.src 0 f.sa, [], c.el.seq⟩] } } n
        fun k => { k with claimed := true }) f.pop 0 [out] []) := by
  have hlink : c.linkOut s.nextId opc f.cnt (c.src 0 f.sa) = out := by
    have hva : (if opc = 0xF0 || opc = 0xF1 || opc = 0xF2 then (c.src 0 f.sa).setWidth 64 else (0 : BitVec 64)) =
        if opc = 0xF0 ∨ opc = 0xF1 then (c.src 0 f.sa).extractLsb' 0 64 else 0 := by
      rw [BitVec.setWidth_eq_extractLsb' (by decide)]
      simp [hopc]
    rw [hout, Ctx.linkOut, hva]
    rfl
  simp only [Ctx.startSend, Ctx.withE, hx, hb, headOf?, hfree, hlink]
  rfl

theorem sendOp_next {x : ESt} (hx : c.el.ks = .e x) {f : XForm} {n : Fin 4} {i : Instr} {opc : Nat} {out : OutF}
    (hclean : c.clean [f.sa]) (hok : remoteOk opc (c.src 0 f.sa) = true) (hb : f.sb = .head n)
    (hfree : (c.el.ins.get n).claimed = false) (hopc : opc ≠ 0xF2)
    (hout : out = { c.out s opc with
      va := if opc = 0xF0 ∨ opc = 0xF1 then (c.src 0 f.sa).extractLsb' 0 64 else 0, cmp := cmpOf f.cnt, arg := c.src 0 f.sa }) :
    c.sendOp s f i opc = .next (c.issued s [f.sa] (Elem.modInput { c.el with ks := .e { x with
      sends := x.sends ++ [⟨s.nextId, c.slot, opc, f.cnt, n, c.src 0 f.sa, [], c.el.seq⟩] } } n
        fun k => { k with claimed := true }) f.pop 0 [out] []) := by
  rw [Ctx.sendOp, if_neg (not_poisoned_of_clean hclean), if_neg (by rw [hok]; decide)]
  exact startSend_next hx hb hfree hopc hout

include hs

/-- RED past its checks starts its engine. -/
theorem red_eq {f : XForm} (hclean : c.clean [f.sa]) (hn : (lane32 (c.src 0 f.sa) 0).toNat ≤ 4095)
    (hg : ∀ g, s.redGroup? c.reg.ctx c.e (lane32 (c.src 0 f.sa) 0).toNat = some g →
      g.record.op = f.cnt.toNat / 64 ∧ g.redFree = true) : exec (.red f) s = c.startSend s f (.red f) 0xF3 := by
  have hi : exec (.red f) s = execRed f s := rfl
  rw [hi, execRed, withCtx_of hs, if_neg (not_poisoned_of_clean hclean), if_neg (by omega)]
  cases h : s.redGroup? c.reg.ctx c.e (lane32 (c.src 0 f.sa) 0).toNat with
  | none => rfl
  | some g =>
    obtain ⟨hop, hfree⟩ := hg g h
    dsimp only
    rw [if_neg (not_not_intro hop), if_neg (by rw [hfree]; decide)]

theorem get_runs {f : XForm} (hclean : c.clean [f.sa]) (hok : remoteOk 0xF2 (c.src 0 f.sa) = true)
    (hset : c.inSets (pushesOf f.dst (dataTok ((lane32 (c.src 0 f.sa) 7).extractLsb' 0 3) false 0 0))) :
    exec (.get f) s = .next (c.issued s [f.sa] c.el f.pop 0
      [{ c.out s 0xF2 with
          va := (c.src 0 f.sa).extractLsb' 0 64, cmp := cmpOf f.cnt, arg := c.src 0 f.sa, dst := outOf? f.dst }]
      [{ c.access (s.nextId + 1) s.nextId 0xF2 .link ⟨0, 0, 0, 0, 0, 0⟩ 0 with a := c.src 0 f.sa, cnt := f.cnt, cost := 0 }]) := by
  have hi : exec (.get f) s = execGet f s := rfl
  rw [hi, execGet, withCtx_of hs, if_neg (not_poisoned_of_clean hclean), if_neg (by rw [hok]; decide), if_neg (loadTagOk_of_inSets hset),
    ← BitVec.setWidth_eq_extractLsb' (by decide)]
  rfl

end

/-! ### REDR, LRECV and LQ (R293 to R295) -/

/-- Pushing a list leaves its first token pushed and the rest owed (R67). -/
theorem pushList_next {s : State} {c : Ctx} {i : Instr} {el : Elem} {q : List (Fin 4 × Token)} {pop rd : BitVec 4}
    (h : c.inSets q) : c.pushList s el (.start c.slot i .push) q pop rd = .next (c.pushes s i el q pop rd) := by
  match q with
  | [] => exact finish_nil
  | [x] => exact finish_next h
  | x :: y :: r => exact if_pos h

section
variable {s : State} {c : Ctx} (hs : s.ctx? = some c) {x : ESt} (hx : c.el.ks = .e x)
include hs hx

theorem redr_runs {f : XForm} (hclean : c.clean [f.sa]) {n : Nat} {g : GroupSt} {y : Round} {rest : List Round}
    {res : List Payload} {tag : BitVec 3} (hn : n = (lane32 (c.src 0 f.sa) 0).toNat) (hlim : n ≤ 4095)
    (hg : s.redGroup? c.reg.ctx c.e n = some g) (hvoid : (n, c.reg.launch, c.e) ∉ s.link.unmet)
    (hop : g.record.op = f.cnt.toNat / 64) (hr : g.rounds = y :: rest) (hres : y.result = some res)
    (htag : c.g.tagOf? g.record.fmt = some tag) (hset : c.inSets (pushesOf f.dst (dataTok tag false 0 0))) :
    exec (.redr f) s = .next (c.issued (s.setGroup n { g with rounds := rest }) [f.sa] c.el f.pop 0
      [{ c.out s 0xF4 with dst := outOf? f.dst, data := redTokens tag res, ready := true }] []) := by
  have hi : exec (.redr f) s = execRedr f s := rfl
  have howes : s.link.owesVoid n c.reg.launch c.e = false := by
    rw [LinkSt.owesVoid, List.contains_eq_mem, decide_eq_false hvoid]
  obtain ⟨o, a, k, b, r⟩ := y
  subst hn
  replace hres : r = some res := hres
  subst hres
  simp only [hi, execRedr, withCtx_of hs, Ctx.withE, hx, if_neg (not_poisoned_of_clean hclean), if_neg (Nat.not_lt.mpr hlim), hg, howes,
    Bool.false_eq_true, if_false, if_neg (not_not_intro hop), hr, htag]
  exact if_neg (loadTagOk_of_inSets hset)

theorem redr_void {f : XForm} (hclean : c.clean [f.sa]) {n : Nat} (hn : n = (lane32 (c.src 0 f.sa) 0).toNat) (hlim : n ≤ 4095)
    (hvoid : (n, c.reg.launch, c.e) ∈ s.link.unmet) :
    exec (.redr f) s = .next (State.raiseTrap (c.put { s with link := { s.link with
      unmet := s.link.unmet.erase (n, c.reg.launch, c.e) } } { c.el with ks := .e x.fail }) c.r c.e c.slot 13 0) := by
  have hi : exec (.redr f) s = execRedr f s := rfl
  have howes : s.link.owesVoid n c.reg.launch c.e = true := by
    rw [LinkSt.owesVoid, List.contains_eq_mem, decide_eq_true hvoid]
  subst hn
  simp only [hi, execRedr, withCtx_of hs, Ctx.withE, hx, if_neg (not_poisoned_of_clean hclean), if_neg (Nat.not_lt.mpr hlim), howes, if_true]
  cases s.redGroup? c.reg.ctx c.e (lane32 (c.src 0 f.sa) 0).toNat <;> rfl

theorem lrecv_runs {f : XForm} (hclean : c.clean [f.sa]) {o : Fin 4} {q : Fin 8} {p : List RxTok} {rest : List (List RxTok)}
    (hd : f.dst = .out o) (hq : q.val = (lane32 (c.src 0 f.sa) 0).toNat) (hp : x.rx.get q = p :: rest)
    (hset : c.inSets ((rxTokens p).map fun t => (o, t))) :
    exec (.lrecv f) s = .next (c.pushes s (.lrecv f) { c.el with ks := .e { x with rx := x.rx.set q rest }, seq := c.el.seq + 1 }
      ((rxTokens p).map fun t => (o, t)) f.pop (readMask [f.sa])) := by
  have hi : exec (.lrecv f) s = execLrecv f s := rfl
  have hq' : Fin.ofNat 8 (lane32 (c.src 0 f.sa) 0).toNat = q := Fin.ext (by rw [← hq]; exact Nat.mod_eq_of_lt q.isLt)
  simp only [hi, execLrecv, withCtx_of hs, Ctx.withE, hx, if_neg (not_poisoned_of_clean hclean), if_neg (by omega : ¬ 7 < (lane32 (c.src 0 f.sa) 0).toNat),
    hd, outOf?, hq', hp]
  exact pushList_next hset

/-- LQ answers the status words that MOD selects. -/
theorem lq_runs {f : RForm} {r : Payload}
    (hr : r = if f.md = 0 then ofWords ((List.range 8).map fun q => BitVec.ofNat 32 (x.rx.get (Fin.ofNat 8 q)).length)
      else ofWords [BitVec.ofNat 32 c.el.linkOuts, x.failures])
    (hset : c.inSets (pushesOf f.dst (c.tok f.md [] none 0))) :
    exec (.lq f) s = .next (c.memDone s ((c.el.writeDst f.dst r).withPw f.pw (lowNonzero r))
      (pushesOf f.dst (c.tok f.md [] none r)) f.pop 0) := by
  have hi : exec (.lq f) s = execLq f s := rfl
  simp only [hi, execLq, withCtx_of hs, Ctx.withE, hx, ← hr]
  exact memFinish_next (inSets_tok hset)

end

theorem lane32_queueLengths {x : ESt} (q : Fin 8) :
    lane32 (ofWords ((List.range 8).map fun q => BitVec.ofNat 32 (x.rx.get (Fin.ofNat 8 q)).length)) q.val =
      BitVec.ofNat 32 (x.rx.get q).length := by
  have hq : Fin.ofNat 8 q.val = q := Fin.ext (Nat.mod_eq_of_lt q.isLt)
  rw [lane32_ofWords_of_lt q.isLt, List.getD_eq_getElem?_getD, List.getElem?_map, List.getElem?_range q.isLt, Option.map_some,
    Option.getD_some, hq]

/-- Settles O31: operands in their limits start an engine or issue a request, and what has come is handed on. -/
theorem linkInstructionsRun : Obligations.LinkInstructionsRun := by
  constructor
  · intro s c f a hs hclean ha
    subst ha
    refine ⟨fun x n i opc out hx hb hfree hi hout => ?_, fun hok hset => get_runs hs hclean hok hset⟩
    have hsend (j : Instr) (k : Nat) (h : exec j s = c.sendOp s f j k) (hk : remoteOk k (c.src 0 f.sa) = true) (hne : k ≠ 0xF2)
        (ho : out = { c.out s k with
          va := if k = 0xF0 ∨ k = 0xF1 then (c.src 0 f.sa).extractLsb' 0 64 else 0, cmp := cmpOf f.cnt, arg := c.src 0 f.sa }) :=
      h.trans (sendOp_next hx hclean hk hb hfree hne ho)
    rcases hi with ⟨rfl, rfl, hok⟩ | ⟨rfl, rfl, hok⟩ | ⟨rfl, rfl, hok⟩ | ⟨rfl, rfl, hn, hg⟩
    · exact hsend _ _ (withCtx_of hs _) hok (by decide) hout
    · exact hsend _ _ (withCtx_of hs _) hok (by decide) hout
    · exact hsend _ _ (withCtx_of hs _) hok (by decide) hout
    · exact (red_eq hs hclean hn hg).trans (startSend_next hx hb hfree (by decide) hout)
  · intro s c x hs hx
    refine ⟨fun f n hclean hn => ⟨?_, fun hlim hvoid => ?_, fun o q p rest hd hq hp hset => ?_⟩, fun f hset => ?_⟩
    · intro g y rest res tag hlim hg hvoid hop hr hres htag hset
      exact redr_runs hs hx hclean hn hlim hg hvoid hop hr hres htag hset
    · exact ⟨x.fail, rfl, rfl, redr_void hs hx hclean hn hlim hvoid⟩
    · exact lrecv_runs hs hx hclean hd (hq.trans hn) hp hset
    · refine ⟨_, fun hz q => ?_, fun hz => ?_, lq_runs hs hx rfl hset⟩
      · rw [if_pos hz]
        exact lane32_queueLengths q
      · rw [if_neg hz]
        exact ⟨lane32_ofWords_of_lt (by decide), lane32_ofWords_of_lt (by decide), fun l hl => lane32_ofWords_of_le hl⟩

/-! ### LNCH, SYSC, FLTH and WALK (R285, R296, R297) -/

section
variable {s : State} {c : Ctx} (hs : s.ctx? = some c)
include hs

theorem lnch_runs {f : RForm} (hclean : c.clean [f.sa, f.sb]) :
    exec (.lnch f) s = .next (c.issued s [f.sa, f.sb] c.el f.pop f.pw
      [{ c.out s 0xF8 with
          dst := outOf? f.dst, arg := c.opA f, arg2 := c.opB f
          hd := some (c.control [f.sa, f.sb] (c.sideOf [f.sa, f.sb]).2 0) }] []) := by
  have hi : exec (.lnch f) s = execLnch f s := rfl
  rw [hi, execLnch, withCtx_of hs, if_neg (not_any_of_clean hclean)]
  rfl

section
variable {f : RForm} {t : Token} (ht : c.srcTok? f.sa = some t) (hpoison : t.poison = false) (hkind : t.kind = .control)
include ht hpoison hkind

theorem flth_issues (hcode : t.coord = 1) :
    exec (.flth f) s = .next (c.issued s [f.sa] c.el f.pop f.pw
      [{ c.out s 0xFA with
          dst := outOf? f.dst, arg := t.payload, hd := some (c.control [f.sa] (c.sideOf [f.sa]).2 0) }] []) := by
  have hi : exec (.flth f) s = execFlth f s := rfl
  rw [hi, execFlth, withCtx_of hs, ht]
  dsimp only
  rw [if_neg (by rw [hpoison]; decide), if_neg (not_not_intro hkind), if_neg (by rw [hcode]; decide), if_pos hcode]
  rfl

theorem flth_answers (hlo : 2 ≤ t.coord.toNat) (hhi : t.coord.toNat ≤ 4) :
    exec (.flth f) s = .next (c.issued s [f.sa] c.el f.pop f.pw
      (c.readyOut s 0xFA f.dst (c.control [f.sa] (c.sideOf [f.sa]).2 0)) []) := by
  have hi : exec (.flth f) s = execFlth f s := rfl
  have hzero : t.coord ≠ 0 := fun h => by rw [h] at hlo; exact absurd hlo (by decide)
  have hone : t.coord ≠ 1 := fun h => by rw [h] at hlo; exact absurd hlo (by decide)
  rw [hi, execFlth, withCtx_of hs, ht]
  dsimp only
  rw [if_neg (by rw [hpoison]; decide), if_neg (not_not_intro hkind), if_neg (by simpa using ⟨hzero, hhi⟩), if_neg hone]
  exact issueReady_next _ _ _ _ _ _

end

theorem walk_runs {f : RForm} (hclean : c.clean [f.sa]) (hlvl : (lane32 (c.opA f) 3).toNat ≤ 3) :
    exec (.walk f) s = .next (c.issued s [f.sa] c.el f.pop f.pw
      [{ c.out s 0xFE with dst := outOf? f.dst, arg := c.opA f, hd := some (c.tok f.md [f.sa] none (c.opA f)) }]
      [c.access (s.nextId + 1) s.nextId 0xFE .walk
        ⟨pteAt (pair64 (c.opA f) 4) (pair64 (c.opA f) 0) (lane32 (c.opA f) 3).toNat, 0, 0, 8, 0, 2⟩ 0]) := by
  have hi : exec (.walk f) s = execWalk f s := rfl
  rw [Ctx.opA] at hlvl
  rw [hi, execWalk, withCtx_of hs, if_neg (not_poisoned_of_clean hclean), if_neg (by omega)]
  rfl

section
variable {f : IForm} {t : Token} (hclean : c.clean [f.sa])
  (ht : t = ⟨1, .data, (c.sideOf [f.sa]).1, false, (c.sideOf [f.sa]).2, 0⟩)
include hclean ht

theorem sysc_runs (hset : c.inSets (pushesOf f.dst t)) :
    exec (.sysc f) s = .next (c.issued s [f.sa] c.el f.pop f.pw
      [{ c.out s 0xF9 with dst := outOf? f.dst, arg := c.src 0 f.sa, level := f.imm.toNat, hd := some t }] []) := by
  have hi : exec (.sysc f) s = execSysc f s := rfl
  subst ht
  rw [hi, execSysc, withCtx_of hs, if_neg (not_poisoned_of_clean hclean)]
  exact if_neg (loadTagOk_of_inSets hset)

theorem sysc_format (hset : ¬ c.inSets (pushesOf f.dst t)) :
    exec (.sysc f) s = .next (s.raiseTrap c.r c.e c.slot 2 0) := by
  have hi : exec (.sysc f) s = execSysc f s := rfl
  subst ht
  rw [hi, execSysc, withCtx_of hs, if_neg (not_poisoned_of_clean hclean)]
  exact if_pos (not_loadTagOk_of_not_inSets hset)

end

/-! ### PREQ, CKPT, TBKT and WALKL (R285, R298, R299) -/

omit hs in
theorem preReq_next {f : PForm} {ckpt : Bool} :
    c.preReq s f ckpt = .next ((c.memDone s (c.el.withSetClr f.set f.clr) [] f.pop 0).modRegion c.r (·.request ckpt)) := by
  rw [Ctx.preReq, memFinish_nil]

theorem tbkt_runs {f : RForm} {x : Bucket}
    (hx : x = (sget none s.mem.buckets (1024 * dieOf c.r + c.reg.ctx)).getD ⟨0, 0, 0, 0, false⟩)
    (hset : c.inSets (pushesOf f.dst (c.tok f.md [] none 0))) :
    exec (.tbkt f) s = .next (c.memDone s ((c.el.writeDst f.dst (bucketWords x)).withPw f.pw (lowNonzero (bucketWords x)))
      (pushesOf f.dst (c.tok f.md [] none (bucketWords x))) f.pop 0) := by
  have hi : exec (.tbkt f) s = execTbkt f s := rfl
  have hb : s.mem.bucket c.die c.reg.ctx = x := by
    rw [hx, MemSt.bucket, bucketKey, Nat.mul_comm]
    rfl
  rw [hi, execTbkt, withCtx_of hs, hb]
  exact memFinish_next (inSets_tok hset)

section
variable {f : RForm} {t : State} (hclean : c.clean [f.sa])
  (ht : t = c.memDone s (c.el.withPw f.pw false) [] f.pop (readMask [f.sa]))
include hclean ht

theorem walkl_faults {k : Token} (hk : c.srcTok? f.sa = some k) (hkind : k.kind = .control) :
    exec (.walkl f) s = .next (t.releaseXlat (lane32 (c.opA f) 2).toNat (fun _ => .error 1) fun _ => none) := by
  have hi : exec (.walkl f) s = execWalkl f s := rfl
  simp only [hi, execWalkl, withCtx_of hs, if_neg (not_poisoned_of_clean hclean), hk, hkind, memFinish_nil, ← ht]
  rfl

theorem walkl_installs (hdata : ∀ k, c.srcTok? f.sa = some k → k.kind ≠ .control) (hlane : lane32 (c.opA f) 3 = 0xFF) :
    exec (.walkl f) s = .next ((t.releaseXlat (lane32 (c.opA f) 2).toNat
        (fun o => leafResult (BitVec.ofNat 64 (pair64 (c.opA f) 6)) o.va.toNat ((lane32 o.arg 2).getLsbD 0))
        fun ctx => some (.ofLeaf ctx (walkedAt (c.opA f)) (pair64 (c.opA f) 0) (BitVec.ofNat 64 (pair64 (c.opA f) 6)))).setAccessed
      (walkedAt (c.opA f)) (pair64 (c.opA f) 0) (BitVec.ofNat 64 (pair64 (c.opA f) 6))) := by
  have hi : exec (.walkl f) s = execWalkl f s := rfl
  rw [Ctx.opA] at hlane
  cases hk : c.srcTok? f.sa with
  | none =>
    simp only [hi, execWalkl, withCtx_of hs, if_neg (not_poisoned_of_clean hclean), hk, hlane, memFinish_nil, ← ht]
    rfl
  | some k =>
    have hkind : (k.kind == .control) = false := beq_false_of_ne (hdata k hk)
    simp only [hi, execWalkl, withCtx_of hs, if_neg (not_poisoned_of_clean hclean), hk, hkind, hlane, memFinish_nil, ← ht]
    rfl

end

end

theorem bucketWords_lanes (x : Bucket) :
    lane32 (bucketWords x) 0 = BitVec.ofNat 32 x.rate ∧ lane32 (bucketWords x) 1 = BitVec.ofNat 32 x.burst ∧
      lane32 (bucketWords x) 2 = BitVec.ofNat 32 x.level ∧ lane32 (bucketWords x) 3 = BitVec.ofNat 32 x.borrowed ∧
      lane32 (bucketWords x) 4 = (if x.borrower then 1 else 0) ∧ ∀ l, 5 ≤ l → lane32 (bucketWords x) l = 0 := by
  unfold bucketWords
  exact ⟨lane32_ofWords_of_lt (by decide), lane32_ofWords_of_lt (by decide), lane32_ofWords_of_lt (by decide),
    lane32_ofWords_of_lt (by decide), lane32_ofWords_of_lt (by decide), fun l hl => lane32_ofWords_of_le hl⟩

/-- Settles O32: requests, answers at once, the bucket, and a translation released. -/
theorem systemInstructionsRun : Obligations.SystemInstructionsRun := by
  constructor
  · intro s c hs
    refine ⟨fun f o ho => ?_, fun f t hclean ht => ⟨sysc_runs hs hclean ht, sysc_format hs hclean ht⟩⟩
    have ho' : o = outOf? f.dst := ho
    subst ho'
    refine ⟨lnch_runs hs, fun t ht hpoison hkind => ?_, fun hclean hlvl => walk_runs hs hclean hlvl⟩
    exact ⟨flth_issues hs ht hpoison hkind, flth_answers hs ht hpoison hkind⟩
  · intro s c hs
    refine ⟨fun f => ⟨?_, ?_⟩, fun f x hx hset => ⟨_, bucketWords_lanes x, tbkt_runs hs hx hset⟩, ?_⟩
    · exact (withCtx_of hs _).trans preReq_next
    · exact (withCtx_of hs _).trans preReq_next
    · intro f t id hclean hid ht
      subst hid
      refine ⟨fun ⟨k, hk, hkind⟩ => walkl_faults hs hclean ht hk hkind, fun hdata hlane leaf va at_ u hleaf hva hat hu => ?_⟩
      subst hleaf hva hat hu
      exact walkl_installs hs hclean ht hdata hlane

end Sys2Proof.Proofs.MemoryRuns
end

section
/-! R25, R27, R70, R74, R83, R407: a token arrives at its FIFO or at a parked channel, and the intersection pair steps. -/

namespace Sys2Proof.Proofs.EventRuns

open Sys2Proof Sys2Proof.Machine Sys2Proof.Proofs.Frames

/-! ### The context of an element -/

/-- The context of an element is what the state holds at its place. -/
theorem at?_some {s : State} {c : Ctx} {r e k : Nat} (h : s.at? r e k = some c) :
    c.r = r ∧ c.e = e ∧ c.slot = k ∧ s.region? c.r = some c.reg ∧ c.reg.g = some c.g ∧ c.g.elems[c.e]? = some c.el := by
  unfold State.at? at h
  split at h
  · split at h
    · split at h
      · cases h
        exact ⟨rfl, rfl, rfl, ‹_›, ‹_›, ‹_›⟩
      · cases h
    · cases h
  · cases h

/-- An element of the running partition of a region that runs. -/
theorem live?_some {s : State} {c : Ctx} {r e : Nat} (h : s.live? r e = some c) :
    s.at? r e 0 = some c ∧ c.reg.runs = true ∧ c.g.isActive c.el = true := by
  unfold State.live? at h
  split at h
  next d hd =>
    split at h
    next hk =>
      cases h
      obtain ⟨hr, ha⟩ := Bool.and_eq_true_iff.mp hk
      exact ⟨hd, hr, ha⟩
    · cases h
  · cases h

theorem live?_of {s : State} {c : Ctx} {r e : Nat} (h : s.at? r e 0 = some c) (hr : c.reg.runs = true)
    (ha : c.g.isActive c.el = true) : s.live? r e = some c := by
  simp [State.live?, h, hr, ha]

/-- The region of an element that has been written. -/
theorem put_region? {s : State} {c : Ctx} (h : s.region? c.r = some c.reg) (el : Elem) :
    (c.put s el).region? c.r = some { c.reg with g := some (c.g.setElem c.e el) } :=
  setGraph_region?_same h

/-! ### Changes of inputs -/

theorem modInput_modInput_same (el : Elem) (i : Fin 4) (f g : Input → Input) :
    (el.modInput i f).modInput i g = el.modInput i fun n => g (f n) := by
  simp [Elem.modInput, get_set_same]

theorem modInput_comm (el : Elem) {i k : Fin 4} (h : i ≠ k) (f g : Input → Input) :
    (el.modInput i f).modInput k g = (el.modInput k g).modInput i f := by
  have hik : i.val ≠ k.val := fun e => h (Fin.ext e)
  simp only [Elem.modInput, get_set_ne _ _ h, get_set_ne _ _ h.symm]
  rw [Vector.set_comm _ _ hik]

theorem get_modInput_same (el : Elem) (i : Fin 4) (f : Input → Input) :
    (el.modInput i f).ins.get i = f (el.ins.get i) := get_set_same _ _ _

theorem get_modInput_ne (el : Elem) {i k : Fin 4} (h : k ≠ i) (f : Input → Input) :
    (el.modInput i f).ins.get k = el.ins.get k := get_set_ne _ _ h

/-! ### TOKEN_ARRIVE (R27, R70, R407) -/

theorem arrived_isMarker (bad : Bool) (t : Token) : isMarker (arrived bad t) = isMarker t := by
  unfold arrived
  split <;> rfl

/-- The parity check of an arrival. -/
theorem arrived_eq (bad : Bool) (t : Token) :
    (if bad && !isMarker t then { t with poison := true } else t) = arrived bad t := by
  simp [arrived]

theorem hasPreempt_iff (n : Input) : n.hasPreempt = true ↔ preemptMarker ∈ n.fifo := by
  simp [Input.hasPreempt]

theorem arrive_joined {n : Input} {t : Token} {rest : List Token} {save : Bool} {cycle : Nat}
    (h : (save && !isMarker t && !n.hasPreempt) = false) : n.arrive t rest save cycle = n.joined rest cycle t := by
  have hb : ({ n with inflight := rest } : Input).hasPreempt = n.hasPreempt := rfl
  simp [Input.arrive, hb, h, Input.joined]

theorem arrive_recorded {n : Input} {t : Token} {rest : List Token} {cycle : Nat} (hm : isMarker t = false)
    (hp : preemptMarker ∉ n.fifo) : n.arrive t rest true cycle = { n with inflight := rest, recorded := n.recorded ++ [t] } := by
  have hb : ({ n with inflight := rest } : Input).hasPreempt = false :=
    Bool.eq_false_iff.mpr fun h => hp ((hasPreempt_iff n).mp h)
  simp [Input.arrive, hb, hm]

/-- Nothing ends where no pre-emption is under way. -/
theorem checkParked_of_not_running {s : State} {r : Nat} {reg : Region} (h : s.region? r = some reg)
    (hp : reg.preempt ≠ .running) : s.checkParked r = s := by
  unfold State.checkParked
  rw [h]
  dsimp only
  split
  · rw [if_neg (by simp [hp])]
  · rfl

section
variable {s : State} {c : Ctx} {i : Fin 4} {bad : Bool} (hs : s.at? c.r c.e 0 = some c) (hr : c.reg.runs = true)
include hs hr

section
variable {t : Token} {rest : List Token} (hf : (c.el.ins.get i).inflight = t :: rest)
include hf

/-- A token that arrives in the running partition. -/
theorem tokenArrive_active (ha : c.g.isActive c.el = true) :
    exec (.tokenArrive c.r c.e i bad) s = .next ((c.put s (c.el.modInput i fun n =>
      n.arrive (arrived bad t) rest (c.el.saved && c.reg.preempt == .running) s.cycle)).checkParked c.r) := by
  have hi : exec (.tokenArrive c.r c.e i bad) s = execTokenArrive c.r c.e i bad s := rfl
  simp only [hi, execTokenArrive, hs, hr, hf, ha, arrived_eq]
  rfl

theorem tokenArrive_joins (ha : c.g.isActive c.el = true)
    (h : c.el.saved = false ∨ c.reg.preempt ≠ .running ∨ isMarker t = true ∨ preemptMarker ∈ (c.el.ins.get i).fifo) :
    exec (.tokenArrive c.r c.e i bad) s = .next ((c.put s (c.el.modInput i fun n =>
      n.joined rest s.cycle (arrived bad t))).checkParked c.r) := by
  have hj : (c.el.saved && c.reg.preempt == .running && !isMarker (arrived bad t) && !(c.el.ins.get i).hasPreempt) = false := by
    rw [arrived_isMarker]
    rcases h with h | h | h | h
    · simp [h]
    · simp [h]
    · simp [h]
    · simp [(hasPreempt_iff _).mpr h]
  rw [tokenArrive_active hs hr hf ha, Elem.modInput, arrive_joined hj]
  rfl

theorem tokenArrive_records (ha : c.g.isActive c.el = true) (hp : c.reg.preempt = .running) (hv : c.el.saved = true)
    (hm : isMarker t = false) (hn : preemptMarker ∉ (c.el.ins.get i).fifo) :
    exec (.tokenArrive c.r c.e i bad) s = .next ((c.put s (c.el.modInput i fun n => { n with
      inflight := rest, recorded := n.recorded ++ [arrived bad t] })).checkParked c.r) := by
  have hsave : (c.el.saved && c.reg.preempt == .running) = true := by simp [hv, hp]
  rw [tokenArrive_active hs hr hf ha, hsave, Elem.modInput, arrive_recorded ((arrived_isMarker bad t).trans hm) hn]
  rfl

/-- A token that arrives at a cut edge. -/
theorem tokenArrive_cut (ha : c.g.isActive c.el = false) :
    exec (.tokenArrive c.r c.e i bad) s = .next (c.parkCut s i (arrived bad t) rest) := by
  have hi : exec (.tokenArrive c.r c.e i bad) s = execTokenArrive c.r c.e i bad s := rfl
  simp only [hi, execTokenArrive, hs, hr, hf, ha, arrived_eq]
  rfl

end

/-- With nothing on its way, the oldest parked token joins. -/
theorem tokenArrive_idle (hf : (c.el.ins.get i).inflight = []) {x : Option (Token × GraphSt)} (hx : c.cutNext? i = x) :
    exec (.tokenArrive c.r c.e i bad) s = .next ((x.map fun y =>
      s.setGraph c.r (y.2.modIn c.e i fun n => n.arrive (arrived bad y.1) [] false s.cycle)).getD s) := by
  have hi : exec (.tokenArrive c.r c.e i bad) s = execTokenArrive c.r c.e i bad s := rfl
  simp only [hi, execTokenArrive, hs, hr, hf, hx, arrived_eq]
  cases x <;> rfl

end

theorem tokensArrive : TokensArrive := by
  intro s c i bad t rest u hs hr ha hf hu
  obtain ⟨-, -, -, hreg, -, -⟩ := at?_some hs
  subst hu
  refine ⟨fun hp => ?_, fun h => ?_, fun hp hv hm hn => tokenArrive_records hs hr hf ha hp hv hm hn⟩
  · rw [tokenArrive_joins hs hr hf ha (.inr (.inl hp)), checkParked_of_not_running (put_region? hreg _) hp]
  · exact tokenArrive_joins hs hr hf ha (h.imp_right .inr)

theorem cutEdgesPark : CutEdgesPark := by
  intro s c i bad hs hr
  refine ⟨fun t rest g hf ha hg => ?_, fun hf => ⟨fun t g ha hv hfree hu => ?_, fun hu => ?_⟩⟩
  · rw [tokenArrive_cut hs hr hf ha, Ctx.parkCut, arrived_isMarker, ← hg]
    refine ⟨fun hm => by rw [if_pos hm], fun p hm hp => ?_, fun d hm hp hd => ?_⟩
    · rw [if_neg (by simp [hm]), hp]
    · have hfeed : g.feed? c.e i = some d := by rw [hg]; exact hd
      rw [if_neg (by simp [hm]), hp]
      simp only [hfeed]
      rfl
  · have hx : c.cutNext? i = some (t, g) := by simp [Ctx.cutNext?, ha, hv, hfree, hu]
    rw [tokenArrive_idle hs hr hf hx]
    have hjoin : (fun n : Input => n.arrive (arrived bad t) [] false s.cycle) = fun n => n.joined [] s.cycle (arrived bad t) :=
      funext fun n => arrive_joined rfl
    rw [Option.map_some, Option.getD_some, hjoin]
  · have hx : c.cutNext? i = none := by simp [Ctx.cutNext?, hu]
    rw [tokenArrive_idle hs hr hf hx]
    rfl

/-! ### PAIR_STEP (R74) -/

theorem loneFront_iff (n : Input) : loneFront n.fifo.head? = true ↔ AloneAt n := by
  unfold AloneAt
  cases n.fifo.head? <;> simp [loneFront]

theorem dataFront_iff (n : Input) : dataFront n.fifo.head? = true ↔ DataAt n := by
  unfold DataAt
  cases n.fifo.head? <;> simp [dataFront]

theorem badFront_iff (n : Input) (last : Option (BitVec 16)) : badFront last n.fifo.head? = true ↔ LateAt n last := by
  unfold LateAt
  cases n.fifo.head? with
  | none => simp [badFront]
  | some t => cases last <;> simp [badFront, outOfOrder]

/-- No front is presented alone, and none is out of order. -/
theorem fronts_of_dataPhase {c : Ctx} (hph : DataPhase c) : loneFront (c.el.front 0) = false ∧
    loneFront (c.el.front 1) = false ∧ badFront c.el.pair.last0 (c.el.front 0) = false ∧
    badFront c.el.pair.last1 (c.el.front 1) = false := by
  obtain ⟨h0, h1, hl0, hl1⟩ := hph
  exact ⟨Bool.eq_false_iff.mpr fun k => h0 ((loneFront_iff _).mp k),
    Bool.eq_false_iff.mpr fun k => h1 ((loneFront_iff _).mp k),
    Bool.eq_false_iff.mpr fun k => hl0 ((badFront_iff _ _).mp k),
    Bool.eq_false_iff.mpr fun k => hl1 ((badFront_iff _ _).mp k)⟩

section
variable {s : State} {c : Ctx} (h : PairReady s c)
include h

/-- What a pair that is ready still needs to step. -/
theorem pairDue_of_ready : c.el.pairDue =
    (loneFront (c.el.ins.get 0).fifo.head? || loneFront (c.el.ins.get 1).fifo.head?
      || badFront c.el.pair.last0 (c.el.ins.get 0).fifo.head? || badFront c.el.pair.last1 (c.el.ins.get 1).fifo.head?
      || c.el.pair.drain.elim (dataFront (c.el.ins.get 0).fifo.head? && dataFront (c.el.ins.get 1).fifo.head?)
          fun k => dataFront (if k = 0 then (c.el.ins.get 0).fifo.head? else (c.el.ins.get 1).fifo.head?)) := by
  obtain ⟨-, hi, ha, hv, h0, h1⟩ := h
  cases hd : c.el.pair.drain <;>
    simp only [Elem.pairDue, Elem.front, hi, ha, hv, h0, h1, hd, Bool.not_false, Option.isNone_none, Bool.and_true,
      Bool.true_and, Option.elim]

theorem pairStep_wait (hd : c.el.pairDue = false) : exec (.pairStep c.r c.e) s = .next s := by
  have hi : exec (.pairStep c.r c.e) s = execPairStep c.r c.e s := rfl
  obtain ⟨hl, -⟩ := h
  simp [hi, execPairStep, hl, hd]

/-- The front of input 0 is presented alone. -/
theorem pairStep_alone0 {t : Token} (ht : (c.el.ins.get 0).fifo.head? = some t) (hl : AloneAt (c.el.ins.get 0)) :
    exec (.pairStep c.r c.e) s = .next (c.put s ((c.el.dropFront 0).present1 0 t s.cycle)) := by
  have hi : exec (.pairStep c.r c.e) s = execPairStep c.r c.e s := rfl
  have hlone := (loneFront_iff _).mpr hl
  have hd : c.el.pairDue = true := by rw [pairDue_of_ready h, hlone]; simp
  rw [ht] at hlone
  obtain ⟨hlive, -⟩ := h
  simp [hi, execPairStep, hlive, hd, Elem.front, ht, hlone]

/-- The front of input 1 is presented alone, where that of input 0 is not. -/
theorem pairStep_alone1 {t : Token} (ht : (c.el.ins.get 1).fifo.head? = some t) (h0 : ¬ AloneAt (c.el.ins.get 0))
    (hl : AloneAt (c.el.ins.get 1)) :
    exec (.pairStep c.r c.e) s = .next (c.put s ((c.el.dropFront 1).present1 1 t s.cycle)) := by
  have hi : exec (.pairStep c.r c.e) s = execPairStep c.r c.e s := rfl
  have hlone := (loneFront_iff _).mpr hl
  have hlone0 : loneFront (c.el.ins.get 0).fifo.head? = false := Bool.eq_false_iff.mpr fun k => h0 ((loneFront_iff _).mp k)
  have hd : c.el.pairDue = true := by rw [pairDue_of_ready h, hlone]; simp
  rw [ht] at hlone
  obtain ⟨hlive, -⟩ := h
  simp [hi, execPairStep, hlive, hd, Elem.front, ht, hlone, hlone0]

/-- A data token out of order. -/
theorem pairStep_late (h0 : ¬ AloneAt (c.el.ins.get 0)) (h1 : ¬ AloneAt (c.el.ins.get 1))
    (hl : LateAt (c.el.ins.get 0) c.el.pair.last0 ∨ LateAt (c.el.ins.get 1) c.el.pair.last1) :
    exec (.pairStep c.r c.e) s = .next (s.raiseTrap c.r c.e 0xFF 3 0) := by
  have hi : exec (.pairStep c.r c.e) s = execPairStep c.r c.e s := rfl
  have hbad : (badFront c.el.pair.last0 (c.el.ins.get 0).fifo.head? ||
      badFront c.el.pair.last1 (c.el.ins.get 1).fifo.head?) = true :=
    Bool.or_eq_true_iff.mpr (hl.imp (badFront_iff _ _).mpr (badFront_iff _ _).mpr)
  have hlone0 : loneFront (c.el.ins.get 0).fifo.head? = false := Bool.eq_false_iff.mpr fun k => h0 ((loneFront_iff _).mp k)
  have hlone1 : loneFront (c.el.ins.get 1).fifo.head? = false := Bool.eq_false_iff.mpr fun k => h1 ((loneFront_iff _).mp k)
  have hd : c.el.pairDue = true := by
    rw [pairDue_of_ready h, hlone0, hlone1, Bool.false_or, Bool.false_or, hbad]
    rfl
  obtain ⟨hlive, -⟩ := h
  simp only [hi, execPairStep, hlive, hd, Elem.front, hlone0, hlone1, hbad]
  rfl

/-- Of a pair of which no front is presented alone and none is late, the drained side steps. -/
theorem pairStep_drain (hph : DataPhase c) (hd : c.el.pairDue = true) {k : Fin 2} {i : Fin 4} {t : Token}
    (hk : c.el.pair.drain = some k) (hi : i = if k = 0 then 0 else 1) (ht : c.el.front i = some t) (hdata : t.kind = .data) :
    exec (.pairStep c.r c.e) s = .next (c.put s (c.el.drainStep i t s.cycle)) := by
  have hx : exec (.pairStep c.r c.e) s = execPairStep c.r c.e s := rfl
  obtain ⟨hlone0, hlone1, hbad0, hbad1⟩ := fronts_of_dataPhase hph
  obtain ⟨hlive, -⟩ := h
  subst hi
  simp [hx, execPairStep, hlive, hd, hlone0, hlone1, hbad0, hbad1, hk, ht, hdata]

/-- With no side drained, both fronts step. -/
theorem pairStep_match (hph : DataPhase c) (hd : c.el.pairDue = true) {a b : Token} (hk : c.el.pair.drain = none)
    (ha : c.el.front 0 = some a) (hb : c.el.front 1 = some b) (hda : a.kind = .data) (hdb : b.kind = .data) :
    exec (.pairStep c.r c.e) s = .next (c.put s (c.el.matchStep a b s.cycle)) := by
  have hx : exec (.pairStep c.r c.e) s = execPairStep c.r c.e s := rfl
  obtain ⟨hlone0, hlone1, hbad0, hbad1⟩ := fronts_of_dataPhase hph
  obtain ⟨hlive, -⟩ := h
  rw [ha] at hlone0 hbad0
  rw [hb] at hlone1 hbad1
  simp [hx, execPairStep, hlive, hd, hlone0, hlone1, hbad0, hbad1, hk, ha, hb, hda, hdb]

end

theorem pairPresents : PairPresents := by
  intro s c t h hk hm
  refine ⟨fun ht => ?_, fun h0 ht => ?_⟩
  · rw [pairStep_alone0 h ht ⟨t, ht, hk, hm⟩, Elem.dropFront, Elem.present1, modInput_modInput_same]
    rfl
  · rw [pairStep_alone1 h ht h0 ⟨t, ht, hk, hm⟩, Elem.dropFront, Elem.present1, modInput_modInput_same]
    rfl

/-- A discarded front leaves its FIFO and is counted (R27, R74). -/
theorem discardFront_drops (el : Elem) (k : Fin 2) (t : Token) {i : Fin 4} (hi : i = if k = 0 then 0 else 1)
    (drain : Option (Fin 2)) :
    ({ el.discardFront i t with pair := { (el.discardFront i t).pair with drain := drain } } : Elem) = el.drops k t drain := by
  subst hi
  fin_cases k <;> rfl

theorem discardFront_eq (el : Elem) (k : Fin 2) (t : Token) {i : Fin 4} (hi : i = if k = 0 then 0 else 1) :
    el.discardFront i t = el.drops k t el.pair.drain := by
  subst hi
  fin_cases k <;> rfl

/-- Two fronts of equal coordinates become a matched pair (R74). -/
theorem matchStep_equal {el : Elem} {a b : Token} (cycle : Nat) (hd : el.pair.drain = none) (h : a.coord = b.coord) :
    el.matchStep a b cycle = { el with
      ins := (el.ins.set 0 ((el.ins.get 0).presents { a with last := a.last || b.last } cycle)).set 1
        ((el.ins.get 1).presents { b with last := a.last || b.last } cycle)
      pair := { el.pair with
        last0 := afterTok a, last1 := afterTok b, matched := satInc el.pair.matched
        drain := if a.last = b.last then none else if a.last = false then some 0 else some 1 } } := by
  have hins : ((((el.dropFront 0).dropFront 1).present1 0 { a with last := a.last || b.last } cycle).present1 1
      { b with last := a.last || b.last } cycle) =
      (el.modInput 0 fun n => n.presents { a with last := a.last || b.last } cycle).modInput 1
        fun n => n.presents { b with last := a.last || b.last } cycle := by
    simp only [Elem.dropFront, Elem.present1]
    rw [modInput_comm (el.modInput 0 _) (by decide), modInput_modInput_same, modInput_modInput_same]
    rfl
  have hdrain : (if !(a.last || b.last) then none else if !a.last then some (0 : Fin 2) else if !b.last then some 1 else none) =
      if a.last = b.last then none else if a.last = false then some 0 else some 1 := by
    cases a.last <;> cases b.last <;> rfl
  rw [Elem.matchStep, if_pos h]
  dsimp only
  rw [hins]
  have hp : ((el.pair.took 0 a).took 1 b).drain = none := hd
  rw [hp, hdrain]
  simp only [Elem.modInput, get_set_ne _ _ (show (1 : Fin 4) ≠ 0 by decide)]
  rfl

/-- The front with the smaller coordinate is discarded (R74). -/
theorem matchStep_less {el : Elem} {a b : Token} (cycle : Nat) (hd : el.pair.drain = none) (h : a.coord.toNat < b.coord.toNat) :
    el.matchStep a b cycle = el.drops 0 a (if a.last = true then some 1 else none) := by
  have hne : a.coord ≠ b.coord := fun e => by simp [e] at h
  rw [Elem.matchStep, if_neg hne, if_pos h]
  dsimp only
  split
  next => exact discardFront_drops el 0 a rfl (some 1)
  next => exact (discardFront_eq el 0 a rfl).trans (by rw [hd])

theorem matchStep_greater {el : Elem} {a b : Token} (cycle : Nat) (hd : el.pair.drain = none)
    (h : b.coord.toNat < a.coord.toNat) : el.matchStep a b cycle = el.drops 1 b (if b.last = true then some 0 else none) := by
  have hne : a.coord ≠ b.coord := fun e => by simp [e] at h
  rw [Elem.matchStep, if_neg hne, if_neg (by omega)]
  dsimp only
  split
  next => exact discardFront_drops el 1 b rfl (some 0)
  next => exact (discardFront_eq el 1 b rfl).trans (by rw [hd])

theorem pairMatches : PairMatches := by
  intro s c a b h hph hd ha hb hka hkb
  have hdue : c.el.pairDue = true := by
    rw [pairDue_of_ready h, hd, ha, hb]
    simp [dataFront, hka, hkb]
  have hfa : c.el.front 0 = some a := ha
  have hfb : c.el.front 1 = some b := hb
  have hstep := pairStep_match h hph hdue hd hfa hfb hka hkb
  rw [hstep]
  refine ⟨fun last hl hco => ?_, fun hlt => ?_, fun hlt => ?_⟩
  · rw [matchStep_equal s.cycle hd hco, hl]
  · rw [matchStep_less s.cycle hd hlt]
  · rw [matchStep_greater s.cycle hd hlt]

theorem pairDrains : PairDrains := by
  intro s c k n t h hph hd hn ht hk
  have hfront : c.el.front (if k = 0 then 0 else 1) = some t := by
    rw [hn] at ht
    rw [← ht]
    fin_cases k <;> rfl
  have hdue : c.el.pairDue = true := by
    rw [pairDue_of_ready h, hd]
    have hdata : dataFront (if k = 0 then (c.el.ins.get 0).fifo.head? else (c.el.ins.get 1).fifo.head?) = true := by
      have : (if k = 0 then (c.el.ins.get 0).fifo.head? else (c.el.ins.get 1).fifo.head?) = some t := by
        rw [← hfront]
        fin_cases k <;> rfl
      rw [this]
      simp [dataFront, hk]
    simp only [Option.elim, hdata, Bool.or_true]
  have hstep := pairStep_drain h hph hdue hd rfl hfront hk
  rw [hstep, Elem.drainStep]
  dsimp only
  refine ⟨fun hl => ?_, fun el hl he => ?_⟩
  · rw [if_neg (by simp [hl]), discardFront_eq c.el k t rfl, hd]
  · rw [if_pos hl, discardFront_eq c.el k t rfl, he]
    clear hfront hn hd hdue hstep he
    fin_cases k <;> rfl

theorem pairTrapsOrWaits : PairTrapsOrWaits := by
  refine ⟨fun s c h h0 h1 hl => pairStep_late h h0 h1 hl, fun s c h hph hw => ?_, fun s c hl hp => ?_⟩
  · refine pairStep_wait h ?_
    obtain ⟨h0, h1, hl0, hl1⟩ := hph
    rw [← loneFront_iff, Bool.not_eq_true] at h0 h1
    rw [← badFront_iff, Bool.not_eq_true] at hl0 hl1
    rw [pairDue_of_ready h, h0, h1, hl0, hl1]
    rcases hw with ⟨hd, hn⟩ | ⟨hd, hn⟩ | ⟨hd, hn⟩
    · rw [← dataFront_iff, Bool.not_eq_true] at hn
      simp [hd, hn]
    · rw [← dataFront_iff, Bool.not_eq_true] at hn
      simp [hd, hn]
    · rw [← dataFront_iff, ← dataFront_iff, Bool.not_eq_true, Bool.not_eq_true] at hn
      rcases hn with hn | hn <;> simp [hd, hn]
  · have hi : exec (.pairStep c.r c.e) s = execPairStep c.r c.e s := rfl
    have hd : c.el.pairDue = false := by
      rw [← Option.isNone_eq_false_iff, ← Option.isNone_eq_false_iff] at hp
      rcases hp with hp | hp <;> simp [Elem.pairDue, hp]
    simp [hi, execPairStep, hl, hd]

/-- Settles O33: a token that arrives joins its FIFO, is recorded or is parked, and the pair takes one step of its fronts. -/
theorem arrivalAndPairingRun : Obligations.ArrivalAndPairingRun :=
  ⟨tokensArrive, cutEdgesPark, pairPresents, pairMatches, pairDrains, pairTrapsOrWaits⟩

end Sys2Proof.Proofs.EventRuns
end

section
/-! R213 to R215, R221, R222, R225, R240, R242: a firing takes the head of its stream input, and an engine that of the input it
claims. -/

namespace Sys2Proof.Proofs.EventRuns

open Sys2Proof Sys2Proof.Machine Sys2Proof.Proofs.MatrixRuns

/-! ### STREAM_TOKEN_TAKE -/

section
variable {s : State} {c d : Ctx} {f : Firing} {i : Fin 4} {t : Token} (hl : s.live? c.r c.e = some c)
  (hf : c.el.firing = some f) (hv : c.el.saved = false) (hst : f.stage = .take) (hi : streamInput? f.instr = some i)
  (hp : c.el.present i = true) (hh : c.el.head? i = some t)
include hl hf hv hst hi hp hh

/-- A firing that takes tokens takes the head of its stream input. -/
theorem streamTokenTake_takes : exec (.streamTokenTake c.r c.e .firing) s = c.takeStream s f i t := by
  have hx : exec (.streamTokenTake c.r c.e .firing) s = execStreamTokenTake c.r c.e .firing s := rfl
  simp [hx, execStreamTokenTake, hl, hf, hv, hst, hi, hp, hh]

variable (hd : d = { c with slot := f.slot })
include hd

theorem streamTokenTake_more {el : Elem} {g : Firing} (hn : d.takeNext f t = some (.more el g)) :
    exec (.streamTokenTake c.r c.e .firing) s = .next (d.held s (el.takeHead s.cycle i) g) := by
  subst hd
  rw [streamTokenTake_takes hl hf hv hst hi hp hh, Ctx.takeStream]
  simp only [hn]
  rfl

theorem streamTokenTake_push {el : Elem} {g : Firing} {q : List (Fin 4 × Token)}
    (hn : d.takeNext f t = some (.push el g q)) :
    exec (.streamTokenTake c.r c.e .firing) s =
      .next (d.held s (el.takeHead s.cycle i) { g with stage := .push, q := q }) := by
  subst hd
  rw [streamTokenTake_takes hl hf hv hst hi hp hh, Ctx.takeStream]
  simp only [hn]
  rfl

theorem streamTokenTake_done {el : Elem} (hn : d.takeNext f t = some (.done el none)) :
    exec (.streamTokenTake c.r c.e .firing) s = .next (d.fired s { el.takeHead s.cycle i with firing := none } []
      (firingPop f.instr).1 (firingPop f.instr).2) := by
  subst hd
  rw [streamTokenTake_takes hl hf hv hst hi hp hh, Ctx.takeStream]
  simp only [hn]
  exact finish_nil

end

/-- A token of LIN goes to the next place of the window (R242). -/
theorem takeNext_lin {d : Ctx} {f : Firing} {x : XForm} {l : LSt} {t : Token} (hf : f.instr = .lin x) (hk : d.el.ks = .l l)
    (hp : t.poison = false) (hd : t.kind = .data) {el : Elem}
    (hel : el = { d.el with ks := .l { l with x := sset 0 l.x (x.cnt.toNat + f.i) t.payload } }) :
    d.takeNext f t = some (if t.last = true ∨ 255 ≤ x.cnt.toNat + f.i then .done el none
      else .more el { f with i := f.i + 1 }) := by
  have hx : d.takeNext f t = some (takeLin d.el l f x.cnt.toNat t) := by rw [Ctx.takeNext, hf, hk]
  rw [hx, takeLin, if_neg (by simp [hp]), if_neg (by simp [hd]), hel]
  simp only [Bool.or_eq_true, decide_eq_true_eq]
  rfl

/-- An M element whose row takes the integer path, or the float path (R225). -/
def onPath (m : MSt) (r : Nat) (int : Bool) : MSt := { m with rowInt := setRow m.rowInt r int }

theorem acc_onPath (m : MSt) (r : Nat) (int : Bool) : (onPath m r int).acc = m.acc := rfl

theorem col_onPath (m : MSt) (r : Nat) (int : Bool) (q n : Nat) : (onPath m r int).col q n = m.col q n := rfl

/-- An M element with a row primed (R225). -/
def primeRow (m : MSt) (r : Nat) : MSt := { m with primed := setRow m.primed r true }

theorem primed_primeRow (m : MSt) {r : Nat} (hr : r < 64) : (primeRow m r).primed.getLsbD r = true := by
  rw [primeRow, setRow_bit _ _ _ hr, if_pos rfl]

/-- The state of an M element after a token of MCHAIN (R225). -/
def chained (m : MSt) (r j : Nat) (t : Token) : MSt := onPath (m.setCols r j fun i => lane32 t.payload i) r (t.tag == 1)

theorem takeNext_mchain {d : Ctx} {f : Firing} {x : XForm} {m : MSt} {t : Token} {r : Nat} (hf : f.instr = .mchain x)
    (hk : d.el.ks = .m m) (hp : t.poison = false) (hd : t.kind = .data) (ht : t.tag = 0 ∨ t.tag = 1)
    (hr : r = x.cnt.toNat % 64) :
    d.takeNext f t = some (if f.i = 15 then
        .done { d.el with ks := .m (primeRow (chained m r f.i t) r) } none
      else .more { d.el with ks := .m (chained m r f.i t) } { f with i := f.i + 1 }) := by
  have hx : d.takeNext f t = some (takeChain d.el m f (rowOf x.cnt) t) := by rw [Ctx.takeNext, hf, hk]
  rw [hx, takeChain, hr, if_neg (by simp [hp]), if_pos (by rw [hd]; rcases ht with ht | ht <;> rw [ht] <;> decide)]
  rfl

section
variable {m : MSt} (h : swf 0 m.acc = true) (r j : Nat) (t : Token)
include h

theorem swf_chained : swf 0 (chained m r j t).acc = true := by
  rw [chained, acc_onPath]
  exact swf_setCols h r j _

theorem col_chained {i : Nat} (hi : i < 8) : (chained m r j t).col r (8 * j + i) = lane32 t.payload i := by
  rw [chained, col_onPath]
  exact col_setCols_inside h r j _ hi

omit h in
theorem rowInt_chained (hr : r < 64) : (chained m r j t).rowInt.getLsbD r = true ↔ t.tag = 1 := by
  rw [chained, onPath, setRow_bit _ _ _ hr, if_pos rfl, beq_iff_eq]

end

/-- What a token of MCHAIN comes to, from the state after it. -/
theorem chain_outcome {d : Ctx} {el : Elem} {f : Firing} {t : Token} {z : MSt} {r : Nat}
    (hn : d.takeNext f t = some (if f.i = 15 then .done { el with ks := .m (primeRow z r) } none
      else .more { el with ks := .m z } { f with i := f.i + 1 }))
    (hw : swf 0 z.acc = true) (hc : ∀ j, j < 8 → z.col r (8 * f.i + j) = lane32 t.payload j)
    (hb : z.rowInt.getLsbD r = true ↔ t.tag = 1) (hr : r < 64) (hlt : f.i < 16) :
    ∃ m', swf 0 m'.acc = true ∧ (d.takeNext f t = some (.done { el with ks := .m m' } none) ∧ f.i = 15 ∧
          m'.primed.getLsbD r = true ∨
        d.takeNext f t = some (.more { el with ks := .m m' } { f with i := f.i + 1 }) ∧ f.i < 15) ∧
      (∀ j, j < 8 → m'.col r (8 * f.i + j) = lane32 t.payload j) ∧ (m'.rowInt.getLsbD r = true ↔ t.tag = 1) := by
  by_cases h15 : f.i = 15
  · rw [if_pos h15] at hn
    exact ⟨primeRow z r, hw, .inl ⟨hn, h15, primed_primeRow z hr⟩, hc, hb⟩
  · rw [if_neg h15] at hn
    exact ⟨z, hw, .inr ⟨hn, by omega⟩, hc, hb⟩

theorem streamTokensTaken : StreamTokensTaken := by
  intro s c d f i t hl hf hv hst hi hp hh hd
  refine ⟨fun el g hn => streamTokenTake_more hl hf hv hst hi hp hh hd hn,
    fun el g q hn => streamTokenTake_push hl hf hv hst hi hp hh hd hn,
    fun el hn => streamTokenTake_done hl hf hv hst hi hp hh hd hn, fun x l hx hk hpo hda => ?lin,
    fun x m hx hk hpo hda ht hlt hm => ?mchain⟩
  case lin =>
    have hel : d.el = c.el := by rw [hd]
    have hn := takeNext_lin (d := d) hx (by rw [hel]; exact hk) hpo hda rfl
    rw [hel] at hn
    refine ⟨_, ?_, rfl, ?_⟩
    · rw [hn]
      split
      · exact .inl rfl
      · exact .inr ⟨_, rfl⟩
    · rw [hn]
      split <;> simp [*]
  case mchain =>
    have hel : d.el = c.el := by rw [hd]
    have hn := takeNext_mchain (d := d) (m := m) hx (by rw [hel]; exact hk) hpo hda ht rfl
    have hr : x.cnt.toNat % 64 < 64 := Nat.mod_lt _ (by decide)
    rw [hel] at hn
    exact chain_outcome hn (swf_chained hm _ _ _) (fun j hj => col_chained hm _ _ _ hj) (rowInt_chained _ _ _ hr) hr hlt

/-! ### LOAD_ENGINE_TOKEN -/

/-- What an engine makes of a token (R221, R222, R240). -/
def engineStep (c : Ctx) (k : EngKind) (x : Engine) (t : Token) : Except Nat Elem :=
  match k, c.el.ks with
  | .weights, .m m => c.el.weightToken c.g m x t
  | .scales, .m m => c.el.scaleToken m x t
  | .table, .l l => c.el.tableToken l x t
  | .wiring, .l l => c.el.wiringToken l x t
  | _, _ => .ok c.el

section
variable {s : State} {c : Ctx} {k : EngKind} {x : Engine} {t : Token} (hl : s.live? c.r c.e = some c)
  (he : c.el.engine? k = some x) (hv : c.el.saved = false) (hp : c.el.present x.input = true)
  (hh : c.el.head? x.input = some t)
include hl he hv hp hh

theorem loadEngineToken_takes {el : Elem} (hr : engineStep c k x t = .ok el) :
    exec (.loadEngineToken c.r c.e k) s = .next (c.put s (el.takeHead s.cycle x.input)) := by
  have hx : exec (.loadEngineToken c.r c.e k) s = execLoadEngineToken c.r c.e k s := rfl
  have hstep : exec (.loadEngineToken c.r c.e k) s = match engineStep c k x t with
      | .ok el => .next (c.put s (el.takeHead s.cycle x.input))
      | .error code => .next ((c.put s (c.el.engineFailed x code)).raiseTrap c.r c.e x.slot code 0) := by
    simp only [hx, execLoadEngineToken, hl, he, hv, hp, hh]
    rfl
  rw [hstep, hr]

end

/-- A table token goes to four cells (R362). -/
theorem tableToken_cells {el : Elem} {l : LSt} {x : Engine} {t : Token} (hp : t.poison = false) (hd : t.kind = .data)
    (hw : swf 0 l.tables = true) : ∃ (el' : Elem) (l' : LSt), swf 0 l'.tables = true ∧ el.tableToken l x t = .ok el' ∧
      el'.ks = .l l' ∧ ∀ j, j < 4 → sget 0 l'.tables (1024 * x.ctx + 4 * x.n + j) = lane t.payload 64 j := by
  have hcells : ∀ j, j < 4 → sget 0 (ssetMany 0 l.tables (1024 * x.ctx + 4 * x.n)
      ((List.range 4).map fun i => lane t.payload 64 i)) (1024 * x.ctx + 4 * x.n + j) = lane t.payload 64 j := by
    intro j hj
    rw [sget_ssetMany_inside hw (by simpa using hj)]
    simp
  rw [Elem.tableToken, if_neg (by simp [hp]), if_neg (by simp [hd])]
  dsimp only
  split
  · exact ⟨_, _, swf_ssetMany hw, rfl, rfl, hcells⟩
  · exact ⟨_, _, swf_ssetMany hw, rfl, rfl, hcells⟩

theorem engineTokensTaken : EngineTokensTaken := by
  intro s c k x t hl he hv hp hh
  refine ⟨fun m el hk hw hr => ?_, fun m el hk hw hr => ?_, fun l el hk hw hr => ?_, fun l hk hw hpo hd hwf => ?_⟩
  · exact loadEngineToken_takes hl he hv hp hh (by subst hw; simp only [engineStep, hk]; exact hr)
  · exact loadEngineToken_takes hl he hv hp hh (by subst hw; simp only [engineStep, hk]; exact hr)
  · exact loadEngineToken_takes hl he hv hp hh (by subst hw; simp only [engineStep, hk]; exact hr)
  · obtain ⟨el', l', hwf', hr, hks, hcells⟩ := tableToken_cells (el := c.el) (x := x) hpo hd hwf
    exact ⟨el', l', hwf', loadEngineToken_takes hl he hv hp hh (by subst hw; simp only [engineStep, hk]; exact hr), hks, hcells⟩

/-! ### BLOCK (R50) -/

/-- The sign of the product of a pair of operands. -/
def prodSign (p : Val × Val) : Bool := p.1.neg? != p.2.neg?

/-- The pairs of operands of which one is an infinity. -/
def infPairs (av bv : List Val) : List (Val × Val) := (av.zip bv).filter fun p => p.1.isInf || p.2.isInf

section
variable {av bv : List Val} {ai bi : List Int} {e : Int} {sa sb : Option Int} {acc : Word}

theorem floatBlock_nan (h : ∃ v, v ∈ av ++ bv ∧ v.isNaN = true) :
    floatBlock av bv ai bi e sa sb acc = faddRne acc (rneFP32 .nan) := by
  have hany : (av.any Val.isNaN || bv.any Val.isNaN) = true := by
    obtain ⟨v, hv, hn⟩ := h
    rw [← List.any_append]
    exact List.any_eq_true.mpr ⟨v, hv, hn⟩
  rw [floatBlock]
  exact if_pos hany

variable (h : ∀ v, v ∈ av ++ bv → v.isNaN = false)
include h

theorem floatBlock_eq : floatBlock av bv ai bi e sa sb acc =
    if infPairs av bv ≠ [] then
      faddRne acc (rneFP32 (if (infPairs av bv).any (fun p => p.1.isZero || p.2.isZero) ||
        (((infPairs av bv).map prodSign).contains true && ((infPairs av bv).map prodSign).contains false) then .nan
        else .inf (((infPairs av bv).map prodSign).headD false)))
    else if ((ai.zip bi).map fun p => p.1 * p.2).sum = 0 then acc
    else match sa, sb with
      | some x, some y => faddRne acc (rneFP32 (.ofDyadic ((ai.zip bi).map fun p => p.1 * p.2).sum (e + x + y)))
      | _, _ => faddRne acc (rneFP32 .nan) := by
  have hany : ¬ (av.any Val.isNaN || bv.any Val.isNaN) = true := by
    rw [← List.any_append, Bool.not_eq_true]
    exact List.any_eq_false.mpr fun v hv => by simp [h v hv]
  rw [floatBlock]
  exact if_neg hany

omit h in
theorem mem_infPairs {p : Val × Val} : p ∈ infPairs av bv ↔ p ∈ av.zip bv ∧ (p.1.isInf = true ∨ p.2.isInf = true) := by
  simp [infPairs]

end

theorem blocksAccumulate : BlocksAccumulate := by
  intro av bv ai bi e b sa sb acc nan z inf zero hnan hz hb hinf hzero
  subst hnan hz hb hinf hzero
  refine ⟨fun h => floatBlock_nan h, fun h => ?_⟩
  rw [floatBlock_eq h]
  refine ⟨fun ⟨p, hp, hi, hz⟩ => ?zero, fun ⟨p, q, hp, hq, hi, hi', hs, hs'⟩ => ?signs, fun sg ⟨p, hp, hi⟩ hall => ?inf,
    fun hnone => ?finite⟩
  case zero =>
    have hmem : p ∈ infPairs av bv := mem_infPairs.mpr ⟨hp, hi⟩
    have hany : (infPairs av bv).any (fun p => p.1.isZero || p.2.isZero) = true :=
      List.any_eq_true.mpr ⟨p, hmem, by simpa using hz⟩
    rw [if_pos (List.ne_nil_of_mem hmem), hany, Bool.true_or, if_pos rfl]
  case signs =>
    have hmem : p ∈ infPairs av bv := mem_infPairs.mpr ⟨hp, hi⟩
    have hmem' : q ∈ infPairs av bv := mem_infPairs.mpr ⟨hq, hi'⟩
    have hfalse : ((infPairs av bv).map prodSign).contains false = true := by
      simp only [List.contains_iff_mem, List.mem_map]
      exact ⟨p, hmem, by simp [prodSign, hs]⟩
    have htrue : ((infPairs av bv).map prodSign).contains true = true := by
      simp only [List.contains_iff_mem, List.mem_map]
      exact ⟨q, hmem', by simp [prodSign, hs']⟩
    rw [if_pos (List.ne_nil_of_mem hmem), hfalse, htrue, Bool.and_true, Bool.or_true, if_pos rfl]
  case inf =>
    have hmem : p ∈ infPairs av bv := mem_infPairs.mpr ⟨hp, hi⟩
    have hsign : ∀ x, x ∈ infPairs av bv → prodSign x = sg := fun x hx =>
      have ⟨hx1, hx2⟩ := mem_infPairs.mp hx
      (hall x hx1 hx2).2
    have hany : (infPairs av bv).any (fun p => p.1.isZero || p.2.isZero) = false := by
      refine List.any_eq_false.mpr fun x hx => ?_
      obtain ⟨hx1, hx2⟩ := mem_infPairs.mp hx
      simpa using (hall x hx1 hx2).1
    have hboth : (((infPairs av bv).map prodSign).contains true && ((infPairs av bv).map prodSign).contains false) = false := by
      rw [← Bool.not_eq_true, Bool.and_eq_true]
      simp only [List.contains_iff_mem, List.mem_map]
      rintro ⟨⟨x, hx, hx'⟩, y, hy, hy'⟩
      rw [hsign x hx] at hx'
      rw [hsign y hy, hx'] at hy'
      cases hy'
    have hhead : ((infPairs av bv).map prodSign).headD false = sg := by
      cases hl : infPairs av bv with
      | nil => rw [hl] at hmem; cases hmem
      | cons x r => exact hsign x (hl ▸ List.mem_cons_self)
    rw [if_pos (List.ne_nil_of_mem hmem), hany, hboth, Bool.or_false, if_neg Bool.false_ne_true, hhead]
  case finite =>
    have hnil : infPairs av bv = [] := List.eq_nil_iff_forall_not_mem.mpr fun x hx =>
      have ⟨hx1, hx2⟩ := mem_infPairs.mp hx
      hnone x hx1 hx2
    rw [if_neg (not_not_intro hnil)]
    refine ⟨fun hb => if_pos hb, fun hb hno => ?_, fun x y hb hx hy => ?_⟩
    · rw [if_neg hb]
      rcases hno with hno | hno
      · rw [hno]
      · rw [hno]
        cases sa <;> rfl
    · rw [if_neg hb, hx, hy]

end Sys2Proof.Proofs.EventRuns
end

section
/-! R50, R224: what a data token of a dense row on the float path does to the accumulators of its row. -/

namespace Sys2Proof.Proofs.RowRuns

open Sys2Proof Sys2Proof.Machine Sys2Proof.Proofs.MatrixRuns Sys2Proof.Proofs.EventRuns

/-! ### Changes of the columns of a row -/

/-- An M element whose columns of row `r` have gone through `G`; nothing but accumulators has changed. -/
structure Applied (m m' : MSt) (r : Nat) (G : Nat → Word → Word) : Prop where
  canonical : swf 0 m'.acc = true
  rest : m' = { m with acc := m'.acc }
  col : ∀ x, x ∈ m.columns → m'.col r x.2 = G x.1 (m.col r x.2)

theorem columns_of_rest {m m' : MSt} (h : m' = { m with acc := m'.acc }) : m'.columns = m.columns := by
  rw [h]
  rfl

/-- The columns of a half follow one another (R223). -/
theorem columns_eq (m : MSt) : m.columns = (List.range (if m.bank.split then 64 else 128)).map fun n =>
    (n, n + (if m.bank.split = true ∧ m.half = true then 64 else 0)) := by
  unfold MSt.columns
  cases m.bank.split
  · simp only [Bool.false_eq_true, false_and, if_false, Nat.add_zero]
  · simp only [if_true, true_and]

theorem mem_columns (m : MSt) {n k : Nat} : (n, k) ∈ m.columns ↔ n < (if m.bank.split then 64 else 128) ∧
    k = n + (if m.bank.split = true ∧ m.half = true then 64 else 0) := by
  rw [columns_eq, List.mem_map]
  constructor
  · rintro ⟨a, ha, he⟩
    obtain ⟨rfl, rfl⟩ := Prod.mk.inj he
    exact ⟨List.mem_range.mp ha, rfl⟩
  · rintro ⟨hn, rfl⟩
    exact ⟨n, List.mem_range.mpr hn, rfl⟩

theorem columns_nodup (m : MSt) : (m.columns.map Prod.snd).Nodup := by
  rw [columns_eq, List.map_map]
  exact List.nodup_range.map fun a b hab => Nat.add_right_cancel hab

section
variable {m m₁ m₂ : MSt} {r : Nat} {G G₁ G₂ : Nat → Word → Word}

theorem Applied.refl (h : swf 0 m.acc = true) : Applied m m r fun _ a => a := ⟨h, rfl, fun _ _ => rfl⟩

theorem Applied.trans (h₁ : Applied m m₁ r G₁) (h₂ : Applied m₁ m₂ r G₂) : Applied m m₂ r fun n a => G₂ n (G₁ n a) := by
  refine ⟨h₂.canonical, ?_, fun x hx => ?_⟩
  · rw [h₂.rest, h₁.rest]
  · rw [h₂.col x (by rwa [columns_of_rest h₁.rest]), h₁.col x hx]

end

/-! ### Writing the columns one after the other -/

/-- The columns of a list rewritten one after the other. -/
def rewriteCols (r : Nat) (F : Nat → Word → Word) (l : List (Nat × Nat)) (m : MSt) : MSt :=
  l.foldl (fun m x => m.setCol r x.2 (F x.1 (m.col r x.2))) m

section
variable {r : Nat} {F : Nat → Word → Word}

theorem col_setCol {m : MSt} (h : swf 0 m.acc = true) (k k' : Nat) (w : Word) :
    (m.setCol r k w).col r k' = if k' = k then w else m.col r k' := by
  split
  next hk =>
    subst hk
    exact sget_sset_same h _ _
  next hk => exact sget_sset_ne h _ (by omega)

theorem swf_rewriteCols (l : List (Nat × Nat)) {m : MSt} (h : swf 0 m.acc = true) : swf 0 (rewriteCols r F l m).acc = true := by
  induction l generalizing m with
  | nil => exact h
  | cons x l ih => exact ih (swf_sset h)

theorem rewriteCols_rest (l : List (Nat × Nat)) (m : MSt) :
    rewriteCols r F l m = { m with acc := (rewriteCols r F l m).acc } := by
  induction l generalizing m with
  | nil => rfl
  | cons x l ih => exact ih (m.setCol r x.2 (F x.1 (m.col r x.2)))

theorem col_rewriteCols_outside (l : List (Nat × Nat)) {m : MSt} (h : swf 0 m.acc = true) {k : Nat}
    (hk : k ∉ l.map Prod.snd) : (rewriteCols r F l m).col r k = m.col r k := by
  induction l generalizing m with
  | nil => rfl
  | cons x l ih =>
    rw [List.map_cons, List.mem_cons, not_or] at hk
    obtain ⟨hne, hl⟩ := hk
    exact (ih (swf_sset h) hl).trans ((col_setCol h _ _ _).trans (if_neg hne))

theorem col_rewriteCols_inside (l : List (Nat × Nat)) {m : MSt} (h : swf 0 m.acc = true) (hn : (l.map Prod.snd).Nodup)
    {x : Nat × Nat} (hx : x ∈ l) : (rewriteCols r F l m).col r x.2 = F x.1 (m.col r x.2) := by
  induction l generalizing m with
  | nil => cases hx
  | cons y l ih =>
    obtain ⟨hy, hl⟩ := List.nodup_cons.mp (List.map_cons ▸ hn)
    rcases List.mem_cons.mp hx with rfl | hx
    · exact (col_rewriteCols_outside l (swf_sset h) hy).trans ((col_setCol h _ _ _).trans (if_pos rfl))
    · have hne : x.2 ≠ y.2 := fun e => hy (e ▸ List.mem_map_of_mem hx)
      exact (ih (swf_sset h) hl hx).trans (congrArg (F x.1) ((col_setCol h _ _ _).trans (if_neg hne)))

theorem rewriteCols_applied {m : MSt} (h : swf 0 m.acc = true) : Applied m (rewriteCols r F m.columns m) r F :=
  ⟨swf_rewriteCols _ h, rewriteCols_rest _ _, fun _ hx => col_rewriteCols_inside _ h (columns_nodup m) hx⟩

end

/-! ### The blocks of a row (R50, R224) -/

/-- BLOCK of a row's values with the block of a bank's column (R50). -/
def rowBlock (m : MSt) (q : Nat) (bf : Fmt) (x : Nat → Val) (scale : Nat → Byte) (k n : Nat) (acc : Word) : Word :=
  let av := (List.range 32).map fun i => x (32 * k + i)
  let bv := (List.range 32).map fun i => bf.value (sget 0 m.bank.codes (256 * n + 32 * k + i))
  let a := prealign av q
  let b := prealign bv (if m.bank.split then 16 else 8)
  floatBlock av bv a.1 b.1 (a.2 + b.2) (scaleExp (scale k)) (scaleExp (sget 127 m.bank.scales (8 * n + k))) acc

section
variable {m : MSt} {r q : Nat} {fm bf : Fmt} {row : RowSt} (hbf : Fmt.ofRecord m.bank.fmt = some bf)
  (hint : m.rowInt.getLsbD r = false)

include hbf hint in
theorem applyBlock_eq (k : Nat) : m.applyBlock r q fm row k =
    rewriteCols r (rowBlock m q bf (fun i => fm.value (sget 0 row.codes i)) (fun k => (row.scales.lookup k).getD m.aScale) k)
      m.columns m := by
  have hav : ((List.range 32).map fun i => sget 0 row.codes (32 * k + i)).map fm.value =
      (List.range 32).map fun i => fm.value (sget 0 row.codes (32 * k + i)) := by simp
  have hbv (n : Nat) : (m.bank.block n k).map bf.value =
      (List.range 32).map fun i => bf.value (sget 0 m.bank.codes (256 * n + 32 * k + i)) := by simp [Bank.block]
  rw [MSt.applyBlock]
  simp only [hbf, hint, hav, hbv, Option.getD_some, Bool.false_eq_true, if_false]
  rfl

theorem rowBlock_of_rest {m' : MSt} (h : m' = { m with acc := m'.acc }) (x : Nat → Val) (scale : Nat → Byte) (k : Nat) :
    rowBlock m' q bf x scale k = rowBlock m q bf x scale k := by
  rw [h]
  rfl

/-- The blocks of a row do not depend on the accumulators. -/
theorem applied_of_rest {m₁ m₂ : MSt} (h : m₁ = { m with acc := m₁.acc }) {l : List Nat} {x : Nat → Val}
    (ha : Applied m₁ m₂ r fun n acc => l.foldl (fun acc j => rowBlock m₁ q bf x
      (fun k => (row.scales.lookup k).getD m₁.aScale) j n acc) acc) :
    Applied m₁ m₂ r fun n acc => l.foldl (fun acc j => rowBlock m q bf x
      (fun k => (row.scales.lookup k).getD m.aScale) j n acc) acc := by
  have hs : m₁.aScale = m.aScale := by rw [h]
  simpa only [rowBlock_of_rest h, hs] using ha

include hbf hint in
/-- The blocks of a list, applied one after the other. -/
theorem applyBlock_foldl (l : List Nat) (h : swf 0 m.acc = true) : Applied m (l.foldl (fun m k => m.applyBlock r q fm row k) m) r
    fun n acc => l.foldl (fun acc j => rowBlock m q bf (fun i => fm.value (sget 0 row.codes i))
      (fun k => (row.scales.lookup k).getD m.aScale) j n acc) acc := by
  induction l generalizing m with
  | nil => exact .refl h
  | cons k l ih =>
    have hstep := rewriteCols_applied (r := r) (F := rowBlock m q bf (fun i => fm.value (sget 0 row.codes i))
      (fun k => (row.scales.lookup k).getD m.aScale) k) h
    rw [← applyBlock_eq hbf hint] at hstep
    exact hstep.trans (applied_of_rest hstep.rest (ih (by rw [hstep.rest]; exact hbf) (by rw [hstep.rest]; exact hint)
      hstep.canonical))

end

/-! ### The start of a row (R224) -/

/-- An M element at the first token of a row, or a later one: the columns of the row hold +0 where it starts afresh. -/
structure Started (m m₀ : MSt) (r : Nat) (fresh : Prop) [Decidable fresh] : Prop where
  canonical : swf 0 m₀.acc = true
  path : m₀.rowInt.getLsbD r = false
  rest : m₀ = { m with acc := m₀.acc, rowInt := m₀.rowInt }
  col : ∀ x, x ∈ m.columns → m₀.col r x.2 = if fresh then 0 else m.col r x.2

section
variable {m : MSt} {r : Nat} (h : swf 0 m.acc = true)
include h

theorem started_self (hint : m.rowInt.getLsbD r = false) {fresh : Prop} [Decidable fresh] (hf : ¬ fresh) :
    Started m m r fresh :=
  ⟨h, hint, rfl, fun _ _ => (if_neg hf).symm⟩

theorem beginRow_starts (hr : r < 64) (hp : m.primed.getLsbD r = true → m.rowInt.getLsbD r = false) :
    ∃ m₀, m.beginRow r false = some m₀ ∧ Started m m₀ r (m.primed.getLsbD r = false) := by
  rw [MSt.beginRow]
  by_cases hprimed : m.primed.getLsbD r = true
  · rw [if_pos hprimed, if_pos (hp hprimed)]
    exact ⟨m, rfl, started_self h (hp hprimed) (by simp [hprimed])⟩
  · have hz := rewriteCols_applied (r := r) (F := fun _ _ => 0) h
    have heq : m.columns.foldl (fun m x => match x with | (_, col) => m.setCol r col 0) m =
        rewriteCols r (fun _ _ => 0) m.columns m := rfl
    rw [if_neg hprimed]
    refine ⟨onPath (rewriteCols r (fun _ _ => 0) m.columns m) r false, congrArg (fun z => some (onPath z r false)) heq, ?_⟩
    generalize rewriteCols r (fun _ _ => 0) m.columns m = z at hz
    refine ⟨hz.canonical, ?_, ?_, fun x hx => ?_⟩
    · rw [onPath, setRow_bit _ _ _ hr, if_pos rfl]
    · rw [onPath, hz.rest]
    · rw [if_pos (Bool.eq_false_iff.mpr hprimed), col_onPath, hz.col x hx]

end

/-! ### The values of a row (R224) -/

/-- The blocks that the values of a token touch (R224). -/
def touched (pos last : Nat) : List Nat := (List.range 8).filter fun k => decide (pos / 32 ≤ k) && decide (32 * k < last)

/-- A dense row after the values of a token (R224). -/
def fullRow (m : MSt) (f : Fmt) (row : RowSt) (t : Token) : RowSt :=
  { row with
    pos := row.pos + (unpackCodes f t.payload).length
    codes := ssetMany 0 row.codes row.pos (unpackCodes f t.payload)
    scales := row.scales ++ ((touched row.pos (row.pos + (unpackCodes f t.payload).length)).filter fun k =>
      (row.scales.lookup k).isNone).map fun k => (k, m.aScale)
    formed := 255 }

theorem length_unpackCodes (f : Fmt) (v : Payload) : (unpackCodes f v).length = f.lanes := by simp [unpackCodes]

/-- An M element with a row no longer primed (R224). -/
def unprime (m : MSt) (r : Nat) : MSt := { m with primed := setRow m.primed r false }

/-- An M element after the blocks of a token that may be the last of its row (R224). -/
def after (m : MSt) (r : Nat) (last : Bool) : MSt := if last then unprime m r else m

theorem col_after (m : MSt) (r : Nat) (last : Bool) (k : Nat) : (after m r last).col r k = m.col r k := by
  cases last <;> rfl

theorem rowInt_after (m : MSt) (r : Nat) (last : Bool) : (after m r last).rowInt = m.rowInt := by cases last <;> rfl

theorem primed_after (m : MSt) {r : Nat} (hr : r < 64) : (after m r true).primed.getLsbD r = false := by
  rw [after, if_pos rfl, unprime, setRow_bit _ _ _ hr, if_pos rfl]

theorem rowData_dense {m : MSt} {r q : Nat} {f : Fmt} {row : RowSt} {t : Token} (h : row.pos + f.lanes ≤ 256) {hi : Nat}
    (hhi : hi = if t.last then 8 else (row.pos + f.lanes) / 32) :
    m.rowData r q false f row t = if t.last then
      .done (unprime (m.applyBlocks r q f (fullRow m f row t) row.applied hi) r)
      else .more (m.applyBlocks r q f (fullRow m f row t) row.applied hi) { fullRow m f row t with applied := hi } := by
  subst hhi
  rw [MSt.rowData]
  simp only [Bool.false_and, Bool.false_eq_true, if_false]
  rw [if_neg (by rw [length_unpackCodes]; omega), ← length_unpackCodes f t.payload]
  rfl

theorem lookup_map_const {β : Type} (l : List Nat) (k : Nat) (a : β) :
    ((l.map fun j => (j, a)).lookup k).getD a = a := by
  induction l with
  | nil => rfl
  | cons j l ih =>
    rw [List.map_cons, List.lookup_cons]
    cases k == j
    · exact ih
    · rfl

/-- A block without a scale of its own takes that of the element (R224). -/
theorem scale_fullRow (m : MSt) (f : Fmt) (row : RowSt) (t : Token) (k : Nat) :
    ((fullRow m f row t).scales.lookup k).getD m.aScale = (row.scales.lookup k).getD m.aScale := by
  rw [fullRow, List.lookup_append]
  cases row.scales.lookup k with
  | none => exact lookup_map_const _ _ _
  | some a => rfl

theorem codes_fullRow {m : MSt} {f : Fmt} {row : RowSt} {t : Token} (h : swf 0 row.codes = true) (i : Nat) :
    sget 0 (fullRow m f row t).codes i = if row.pos ≤ i ∧ i < row.pos + f.lanes then
      (lane t.payload f.lane (i - row.pos)).toNat % 2 ^ f.width else sget 0 row.codes i := by
  have hlen := length_unpackCodes f t.payload
  rw [fullRow]
  split
  next hin =>
    obtain ⟨n, rfl⟩ := Nat.exists_eq_add_of_le hin.1
    have hn : n < f.lanes := by omega
    rw [sget_ssetMany_inside h (by omega), Nat.add_sub_cancel_left]
    simp [unpackCodes]
  next hout => exact sget_ssetMany_outside h (by omega)

/-- Of a dense row every block is formed (R224). -/
theorem applyBlocks_dense (m : MSt) (r q : Nat) (f : Fmt) {row : RowSt} (hrow : row.formed = 255) (lo : Nat) {hi : Nat}
    (h : hi ≤ 8) : m.applyBlocks r q f row lo hi =
      ((List.range hi).filter fun k => decide (lo ≤ k)).foldl (fun m k => m.applyBlock r q f row k) m := by
  have hformed : (List.range hi).filter (fun k => decide (lo ≤ k) && row.formed.getLsbD k) =
      (List.range hi).filter fun k => decide (lo ≤ k) := by
    refine List.filter_congr fun k hk => ?_
    have h8 : k < 8 := Nat.lt_of_lt_of_le (List.mem_range.mp hk) h
    have hbit : (255 : BitVec 8).getLsbD k = true := by interval_cases k <;> rfl
    rw [hrow, hbit, Bool.and_true]
  rw [MSt.applyBlocks, hformed]

/-! ### MROW (R224) -/

/-- A row that has taken a token of a tag (R224). -/
def tagged (row : RowSt) (t : Token) : RowSt := { row with tag := some t.tag }

section
variable {m : MSt} {g : GraphSt} {r q : Nat} {row : RowSt} {t : Token} {fm : Fmt} (h : swf 0 m.acc = true)
  (hpo : t.poison = false) (hd : t.kind = .data) (hfm : g.fmt? t.tag = some fm)
include h hpo hd hfm

/-- A data token of a row that has begun, or that begins with it, places its values. -/
theorem rowToken_float (hr : r < 64) (hcls : fm.cls = .float) (hint : m.bank.int = false)
    (hstart : row = .empty ∧ (m.primed.getLsbD r = true → m.rowInt.getLsbD r = false) ∨
      row.tag = some t.tag ∧ m.rowInt.getLsbD r = false) :
    ∃ m₀, Started m m₀ r (row = .empty ∧ m.primed.getLsbD r = false) ∧
      m.rowToken g r q false row t = m₀.rowData r q false fm (tagged row t) t := by
  rcases hstart with ⟨rfl, hp⟩ | ⟨htag, hrow⟩
  · obtain ⟨m₀, hb, hs⟩ := beginRow_starts h hr hp
    have hpath : m.path? q fm = some false := by simp [MSt.path?, hcls, hint]
    refine ⟨m₀, ⟨hs.canonical, hs.path, hs.rest, fun x hx => by simpa using hs.col x hx⟩, ?_⟩
    rw [MSt.rowToken, if_neg (by simp [hpo]), hd, hfm]
    simp only [RowSt.empty, hpath, hb, tagged]
  · have hne : ¬ (row = .empty ∧ m.primed.getLsbD r = false) := by
      rintro ⟨rfl, -⟩
      cases htag
    have heq : tagged row t = row := by rw [tagged, ← htag]
    refine ⟨m, started_self h hrow hne, ?_⟩
    rw [MSt.rowToken, if_neg (by simp [hpo]), hd, hfm, heq]
    simp only [htag, if_true]

end

/-- The columns of a row after its blocks. -/
theorem col_of_started {m m₀ z : MSt} {r n k : Nat} {fresh : Prop} [Decidable fresh] {G : Nat → Word → Word}
    (hs : Started m m₀ r fresh) (ha : Applied m₀ z r G) (hn : n < (if m.bank.split then 64 else 128))
    (hk : k = n + (if m.bank.split = true ∧ m.half = true then 64 else 0)) :
    z.col r k = G n (if fresh then 0 else m.col r k) := by
  have hmem : (n, k) ∈ m.columns := (mem_columns m).mpr ⟨hn, hk⟩
  have hcols : m₀.columns = m.columns := by
    rw [hs.rest]
    rfl
  exact (ha.col (n, k) (hcols ▸ hmem)).trans (congrArg (G n) (hs.col (n, k) hmem))

/-- The blocks of a row that has begun, for the values and the scales that it then holds (R50, R224). -/
theorem blocks_of_started {m m₀ : MSt} {r q : Nat} {fm bf : Fmt} {row : RowSt} {t : Token} {fresh : Prop} [Decidable fresh]
    {x : Nat → Val} {lo hi : Nat} (hs : Started m m₀ r fresh) (hbf : Fmt.ofRecord m.bank.fmt = some bf) (hhi : hi ≤ 8)
    (hx : ∀ i, fm.value (sget 0 (fullRow m₀ fm row t).codes i) = x i) :
    Applied m₀ (m₀.applyBlocks r q fm (fullRow m₀ fm row t) lo hi) r fun n acc =>
      ((List.range hi).filter fun j => decide (lo ≤ j)).foldl (fun acc j => rowBlock m q bf x
        (fun k => (row.scales.lookup k).getD m.aScale) j n acc) acc := by
  have hbank : m₀.bank = m.bank := by
    rw [hs.rest]
    rfl
  have hscale : (fun k => ((fullRow m₀ fm row t).scales.lookup k).getD m₀.aScale) =
      fun k => (row.scales.lookup k).getD m.aScale := by
    have ha : m₀.aScale = m.aScale := by rw [hs.rest]
    exact funext fun k => (scale_fullRow m₀ fm row t k).trans (by rw [ha])
  have hblock (sc : Nat → Byte) : rowBlock m₀ q bf x sc = rowBlock m q bf x sc := by
    funext k n acc
    simp only [rowBlock, hbank]
  have hblocks := applyBlock_foldl (q := q) (fm := fm) (row := fullRow m₀ fm row t)
    (hbank ▸ hbf) hs.path ((List.range hi).filter fun j => decide (lo ≤ j)) hs.canonical
  rw [hscale, funext hx, hblock] at hblocks
  rw [applyBlocks_dense _ _ _ _ rfl _ hhi]
  exact hblocks

/-- What a token of MROW comes to, from the element and the row after its blocks. -/
theorem row_outcome {c : Ctx} {f : Firing} {y : XForm} {q : AWidth} {m z : MSt} {t : Token} {r : Nat} {row : RowSt} (hinstr : f.instr = .mrow q y) (hk : c.el.ks = .m m) (hr : r = y.cnt.toNat % 64)
    (hrow : m.rowToken c.g r (aBits q) false f.row t = if t.last then .done (unprime z r) else .more z row) :
    c.takeNext f t = some (if t.last then .done { c.el with ks := .m (after z r t.last) } none
      else .more { c.el with ks := .m (after z r t.last) } { f with row := row }) := by
  have hx : c.takeNext f t = some (takeRow c.el c.g m f (rowOf y.cnt) (aBits q) false t) := by rw [Ctx.takeNext, hinstr, hk]
  have hrow' : rowOf y.cnt = r := hr.symm
  rw [hx, takeRow, hrow', hrow]
  cases t.last <;> rfl

theorem matrixRowsTaken : MatrixRowsTaken := by
  intro c f y q m t fm bf r pos hi x block hinstr hk hr hpo hd hfm hcls hint hbf hacc hcodes hpos hle hstart hx hhi hblock
  subst hpos
  have hr64 : r < 64 := hr ▸ Nat.mod_lt _ (by decide)
  have hhi8 : hi ≤ 8 := by
    rw [hhi]
    split <;> omega
  obtain ⟨m₀, hs, hrow⟩ := rowToken_float (q := aBits q) hacc hpo hd hfm hr64 hcls hint hstart
  have hvals (i : Nat) : fm.value (sget 0 (fullRow m₀ fm (tagged f.row t) t).codes i) = x i := by
    rw [hx]
    exact congrArg fm.value (codes_fullRow (row := tagged f.row t) hcodes i)
  have ha := blocks_of_started (q := aBits q) (lo := (tagged f.row t).applied) hs hbf hhi8 hvals
  rw [rowData_dense (row := tagged f.row t) hle hhi] at hrow
  have hcol := fun n k hn hk => col_of_started (n := n) (k := k) hs ha hn hk
  refine ⟨_, _, row_outcome hinstr hk hr hrow, fun hl => ⟨?_, rfl, rfl, fun i _ => hvals i⟩, fun hl => ?_, ?_, fun n k hn hk => ?_⟩
  · rw [← length_unpackCodes fm t.payload]
    rfl
  · rw [hl]
    exact primed_after _ hr64
  · rw [rowInt_after, ha.rest]
    exact hs.path
  · rw [col_after, hcol n k hn hk, hblock]
    rfl

end Sys2Proof.Proofs.RowRuns

namespace Sys2Proof.Proofs.EventRuns

open Sys2Proof Sys2Proof.Machine

/-- Settles O34: a firing and an engine take the head of their stream input, and a row goes through its blocks. -/
theorem takingTokensRuns : Obligations.TakingTokensRuns :=
  ⟨streamTokensTaken, blocksAccumulate, RowRuns.matrixRowsTaken, engineTokensTaken⟩

end Sys2Proof.Proofs.EventRuns
end

section
/-! R67, R214, R223, R280, R281: an incomplete firing pushes its next token or goes on, and an address stream pushes its next
address. -/

namespace Sys2Proof.Proofs.EventRuns

open Sys2Proof Sys2Proof.Machine Sys2Proof.Proofs.ControlRuns

/-! ### FURTHER_TOKEN_PUSH (R67) -/

/-- The context of an element at another slot. -/
theorem at?_slot {s : State} {c : Ctx} {r e j : Nat} (h : s.at? r e j = some c) (k : Nat) :
    s.at? r e k = some { c with slot := k } := by
  obtain ⟨rfl, rfl, -, hr, hg, he⟩ := at?_some h
  simp only [State.at?, hr, hg, he]

/-- A firing but MGRP is complete after its last push. -/
theorem afterPush_complete (d : Ctx) (u : State) {f : Firing} (h : ∀ x, f.instr ≠ .mgrp x) :
    d.afterPush u f = .next (d.fired u { d.el with firing := none } [] (firingPop f.instr).1 (firingPop f.instr).2) := by
  unfold Ctx.afterPush
  dsimp only
  split
  next x hx => exact absurd hx (h x)
  next => exact finish_nil

section
variable {s : State} {c : Ctx} {f : Firing} (hl : s.live? c.r c.e = some c) (hf : c.el.firing = some f)
  (hv : c.el.saved = false)
include hl hf hv

section
variable {o : Fin 4} {t : Token} {rest : List (Fin 4 × Token)} {u : State} (hst : f.stage = .push)
  (hq : f.q = (o, t) :: rest) (hpause : c.pushPaused f = false) (hspace : c.g.hasSpace c.e c.el o 1 = true)
  (htag : c.g.tagOk c.e o t = true)
  (hu : u = s.setGraph c.r ((c.g.setElem c.e { c.el with firing := some { f with q := rest } }).push c.e o t))
include hst hq hpause hspace htag hu

/-- The next token of a firing, and what follows the last one. -/
theorem furtherTokenPush_pushes : exec (.furtherTokenPush c.r c.e) s =
    if rest ≠ [] then .next u else ((u.at? c.r c.e f.slot).map fun d => d.afterPush u { f with q := rest }).getD (.next u) := by
  have hx : exec (.furtherTokenPush c.r c.e) s = execFurtherTokenPush c.r c.e s := rfl
  subst hu
  simp only [hx, execFurtherTokenPush, hl, hf, hst, hq, hv, hpause, hspace, htag, Bool.false_or, Bool.not_true,
    Bool.false_eq_true, if_false]
  split
  · rfl
  · cases State.at? _ c.r c.e f.slot <;> rfl

end

/-- MSWAP goes on once no engine runs (R214, R223). -/
theorem resume_mswap {x : PForm} {m : MSt} {d : Ctx} (hst : f.stage = .wait) (hi : f.instr = .mswap x)
    (hk : c.el.ks = .m m) (hw : c.el.engine? .weights = none) (hs : c.el.engine? .scales = none)
    (hd : d = { c with slot := f.slot }) :
    exec (.incompleteFiringResume c.r c.e) s = .next (d.fired { s with focus := ⟨c.r, c.e, f.slot⟩ }
      { (Elem.withSetClr { c.el with ks := .m { m with active := !m.active } } x.set x.clr) with firing := none } []
      x.pop 0) := by
  have hx : exec (.incompleteFiringResume c.r c.e) s = execMswap x { s with focus := ⟨c.r, c.e, f.slot⟩ } := by
    have hx : exec (.incompleteFiringResume c.r c.e) s = execIncompleteFiringResume c.r c.e s := rfl
    simp only [hx, execIncompleteFiringResume, hl, hf, hv, hst, hi]
    rfl
  have hctx : ({ s with focus := ⟨c.r, c.e, f.slot⟩ } : State).ctx? = some d := by
    rw [hd]
    exact at?_slot (live?_some hl).1 f.slot
  have hel : d.el = c.el := by rw [hd]
  rw [hx, execMswap, withCtx_of hctx, Ctx.withM]
  simp only [hel, hk, hw, hs]
  exact finish_nil

end

theorem firingsGoOn : FiringsGoOn := by
  intro s c f hl hf hv
  refine ⟨fun o t rest u hst hq hpause hspace htag hu => ⟨fun hne => ?_, fun d hnil hnot hd => ?_⟩,
    fun x m d hst hi hk hw hs hd => resume_mswap hl hf hv hst hi hk hw hs hd⟩
  · rw [furtherTokenPush_pushes hl hf hv hst hq hpause hspace htag hu, if_pos hne]
  · rw [furtherTokenPush_pushes hl hf hv hst hq hpause hspace htag hu, if_neg (not_not_intro hnil), hd, Option.map_some,
      Option.getD_some]
    exact afterPush_complete d u (f := { f with q := rest }) hnot

/-! ### STREAM_ENGINE_PUSH (R280, R281) -/

/-- A stream without an input after an address (R281). -/
theorem stepStream_eq (c : Ctx) (x : ESt) {t : Stream} (el : Elem) (hin : t.input = none) (last : Bool) :
    c.stepStream x t el 1 last = { el with ks := .e { x with streams := x.streams.map fun y =>
      if y.id = t.id then { t with idx := t.idx + 1, run := t.run + 1, ended := t.ended || last } else y } } := by
  cases last
  · rw [Bool.or_false]
    rfl
  · rw [Bool.or_true, Ctx.stepStream, if_pos rfl, Ctx.endStream, hin]
    rfl

/-- Whether a data token may go out depends on its tag alone (R71). -/
theorem tagOk_data {g : GraphSt} {e : Nat} {o : Fin 4} {t : Token} {tag : BitVec 3} {last poison : Bool} {coord : BitVec 16}
    {v : Payload} (h : g.tagOk e o t = true) (hk : t.kind = .data) (ht : t.tag = tag) :
    g.tagOk e o ⟨tag, .data, last, poison, coord, v⟩ = true := by
  rw [← h, GraphSt.tagOk, GraphSt.tagOk, hk, ht]

theorem pushLate_next {c : Ctx} {s : State} {el : Elem} {slot : Nat} {o : Fin 4} {t : Token} (h : c.g.tagOk c.e o t = true) :
    c.pushLate s el slot o t = .next (s.setGraph c.r ((c.g.setElem c.e el).push c.e o t)) := if_pos h

theorem addressStreamsPush : AddressStreamsPush := by
  intro s c x t o n va total hl hk hfind hv hpre hout hin hmode hva hlt hspace htotal htag
  have hx : exec (.streamEnginePush c.r c.e n) s = execStreamEnginePush c.r c.e n s := rfl
  have hpre' : (c.reg.preempt == .running) = false := by simpa using hpre
  obtain ⟨w, hw⟩ : ∃ w, w = ofWords [lo32 va, hi32 va] := ⟨_, rfl⟩
  have hexec : exec (.streamEnginePush c.r c.e n) s = c.pushLate s (c.stepStream x t c.el 1 (decide (total ≤ t.idx + 1))) t.slot o
      (dataTok 1 (decide (total ≤ t.idx + 1)) t.idx w) := by
    subst hw htotal hva
    simp only [hx, execStreamEnginePush, hl, hk, hfind, hv, hpre', hout, hspace, hmode, Bool.or_false, Bool.false_eq_true,
      if_false, if_neg (Nat.not_le.mpr hlt), if_true]
  refine ⟨_, w, ?_, ?_, fun l hl => ?_, rfl, ?_⟩
  · rw [hw, lane32_ofWords_of_lt (by decide)]
    rfl
  · rw [hw, lane32_ofWords_of_lt (by decide)]
    rfl
  · rw [hw]
    exact lane32_ofWords_of_le hl
  · rw [hexec, stepStream_eq c x c.el hin]
    exact pushLate_next (tagOk_data htag rfl rfl)

/-- Settles O35: a firing that owes tokens pushes the next one, a waiting MSWAP goes on, and an address stream pushes. -/
theorem laterPushesRun : Obligations.LaterPushesRun := ⟨firingsGoOn, addressStreamsPush⟩

end Sys2Proof.Proofs.EventRuns
end

section
/-! R260, R265, R274, R295, R306, R312, R314, R317, R325, R327, R334, R336, R337: an access leaves for the memory system, performs
at its home, and a held update is applied. -/

namespace Sys2Proof.Proofs.AccessRuns

open Sys2Proof Sys2Proof.Machine Sys2Proof.Proofs.EventRuns

/-! ### Lists of accesses -/

/-- The access that a search by number finds has that number. -/
theorem id_of_find {l : List Access} {k : Nat} {a : Access} (h : (l.find? fun b => b.id == k) = some a) : a.id = k := by
  simpa using List.find?_some h

theorem length_toBytes (v : Payload) (n : Nat) : (toBytes v n).length = n := by simp [toBytes]

/-! ### A home copy that no agent holds dirty, and no word that fails its check -/

section
variable {s : State} {line : Nat} (h : ∀ h, h ∈ (s.mem.dirAt line).holders → isDirty h.st = false)
include h

theorem dirtyHolder?_none : s.mem.dirtyHolder? line = none :=
  List.find?_eq_none.mpr fun x hx => by simp [h x hx]

theorem flushLine_self : s.flushLine line = s := by
  rw [State.flushLine, dirtyHolder?_none h]

theorem flushBlocked_false : s.flushBlocked line = false := by
  rw [State.flushBlocked, dirtyHolder?_none h]

end

theorem eccMark_nil (s : State) (words : List Nat) : s.eccMark [] words = s := rfl

theorem overlapRecall_self {s : State} {mt pa n : Nat} {but : Option (Nat × Nat × Nat)} {launch : Option Nat}
    (h : s.mem.overlaps (pa / 64) (wordMask pa n) but = false) : s.overlapRecall mt pa n but launch = s := by
  rw [State.overlapRecall]
  simp only [h]
  simp

/-! ### PERFORM -/

section
variable {s : State} {k : Nat} {a : Access} (hf : (s.mem.reqs.find? fun b => b.id == k) = some a)
  (ho : a.outside = false) (hb : s.performBlocked a = false)
include hf ho hb

/-- An access with nothing in its way performs at its home. -/
theorem perform_performs {bad : List Nat} {t : State} {v : ReplyVal} (hp : s.performAt a bad = (t, .reply v)) :
    exec (.perform k bad) s = .next (t.answered a v) := by
  have hx : exec (.perform k bad) s = execPerform k bad s := rfl
  have hreq : s.performReq a bad = t.answered a v := by
    rw [State.performReq, if_neg (by simp [ho]), if_neg (by simp [hb]), hp]
  rw [hx, execPerform, hf, ← hreq]

theorem perform_load (hk : a.kind = .load) (hc : s.mem.homeCheck a.ctx a.pa a.size false = none)
    (hd : (s.mem.frame a.pa).derived = false)
    (hh : ∀ h, h ∈ (s.mem.dirAt (a.pa / 64)).holders → isDirty h.st = false) :
    exec (.perform k []) s = .next { s with mem := { s.mem with
      reqs := s.mem.reqs.filter fun b => b.id != k
      order := s.mem.order ++ [⟨a.pa / 64, s.mem.performs, false⟩], performs := s.mem.performs + 1
      replies := s.mem.replies ++ [⟨a, .data (ofBytes (readBytes s.mem.bytes a.pa a.size))
        (readsPoison s.mem.poison a.pa a.size), s.mem.performs⟩] } } := by
  have hself : (if a.mt = 1 then s else s.flushLine (a.pa / 64)) = s := by rw [flushLine_self hh, ite_self]
  have hp : s.performAt a [] = (s.noteRead a.pa, .reply (.data (ofBytes (readBytes s.mem.bytes a.pa a.size))
      (readsPoison s.mem.poison a.pa a.size))) := by
    rw [State.performAt, hk]
    dsimp only
    rw [State.performLoad, hc]
    simp only [hd, flushBlocked_false hh, hself, Bool.and_false, Bool.false_eq_true, if_false]
    rfl
  rw [perform_performs hf ho hb hp, ← id_of_find hf]
  rfl

/-- A store at its home, where no window word is in its way. -/
theorem perform_store (hk : a.kind = .store) (hc : s.mem.homeCheck a.ctx a.pa a.size true = none)
    (hw : s.writable a.mt a.pa a.size none = true)
    (hov : s.mem.overlaps (a.pa / 64) (wordMask a.pa a.size) none = false) (bad : List Nat) :
    exec (.perform k bad) s = .next ((s.homeWrite a.pa (toBytes a.data a.size)).answered a .done) := by
  have hp : s.performAt a bad = (s.homeWrite a.pa (toBytes a.data a.size), .reply .done) := by
    rw [State.performAt, hk]
    dsimp only
    rw [State.performStore, hc]
    simp only [hw, State.homeStore, length_toBytes, overlapRecall_self hov, if_true]
  exact perform_performs hf ho hb hp

end

/-- Settles O37: a load reads its bytes, and a store writes them and no others. -/
theorem accessesPerform : Obligations.AccessesPerform := by
  intro s k a hf ho hb hwf
  refine ⟨fun hk hc hd hh => perform_load hf ho hb hk hc hd hh, fun hk hc hw hov => ⟨_, perform_store hf ho hb hk hc hw hov,
    ?_, rfl, rfl, fun i hi => ?_, fun b hout => ?_⟩⟩
  · rw [← id_of_find hf]
    rfl
  · have hlen : i < (toBytes a.data a.size).length := by rwa [length_toBytes]
    rw [List.getD_eq_getElem _ _ hlen]
    exact sget_ssetMany_inside hwf hlen
  · exact readByte_writeBytes_outside hwf (by rwa [length_toBytes])

/-! ### SEND (R317, R327) -/

section
variable {s t : State} {c : Ctx} {k : Nat} {a : Access} {m : MemSt} (hs : s.at? c.r c.e 0 = some c)
  (hf : (c.el.issueQ.find? fun b => b.id == k) = some a) (hr : c.reg.runs = true) (hmay : c.el.maySend a = true)
include hs hf hr hmay

/-- An access that may be sent and whose tokens are there joins the request queue. -/
theorem send_joins
    (hc : (if a.kind = .link then some s else s.charge c.r c.reg a.cost a.outward) = some { s with mem := m }) :
    exec (.send c.r c.e k) s = .next { c.put s { c.el with issueQ := c.el.issueQ.filter fun b => b.id != k } with
      mem := { m with reqs := m.reqs ++ [{ a with r := c.r, gen := c.reg.gen }] } } := by
  have hx : exec (.send c.r c.e k) s = execSend c.r c.e k s := rfl
  obtain ⟨-, -, -, hreg, -, -⟩ := at?_some hs
  have hput (el : Elem) : c.put { s with mem := m } el = { c.put s el with mem := m } := by
    have hreg' : ({ s with mem := m } : State).region? c.r = some c.reg := hreg
    simp only [Ctx.put, State.setGraph, State.modRegion, hreg, hreg']
    rfl
  simp only [hx, execSend, hs, hf, hr, hmay, hc, hput]
  rfl

end

/-- A replayed update stands behind the accesses of a queue that are not later ones of its element (R274, R315). -/
theorem replayInto_append {l r : List Access} {a : Access}
    (hl : ∀ b, b ∈ l → (b.isOf a.r a.e a.gen && decide (a.id < b.id)) = false)
    (hr : ∀ b, b ∈ r.head? → (b.isOf a.r a.e a.gen && decide (a.id < b.id)) = true) :
    replayInto (l ++ r) a = l ++ a :: r := by
  have hl' : ∀ b, b ∈ l → (!(b.isOf a.r a.e a.gen && decide (a.id < b.id))) = true := fun b hb => by rw [hl b hb]; rfl
  rw [replayInto]
  dsimp only
  rw [List.takeWhile_append_of_pos hl', List.dropWhile_append_of_pos hl']
  cases r with
  | nil => simp
  | cons b r =>
    have hb := hr b rfl
    rw [List.takeWhile_cons_of_neg (by simp [hb]), List.dropWhile_cons_of_neg (by simp [hb]), List.append_nil]

theorem accessesAreSent : AccessesAreSent := by
  refine ⟨fun s c k die a b u m hs hf hr hw hbefore hpays hdie hu hb hcost => ?send,
    fun s k a l r hf hreqs hl hrest => ?replay⟩
  case send =>
    have hid := id_of_find hf
    have hmay : c.el.maySend a = true := by
      have h1 : (queueBefore c.el.issueQ a.id).any (fun b => b.before a) = false := by
        rw [hid]
        exact List.any_eq_false.mpr fun b hb => by simp [hbefore b hb]
      have h2 : c.el.issueQ.any (fun b => b.pays a) = false := List.any_eq_false.mpr fun b hb => by simp [hpays b hb]
      simp [Elem.maySend, hw, h1, h2]
    subst hdie hu
    have hbucket : s.mem.bucket (dieOf c.r) c.reg.ctx = b := by rw [hb, MemSt.bucket, bucketKey, Nat.mul_comm]
    refine send_joins hs hf hr hmay ?_
    rcases hcost with ⟨hk, rfl⟩ | ⟨hk, h0, hcyc, rfl⟩ | ⟨hk, h0, h128, hcyc, hlev, rfl⟩
    · rw [if_pos hk]
    · rw [if_neg hk, State.charge]
      simp only [if_neg (Nat.not_le.mpr hcyc), h0, if_true]
    · rw [if_neg hk, State.charge]
      simp only [if_neg (Nat.not_le.mpr hcyc), if_neg (Nat.pos_iff_ne_zero.mp h0), if_neg (Nat.not_le.mpr h128), hbucket,
        if_pos hlev, bucketKey, Nat.mul_comm (dieOf c.r) 1024]
  case replay =>
    have hx : exec (.updateReplay k) s = execUpdateReplay k s := rfl
    have hinto : replayInto s.mem.reqs a = l ++ a :: r := by
      rw [hreqs]
      exact replayInto_append (fun b hb => by simpa [Access.isOf, and_assoc] using hl b hb)
        fun b hb => by simpa [Access.isOf, and_assoc] using hrest b hb
    simp only [hx, execUpdateReplay, hf, hinto]
    rfl

/-! ### FILL (R306, R334) -/

/-- Sharers of a line that no agent holds dirty change nothing but the directory (R308). -/
theorem shareLine_dir {s : State} {line : Nat} (h : ∀ h, h ∈ (s.mem.dirAt line).holders → isDirty h.st = false) :
    ∃ d, s.shareLine line = { s with mem := { s.mem with dir := d } } := by
  rw [State.shareLine, flushLine_self h]
  by_cases hd : (s.mem.dirAt line).holders = []
  · exact ⟨s.mem.dir, by simp only [hd, if_true]⟩
  · exact ⟨_, if_neg hd⟩

theorem fillsComplete : FillsComplete := by
  intro s c k a w off mask t hf hk ho hb hc hgen hcheck hd hh ht
  have hx : exec (.fill ⟨k, []⟩) s = execFill ⟨k, []⟩ s := rfl
  have hat : exec (.fill ⟨k, []⟩) s = .next (s.fillAt c a w off mask []) := by
    rw [hx, execFill, hf]
    dsimp only
    rw [hk]
    simp only [ho, hb, hc, hcheck, hgen, Bool.or_false, Bool.false_eq_true, ne_eq, not_true, if_false]
  obtain ⟨d, hu⟩ : ∃ d, (if a.mt = 1 then s else s.shareLine (a.pa / 64)) = { s with mem := { s.mem with dir := d } } := by
    split
    · exact ⟨s.mem.dir, rfl⟩
    · exact shareLine_dir hh
  rw [hat, State.fillAt]
  simp only [hd, flushBlocked_false hh, Bool.and_false, Bool.false_eq_true, if_false]
  rw [eccMark_nil, ht, hu]
  rfl

/-! ### APPLY (R314, R337, R353) -/

theorem applyFails_eq (s : State) (a : Access) (code : Nat) : s.applyFails a code =
    if ((s.region? a.r).any fun g => g.gen == a.gen && g.launch == a.launch) = true then s.raiseTrap a.r a.e a.slot code 0
    else s := by
  unfold State.applyFails
  cases s.region? a.r with
  | none => rfl
  | some reg => simp [Option.any]

theorem heldUpdatesApply : HeldUpdatesApply := by
  intro s line ctx group h a hh hn
  have hx : exec (.apply ⟨line, ctx, group, []⟩) s = execApply ⟨line, ctx, group, []⟩ s := rfl
  refine ⟨fun hc hw => ?_, fun code t hc ht => ?_⟩
  · simp only [hx, execApply, MemSt.heldAt?, hh, hn, hc, hw, if_true, eccMark_nil]
    rfl
  · simp only [hx, execApply, MemSt.heldAt?, hh, hn, hc, applyFails_eq, ht]
    rfl

/-! ### EGRESS and DELIVER (R295, R327, R336) -/

section
variable {s : State} {k : Nat} {a : Access}

theorem egress_store (hf : (s.mem.reqs.find? fun b => b.id == k) = some a) (hk : a.kind = .store) (ho : a.outside = true)
    (hb : s.performBlocked a = false) (hc : s.mem.homeCheck a.ctx a.pa a.size true = none) :
    exec (.egress k) s = .next (s.egressed a) := by
  have hx : exec (.egress k) s = execEgress k s := rfl
  have hcheck : s.hostCheck a = none := by
    rw [State.hostCheck, hk]
    exact hc
  simp only [hx, execEgress, hf, ho, hb, hk, hcheck, Bool.not_true, Bool.or_false, Bool.false_eq_true, reduceCtorEq,
    if_false]

theorem egressed_store (hk : a.kind = .store) : s.egressed a = { s with mem := { s.mem with
    reqs := s.mem.reqs.filter fun b => b.id != a.id, egress := s.mem.egress ++ [a]
    replies := s.mem.replies ++ [⟨a, .done, s.mem.performs⟩], performs := s.mem.performs + 1 } } := by
  rw [State.egressed, hk]
  rfl

variable (hf : (s.mem.egress.find? fun b => b.id == k) = some a)
  (hfront : ∀ b, b ∈ s.mem.egress.takeWhile (fun b => b.id != k) → a.sameBuffer b = false)
include hf hfront

theorem deliver_store (hk : a.kind = .store) (res : List (Payload × Bool)) :
    exec (.deliver k (.done res)) s = .next (s.delivered a none) := by
  have hx : exec (.deliver k (.done res)) s = execDeliver k (.done res) s := rfl
  have hany : (queueBefore s.mem.egress k).any (fun b => a.sameBuffer b) = false :=
    List.any_eq_false.mpr fun b hb => by simp [hfront b hb]
  simp only [hx, execDeliver, hf, hany, hk, Bool.false_eq_true, if_false]

theorem deliver_fail (hk : a.kind = .link) {code : Nat} (h1 : 1 ≤ code) (h4 : code ≤ 4) :
    exec (.deliver k (.fail code)) s = .next (s.delivered a (some (.fail code))) := by
  have hx : exec (.deliver k (.fail code)) s = execDeliver k (.fail code) s := rfl
  have hany : (queueBefore s.mem.egress k).any (fun b => a.sameBuffer b) = false :=
    List.any_eq_false.mpr fun b hb => by simp [hfront b hb]
  simp [hx, execDeliver, hf, hany, hk, h1, h4]

end

theorem outsideAccessesGo : OutsideAccessesGo := by
  refine ⟨fun s k a hf hk ho hb hc => ?_, fun s k a hf hfront => ⟨fun res hk => ?_, fun code hk h1 h4 => ?_⟩⟩
  · rw [egress_store hf hk ho hb hc, egressed_store hk]
  · rw [deliver_store hf hfront hk]
    rfl
  · rw [deliver_fail hf hfront hk h1 h4]
    rfl

/-- Settles O36: an access leaves for the memory system, and what stands there performs, applies or goes outside. -/
theorem accessesTravel : Obligations.AccessesTravel :=
  ⟨accessesAreSent, fillsComplete, heldUpdatesApply, outsideAccessesGo⟩

end Sys2Proof.Proofs.AccessRuns
end

section
/-! R168, R258, R259, R270, R283, R285, R286, R396, R407: replies, pushes of outstanding firings, and releases. -/

namespace Sys2Proof.Proofs.EventRuns

open Sys2Proof Sys2Proof.Machine Sys2Proof.Proofs.MemoryRuns

/-! ### The region slots of contexts -/

/-- What an element's context depends on. -/
theorem at?_of_region {s t : State} {r e k : Nat} (h : t.region? r = s.region? r) : t.at? r e k = s.at? r e k := by
  simp only [State.at?, h]

/-- The context of an element that has been written. -/
theorem at?_put {s : State} {c : Ctx} {j : Nat} (h : s.at? c.r c.e j = some c) (el : Elem) (k : Nat) :
    (c.put s el).at? c.r c.e k =
      some { c with slot := k, reg := { c.reg with g := some (c.g.setElem c.e el) }, g := c.g.setElem c.e el, el := el } := by
  obtain ⟨-, -, -, hr, -, he⟩ := at?_some h
  simp only [State.at?, put_region? hr, setElem_same he]

theorem put_region?_ne {s : State} {c : Ctx} {r : Nat} (h : r ≠ c.r) (el : Elem) : (c.put s el).region? r = s.region? r :=
  setGraph_region?_ne h

/-! ### MEMORY_REPLY of an access (R258, R262, R407) -/

theorem freezing_of_runs {reg : Region} (h : reg.runs = true) : reg.freezing = false := by
  simp only [Region.runs, Bool.and_eq_true, Bool.not_eq_true'] at h
  exact h.2

section
variable {s : State} {c : Ctx} {k slot : Nat} {y : Reply} {m : MemSt} (hr : c.reg.runs = true)
  (hf : (s.mem.replies.find? fun z => z.acc.id == k) = some y)
  (hfirst : earlierReply s.mem.replies y.acc.id (fun b => b.isOf y.acc.r y.acc.e y.acc.gen) = false)
  (hgen : y.acc.gen = c.reg.gen) (hm : m = { s.mem with replies := s.mem.replies.filter fun z => z.no != y.no })
  (hc : State.at? { s with mem := m } y.acc.r y.acc.e y.acc.slot = some { c with slot := slot })
include hr hf hfirst hgen hm hc

omit hr in
/-- The first reply of an element in its generation reaches the element (R324, R401, R407). -/
theorem memoryReply_reaches : exec (.memoryReply k) s =
    if c.reg.freezing || c.el.saved then
      .next ({ s with mem := m }.setGraph y.acc.r { c.g with collected := c.g.collected ++ [y] })
    else if c.reg.runs && !c.g.collected.any (fun z => z.acc.e == y.acc.e) then
      .next (Ctx.applyReply { c with slot := slot } { s with mem := m } y)
    else .next s := by
  have hx : exec (.memoryReply k) s = execMemoryReply k s := rfl
  have hbranch : s.memReply y = match State.at? { s with mem := m } y.acc.r y.acc.e y.acc.slot with
      | some c =>
        if c.reg.gen ≠ y.acc.gen then .next { s with mem := { m with stale := bumpBy m.stale (dieOf y.acc.r) 1 } }
        else if c.reg.freezing || c.el.saved then
          .next ({ s with mem := m }.setGraph y.acc.r { c.g with collected := c.g.collected ++ [y] })
        else if c.reg.runs && !c.g.collected.any fun z => z.acc.e == y.acc.e then .next (c.applyReply { s with mem := m } y)
        else .next s
      | none => .next { s with mem := { m with stale := bumpBy m.stale (dieOf y.acc.r) 1 } } := by
    rw [hm, State.memReply]
    exact if_neg (by simp [hfirst])
  rw [hx, execMemoryReply, hf]
  dsimp only
  rw [hbranch, hc]
  exact if_neg (not_not_intro hgen.symm)

omit hr in
theorem memoryReply_collected (hv : c.el.saved = true) : exec (.memoryReply k) s =
    .next ({ s with mem := m }.setGraph y.acc.r { c.g with collected := c.g.collected ++ [y] }) := by
  rw [memoryReply_reaches hf hfirst hgen hm hc, hv, Bool.or_true, if_pos rfl]

theorem memoryReply_applied (hv : c.el.saved = false) (hn : ∀ z, z ∈ c.g.collected → z.acc.e ≠ y.acc.e) :
    exec (.memoryReply k) s = .next (Ctx.applyReply { c with slot := slot } { s with mem := m } y) := by
  have hany : c.g.collected.any (fun z => z.acc.e == y.acc.e) = false :=
    List.any_eq_false.mpr fun z hz => by simp [hn z hz]
  rw [memoryReply_reaches hf hfirst hgen hm hc, hv, freezing_of_runs hr, hr, hany]
  rfl

end

/-- The data of a load become its token, and its completion is due (R258, R265). -/
theorem applyReply_load {c : Ctx} {s : State} {y : Reply} {o : OutF} {v : Payload} {p : Bool} (hv : y.val = .data v p)
    (ho : (c.el.outs.find? fun z => z.id == y.acc.fid) = some o) (hopc : o.opc = 0xD0) :
    c.applyReply s y = c.put s ((c.el.due o 0 y.no).setOut { o with
      ready := true
      data := if o.dst.isSome then
        [{ o.hd.getD ⟨0, .data, false, false, 0, 0⟩ with payload := v, poison := p }] else [] }) := by
  rw [Ctx.applyReply, hv]
  dsimp only
  rw [ho]
  dsimp only
  rw [if_neg (by simp [hopc]), Ctx.replyData, if_neg (by simp [hopc])]

/-! ### PUSH (R258, R259, R270) -/

section
variable {s : State} {c : Ctx} (hr : c.reg.runs = true) (hc : s.at? c.r c.e 0 = some c)
include hr hc

theorem push_due {d : Due} {rest : List Due} (hd : c.el.dues = d :: rest) (hfree : c.g.freePlaces c.e d.out ≠ 0)
    (hfirst : s.earlierDue c d.no = false) (htag : c.g.tagOk c.e d.out d.tok = true) {x : Elem × State}
    (hx : x = match c.el.outs.find? fun z => z.id == d.id with
      | some o => c.unmapped s (Elem.setOut { c.el with dues := rest } { o with cmpDone := true }) o
      | none => ({ c.el with dues := rest }, s)) :
    exec (.push c.r c.e none) s = .next (x.2.setGraph c.r ((c.g.setElem c.e x.1).push c.e d.out d.tok)) := by
  have hi : exec (.push c.r c.e none) s = execPush c.r c.e none s := rfl
  have hdue : exec (.push c.r c.e none) s = c.pushDue s d rest := by
    simp [hi, execPush, hc, hr, hd, hfree, hfirst]
  rw [hdue, hx]
  exact pushLate_next htag

theorem push_data {id : Nat} {o : OutF} {k : Fin 4} {t : Token} {rest : List Token}
    (ho : (c.el.outs.find? fun z => z.id == id) = some o) (hopc : o.opc ≠ 0xF2) (hready : o.ready = true)
    (hdst : o.dst = some k) (hdata : o.data = t :: rest) (hfree : c.g.freePlaces c.e k ≠ 0)
    (hcls : c.el.classBlocked o = false) (htag : c.g.tagOk c.e k t = true) :
    exec (.push c.r c.e (some id)) s =
      .next (s.setGraph c.r ((c.g.setElem c.e (c.el.setOut { o with data := rest })).push c.e k t)) := by
  have hi : exec (.push c.r c.e (some id)) s = execPush c.r c.e (some id) s := rfl
  have hpush : exec (.push c.r c.e (some id)) s = c.pushData s o k t rest := by
    simp [hi, execPush, hc, hr, ho, hready, hdst, hdata, hfree, hcls]
  have hnot : (decide (o.opc = 0xF2) && rest.isEmpty) = false := by simp [hopc]
  rw [hpush, Ctx.pushData]
  simp only [hnot, Bool.false_eq_true, if_false]
  exact pushLate_next htag

end

theorem repliesAndPushes : RepliesAndPushes := by
  intro s c hr
  refine ⟨fun k slot y o v p m hf hv hfirst hgen hm hc => ⟨fun hs => ?_, fun hs hn ho hopc => ?_⟩, fun hc =>
    ⟨fun d rest hd hfree hfirst htag => ?_, fun id o k t rest ho hopc hready hdst hdata hfree hcls htag => ?_⟩⟩
  · exact memoryReply_collected hf hfirst hgen hm hc hs
  · refine ⟨_, ?_, rfl⟩
    rw [memoryReply_applied hr hf hfirst hgen hm hc hs hn, applyReply_load (c := { c with slot := slot }) hv ho hopc]
    rfl
  · exact ⟨_, _, rfl, push_due hr hc hd hfree hfirst htag rfl⟩
  · exact push_data hr hc ho hopc hready hdst hdata hfree hcls htag

/-! ### The answers of services (R258, R283, R285, R396) -/

section
variable {s : State} {c : Ctx} {k : Nat} {o : OutF} (hr : c.reg.runs = true)
  (hn : ∀ y, y ∈ s.mem.replies → y.acc.id ≠ k) (hcol : s.collectedReply k = none)
  (hf : s.findOut k = some (c.r, c.e, o)) (hc : s.at? c.r c.e o.slot = some c) (hready : o.ready = false)
include hr hn hcol hf hc hready

omit hr hc hready in
theorem memoryReply_service : exec (.memoryReply k) s = s.serviceReply c.r c.e o := by
  have hx : exec (.memoryReply k) s = execMemoryReply k s := rfl
  have hnone : (s.mem.replies.find? fun y => y.acc.id == k) = none :=
    List.find?_eq_none.mpr fun y hy => by simp [hn y hy]
  rw [hx, execMemoryReply, hnone]
  dsimp only
  rw [hcol]
  dsimp only
  rw [hf]

theorem memoryReply_miss (hopc : o.opc = 0xE8) (hmiss : o.miss = true) (hasked : o.asked = none) :
    exec (.memoryReply k) s = .next (s.askWalker c o) := by
  rw [memoryReply_service hn hcol hf, State.serviceReply, hc]
  simp [hr, hready, hopc, hmiss, hasked]

theorem memoryReply_xinv (hopc : o.opc = 0xE9) : exec (.memoryReply k) s = .next (c.invalidated s o) := by
  rw [memoryReply_service hn hcol hf, State.serviceReply, hc]
  simp [hr, hready, hopc]

end

theorem invalidationsComplete : InvalidationsComplete := by
  intro s c k o x goes hr hn hcol hf hc hopc hready hk hgoes
  have hkeep : (fun t : TlbEnt => !((lane32 o.arg 2).getLsbD 0 ||
      (decide (t.va ≤ pair64 o.arg 0) && decide (pair64 o.arg 0 < t.va + t.size)))) = fun t => !goes t := by
    funext t
    refine congrArg not (Bool.eq_iff_iff.mpr ?_)
    rw [hgoes]
    simp
  rw [memoryReply_xinv hr hn hcol hf hc hready hopc, Ctx.invalidated, hk]
  dsimp only
  rw [hkeep]
  rfl

/-- The words of a request of a miss (R285, R396). -/
theorem walkRequest_words {va : BitVec 64} {tag root : Nat} {v : Payload} (hv : v = walkRequest va tag root) :
    lane32 v 0 = va.extractLsb' 0 32 ∧ lane32 v 1 = va.extractLsb' 32 32 ∧ lane32 v 2 = BitVec.ofNat 32 tag ∧
      lane32 v 3 = 3 ∧ pair64 v 4 = root % 2 ^ 64 ∧ ∀ l, 6 ≤ l → lane32 v l = 0 := by
  have hlane {l : Nat} (h : l < 8) : lane32 v l = ([va.extractLsb' 0 32, va.extractLsb' 32 32, BitVec.ofNat 32 tag, 3,
      lo32 root, hi32 root] : List Word).getD l 0 := by
    rw [hv]
    exact ControlRuns.lane32_ofWords_of_lt h
  refine ⟨hlane (by decide), hlane (by decide), hlane (by decide), hlane (by decide), ?_, fun l hl => ?_⟩
  · have h4 : lane32 v 4 = lo32 root := hlane (by decide)
    have h5 : lane32 v (4 + 1) = hi32 root := hlane (by decide)
    rw [pair64, h4, h5, lo32, hi32, BitVec.toNat_ofNat, BitVec.toNat_ofNat]
    omega
  · rw [hv]
    exact ControlRuns.lane32_ofWords_of_le hl

/-- The walker region of a die takes a miss (R285, R396). -/
theorem askWalker_asks {s : State} {c : Ctx} {o : OutF} {w : Region} {g : GraphSt} {root : Nat}
    (hw : s.region? (128 + c.die) = some w) (hroot : s.root? c.reg.ctx = some root) (hg : w.g = some g) (hr : w.runs = true)
    (hdoors : g.walkDoors ≠ []) (htaken : sget none s.mem.taken c.die ≠ some s.cycle) :
    ∃ (e : Nat) (i : Fin 4) (tag : BitVec 3), (e, i, tag) ∈ g.walkDoors ∧ s.askWalker c o =
      { (c.put s (c.el.setOut { o with asked := some s.nextId })).modRegion (128 + c.die) (fun w =>
          { w with g := w.g.map fun g => g.modIn e i fun n => { n with
            inflight := n.inflight ++ [⟨tag, .data, false, false, 0, walkRequest o.va s.nextId root⟩] } }) with
        nextId := s.nextId + 1, freeCtr := s.freeCtr + 1
        mem := { s.mem with taken := sset none s.mem.taken c.die (some s.cycle) } } := by
  have hlen : Config.pick s.freeCtr % g.walkDoors.length < g.walkDoors.length :=
    Nat.mod_lt _ (List.length_pos_iff.mpr hdoors)
  obtain ⟨⟨e, i, tag⟩, hd⟩ : ∃ x, g.walkDoors[Config.pick s.freeCtr % g.walkDoors.length]? = some x :=
    ⟨_, List.getElem?_eq_getElem hlen⟩
  refine ⟨e, i, tag, List.mem_of_getElem? hd, ?_⟩
  have hno : (!w.runs || decide (sget none s.mem.taken c.die = some s.cycle)) = false := by simp [hr, htaken]
  rw [State.askWalker, hw, hroot]
  dsimp only
  rw [hg]
  dsimp only
  rw [hd]
  dsimp only
  rw [hno, if_neg Bool.false_ne_true]
  simp only [modRegion_nextId, modRegion_freeCtr, modRegion_mem, modRegion_cycle, put_nextId, put_freeCtr, put_mem, put_cycle]
  rfl

theorem missesReachTheWalker : MissesReachTheWalker := by
  intro s c k root o w g h128 hr hn hcol hf hc hopc hready hmiss hasked hroot hw hg hwr hdoors htaken hwf
  obtain ⟨e, i, tag, hmem, hask⟩ := askWalker_asks (o := o) hw hroot hg hwr hdoors htaken
  obtain ⟨h0, h1, h2, h3, h4, h6⟩ := walkRequest_words (va := o.va) (tag := s.nextId) (root := root) rfl
  have hne : 128 + c.die ≠ c.r := by omega
  have hput : (c.put s (c.el.setOut { o with asked := some s.nextId })).region? (128 + c.die) = some w := by
    rw [put_region?_ne hne, hw]
  rw [memoryReply_miss hr hn hcol hf hc hready hopc hmiss hasked, hask]
  refine ⟨_, e, i, tag, _, _, rfl, hmem, h0, h1, h2, h3, h4, h6, ?_,
    (at?_of_region (modRegion_region?_ne hne.symm)).trans (at?_put hc _ _), rfl, sget_sset_same hwf _ _⟩
  exact (modRegion_region?_same hput).trans (by rw [hg]; rfl)

/-! ### JOINF_RELEASE and FENCE_COMPLETE (R168, R286) -/

section
variable {s : State} {c : Ctx} {f : Firing} (hc : s.at? c.r c.e 0 = some c) (hr : c.reg.runs = true)
  (hv : c.el.saved = false) (hf : c.el.firing = some f) (hst : f.stage = .wait)
include hc hr hv hf hst

theorem joinfRelease_next {x : XForm} {o : Fin 4} (hi : f.instr = .joinf x) (hdst : x.dst = .out o)
    (hcnt : x.cnt.toNat < 160) (hspace : c.g.hasSpace c.e c.el o 1 = true) :
    exec (.joinfRelease c.r c.e) s = .next (Ctx.fired { c with slot := f.slot } s
      { c.el with joinToks := c.el.joinToks.filter fun y => y.1 != f.slot, firing := none }
      [(o, ⟨0, .control, false, false, BitVec.ofNat 16 f.n, 0⟩)] 0 0) := by
  have hx : exec (.joinfRelease c.r c.e) s = execJoinfRelease c.r c.e s := rfl
  have hlevel : ¬ 5 ≤ x.cnt.toNat / 32 := by omega
  obtain ⟨slot, i, st, a, b, hd, toks, q, row, j, n, g⟩ := f
  cases hi
  cases hst
  simp only [hx, execJoinfRelease, hc, hf, hdst, outOf?, hspace, hr, hv, decide_eq_false hlevel, Bool.not_true,
    Bool.or_false, Bool.false_and, Bool.false_eq_true, if_false]
  exact finish_next rfl

theorem fenceComplete_next {x : IForm} (hi : f.instr = .fence x) (hw : s.fenceWaits c f.n (x.imm.toNat % 8) = false) :
    exec (.fenceComplete c.r c.e) s =
      .next (Ctx.memDone { c with slot := f.slot } s (c.el.withPw x.pw false) [] x.pop 0) := by
  have hx : exec (.fenceComplete c.r c.e) s = execFenceComplete c.r c.e s := rfl
  obtain ⟨slot, i, st, a, b, hd, toks, q, row, j, n, g⟩ := f
  cases hi
  cases hst
  simp only [hx, execFenceComplete, hc, hf, hr, hv, fenceLevel, hw, Bool.not_true, Bool.or_false, Bool.false_eq_true,
    if_false]
  exact memFinish_nil

end

theorem waitsComplete : WaitsComplete := by
  intro s c f hc hr hv hf hst
  refine ⟨fun x o hi hdst hcnt hspace => joinfRelease_next hc hr hv hf hst hi hdst hcnt hspace, fun x hi hw =>
    fenceComplete_next hc hr hv hf hst hi hw⟩

/-- Settles O38: what the memory system and the services answer reaches its firing, what is due leaves, and waits end. -/
theorem repliesComplete : Obligations.RepliesComplete :=
  ⟨repliesAndPushes, missesReachTheWalker, invalidationsComplete, waitsComplete⟩

end Sys2Proof.Proofs.EventRuns
end

section
/-! R71, R277, R278, R287, R289, R350 to R352: signals and arrivals, and the steps of declarations. -/

namespace Sys2Proof.Proofs.EventRuns

open Sys2Proof Sys2Proof.Machine Sys2Proof.Proofs.MemoryRuns

/-! ### COUNTER_RAISE and BARRIER_ARRIVAL (R287, R289) -/

section
variable {s : State} {c : Ctx} {k e : Nat} {o : OutF} (hf : s.findOut k = some (c.r, e, o))
  (hc : s.at? c.r e o.slot = some c) (hr : c.reg.runs = true)
include hf hc hr

theorem counterRaise_next (hopc : o.opc = 0xEC) (hp : s.pendingBefore c o.id 4 = false) {n v : Nat} {x : BitVec 64}
    (hn : n = (lane32 o.arg 0).toNat) (hv : v = pair64 o.arg 2)
    (hx : x.toNat = if lane32 o.arg 1 = 0 then min ((s.mem.counter n).toNat + v) (2 ^ 64 - 1)
      else max (s.mem.counter n).toNat v) :
    exec (.counterRaise k) s = .next ((c.put s (c.el.dropOut k)).setCounter n x) := by
  have hi : exec (.counterRaise k) s = execCounterRaise k s := rfl
  have hval : (if lane32 o.arg 1 = 0 then counterAdd (s.mem.counter n) v else counterRaise (s.mem.counter n) v) = x := by
    have hself : BitVec.ofNat 64 x.toNat = x := by simp
    rw [← hself, hx]
    split <;> rfl
  rw [hi, execCounterRaise, hf]
  dsimp only
  rw [hc]
  simp only [hopc, hr, hp, State.csigApply, put_mem, ← hn, ← hv, hval]
  rfl

theorem barrierArrival_next (hopc : o.opc = 0xED) (hready : o.ready = false)
    (hp : s.pendingBefore c o.id o.level = false) {n : Nat} {b b' : Barrier} {t : Token}
    (hn : n = (lane32 o.arg 0).toNat) (hb : b = s.mem.barrier n)
    (hb' : b' = (if b.remaining ≤ 1 then ⟨b.expected, b.expected, b.phase + 1⟩
      else { b with remaining := b.remaining - 1 }))
    (ht : t = { o.hd.getD ⟨0, .control, false, false, 0, 0⟩ with payload := ofWords [b.phase] }) :
    exec (.barrierArrival k) s = .next ((c.put s (c.el.setOut { o with
      ready := true, data := if o.dst.isSome then [t] else [] })).setBarrier n b') := by
  have hi : exec (.barrierArrival k) s = execBarrierArrival k s := rfl
  subst hn hb hb' ht
  rw [hi, execBarrierArrival, hf]
  dsimp only
  rw [hc]
  dsimp only
  exact if_neg (by simp [hopc, hready, hr, hp])

end

theorem signalsApply : SignalsApply := by
  intro s c k o e hf hc hr
  refine ⟨fun hopc hp n v x hn hv hx => counterRaise_next hf hc hr hopc hp hn hv hx,
    fun hopc hready hp n b b' t hn hb hb' ht => barrierArrival_next hf hc hr hopc hready hp hn hb hb' ht⟩

/-! ### DECLARATION_ACCEPT (R71, R277) -/

section
variable {s : State} {c d : Ctx} {f : Firing} {x : RForm} {y : Decl} {r : Payload} (hc : s.at? c.r c.e 0 = some c)
  (hr : c.reg.runs = true) (hv : c.el.saved = false) (hf : c.el.firing = some f) (hst : f.stage = .wait)
  (hi : f.instr = .drv x) (hspace : ∀ o, x.dst = .out o → c.g.hasSpace c.e c.el o 1 = true)
  (hdecl : s.declare c.g c.reg.ctx c.reg.launch f.a f.b = .ok y) (hd : d = { c with slot := f.slot })
  (hres : r = ofWords [BitVec.ofNat 32 y.handle, 0])
include hc hr hv hf hst hi hspace hdecl hd hres

/-- An accepted declaration completes its firing, or raises FORMAT. -/
theorem declarationAccept_accepts {u : State} (hu : u = s.declTouch c.die c.g c.reg.ctx f.a f.b) :
    exec (.declarationAccept c.r c.e) s = d.memFinishFrom s { u with drv := u.drv ++ [y] }
      ((c.el.writeDst x.dst r).withPw x.pw false) (pushesOf x.dst (d.tok x.md [x.sa, x.sb] none r)) x.pop
      (readMask [x.sa, x.sb]) := by
  have hx : exec (.declarationAccept c.r c.e) s = execDeclarationAccept c.r c.e s := rfl
  have hfree : (match outOf? x.dst with
      | some k => c.g.hasSpace c.e c.el k 1
      | none => true) = true := by
    cases hdst : x.dst with
    | out o => exact hspace o hdst
    | _ => rfl
  obtain ⟨slot, i, st, a, b, hd', toks, q, row, j, n, g⟩ := f
  cases hi
  cases hst
  subst hd hres hu
  have hexec : exec (.declarationAccept c.r c.e) s =
      if !c.reg.runs || c.el.saved || !(match outOf? x.dst with
        | some k => c.g.hasSpace c.e c.el k 1
        | none => true) then .next s
      else match s.declare c.g c.reg.ctx c.reg.launch a b with
        | .error k => Ctx.memFinishFrom { c with slot := slot } s (s.declTouch c.die c.g c.reg.ctx a b)
            ((c.el.writeDst x.dst (drvRes 0xFFFFFFFF k)).withPw x.pw (k != 0))
            (pushesOf x.dst (Ctx.tok { c with slot := slot } x.md [x.sa, x.sb] none (drvRes 0xFFFFFFFF k))) x.pop
            (readMask [x.sa, x.sb])
        | .ok d => Ctx.memFinishFrom { c with slot := slot } s { s.declTouch c.die c.g c.reg.ctx a b with
              drv := (s.declTouch c.die c.g c.reg.ctx a b).drv ++ [d] }
            ((c.el.writeDst x.dst (drvRes d.handle 0)).withPw x.pw (0 != 0))
            (pushesOf x.dst (Ctx.tok { c with slot := slot } x.md [x.sa, x.sb] none (drvRes d.handle 0))) x.pop
            (readMask [x.sa, x.sb]) := by
    rw [hx, execDeclarationAccept, hc]
    dsimp only
    rw [hf] <;> rfl
  rw [hexec, hr, hv, hfree, if_neg (by decide), hdecl]
  rfl

end

theorem declarationAccept_next {s : State} {c d : Ctx} {u : State} {el : Elem} {l : List (Fin 4 × Token)} {pop rd : BitVec 4}
    (h : exec (.declarationAccept c.r c.e) s = d.memFinishFrom s u el l pop rd) (hset : d.inSets l) :
    exec (.declarationAccept c.r c.e) s = .next (d.memDone u el l pop rd) := by
  rw [h, Ctx.memFinishFrom]
  exact (if_pos hset).trans (memFinish_next hset)

theorem declarationAccept_format {s : State} {c d : Ctx} {u : State} {el : Elem} {l : List (Fin 4 × Token)} {pop rd : BitVec 4}
    (h : exec (.declarationAccept c.r c.e) s = d.memFinishFrom s u el l pop rd) (hset : ¬ d.inSets l) :
    exec (.declarationAccept c.r c.e) s = .next (s.raiseTrap d.r d.e d.slot 2 0) := by
  rw [h, Ctx.memFinishFrom]
  exact if_neg hset

/-! ### SCAN_END and DECLARATION_WITHDRAW (R278, R350 to R352) -/

theorem saturateAt_pending (d : Decl) (slice bin : Nat) : (d.saturateAt slice bin).pending = d.pending := by
  unfold Decl.saturateAt
  split <;> rfl

/-- Saturated counts leave alone whether a declaration still waits for its first scans. -/
theorem saturate_pending (d : Decl) : d.saturate.pending = d.pending := by
  have hbins (l : List Nat) (k : Nat) (d : Decl) : (l.foldl (fun d j => d.saturateAt k j) d).pending = d.pending := by
    induction l generalizing d with
    | nil => rfl
    | cons j l ih => exact (ih _).trans (saturateAt_pending d k j)
  have hslices (l : List Nat) (n : Decl → Nat) (d : Decl) :
      (l.foldl (fun d k => (List.range (n d)).foldl (fun d j => d.saturateAt k j) d) d).pending = d.pending := by
    induction l generalizing d with
    | nil => rfl
    | cons k l ih => exact (ih _).trans (hbins _ k d)
  unfold Decl.saturate
  split
  · exact hslices _ (fun d => d.bins + 3) d
  · rfl

section
variable {s : State} {d : Decl} {h row : Nat} {w : DrvRow} (hd : (s.drv.find? fun y => y.handle == h) = some d)
  (hw : d.rows[row]? = some w)
include hd hw

theorem scanEnd_ends {bad : List Nat} {t : State} {w' : DrvRow} {d' : Decl}
    (hs : w.scan = .initial ∨ w.scan = .scanning ∨ w.scan = .extended)
    (ht : t = s.eccMark bad (wordsOf w.pa (rowBytes d.baseFmt d.cols)))
    (hw' : w' = { d.scanRow t.mem.bytes w with
      scan := if w.scan = .extended then .scanning else .ready
      poison := readsPoison t.mem.poison w.pa (rowBytes d.baseFmt d.cols) })
    (hd' : d' = Decl.saturate { d with rows := d.rows.set row w' }) :
    exec (.scanEnd h row bad) s = .next (if d.pending && d'.rows.all fun y => y.scan != .initial then
      (t.modDecl h fun _ => { d' with pending := false }).advance? d.counter else t.modDecl h fun _ => d') := by
  have hi : exec (.scanEnd h row bad) s = execScanEnd h row bad s := rfl
  have hpending : d'.pending = d.pending := by rw [hd', saturate_pending]
  have hstep : exec (.scanEnd h row bad) s = .next (if d'.pending && d'.rows.all fun y => y.scan != .initial then
      (t.modDecl h fun _ => { d' with pending := false }).advance? d.counter else t.modDecl h fun _ => d') := by
    rw [hi, execScanEnd, hd]
    dsimp only
    rw [hw]
    subst ht hw' hd'
    rcases hs with hs | hs | hs
    all_goals
      simp only [hs, reduceCtorEq, if_true, if_false]
      exact (apply_ite Host.Outcome.next _ _ _).symm
  rw [hstep, hpending]

/-- The rows of one home slice withdraw together, and stay recorded while another slice has rows (R352). -/
theorem declarationWithdraw_slice {ctr : Option Nat} {d' : Decl} (hctr : d.withdraw = some ctr)
    (hd' : d' = { d with rows := d.rows.map fun y => if y.slice = w.slice then { y with scan := .withdrawn } else y })
    (hrest : ∃ y, y ∈ d'.rows ∧ y.scan ≠ .withdrawn) :
    exec (.declarationWithdraw h row) s = .next (s.modDecl h fun _ => d') := by
  have hi : exec (.declarationWithdraw h row) s = execDeclarationWithdraw h row s := rfl
  have hall : d'.rows.all (fun y => y.scan == .withdrawn) = false := by
    obtain ⟨y, hy, hne⟩ := hrest
    exact List.all_eq_false.mpr ⟨y, hy, by simpa using hne⟩
  rw [hi, execDeclarationWithdraw, hd]
  dsimp only
  rw [hctr, hw]
  subst hd'
  exact if_neg (by rw [Bool.not_eq_true]; exact hall)

/-- With the last rows the handle is free (R278, R352). -/
theorem declarationWithdraw_last {ctr : Option Nat} {d' : Decl} (hctr : d.withdraw = some ctr)
    (hd' : d' = { d with rows := d.rows.map fun y => if y.slice = w.slice then { y with scan := .withdrawn } else y })
    (hlast : ∀ y, y ∈ d'.rows → y.scan = .withdrawn) (hready : s.unmapReady ((s.lostPages d).flatMap (·.2)) = true) :
    ∃ t, exec (.declarationWithdraw h row) s = .next t ∧ ∀ y, y ∈ t.drv → y.handle ≠ h := by
  have hi : exec (.declarationWithdraw h row) s = execDeclarationWithdraw h row s := rfl
  have hall : d'.rows.all (fun y => y.scan == .withdrawn) = true := List.all_eq_true.mpr fun y hy => by simp [hlast y hy]
  have hnext : ∃ u : State, exec (.declarationWithdraw h row) s = .next { u with drv := u.drv.filter fun y => y.handle != h } := by
    rw [hi, execDeclarationWithdraw, hd]
    dsimp only
    rw [hctr, hw]
    subst hd'
    exact ⟨_, (if_pos hall).trans (if_neg (by simp [hready]))⟩
  obtain ⟨u, hu⟩ := hnext
  refine ⟨_, hu, fun y hy => ?_⟩
  simpa using (List.mem_filter.mp hy).2

end

theorem declarationsRun : DeclarationsRun := by
  refine ⟨fun s c d f x y r hc hr hv hf hst hi hspace hdecl hd hres => ⟨fun u hu hset => ?_, fun hset => ?_⟩,
    fun s d h row w hd hw => ⟨fun bad t w' d' hs ht hw' hd' => ⟨fun hp hall => ?_, fun hp => ?_⟩,
      fun ctr d' hctr hd' => ⟨fun hrest => declarationWithdraw_slice hd hw hctr hd' hrest,
        fun hlast hready => declarationWithdraw_last hd hw hctr hd' hlast hready⟩⟩⟩
  · exact declarationAccept_next (declarationAccept_accepts hc hr hv hf hst hi hspace hdecl hd hres hu) hset
  · rw [declarationAccept_format (declarationAccept_accepts hc hr hv hf hst hi hspace hdecl hd hres rfl) hset, hd]
  · have hall' : d'.rows.all (fun y => y.scan != .initial) = true :=
      List.all_eq_true.mpr fun y hy => by simpa using hall y hy
    rw [scanEnd_ends hd hw hs ht hw' hd', hp, hall']
    rfl
  · rw [scanEnd_ends hd hw hs ht hw' hd', hp]
    rfl

/-- Settles O39: signals and arrivals change their counter and barrier, and declarations are accepted, scanned and
withdrawn. -/
theorem signalsAndDeclarationsRun : Obligations.SignalsAndDeclarationsRun := ⟨signalsApply, declarationsRun⟩

end Sys2Proof.Proofs.EventRuns
end

section
/-! R295, R407, R408, R417: the link operations that are owed to a package which has become unreachable end with a failure,
wherever they stand. -/

namespace Sys2Proof.Proofs.LinkRuns

open Sys2Proof Sys2Proof.Machine Sys2Proof.Proofs.ControlRuns Sys2Proof.Proofs.EventRuns

/-! ### An element without the link operations that satisfy a property -/

/-- What a source reads depends on the element alone. -/
def elemSrc (el : Elem) (x : Src) : Payload :=
  match x with
  | .reg n => el.d.get n
  | .head n => ((el.head? n).map Token.payload).getD 0
  | .const => el.img.consts.get (Fin.ofNat 16 0)
  | .zero => 0

theorem src_eq_elemSrc (c : Ctx) (x : Src) : c.src 0 x = elemSrc c.el x := by
  cases x with
  | head n =>
    rw [Ctx.src, elemSrc]
    cases c.el.head? n <;> rfl
  | _ => rfl

/-- Whether an access is a link operation with a property. -/
def linkHit (p : Nat → Payload → Bool) (a : Access) : Bool := a.kind == .link && p a.opc a.a

/-- No link operation of an element has a property: no send engine, no packet of its issue queue, and none that waits for its
stream input. -/
structure Spared (el : Elem) (p : Nat → Payload → Bool) : Prop where
  sends : ∀ x, el.ks = .e x → ∀ y, y ∈ x.sends → p y.opc y.a = false
  held : ∀ x, el.ks = .e x → ∀ f opc y, el.firing = some f → heldSend? f = some (opc, y) → p opc (elemSrc el y.sa) = false
  queue : ∀ x, el.ks = .e x → ∀ a, a ∈ el.issueQ → linkHit p a = false

/-- An element whose claims of some send engines are released. -/
def released (engs : List SendEng) (el : Elem) : Elem :=
  engs.foldl (fun el g => el.modInput g.input fun k => { k with claimed := false }) el

theorem released_frame (engs : List SendEng) (el : Elem) :
    ∃ ins, released engs el = { el with ins := ins } ∧ ∀ i, (ins.get i).pres = (el.ins.get i).pres ∧
      (ins.get i).fifo = (el.ins.get i).fifo := by
  induction engs generalizing el with
  | nil => exact ⟨el.ins, rfl, fun _ => ⟨rfl, rfl⟩⟩
  | cons g engs ih =>
    obtain ⟨ins, h, hi⟩ := ih (el.modInput g.input fun k => { k with claimed := false })
    refine ⟨ins, h, fun i => ?_⟩
    obtain ⟨h1, h2⟩ := hi i
    by_cases hg : i = g.input
    · subst hg
      rw [get_modInput_same] at h1 h2
      exact ⟨h1, h2⟩
    · rw [get_modInput_ne _ hg] at h1 h2
      exact ⟨h1, h2⟩

theorem head?_of_ins {el : Elem} {ins : Vector Input 4} {n : Fin 4}
    (h : (ins.get n).pres = (el.ins.get n).pres ∧ (ins.get n).fifo = (el.ins.get n).fifo) :
    Elem.head? { el with ins := ins } n = el.head? n := by
  simp only [Elem.head?, Elem.paired, h.1, h.2] <;> rfl

section
variable (c : Ctx) (x : ESt) (id cycle : Nat) (p : Nat → Payload → Bool)

/-- An element without the send engines and the queued packets that have a property, their claims released. -/
def withoutLinks : Elem :=
  let el := released (x.sends.filter fun g => p g.opc g.a) (c.el.setE { x with sends := x.sends.filter fun g => !p g.opc g.a })
  { el with issueQ := el.issueQ.filter fun a => !linkHit p a }

theorem withoutLinks_frame : ∃ ins, withoutLinks c x p = { c.el with
      ks := .e { x with sends := x.sends.filter fun g => !p g.opc g.a }
      issueQ := c.el.issueQ.filter fun a => !linkHit p a
      ins := ins } ∧ ∀ i, (ins.get i).pres = (c.el.ins.get i).pres ∧ (ins.get i).fifo = (c.el.ins.get i).fifo := by
  obtain ⟨ins, h, hi⟩ := released_frame (x.sends.filter fun g => p g.opc g.a)
    (c.el.setE { x with sends := x.sends.filter fun g => !p g.opc g.a })
  refine ⟨ins, ?_, hi⟩
  unfold withoutLinks
  rw [h]
  rfl

/-- A waiting operation reads its source as before. -/
theorem elemSrc_withoutLinks (a : Src) : elemSrc (withoutLinks c x p) a = elemSrc c.el a := by
  obtain ⟨ins, h, hi⟩ := withoutLinks_frame c x p
  rw [h]
  cases a with
  | head n => exact congrArg (fun t => (Option.map Token.payload t).getD 0) (head?_of_ins (el := { c.el with
      ks := .e { x with sends := x.sends.filter fun g => !p g.opc g.a }
      issueQ := c.el.issueQ.filter fun a => !linkHit p a }) (hi n))
  | _ => rfl

/-- The operation that waits for its stream input is gone where it has the property. -/
theorem cutHeld_spared {el : Elem} (hx : el.ks = .e x) (hs : ∀ y, y ∈ x.sends → p y.opc y.a = false)
    (hq : ∀ a, a ∈ el.issueQ → linkHit p a = false) (hsrc : ∀ a, elemSrc el a = elemSrc c.el a) :
    Spared (c.cutHeld el id cycle p).1 p := by
  cases hh : el.firing.bind fun f => (heldSend? f).map fun x => (f.slot, x.1, x.2) with
  | none =>
    rw [Ctx.cutHeld, hh]
    change Spared el p
    refine ⟨fun z hz => ?_, fun z hz f opc y hf hy => ?_, fun _ _ => hq⟩
    · cases hx.symm.trans hz
      exact hs
    · simp [hf, hy] at hh
  | some v =>
    obtain ⟨slot, opc, f⟩ := v
    have hs' : ∀ z, el.ks = .e z → ∀ y, y ∈ z.sends → p y.opc y.a = false := fun z hz => by
      cases hx.symm.trans hz
      exact hs
    rw [Ctx.cutHeld, hh]
    dsimp only
    split
    · obtain ⟨_, _, _, _, h⟩ := popAll_frame el cycle f.pop (readMask [f.sa])
      rw [h]
      exact ⟨hs', fun _ _ _ _ _ hf => (nomatch hf), fun _ _ => hq⟩
    · rename_i hp
      refine ⟨hs', fun z hz g op y hf hy => ?_, fun _ _ => hq⟩
      rw [hf] at hh
      simp only [Option.bind_some, hy, Option.map_some, Option.some.injEq, Prod.mk.injEq] at hh
      obtain ⟨-, rfl, rfl⟩ := hh
      rw [hsrc, ← src_eq_elemSrc]
      exact Bool.eq_false_iff.mpr hp

theorem withoutLinks_spared : Spared (c.cutHeld (withoutLinks c x p) id cycle p).1 p := by
  obtain ⟨ins, h, -⟩ := withoutLinks_frame c x p
  refine cutHeld_spared c { x with sends := x.sends.filter fun g => !p g.opc g.a } id cycle p (by rw [h])
    (fun y hy => by simpa using (List.mem_filter.mp hy).2) (fun a ha => ?_) (elemSrc_withoutLinks c x p)
  rw [h] at ha
  simpa using (List.mem_filter.mp ha).2

end

/-- The graph without the link operations of one element that have a property, and the failures, one for each of the element's
send engines among them. -/
theorem cutLinks_spec {c : Ctx} (he : c.g.elems[c.e]? = some c.el) (id cycle : Nat) (p : Nat → Payload → Bool) :
    ∃ el l, c.cutLinks id cycle p = (c.g.setElem c.e el, l) ∧ Spared el p ∧
      ∀ x y, c.el.ks = .e x → y ∈ x.sends → p y.opc y.a = true → ∃ a, a ∈ l ∧ a.fid = y.id := by
  unfold Ctx.cutLinks
  split
  · rename_i x hx
    dsimp only
    generalize hv : c.cutHeld _ id cycle p = v
    have hp : Spared v.1 p := hv ▸ withoutLinks_spared c x id cycle p
    refine ⟨v.1, _, rfl, hp, fun z y hz hy hp => ?_⟩
    cases hx.symm.trans hz
    exact ⟨_, List.mem_append_left _ (List.mem_append_left _ (List.mem_map_of_mem (List.mem_filter.mpr ⟨hy, hp⟩))), rfl⟩
  · rename_i hx
    have hself : c.g.setElem c.e c.el = c.g := by
      obtain ⟨hlt, h⟩ := List.getElem?_eq_some_iff.mp he
      simp [GraphSt.setElem, ← h]
    exact ⟨c.el, [], by rw [hself], ⟨fun x h => absurd h (hx x), fun x h => absurd h (hx x), fun x h => absurd h (hx x)⟩,
      fun x _ h => absurd h (hx x)⟩

/-- The failures that are collected stand with the image. -/
theorem mem_collectFails {g : GraphSt} {code no : Nat} {l : List Access} {a : Access} (h : a ∈ l) :
    ∃ z, z ∈ (g.collectFails code no l).collected ∧ z.acc = a ∧ z.val = .fail code := by
  obtain ⟨i, hi⟩ := List.mem_iff_getElem?.mp h
  exact ⟨⟨a, .fail code, no + i⟩, List.mem_append_right _ (List.mem_map.mpr
    ⟨(a, i), List.mk_mem_zipIdx_iff_getElem?.mpr hi, rfl⟩), rfl, rfl⟩

end Sys2Proof.Proofs.LinkRuns
end

section
/-! R295, R417: what `State.failLinks` does to the regions, the saved images and the queues. -/

namespace Sys2Proof.Proofs.LinkRuns

open Sys2Proof Sys2Proof.Machine Sys2Proof.Proofs.EventRuns

/-! ### A graph part of whose elements is without the operations -/

/-- How a graph stands once some of its elements are without the link operations that have a property: each of them is spared,
and each operation that a send engine of one of those at rest had left a failure with the image. -/
structure GraphCut (p : Nat → Payload → Bool) (rest : Elem → Prop) (code : Nat) (done : Nat → Prop) (g g' : GraphSt) : Prop where
  length : g'.elems.length = g.elems.length
  elems : ∀ e el, g.elems[e]? = some el → ∃ el', g'.elems[e]? = some el' ∧ (¬ done e → el' = el) ∧ (done e → Spared el' p)
  fails : ∀ e el x y, g.elems[e]? = some el → done e → rest el → el.ks = .e x → y ∈ x.sends → p y.opc y.a = true →
    ∃ z, z ∈ g'.collected ∧ z.acc.fid = y.id ∧ z.val = .fail code

section
variable {p : Nat → Payload → Bool} {rest : Elem → Prop} {code e : Nat} {done done' : Nat → Prop} {g g' : GraphSt} {el : Elem}

theorem GraphCut.refl (g : GraphSt) : GraphCut p rest code (fun _ => False) g g :=
  ⟨rfl, fun _ el h => ⟨el, h, fun _ => rfl, False.elim⟩, fun _ _ _ _ _ h => h.elim⟩

theorem GraphCut.congr (h : GraphCut p rest code done g g') (hd : ∀ e, e < g.elems.length → (done e ↔ done' e)) :
    GraphCut p rest code done' g g' := by
  obtain ⟨hl, he, hf⟩ := h
  refine ⟨hl, fun e el hel => ?_, fun e el x y hel hdone => hf e el x y hel ((hd e ?_).mpr hdone)⟩
  · rw [← hd e (List.getElem?_eq_some_iff.mp hel).1]
    exact he e el hel
  · exact (List.getElem?_eq_some_iff.mp hel).1

/-- One element more is without them. -/
theorem GraphCut.step (h : GraphCut p rest code done g g') (hd : ¬ done e) (he : g'.elems[e]? = some el) {el' : Elem}
    (hs : Spared el' p) {g'' : GraphSt} (hel : g''.elems = g'.elems.set e el')
    (hc : ∀ z, z ∈ g'.collected → z ∈ g''.collected)
    (hf : ∀ x y, rest el → el.ks = .e x → y ∈ x.sends → p y.opc y.a = true →
      ∃ z, z ∈ g''.collected ∧ z.acc.fid = y.id ∧ z.val = .fail code) :
    GraphCut p rest code (fun k => done k ∨ k = e) g g'' := by
  refine ⟨by rw [hel, List.length_set, h.length], fun k elk hk => ?_, fun k elk x y hk hdone hr hks hy hp => ?_⟩
  · obtain ⟨elk', hk', hsame, hspared⟩ := h.elems k elk hk
    rw [hel]
    by_cases hke : k = e
    · subst hke
      exact ⟨el', by simp [(List.getElem?_eq_some_iff.mp he).1], fun hn => absurd (.inr rfl) hn, fun _ => hs⟩
    · exact ⟨elk', by rw [List.getElem?_set_ne (Ne.symm hke), hk'], fun hn => hsame fun hk => hn (.inl hk),
        fun hk => hspared (hk.resolve_right hke)⟩
  · rcases hdone with hdone | rfl
    · obtain ⟨z, hz, hzz⟩ := h.fails k elk x y hk hdone hr hks hy hp
      exact ⟨z, hc z hz, hzz⟩
    · obtain ⟨elk', hk', hsame, -⟩ := h.elems k elk hk
      cases hk'.symm.trans he
      cases hsame hd
      exact hf x y hr hks hy hp

/-- All the elements of a graph in turn, each by a step that rests on the graph alone. -/
theorem GraphCut.foldl {α : Type} (graph : α → GraphSt) (f : α → Nat → α) (a : α) (g : GraphSt)
    (hg : graph a = g)
    (hstep : ∀ b e done, GraphCut p rest code done g (graph b) → ¬ done e → e < g.elems.length →
      GraphCut p rest code (fun k => done k ∨ k = e) g (graph (f b e))) :
    GraphCut p rest code (fun _ => True) g (graph ((List.range g.elems.length).foldl f a)) := by
  have hn : ∀ n, n ≤ g.elems.length → GraphCut p rest code (· < n) g (graph ((List.range n).foldl f a)) := by
    intro n hn
    induction n with
    | zero =>
      rw [List.range_zero, List.foldl_nil, hg]
      exact (GraphCut.refl g).congr fun _ _ => by simp
    | succ n ih =>
      rw [List.range_succ, List.foldl_append, List.foldl_cons, List.foldl_nil]
      exact (hstep _ n _ (ih (Nat.le_of_succ_le hn)) (Nat.lt_irrefl n) hn).congr fun k _ => by omega
  exact (hn _ (Nat.le_refl _)).congr fun e he => by simp [he]

end

/-! ### Replies of several accesses -/

theorem replied_foldl (l : List Access) (s : State) (v : ReplyVal) :
    ∃ rs n, l.foldl (fun s a => s.replied a v) s =
        { s with mem := { s.mem with replies := s.mem.replies ++ rs, performs := n } } ∧
      ∀ a, a ∈ l → ∃ no, ⟨a, v, no⟩ ∈ rs := by
  induction l generalizing s with
  | nil => exact ⟨[], s.mem.performs, by simp, fun _ h => nomatch h⟩
  | cons b l ih =>
    obtain ⟨rs, n, h, hl⟩ := ih (s.replied b v)
    refine ⟨⟨b, v, s.mem.performs⟩ :: rs, n, ?_, fun a ha => ?_⟩
    · rw [List.foldl_cons, h]
      simp [State.replied]
    · rcases List.mem_cons.mp ha with rfl | ha
      · exact ⟨_, List.mem_cons_self⟩
      · obtain ⟨no, hno⟩ := hl a ha
        exact ⟨no, List.mem_cons_of_mem _ hno⟩

/-! ### The regions -/

/-- What a failure of link operations at elements leaves alone. -/
structure Same (s t : State) : Prop where
  link : t.link = s.link
  sched : t.sched = s.sched
  bytes : t.mem.bytes = s.mem.bytes
  reqs : t.mem.reqs = s.mem.reqs
  egress : t.mem.egress = s.mem.egress

theorem Same.trans {s t u : State} (h : Same s t) (h' : Same t u) : Same s u :=
  ⟨h'.link.trans h.link, h'.sched.trans h.sched, h'.bytes.trans h.bytes, h'.reqs.trans h.reqs, h'.egress.trans h.egress⟩

/-- Whether the failures of an element are kept with the image. -/
def AtRest (reg : Region) (el : Elem) : Prop :=
  reg.state = .parked ∨ reg.state = .frozen ∨ reg.freezing = true ∨ el.saved = true

/-- The link operations of one element fail: the element is without them, and at rest the image has the failures. -/
theorem failLinks_spec {s : State} {c : Ctx} {k : Nat} (h : s.at? c.r c.e k = some c) (code : Nat) (p : Nat → Payload → Bool) :
    ∃ el g, Spared el p ∧ g.elems = c.g.elems.set c.e el ∧ (∀ z, z ∈ c.g.collected → z ∈ g.collected) ∧
      (∀ x y, AtRest c.reg c.el → c.el.ks = .e x → y ∈ x.sends → p y.opc y.a = true →
        ∃ z, z ∈ g.collected ∧ z.acc.fid = y.id ∧ z.val = .fail code) ∧
      (c.failLinks s code p).regions = (s.setGraph c.r g).regions ∧ Same s (c.failLinks s code p) := by
  obtain ⟨-, -, -, -, -, he⟩ := at?_some h
  obtain ⟨el, l, hcut, hs, hfid⟩ := cutLinks_spec he s.nextId s.cycle p
  rw [Ctx.failLinks, hcut]
  dsimp only
  split
  · refine ⟨el, (c.g.setElem c.e el).collectFails code s.mem.performs l, hs, rfl, fun z hz => List.mem_append_left _ hz,
      fun x y _ hks hy hp => ?_, rfl, ?_⟩
    · obtain ⟨a, ha, hay⟩ := hfid x y hks hy hp
      obtain ⟨z, hz, rfl, hv⟩ := mem_collectFails (g := c.g.setElem c.e el) (code := code) (no := s.mem.performs) ha
      exact ⟨z, hz, hay, hv⟩
    · constructor <;> simp [State.performNos]
  · rename_i hrest
    obtain ⟨rs, n, hrep, -⟩ := replied_foldl l { s.setGraph c.r (c.g.setElem c.e el) with nextId := s.nextId + l.length } (.fail code)
    rw [hrep]
    refine ⟨el, c.g.setElem c.e el, hs, rfl, fun z hz => hz, fun x y hr => absurd ?_ hrest, rfl, ?_⟩
    · simpa only [AtRest, Bool.or_eq_true, decide_eq_true_eq, or_assoc] using hr
    · constructor <;> simp

/-- How a state stands once some elements of its regions are without the operations. -/
structure Cut (p : Nat → Nat → Payload → Bool) (code : Nat) (done : Nat → Nat → Prop) (s t : State) : Prop where
  same : Same s t
  graphs : ∀ r reg g, s.region? r = some reg → reg.g = some g → ∃ g', t.region? r = some { reg with g := some g' } ∧
    GraphCut (p reg.launch) (AtRest reg) code (done r) g g'
  back : ∀ r reg g, t.region? r = some reg → reg.g = some g → ∃ reg' g', s.region? r = some reg' ∧ reg'.g = some g'

/-- The link operations of one element that have a property fail, if there is the element. -/
def failAt (code : Nat) (p : Nat → Payload → Bool) (r : Nat) (s : State) (e : Nat) : State :=
  match s.at? r e 0 with
  | some c => c.failLinks s code p
  | none => s

/-- Those of every element of a region fail. -/
def failRegion (code : Nat) (p : Nat → Nat → Payload → Bool) (s : State) (r : Nat) : State :=
  match s.region? r with
  | some reg =>
    match reg.g with
    | some g => (List.range g.elems.length).foldl (failAt code (p reg.launch) r) s
    | none => s
  | none => s

section
variable {p : Nat → Nat → Payload → Bool} {code : Nat} {done done' : Nat → Nat → Prop} {s t : State}

theorem Cut.refl (s : State) : Cut p code (fun _ _ => False) s s :=
  ⟨⟨rfl, rfl, rfl, rfl, rfl⟩, fun _ reg g h hg => ⟨g, by rw [h, ← hg], GraphCut.refl g⟩, fun _ reg g h hg => ⟨reg, g, h, hg⟩⟩

theorem Cut.congr (h : Cut p code done s t)
    (hd : ∀ r reg g e, s.region? r = some reg → reg.g = some g → e < g.elems.length → (done r e ↔ done' r e)) :
    Cut p code done' s t :=
  ⟨h.same, fun r reg g hr hg =>
    let ⟨g', ht, hc⟩ := h.graphs r reg g hr hg
    ⟨g', ht, hc.congr fun e he => hd r reg g e hr hg he⟩, h.back⟩

/-- One element more is without the operations. -/
theorem Cut.failAt {r e : Nat} {reg : Region} {g : GraphSt} (h : Cut p code done s t) (hr : s.region? r = some reg)
    (hg : reg.g = some g) (hd : ¬ done r e) (he : e < g.elems.length) :
    Cut p code (fun r' e' => done r' e' ∨ (r' = r ∧ e' = e)) s (failAt code (p reg.launch) r t e) := by
  obtain ⟨g', ht, hcut⟩ := h.graphs r reg g hr hg
  obtain ⟨el, hel⟩ : ∃ el, g'.elems[e]? = some el := ⟨_, List.getElem?_eq_getElem (hcut.length ▸ he)⟩
  have hat : t.at? r e 0 = some ⟨r, e, 0, { reg with g := some g' }, g', el⟩ := by
    simp only [State.at?, ht, hel]
  obtain ⟨el', g'', hs, hset, hcol, hfail, hregs, hsame⟩ := failLinks_spec (c := ⟨r, e, 0, { reg with g := some g' }, g', el⟩) hat code (p reg.launch)
  rw [LinkRuns.failAt, hat]
  have hreg : ∀ r', State.region? (Ctx.failLinks ⟨r, e, 0, { reg with g := some g' }, g', el⟩ t code (p reg.launch)) r' =
      (t.setGraph r g'').region? r' := fun r' => by rw [State.region?, hregs, State.region?]
  refine ⟨h.same.trans hsame, fun r' reg' g0 hr' hg' => ?_, fun r' reg' g0 hr' hg' => ?_⟩
  · rw [hreg]
    by_cases hrr : r' = r
    · subst hrr
      cases hr'.symm.trans hr
      cases hg'.symm.trans hg
      exact ⟨g'', by rw [setGraph_region?_same ht], (hcut.step hd hel hs hset hcol hfail).congr fun k _ => by simp⟩
    · obtain ⟨g1, ht1, hcut1⟩ := h.graphs r' reg' g0 hr' hg'
      exact ⟨g1, (setGraph_region?_ne hrr).trans ht1, hcut1.congr fun k _ => by simp [hrr]⟩
  · rw [hreg] at hr'
    by_cases hrr : r' = r
    · subst hrr
      exact ⟨reg, g, hr, hg⟩
    · rw [setGraph_region?_ne hrr] at hr'
      exact h.back r' reg' g0 hr' hg'

/-- The first elements of a region. -/
theorem Cut.failAts {r : Nat} {reg : Region} {g : GraphSt} (h : Cut p code done s t) (hr : s.region? r = some reg)
    (hg : reg.g = some g) (hd : ∀ e, ¬ done r e) (n : Nat) (hn : n ≤ g.elems.length) :
    Cut p code (fun r' e' => done r' e' ∨ (r' = r ∧ e' < n)) s
      ((List.range n).foldl (LinkRuns.failAt code (p reg.launch) r) t) := by
  induction n with
  | zero => exact h.congr fun _ _ _ _ _ _ _ => by simp
  | succ n ih =>
    rw [List.range_succ, List.foldl_append, List.foldl_cons, List.foldl_nil]
    refine ((ih (Nat.le_of_succ_le hn)).failAt hr hg (fun hdn => ?_) hn).congr fun r' _ _ e _ _ _ => ?_
    · exact hdn.elim (hd n) fun h => Nat.lt_irrefl n h.2
    · constructor
      · rintro ((h | h) | h)
        · exact .inl h
        · exact .inr ⟨h.1, by omega⟩
        · exact .inr ⟨h.1, by omega⟩
      · rintro (h | h)
        · exact .inl (.inl h)
        · by_cases he : e = n
          · exact .inr ⟨h.1, he⟩
          · exact .inl (.inr ⟨h.1, by omega⟩)

/-- Every element of one region more. -/
theorem Cut.failRegion {r : Nat} (h : Cut p code (fun r' _ => r' < r) s t) :
    Cut p code (fun r' _ => r' < r + 1) s (LinkRuns.failRegion code p t r) := by
  have hrest : (∀ reg g, s.region? r = some reg → reg.g = some g → False) → Cut p code (fun r' _ => r' < r + 1) s t :=
    fun hno => h.congr fun r' reg g e hr hg _ => by
      have : r' ≠ r := fun he => hno reg g (he ▸ hr) hg
      omega
  unfold LinkRuns.failRegion
  split
  · rename_i reg ht
    split
    · rename_i g hg
      obtain ⟨reg', g', hr', hg'⟩ := h.back r reg g ht hg
      obtain ⟨g1, ht1, hcut⟩ := h.graphs r reg' g' hr' hg'
      cases ht1.symm.trans ht
      cases hg
      rw [hcut.length]
      exact (h.failAts hr' hg' (fun _ => Nat.lt_irrefl r) _ (Nat.le_refl _)).congr fun r' reg1 g2 e hr1 hg2 he => by
        by_cases hrr : r' = r
        · subst hrr
          cases hr1.symm.trans hr'
          cases hg2.symm.trans hg'
          simp [he]
        · simp only [hrr, false_and, or_false]
          omega
    · rename_i hg
      refine hrest fun reg' g' hr' hg' => ?_
      obtain ⟨g1, ht1, -⟩ := h.graphs r reg' g' hr' hg'
      cases ht1.symm.trans ht
      cases hg
  · rename_i ht
    refine hrest fun reg' g' hr' hg' => ?_
    obtain ⟨g1, ht1, -⟩ := h.graphs r reg' g' hr' hg'
    cases ht1.symm.trans ht

/-- Every element of the first regions. -/
theorem cut_failRegions (p : Nat → Nat → Payload → Bool) (code : Nat) (s : State) (n : Nat) :
    Cut p code (fun r' _ => r' < n) s ((List.range n).foldl (LinkRuns.failRegion code p) s) := by
  induction n with
  | zero => exact (Cut.refl s).congr fun _ _ _ _ _ _ _ => by simp
  | succ n ih =>
    rw [List.range_succ, List.foldl_append, List.foldl_cons, List.foldl_nil]
    exact ih.failRegion

end

/-! ### The saved images -/

/-- No send engine of a graph has an operation with a property. -/
def SendsSpared (g : GraphSt) (p : Nat → Payload → Bool) : Prop :=
  ∀ el x y, el ∈ g.elems → el.ks = .e x → y ∈ x.sends → p y.opc y.a = false

/-- The link operations in a saved image fail. -/
theorem failSaved_spec (s : State) (code : Nat) (x : Launch) (p : Nat → Payload → Bool) {g : GraphSt} (hx : x.saved = some g) :
    ∃ g' n, SendsSpared g' p ∧
      s.failSaved code x p = { s.performNos n with sched := s.sched.modLaunch x.id fun y => { y with saved := some g' } } := by
  rw [State.failSaved, hx]
  dsimp only
  generalize hf : List.foldl _ _ _ = f
  refine ⟨f.1, f.2, ?_, rfl⟩
  have hcut : GraphCut p (fun _ => False) code (fun _ => True) g f.1 := by
    rw [← hf]
    refine GraphCut.foldl (fun a : GraphSt × Nat => a.1) _ (g, 0) g rfl fun b e done hb hd he => ?_
    obtain ⟨el, hel⟩ : ∃ el, b.1.elems[e]? = some el := ⟨_, List.getElem?_eq_getElem (hb.length ▸ he)⟩
    obtain ⟨el', l, hcut, hs, -⟩ := cutLinks_spec (c := ⟨0, e, 0, { Region.empty with launch := x.id, ctx := x.ctx }, b.1, el⟩)
      hel (s.nextId + b.2) s.cycle p
    simp only [hel, hcut]
    exact hb.step hd hel hs rfl (fun z hz => List.mem_append_left _ hz) fun _ _ h => h.elim
  intro el z y hel hz hy
  obtain ⟨e, he⟩ := List.mem_iff_getElem?.mp hel
  have hlt : e < g.elems.length := hcut.length ▸ (List.getElem?_eq_some_iff.mp he).1
  obtain ⟨el', hel', -, hs⟩ := hcut.elems e _ (List.getElem?_eq_getElem hlt)
  cases hel'.symm.trans he
  exact (hs trivial).sends z hz y hy

/-- How a state stands once the operations in the saved images of all launches but some are gone. -/
structure SavedCut (p : Nat → Nat → Payload → Bool) (left : List Launch) (s t : State) : Prop where
  regions : t.regions = s.regions
  link : t.link = s.link
  sched : t.sched = { s.sched with launches := t.sched.launches }
  launches : (t.sched.launches.map fun l => { l with saved := none }) = s.sched.launches.map fun l => { l with saved := none }
  bytes : t.mem.bytes = s.mem.bytes
  reqs : t.mem.reqs = s.mem.reqs
  egress : t.mem.egress = s.mem.egress
  spared : ∀ l g, l ∈ t.sched.launches → l.saved = some g → SendsSpared g (p l.id) ∨ l ∈ left

theorem SavedCut.step {p : Nat → Nat → Payload → Bool} {x : Launch} {left : List Launch} {s t : State} (code : Nat)
    (h : SavedCut p (x :: left) s t) : SavedCut p left s (t.failSaved code x (p x.id)) := by
  cases hx : x.saved with
  | none =>
    rw [State.failSaved, hx]
    refine ⟨h.regions, h.link, h.sched, h.launches, h.bytes, h.reqs, h.egress, fun l g hl hg => ?_⟩
    refine (h.spared l g hl hg).imp_right fun hm => (List.mem_cons.mp hm).resolve_left ?_
    rintro rfl
    cases hx.symm.trans hg
  | some g0 =>
    obtain ⟨g', n, hs, hf⟩ := failSaved_spec t code x (p x.id) hx
    rw [hf]
    refine ⟨h.regions, h.link, ?_, ?_, h.bytes, h.reqs, h.egress, fun l g hl hg => ?_⟩
    · rw [SchedSt.modLaunch, h.sched]
    · rw [← h.launches, SchedSt.modLaunch, List.map_map]
      refine List.map_congr_left fun l _ => ?_
      dsimp only [Function.comp_apply]
      split <;> rfl
    · obtain ⟨l0, hl0, rfl⟩ := List.mem_map.mp hl
      by_cases hid : l0.id = x.id
      · rw [if_pos hid] at hg ⊢
        cases hg
        exact .inl (hid ▸ hs)
      · rw [if_neg hid] at hg ⊢
        refine (h.spared l0 g hl0 hg).imp_right fun hm => (List.mem_cons.mp hm).resolve_left ?_
        rintro rfl
        exact hid rfl

theorem SavedCut.foldl {p : Nat → Nat → Payload → Bool} (code : Nat) (left : List Launch) {s t : State}
    (h : SavedCut p left s t) : SavedCut p [] s (left.foldl (fun s x => s.failSaved code x (p x.id)) t) := by
  induction left generalizing t with
  | nil => exact h
  | cons x left ih => exact ih (h.step code)

/-! ### The request queues -/

/-- Whether an access of the memory system is a link operation that fails. -/
def goes (p : Nat → Nat → Payload → Bool) (a : Access) : Bool := a.kind == .link && p a.launch a.opc a.a

/-- The link operations in the request queues and egress buffers fail. -/
def failQueued (code : Nat) (p : Nat → Nat → Payload → Bool) (s : State) : State :=
  ((s.mem.reqs ++ s.mem.egress).filter (goes p)).foldl (fun s a => s.replied a (.fail code)) { s with
    mem := { s.mem with reqs := s.mem.reqs.filter fun a => !goes p a, egress := s.mem.egress.filter fun a => !goes p a } }

theorem failQueued_spec (code : Nat) (p : Nat → Nat → Payload → Bool) (s : State) :
    ∃ rs n, failQueued code p s = { s with mem := { s.mem with
        reqs := s.mem.reqs.filter fun a => !goes p a
        egress := s.mem.egress.filter fun a => !goes p a
        replies := s.mem.replies ++ rs
        performs := n } } ∧
      ∀ a, a ∈ s.mem.reqs ++ s.mem.egress → goes p a = true → ∃ no, ⟨a, .fail code, no⟩ ∈ rs := by
  obtain ⟨rs, n, h, hl⟩ := replied_foldl ((s.mem.reqs ++ s.mem.egress).filter (goes p)) { s with
    mem := { s.mem with reqs := s.mem.reqs.filter fun a => !goes p a, egress := s.mem.egress.filter fun a => !goes p a } }
    (.fail code)
  exact ⟨rs, n, h, fun a ha hg => hl a (List.mem_filter.mpr ⟨ha, hg⟩)⟩

/-! ### All of them -/

/-- The regions without the operations. -/
@[irreducible] def regionsFailed (code : Nat) (p : Nat → Nat → Payload → Bool) (s : State) : State :=
  (List.range regionSlots).foldl (failRegion code p) s

/-- The saved images without the operations. -/
@[irreducible] def savedFailed (code : Nat) (p : Nat → Nat → Payload → Bool) (s : State) : State :=
  s.sched.launches.foldl (fun s x => s.failSaved code x (p x.id)) s

theorem savedCut_savedFailed (p : Nat → Nat → Payload → Bool) (code : Nat) (s : State) : SavedCut p [] s (savedFailed code p s) := by
  unfold savedFailed
  exact SavedCut.foldl code _ ⟨rfl, rfl, rfl, rfl, rfl, rfl, rfl, fun _ _ h _ => .inr h⟩

theorem cut_regionsFailed (p : Nat → Nat → Payload → Bool) (code : Nat) (s : State) :
    Cut p code (fun r _ => r < regionSlots) s (regionsFailed code p s) := by
  unfold regionsFailed
  exact cut_failRegions p code s regionSlots

theorem failLinks_eq (s : State) (code : Nat) (p : Nat → Nat → Payload → Bool) :
    s.failLinks code p = failQueued code p (savedFailed code p (regionsFailed code p s)) := by
  unfold State.failLinks regionsFailed savedFailed
  generalize regionSlots = n
  rfl

end Sys2Proof.Proofs.LinkRuns
end

section
/-! O40: what the link does of its own. -/

namespace Sys2Proof.Proofs.LinkRuns

open Sys2Proof Sys2Proof.Machine Sys2Proof.Proofs.EventRuns Sys2Proof.Proofs.ControlRuns

/-! ### PUTS_SIGNAL (R292, R420) -/

theorem counterAdd_one {v c : BitVec 64} (h : v.toNat = min (c.toNat + 1) (2 ^ 64 - 1)) : counterAdd c 1 = v := by
  apply BitVec.eq_of_toNat_eq
  rw [h, counterAdd, BitVec.toNat_ofNat]
  omega

theorem putsSignal_advances (s : State) (k n src flow ctx va : Nat) (x : Inbound) (v : BitVec 64)
    (hx : (s.link.inbound.find? fun q => q.id == k) = some x) (hp : x.pkt = .put src flow ctx va [] (some (true, n)))
    (hd : s.hostDataLeft k = false) (hc : s.holdsCounter ctx n = true)
    (hv : v.toNat = min ((s.mem.counter n).toNat + 1) (2 ^ 64 - 1)) :
    exec (.putsSignal k) s = .next { s.setCounter n v with link := { s.link with
      inbound := s.link.inbound.filter fun q => q.id != x.id, acks := s.link.acks ++ [(src, .done [])] } } := by
  have hi : exec (.putsSignal k) s = execPutsSignal k s := rfl
  rw [hi, execPutsSignal, hx]
  dsimp only
  rw [hp]
  simp only [hd, hc, Bool.false_eq_true, ↓reduceIte, State.advance, State.endInbound]
  rw [counterAdd_one hv]
  rfl

/-! ### DESTINATION_UNREACHABLE (R417) -/

section
variable (s : State) (code : Nat) (p : Nat → Nat → Payload → Bool)

theorem failLinks_regions (r : Nat) : (s.failLinks code p).region? r = (regionsFailed code p s).region? r := by
  obtain ⟨rs, n, h, -⟩ := failQueued_spec code p (savedFailed code p (regionsFailed code p s))
  rw [failLinks_eq, h]
  exact congrArg (fun l : List Region => l[r]?) (savedCut_savedFailed p code (regionsFailed code p s)).regions

/-- No element of a region keeps one of the operations. -/
theorem failLinks_spared {r e : Nat} {c : Ctx} (hr : r < regionSlots) (h : (s.failLinks code p).at? r e 0 = some c) :
    Spared c.el (p c.reg.launch) := by
  rw [at?_of_region (failLinks_regions s code p r)] at h
  obtain ⟨rfl, rfl, -, hreg, hg, hel⟩ := at?_some h
  obtain ⟨reg, g, hr0, hg0⟩ := (cut_regionsFailed p code s).back _ _ _ hreg hg
  obtain ⟨g', ht, hcut⟩ := (cut_regionsFailed p code s).graphs _ _ _ hr0 hg0
  obtain rfl : g' = c.g := by
    rw [← Option.some.inj (ht.symm.trans hreg)] at hg
    exact Option.some.inj hg
  have hlaunch : c.reg.launch = reg.launch := by rw [← Option.some.inj (ht.symm.trans hreg)]
  rw [hlaunch]
  obtain ⟨el', hel', -, hs⟩ := hcut.elems _ _ (List.getElem?_eq_getElem (hcut.length ▸ (List.getElem?_eq_some_iff.mp hel).1))
  cases hel'.symm.trans hel
  exact hs hr

/-- The failures of a region at rest are with its image. -/
theorem failLinks_collected {r : Nat} {reg : Region} {g : GraphSt} {el : Elem} {x : ESt} {y : SendEng} (hr : r < regionSlots)
    (hreg : s.region? r = some reg) (hg : reg.g = some g) (hel : el ∈ g.elems) (hrest : AtRest reg el) (hx : el.ks = .e x)
    (hy : y ∈ x.sends) (hp : p reg.launch y.opc y.a = true) :
    ∃ reg' g' z, (s.failLinks code p).region? r = some reg' ∧ reg'.g = some g' ∧ z ∈ g'.collected ∧ z.acc.fid = y.id ∧
      z.val = .fail code := by
  obtain ⟨g', ht, hcut⟩ := (cut_regionsFailed p code s).graphs _ _ _ hreg hg
  obtain ⟨e, he⟩ := List.mem_iff_getElem?.mp hel
  obtain ⟨z, hz, hid, hv⟩ := hcut.fails e el x y he hr hrest hx hy hp
  exact ⟨_, g', z, (failLinks_regions s code p r).trans ht, rfl, hz, hid, hv⟩

/-- What stands outside the elements. -/
theorem failLinks_outside : ∃ u : State, s.failLinks code p = u ∧ u.link = s.link ∧
    u.sched = { s.sched with launches := u.sched.launches } ∧
    (u.sched.launches.map fun l => { l with saved := none }) = (s.sched.launches.map fun l => { l with saved := none }) ∧
    u.mem.bytes = s.mem.bytes ∧
    (∀ l g, l ∈ u.sched.launches → l.saved = some g → SendsSpared g (p l.id)) ∧
    u.mem.reqs = (s.mem.reqs.filter fun a => !goes p a) ∧ u.mem.egress = (s.mem.egress.filter fun a => !goes p a) ∧
    ∀ a, a ∈ s.mem.reqs ++ s.mem.egress → goes p a = true → ∃ no, ⟨a, .fail code, no⟩ ∈ u.mem.replies := by
  have hs := (cut_regionsFailed p code s).same
  have hl := savedCut_savedFailed p code (regionsFailed code p s)
  obtain ⟨rs, n, h, hrs⟩ := failQueued_spec code p (savedFailed code p (regionsFailed code p s))
  refine ⟨_, (failLinks_eq s code p).trans h, hl.link.trans hs.link, ?_, ?_, hl.bytes.trans hs.bytes,
    fun l g hm hg => (hl.spared l g hm hg).resolve_right List.not_mem_nil, ?_, ?_, fun a ha hg => ?_⟩
  · exact hl.sched.trans (by rw [hs.sched])
  · exact hl.launches.trans (by rw [hs.sched])
  · exact congrArg (List.filter fun a => !goes p a) (hl.reqs.trans hs.reqs)
  · exact congrArg (List.filter fun a => !goes p a) (hl.egress.trans hs.egress)
  · obtain ⟨no, hno⟩ := hrs a (by
      rw [show (savedFailed code p (regionsFailed code p s)).mem.reqs = _ from hl.reqs.trans hs.reqs,
        show (savedFailed code p (regionsFailed code p s)).mem.egress = _ from hl.egress.trans hs.egress]
      exact ha) hg
    exact ⟨no, List.mem_append_right _ hno⟩

end

/-- What is owed to a package of a link group, reductions excepted. -/
def owedTo (s : State) (lg pkg launch opc : Nat) (a : Payload) : Bool :=
  opc != 0xF3 && (lane32 a 2).toNat == pkg && s.inLinkGroup launch lg

theorem owedTo_iff {s : State} {lg pkg launch opc : Nat} {a : Payload} : owedTo s lg pkg launch opc a = true ↔
    opc ≠ 0xF3 ∧ (lane32 a 2).toNat = pkg ∧ s.inLinkGroup launch lg = true := by
  simp [owedTo, and_assoc]

/-- The state after DESTINATION_UNREACHABLE: the operations have failed and the package is marked. -/
theorem destinationUnreachable_next (s : State) (lg pkg : Nat) :
    ∃ m, exec (.destinationUnreachable ⟨lg, pkg⟩) s =
        .next { s.failLinks 3 (owedTo s lg pkg) with link := { (s.failLinks 3 (owedTo s lg pkg)).link with unreachable := m } } ∧
      (lg, pkg) ∈ m := by
  have hi : exec (.destinationUnreachable ⟨lg, pkg⟩) s = execDestinationUnreachable ⟨lg, pkg⟩ s := rfl
  have hp : (fun l opc a => opc != 0xF3 && (lane32 a 2).toNat == pkg && s.inLinkGroup l lg) = owedTo s lg pkg := rfl
  obtain ⟨u, hu, hl, -⟩ := failLinks_outside s 3 (owedTo s lg pkg)
  rw [hi, execDestinationUnreachable]
  dsimp only
  rw [hp, hu]
  by_cases hm : s.link.unreachable.contains (lg, pkg) = true
  · exact ⟨u.link.unreachable, by rw [if_pos hm], by rw [hl]; simpa using hm⟩
  · exact ⟨u.link.unreachable ++ [(lg, pkg)], by rw [if_neg hm], List.mem_append_right _ (List.mem_singleton_self _)⟩

theorem not_owed {s : State} {lg pkg launch opc : Nat} {a : Payload} (h : owedTo s lg pkg launch opc a = false) :
    ¬ (opc ≠ 0xF3 ∧ (lane32 a 2).toNat = pkg ∧ s.inLinkGroup launch lg = true) :=
  fun ho => Bool.eq_false_iff.mp h (owedTo_iff.mpr ho)

theorem mem_kept {s : State} {lg pkg : Nat} {l : List Access} {a : Access} :
    a ∈ l.filter (fun a => !goes (owedTo s lg pkg) a) ↔ a ∈ l ∧ ¬ (a.kind = .link ∧
      a.opc ≠ 0xF3 ∧ (lane32 a.a 2).toNat = pkg ∧ s.inLinkGroup a.launch lg = true) := by
  rw [List.mem_filter, ← owedTo_iff]
  simp only [goes, Bool.not_eq_true', Bool.and_eq_false_iff, beq_eq_false_iff_ne, Bool.not_eq_true, not_and_or, ne_eq]

/-- Writing an element leaves the link and the identifiers to themselves. -/
theorem put_link_nextId {s : State} {c : Ctx} (h : s.region? c.r = some c.reg) (el : Elem) (n : Nat) (l l' : LinkSt) :
    ({ c.put { s with nextId := n, link := l } el with link := l' } : State) = { c.put s el with nextId := n, link := l' } := by
  have h' : State.region? { s with nextId := n, link := l } c.r = some c.reg := h
  simp only [Ctx.put, State.setGraph, State.modRegion, h, h']
  rfl

/-! ### LINK_PACKET_ARRIVAL of an LSEND packet (R293, R336) -/

section
variable (s : State) (x : Inbound) (h : ∀ y, y ∈ s.link.inbound → y.id ≠ x.id ∧ packetKey y.pkt ≠ packetKey x.pkt)
include h

/-- A packet of a flow with no other that waits stands at its front. -/
theorem isFront_appended : State.isFront { s with
    nextId := s.nextId + 1, link := { s.link with inbound := s.link.inbound ++ [x] } } x = true := by
  have ht : ∀ l : List Inbound, (∀ y, y ∈ l → y.id ≠ x.id) → (l ++ [x]).takeWhile (fun y => y.id != x.id) = l := by
    intro l hl
    rw [List.takeWhile_append_of_pos (by simpa using hl)]
    simp
  rw [State.isFront]
  dsimp only
  rw [ht _ fun y hy => (h y hy).1, List.all_eq_true]
  intro y hy
  simp [(h y hy).2]

omit h in
theorem filter_appended (h : ∀ y, y ∈ s.link.inbound → y.id ≠ x.id) :
    (s.link.inbound ++ [x]).filter (fun y => y.id != x.id) = s.link.inbound := by
  rw [List.filter_append, List.filter_eq_self.mpr (by simpa using h)]
  simp

end

section
variable {s : State} {c : Ctx} {x : ESt} {q : Fin 8} {toks : List RxTok} {src flow : Nat}
  (hc : s.at? c.r c.e 0 = some c) (hx : c.el.ks = .e x)
  (hy : ∀ y, y ∈ s.link.inbound → y.id ≠ s.nextId ∧ packetKey y.pkt ≠ (0, src, flow))
include hc hx hy

theorem lsendPacket_step : exec (.linkPacketArrival (.send src flow c.r c.e q.val toks)) s = .next
    (if 16 ≤ (x.rx.get q).length then
      { s with nextId := s.nextId + 1, link := { s.link with
          inbound := s.link.inbound ++ [⟨s.nextId, .send src flow c.r c.e q.val toks, [], .start⟩] } }
    else { c.put s { c.el with ks := .e { x with rx := x.rx.set q (x.rx.get q ++ [toks]) } } with
      nextId := s.nextId + 1, link := { s.link with acks := s.link.acks ++ [(src, .done [])] } }) := by
  let z : Inbound := ⟨s.nextId, .send src flow c.r c.e q.val toks, [], .start⟩
  let t : State := { s with nextId := s.nextId + 1, link := { s.link with inbound := s.link.inbound ++ [z] } }
  have hi : exec (.linkPacketArrival (.send src flow c.r c.e q.val toks)) s = .next (t.inboundStep z []) := rfl
  have hf : t.isFront z = true := isFront_appended s z hy
  have hs : t.inboundStep z [] = t.sendStep z src c.r c.e q.val toks := by
    rw [State.inboundStep, hf]
    rfl
  have hat : t.at? c.r c.e 0 = some c := hc
  have hq : Fin.ofNat 8 q.val = q := Fin.ext (Nat.mod_eq_of_lt q.isLt)
  rw [hi, hs, State.sendStep, hat]
  dsimp only
  rw [hx]
  dsimp only
  simp only [hq]
  rw [if_neg (Nat.not_le.mpr q.isLt)]
  split
  · rfl
  · simp only [State.answerInbound, State.endInbound, State.ack, Elem.setE, put_link]
    obtain ⟨-, -, -, hr, -, -⟩ := at?_some hc
    rw [filter_appended s z fun y h => (hy y h).1, put_link_nextId hr]

end

/-! ### SWITCH_REDUCE (R423) -/

theorem span_first_unsent {pre : List Round} {x : Round} {rest : List Round} (hp : ∀ y, y ∈ pre → y.sent = true)
    (hx : x.sent = false) : (pre ++ x :: rest).span (fun r => r.sent) = (pre, x :: rest) := by
  rw [List.span_eq_takeWhile_dropWhile, List.takeWhile_append_of_pos hp, List.dropWhile_append_of_pos hp]
  simp [hx]

theorem redPorts_eq_nil {r : GroupRec} : redPorts r = [] ↔ r.children = 0 := by
  rw [redPorts, List.filter_eq_nil_iff]
  constructor
  · intro h
    apply BitVec.eq_of_getLsbD_eq
    intro i hi
    have := h i (List.mem_range.mpr hi)
    simpa using this
  · rintro h i -
    simp [h]

section
variable {s : State} {n : Nat} {g : GroupSt} {pre : List Round} {x : Round} {rest : List Round} {f : Fmt}
  (hg : s.link.group? n = some g) (hr : g.rounds = pre ++ x :: rest) (hp : ∀ y, y ∈ pre → y.sent = true) (hx : x.sent = false)
  (hf : Fmt.ofRecord g.record.fmt = some f)
include hg hr hp hx hf

/-- The switch takes up the oldest round that it has not passed on. -/
theorem switchReduce_incomplete (h : redComplete g.record x = false) : exec (.switchReduce n) s = .next s := by
  have hi : exec (.switchReduce n) s = execSwitchReduce n s := rfl
  rw [hi, execSwitchReduce, hg]
  dsimp only
  rw [hr, span_first_unsent hp hx, hf]
  dsimp only
  rw [h]
  rfl

theorem switchReduce_up {p : Nat} (h : redComplete g.record x = true) (hpar : g.record.parent = some p) (t : State)
    (ht : t = s.setGroup n { g with rounds := pre ++ { x with sent := true } :: rest }) :
    exec (.switchReduce n) s = .next { t with link := { t.link with sentUp := t.link.sentUp ++ [(n, redFormed g.record f x)] } } := by
  have hi : exec (.switchReduce n) s = execSwitchReduce n s := rfl
  rw [hi, execSwitchReduce, hg]
  dsimp only
  rw [hr, span_first_unsent hp hx, hf]
  dsimp only
  rw [h, hpar, ht]
  rfl

theorem switchReduce_root (h : redComplete g.record x = true) (hpar : g.record.parent = none) :
    exec (.switchReduce n) s = .next (s.roundResult n g pre x rest (redAtRoot f (redFormed g.record f x))) := by
  have hi : exec (.switchReduce n) s = execSwitchReduce n s := rfl
  rw [hi, execSwitchReduce, hg]
  dsimp only
  rw [hr, span_first_unsent hp hx, hf]
  dsimp only
  rw [h, hpar]
  rfl

end

/-- A lane of a token of a format. -/
theorem lane_ofLanes_lanes {f : Fmt} {g : Nat → BitVec f.lane} {i : Nat} (hi : i < f.lanes) :
    lane (ofLanes f.lane g f.lanes) f.lane i = g i := by
  have hw : 0 < f.lane := by
    rw [Fmt.lanes] at hi
    by_contra h
    rw [Nat.eq_zero_of_not_pos h, Nat.div_zero] at hi
    exact Nat.not_lt_zero _ hi
  exact (lane_ofLanes hw (Nat.mul_div_le 256 f.lane) i).trans (if_pos hi)

/-! ### What a round waits for and what it forms (R423 to R425) -/

theorem redComplete_iff (r : GroupRec) (x : Round) : redComplete r x = true ↔
    (r.localMember = true → x.own ≠ none) ∧ ∀ p, p < 24 → r.children.getLsbD p = true → ∃ c, (p, c) ∈ x.kids := by
  have hown : (!r.localMember || x.own.isSome) = true ↔ (r.localMember = true → x.own ≠ none) := by
    cases r.localMember <;> simp [Option.isSome_iff_ne_none]
  have hkid : ∀ p, (x.kids.any fun k => k.1 == p) = true ↔ ∃ c, (p, c) ∈ x.kids := fun p => by simp
  rw [redComplete, Bool.and_eq_true, hown, List.all_eq_true]
  simp only [redPorts, List.mem_filter, List.mem_range, hkid, and_imp]

theorem redInOrder_eq (r : GroupRec) (x : Round) : redInOrder r x = (x.own.map fun t => [Contrib.toks t]).getD [] ++
    (List.range 24).filterMap fun p =>
      if r.children.getLsbD p = true then (x.kids.find? fun k => k.1 == p).map (·.2) else none := by
  rw [redInOrder, redPorts, List.filterMap_filter]
  cases x.own <;> rfl

/-- OP on tokens alone, as a fold over the contributions. -/
theorem redFormed_toks {r : GroupRec} {f : Fmt} {x : Round} {t : List Payload} {rest : List (List Payload)}
    (h : ¬ (r.exact = true ∧ r.op = 0)) (ho : redInOrder r x = (t :: rest).map .toks) :
    redFormed r f x = .toks (rest.foldl (reduceToks f r.op) (if r.exact then reduceToks f r.op t t else t)) := by
  have hn : ¬ (r.exact && r.op == 0) = true := by simpa using h
  rw [redFormed, if_neg hn, ho, List.map_cons]
  dsimp only
  rw [List.foldl_map]

theorem reduceToks_lane {f : Fmt} {op j i : Nat} {a b : List Payload} {x y v : Payload} (ha : a[j]? = some x)
    (hb : b[j]? = some y) (hv : (reduceToks f op a b)[j]? = some v) (hi : i < f.lanes) :
    lane v f.lane i =
      BitVec.ofNat f.lane (reduceOp f op ((unpackCodes f x).getD i 0) ((unpackCodes f y).getD i 0)) := by
  rw [reduceToks, List.getElem?_map, List.getElem?_zip_eq_some (z := (x, y)) |>.mpr ⟨ha, hb⟩] at hv
  cases hv
  rw [lane_ofLanes_lanes hi]

/-- The records of EXACT with sum: one for each token and each of its lanes. -/
structure RecordsOf (n lanes : Nat) (l : List (List XS)) : Prop where
  length : l.length = n
  lanes : ∀ z, z ∈ l → z.length = lanes

section
variable {f : Fmt} {n j i : Nat} {l m : List (List XS)} {t : List Payload} (h : RecordsOf n f.lanes l) (hj : j < n) (hi : i < f.lanes)
include h

theorem RecordsOf.get (hj : j < n) (hi : i < f.lanes) :
    ∃ y z, l[j]? = some y ∧ y.length = f.lanes ∧ y[i]? = some z ∧ (l.getD j []).getD i XS.clear = z := by
  have hjl : j < l.length := h.length.symm ▸ hj
  have hy : l[j].length = f.lanes := h.lanes _ (List.getElem_mem hjl)
  have hil : i < l[j].length := hy.symm ▸ hi
  refine ⟨l[j], l[j][i], List.getElem?_eq_getElem hjl, hy, List.getElem?_eq_getElem hil, ?_⟩
  simp [hjl, hil]

theorem addExact_toks (ht : t.length = n) : RecordsOf n f.lanes (addExact f n l (.toks t)) := by
  refine ⟨by simp [addExact, h.length, ht], fun z hz => ?_⟩
  obtain ⟨⟨a, v⟩, hav, rfl⟩ := List.mem_map.mp (List.mem_of_mem_take hz)
  simp [h.lanes a (List.of_mem_zip hav).1, unpack]

theorem addExact_recs (hm : RecordsOf n f.lanes m) : RecordsOf n f.lanes (addExact f n l (.recs m)) := by
  refine ⟨by simp [addExact, h.length, hm.length], fun z hz => ?_⟩
  obtain ⟨⟨a, v⟩, hav, rfl⟩ := List.mem_map.mp hz
  simp [h.lanes a (List.of_mem_zip hav).1, hm.lanes v (List.of_mem_zip hav).2]

include hj hi

/-- Each local value is added to its record. -/
theorem addExact_toks_get (ht : t.length = n) : ((addExact f n l (.toks t)).getD j []).getD i XS.clear =
    xsAdd ((l.getD j []).getD i XS.clear) ((unpack f (t.getD j 0)).getD i .zero) false := by
  obtain ⟨y, z, hy, -, hz, he⟩ := h.get hj hi
  have hv : t[j]? = some (t.getD j 0) := by simp [ht.symm ▸ hj]
  have hx : (unpack f (t.getD j 0))[i]? = some ((unpack f (t.getD j 0)).getD i .zero) := by simp [unpack, hi]
  rw [he]
  have hlv := (List.getElem?_zip_eq_some (z := (y, t.getD j 0))).mpr ⟨hy, hv⟩
  have hzx := (List.getElem?_zip_eq_some (z := (z, (unpack f (t.getD j 0)).getD i .zero))).mpr ⟨hz, hx⟩
  rw [addExact, List.getD_eq_getElem?_getD, List.getD_eq_getElem?_getD, List.getElem?_take_of_lt hj, List.getElem?_map, hlv,
    Option.map_some, Option.getD_some, List.getElem?_map, hzx]
  rfl

/-- Each child's record is merged. -/
theorem addExact_recs_get (hm : RecordsOf n f.lanes m) : ((addExact f n l (.recs m)).getD j []).getD i XS.clear =
    xsMerge ((l.getD j []).getD i XS.clear) ((m.getD j []).getD i XS.clear) := by
  obtain ⟨y, z, hy, -, hz, he⟩ := h.get hj hi
  obtain ⟨y', z', hy', -, hz', he'⟩ := hm.get hj hi
  rw [he, he']
  have hll := (List.getElem?_zip_eq_some (z := (y, y'))).mpr ⟨hy, hy'⟩
  have hzz := (List.getElem?_zip_eq_some (z := (z, z'))).mpr ⟨hz, hz'⟩
  rw [addExact, List.getD_eq_getElem?_getD, List.getD_eq_getElem?_getD, List.getElem?_map, hll, Option.map_some,
    Option.getD_some, List.getElem?_map, hzz]
  rfl

/-- The record of one lane takes up the contributions in turn. -/
theorem addExact_foldl {add : XS → Contrib → XS} (cs : List Contrib) (hts : ∀ t, .toks t ∈ cs → t.length = n)
    (hrs : ∀ l, .recs l ∈ cs → l.length = n ∧ ∀ z, z ∈ l → z.length = f.lanes)
    (hadd : ∀ acc t, add acc (.toks t) = xsAdd acc ((unpack f (t.getD j 0)).getD i .zero) false)
    (hmerge : ∀ acc l, add acc (.recs l) = xsMerge acc ((l.getD j []).getD i XS.clear)) :
    RecordsOf n f.lanes (cs.foldl (addExact f n) l) ∧
      ((cs.foldl (addExact f n) l).getD j []).getD i XS.clear = cs.foldl add ((l.getD j []).getD i XS.clear) := by
  induction cs generalizing l with
  | nil => exact ⟨h, rfl⟩
  | cons c cs ih =>
    rw [List.foldl_cons, List.foldl_cons]
    have hrest := fun l' (h' : RecordsOf n f.lanes l') =>
      ih h' (fun t ht => hts t (List.mem_cons_of_mem _ ht)) fun l hl => hrs l (List.mem_cons_of_mem _ hl)
    cases c with
    | toks t =>
      have ht := hts t List.mem_cons_self
      rw [hadd, ← addExact_toks_get h hj hi ht]
      exact hrest _ (addExact_toks h ht)
    | recs m =>
      obtain ⟨hl, hz⟩ := hrs m List.mem_cons_self
      rw [hmerge, ← addExact_recs_get h hj hi ⟨hl, hz⟩]
      exact hrest _ (addExact_recs h ⟨hl, hz⟩)

end

theorem redFormed_exact {r : GroupRec} (hx : r.exact = true) (ho : r.op = 0) (f : Fmt) (x : Round) :
    redFormed r f x = .recs (redExact r f x) := by
  rw [redFormed, if_pos (by simp [hx, ho])]

theorem clearRecords (n lanes : Nat) : RecordsOf n lanes (List.replicate n (List.replicate lanes XS.clear)) :=
  ⟨List.length_replicate, fun z hz => by rw [List.eq_of_mem_replicate hz, List.length_replicate]⟩

theorem clearRecords_get (n lanes j i : Nat) :
    ((List.replicate n (List.replicate lanes XS.clear)).getD j []).getD i XS.clear = XS.clear := by
  simp only [List.getD_eq_getElem?_getD, List.getElem?_replicate]
  split
  · simp only [Option.getD_some, List.getElem?_replicate]
    split <;> rfl
  · rfl

theorem redAtRoot_lane {f : Fmt} {l : List (List XS)} {j i : Nat} {y : List XS} {v : Payload} (hy : l[j]? = some y)
    (hv : (redAtRoot f (.recs l))[j]? = some v) (hi : i < f.lanes) :
    lane v f.lane i = BitVec.ofNat f.lane (xsRound (y.getD i XS.clear) 1 f .rne) := by
  rw [redAtRoot, List.getElem?_map, hy] at hv
  cases hv
  rw [lane_ofLanes_lanes hi]

theorem reductionsForm : ReductionsForm := by
  refine ⟨redComplete_iff, redInOrder_eq, fun r f x t rest hn ho => ⟨fun he => ?_, fun he => ?_⟩,
    fun _ _ _ _ _ _ _ _ _ => reduceToks_lane, fun r f x j i add hx ho hts hrs hadd hmerge hj hi => ?_, fun _ _ => rfl,
    fun _ _ _ _ _ _ => redAtRoot_lane⟩
  · rw [redFormed_toks hn ho, he]
    rfl
  · rw [redFormed_toks hn ho, he]
    rfl
  · obtain ⟨hrec, hget⟩ := addExact_foldl (clearRecords r.length f.lanes) hj hi (redInOrder r x) hts hrs hadd hmerge
    rw [clearRecords_get] at hget
    exact ⟨redExact r f x, redFormed_exact hx ho f x, hrec.length, hget⟩

/-! ### The obligation -/

/-- Settles O40: the operations to an unreachable package are gone from every element by induction on the regions and their
elements (`Cut`), and from the saved images by induction on the launches (`SavedCut`). -/
theorem linkEventsApply : Obligations.LinkEventsApply := by
  unfold Obligations.LinkEventsApply
  refine ⟨fun s k n src flow ctx va x v => putsSignal_advances s k n src flow ctx va x v, fun s lg pkg owed ho => ?_,
    fun s c x q toks src flow p hc hx hp hy => ?_, fun s n g pre x rest f u hg hr hp hx hf hu => ⟨?_, ?_, ?_⟩, reductionsForm⟩
  · subst ho
    obtain ⟨m, hnext, hm⟩ := destinationUnreachable_next s lg pkg
    obtain ⟨u, hu, hlink, hsched, hmap, hbytes, hsaved, hreqs, hegress, hrep⟩ := failLinks_outside s 3 (owedTo s lg pkg)
    refine ⟨_, hnext, hm, ?_⟩
    rw [hu]
    refine ⟨hsched, hmap, hbytes, fun l g el x y hl hg hel hx hy => not_owed (hsaved l g hl hg el x y hel hx hy),
      fun r reg g el x y hr hreg hg hel hrest hx hy howed => ?_, fun a => ?_, fun a => ?_, fun a ha hk howed => ?_,
      fun r e c x hr hat hx => ?_⟩
    · obtain ⟨reg', g', z, h⟩ := failLinks_collected s 3 (owedTo s lg pkg) hr hreg hg hel
        (hrest.imp_right fun h => h.imp_right .inr) hx hy (owedTo_iff.mpr howed)
      rw [hu] at h
      exact ⟨reg', g', z, h⟩
    · dsimp only
      rw [hreqs, mem_kept]
    · dsimp only
      rw [hegress, mem_kept]
    · exact hrep a ha (by rw [goes, hk, owedTo_iff.mpr howed]; rfl)
    · have hat' : u.at? r e 0 = some c := hat
      rw [← hu] at hat'
      obtain ⟨hsends, hheld, hqueue⟩ := failLinks_spared s 3 (owedTo s lg pkg) hr hat'
      refine ⟨fun g hg => not_owed (hsends x hx g hg), fun f opc y hf hy => ?_, fun a ha hk => not_owed ?_⟩
      · rw [src_eq_elemSrc]
        exact not_owed (hheld x hx f opc y hf hy)
      · have h := hqueue x hx a ha
        rw [linkHit, hk] at h
        exact h
  · subst hp
    refine ⟨fun hq => ?_, fun hq => ?_⟩
    · rw [lsendPacket_step hc hx hy, if_neg (Nat.not_le.mpr hq)]
    · rw [lsendPacket_step hc hx hy, if_pos hq]
  · exact switchReduce_incomplete hg hr hp hx hf
  · intro p t hcomp hpar ht
    rw [hu]
    exact switchReduce_up hg hr hp hx hf hcomp hpar t ht
  · intro res t hcomp hpar hres ht
    rw [switchReduce_root hg hr hp hx hf hcomp hpar, ← hu, ← hres, State.roundResult]
    dsimp only
    rw [← ht]
    exact ⟨fun hc => by rw [if_pos (redPorts_eq_nil.mpr hc)], fun hc => by rw [if_neg (mt redPorts_eq_nil.mp hc)]⟩

end Sys2Proof.Proofs.LinkRuns
end

section
/-! O41: drains and the Owl detector (R81, R162, R165, R379, R381). -/

namespace Sys2Proof.Proofs.QuiescenceRuns

open Sys2Proof Sys2Proof.Machine Sys2Proof.Proofs.EventRuns

/-! ### DRAIN_MARKER_PASS -/

@[simp] theorem dropMarkers_stop (el : Elem) (l : List (Fin 4)) : (el.dropMarkers l).stop = el.stop := by
  unfold Elem.dropMarkers
  induction l generalizing el with
  | nil => rfl
  | cons i l ih => exact ih (el.dropFront i)

/-- Whether markers stand at the heads of all the inputs that they reach, and there is one. -/
theorem drainHeld_of {c : Ctx} (hne : c.g.liveFed c.e ≠ []) (h : ∀ i, i ∈ c.g.liveFed c.e → c.el.head? i = some drainMarker) :
    c.drainHeld = true := by
  rw [Ctx.drainHeld, Bool.and_eq_true, List.all_eq_true]
  exact ⟨by simpa using hne, fun i hi => by simp [Elem.drainAt, h i hi]⟩

section
variable {s : State} {c : Ctx} {el : Elem} (hl : s.live? c.r c.e = some c) (hsaved : c.el.saved = false)
  (hel : el = c.el.dropMarkers ((c.g.liveFed c.e).filter c.el.drainAt)) (hown : el.owesNothing = true)
include hl hel hown

/-- An element that has something to do passes its markers on once it owes nothing without those at its heads. -/
theorem drainMarkerPass_next (hdue : c.drainDue = true) (hstop : c.el.stop.isDrained = false) :
    exec (.drainMarkerPass c.r c.e) s =
      .next (s.setGraph c.r ((c.g.setElem c.e { el with stop := c.el.stop.passOn }).pushMarkers c.e drainMarker 0)) := by
  have hi : exec (.drainMarkerPass c.r c.e) s = execDrainMarkerPass c.r c.e s := rfl
  subst hel
  rw [hi, execDrainMarkerPass, hl]
  dsimp only
  rw [hdue, hstop, hown, dropMarkers_stop]
  rfl

include hsaved

theorem drainMarkerPass_draining (howes : c.el.owesNothing = true) (hstop : c.el.stop = .draining) :
    exec (.drainMarkerPass c.r c.e) s =
      .next (s.setGraph c.r ((c.g.setElem c.e { el with stop := .drained }).pushMarkers c.e drainMarker 0)) := by
  have hdue : c.drainDue = true := by simp [Ctx.drainDue, hsaved, hstop, howes]
  rw [drainMarkerPass_next hl hel hown hdue (by rw [hstop]; rfl), hstop]
  rfl

theorem drainMarkerPass_halted (howes : c.el.owesNothing = true) (hstop : c.el.stop = .halted) (hne : c.g.liveFed c.e ≠ [])
    (h : ∀ i, i ∈ c.g.liveFed c.e → c.el.head? i = some drainMarker) :
    exec (.drainMarkerPass c.r c.e) s =
      .next (s.setGraph c.r ((c.g.setElem c.e { el with stop := .haltedDrained }).pushMarkers c.e drainMarker 0)) := by
  have hdue : c.drainDue = true := by simp [Ctx.drainDue, hsaved, hstop, howes, drainHeld_of hne h]
  rw [drainMarkerPass_next hl hel hown hdue (by rw [hstop]; rfl), hstop]
  rfl

end

/-! ### OWL_QUIESCENCE and EXTERNAL_WAIT_EXPIRY -/

section
variable {s : State} {r : Nat} {reg : Region} {g : GraphSt} (hr : s.region? r = some reg) (hg : reg.g = some g)
  (hp : reg.preempt ≠ .running) (hsw : reg.switching = false) (hq : s.quiescent r = true)

section
include hr hg hp hsw hq

/-- A quiescent region that neither switches nor is pre-empted has completed its partition, waits outside, or has deadlocked. -/
theorem owlQuiescence_eq : exec (.owlQuiescence r) s =
    if s.partDone r = true then .next (s.endPart r reg g)
    else if (s.liveElems r).any s.waitsOutside = true then
      (if reg.quietAt.isSome = true then .next s else .next (s.setRegion r { reg with quietAt := some s.clock.toNat }))
    else .next (s.deadlock r reg) := by
  have hi : exec (.owlQuiescence r) s = execOwlQuiescence r s := rfl
  rw [hi, execOwlQuiescence, hr]
  dsimp only
  rw [hg]
  dsimp only
  rw [hsw, Bool.and_false, if_neg Bool.false_ne_true, if_neg hp, hq]
  cases reg.quietAt <;> rfl

theorem owlQuiescence_ends (hd : s.partDone r = true) (hlast : g.parts ≤ g.part + 1) :
    exec (.owlQuiescence r) s = .next (s.endLaunch reg.launch 0 0 (List.replicate 8 0) []) := by
  rw [owlQuiescence_eq hr hg hp hsw hq, if_pos hd, State.endPart, if_pos hlast]

theorem owlQuiescence_parks (hd : s.partDone r = true) (hmore : g.part + 1 < g.parts) :
    exec (.owlQuiescence r) s = .next { s.setRegion r { reg with
        state := .parked, loadPart := g.part + 1, restoring := false, switching := true, quietAt := none } with
      sched := s.sched.modLaunch reg.launch fun l => { l with state := .parked } } := by
  rw [owlQuiescence_eq hr hg hp hsw hq, if_pos hd, State.endPart, if_neg (Nat.not_le.mpr hmore)]
  simp only [setRegion_sched]

theorem owlQuiescence_waits (hd : s.partDone r = false) (hw : (s.liveElems r).any s.waitsOutside = true)
    (ht : reg.quietAt = none) :
    exec (.owlQuiescence r) s = .next (s.setRegion r { reg with quietAt := some s.clock.toNat }) := by
  rw [owlQuiescence_eq hr hg hp hsw hq, if_neg (Bool.eq_false_iff.mp hd), if_pos hw, ht]
  rfl

end

include hr hp hq in
theorem externalWaitExpiry_deadlocks (hd : s.partDone r = false) (hw : (s.liveElems r).any s.waitsOutside = true) {t : Nat}
    (ht : reg.quietAt = some t) (hpast : t + s.sched.extLimit ≤ s.clock.toNat) :
    exec (.externalWaitExpiry r) s = .next (s.endLaunch reg.launch 1 0 (List.replicate 8 0) (s.deadlockEntries r)) := by
  have hi : exec (.externalWaitExpiry r) s = execExternalWaitExpiry r s := rfl
  rw [hi, execExternalWaitExpiry, hr]
  dsimp only
  rw [ht]
  dsimp only
  rw [hq, hd, hw, decide_eq_true hp, decide_eq_true hpast]
  rfl

end

/-- Settles O41, by the branches of DRAIN_MARKER_PASS and of the detector. -/
theorem quiescenceEnds : Obligations.QuiescenceEnds := by
  unfold Obligations.QuiescenceEnds
  refine ⟨fun s c el hl hsaved howes hel hown => ⟨?_, ?_⟩, fun s r reg g hr hg hp hsw hq => ⟨?_, ?_, fun hd hw => ⟨?_, ?_⟩⟩⟩
  · exact drainMarkerPass_draining hl hsaved hel hown howes
  · exact drainMarkerPass_halted hl hsaved hel hown howes
  · exact owlQuiescence_ends hr hg hp hsw hq
  · exact owlQuiescence_parks hr hg hp hsw hq
  · exact owlQuiescence_waits hr hg hp hsw hq hd hw
  · intro t ht hpast
    exact externalWaitExpiry_deadlocks hr hp hq hd hw ht hpast

end Sys2Proof.Proofs.QuiescenceRuns
end

section
/-! O42: launches and admission (R371 to R378). -/

namespace Sys2Proof.Proofs.SchedulerEvents

open Sys2Proof Sys2Proof.Machine

/-! ### Launches -/

theorem launchWindowWrite_submits {s : State} {ctx off : Nat} {bytes : List Byte} {c : Context}
    (hc : s.sched.context? ctx = some c) (hb : bytes.length = 64) (ho : off % 64 = 0) (hlt : off < 4096) :
    exec (.launchWindowWrite ctx off bytes) s = .next (s.submit ctx (launchRec bytes) none).1 := by
  have hi : exec (.launchWindowWrite ctx off bytes) s = execLaunchWindowWrite ctx off bytes s := rfl
  rw [hi, execLaunchWindowWrite, hc]
  exact if_pos (by simp [hb, ho, hlt])

section
variable {s : State} {l : Nat} {x : Launch} (hx : s.sched.launch? l = some x)
include hx

theorem launchWaitMet_ready (hw : x.state = .waiting) (hm : s.waitsMet x.record = true) :
    exec (.launchWaitMet l) s = .next { s with
      sched := s.sched.modLaunch l fun y => { y with state := .ready, readyAt := s.clock.toNat } } := by
  have hi : exec (.launchWaitMet l) s = execLaunchWaitMet l s := rfl
  rw [hi, execLaunchWaitMet, hx]
  exact if_pos (by simp [hw, hm])

theorem signalCounterAdvance_advances (he : x.state = .ended) (hd : x.sigDue = true) (hb : s.launchBusy l = false)
    (hs : x.record.signal ≠ 0xFFFF) :
    exec (.signalCounterAdvance l) s = .next (State.advance
      { s with sched := s.sched.modLaunch l fun y => { y with sigDue := false } } x.record.signal.toNat) := by
  have hi : exec (.signalCounterAdvance l) s = execSignalCounterAdvance l s := rfl
  rw [hi, execSignalCounterAdvance, hx]
  dsimp only
  rw [if_pos (by simp [he, hd, hb]), if_neg hs]

theorem agePromotion_raises {die : Nat} (hr : x.state = .ready) (hd : die < 8)
    (ha : x.readyAt + sget 0 s.sched.ageLimits die < s.clock.toNat) (hc : x.record.ctl.toNat % 4 ≠ 3) (hp : x.prio < 2) :
    exec (.agePromotion l) s = .next { s with
      sched := s.sched.modLaunch l fun y => { y with prio := y.prio + 1, readyAt := s.clock.toNat } } := by
  have hi : exec (.agePromotion l) s = execAgePromotion l s := rfl
  have hover : (List.range 8).any (s.overAge x) = true :=
    List.any_eq_true.mpr ⟨die, List.mem_range.mpr hd, by simp [State.overAge, hd, ha]⟩
  rw [hi, execAgePromotion, hx]
  dsimp only
  rw [if_neg (by simp [hr, hover]), if_neg (show recPrio x.record ≠ 3 from hc), if_pos hp]

end

/-- An entry of the time-triggered table starts: its start is counted, as a skip where its context is gone. -/
theorem timeTriggerStart_starts {s : State} {idx : Nat} {t : TimeSt} (ht : sget none s.sched.table idx = some t)
    (hp : t.ent.period ≠ 0) (hc : t.ent.offset + t.k * t.ent.period ≤ s.clock.toNat) (hl : s.sched.lastOf idx = none)
    (u : Nat → State) (hu : u = fun n => { s with sched := { s.sched with
      table := sset none s.sched.table idx (some { t with k := t.k + 1, skips := t.skips + n }) } }) :
    exec (.timeTriggerStart idx) s =
      .next (State.submit (u (if (s.sched.context? t.ent.ctx).isSome then 0 else 1)) t.ent.ctx t.ent.record
        (some (idx, t.ent.offset + t.k * t.ent.period))).1 := by
  have hi : exec (.timeTriggerStart idx) s = execTimeTriggerStart idx s := rfl
  rw [hi, execTimeTriggerStart, ht]
  dsimp only
  rw [if_neg (by simp [hp, hc]), hl, hu]

theorem launchesAdvance : LaunchesAdvance := by
  intro s
  refine ⟨fun ctx off bytes c => launchWindowWrite_submits, fun l x hx => ⟨launchWaitMet_ready hx,
    signalCounterAdvance_advances hx, fun die => agePromotion_raises hx⟩,
    fun idx t u ht hp hc hl hu => ⟨fun hctx => ?_, fun hctx => ?_⟩⟩
  · rw [timeTriggerStart_starts ht hp hc hl u hu, hctx]
    rfl
  · have hnone : (u 1).sched.context? t.ent.ctx = none := by rw [hu]; exact hctx
    rw [timeTriggerStart_starts ht hp hc hl u hu, hctx]
    simp only [Option.isSome_none, Bool.false_eq_true, ↓reduceIte, State.submit, hnone]

/-! ### ADMISSION -/

section
variable (s : State) (r : Nat) (l : Launch) (x y w h : Nat)

/-- A launch whose placement stands enters a slot under a generation, if there is one. -/
def enterUnder (key : Option (BitVec 384 × BitVec 384)) (pl : Placement) : Option (BitVec 12) → Res
  | none => .next s
  | some gen =>
    let s := s.cachePut (key.map fun k => cacheKey k x y w h) pl
    let s := s.setRegion r (l.loading gen x y w h pl)
    .next { s with sched := s.sched.modLaunch l.id fun z => { z with state := .loading, region := some r, key := key } }

/-- A launch enters a slot with what the mapper gives, under the generation that `next` names. -/
def enterWith (next : Nat → BitVec 12 → Option (BitVec 12)) : Option (BitVec 384 × BitVec 384) × Option (Except Nat Placement) → Res
  | (_, none) => .next s
  | (_, some (.error e)) => .next (s.endLaunch l.id 2 0 (leBytes 4 e ++ [0xFF] ++ List.replicate 3 0) [])
  | (key, some (.ok pl)) =>
    match s.region? r with
    | none => .next s
    | some old => enterUnder s r l x y w h key pl (next r old.gen)

end

/-- A die's free slot and the record that it admits, placed as `place` says. -/
def admitTo (s : State) (place : Launch → Nat → Nat → Nat → Nat → Option (BitVec 384 × BitVec 384) × Option (Except Nat Placement))
    (next : Nat → BitVec 12 → Option (BitVec 12)) : Option Nat → Option (Launch × Nat × Nat × Nat × Nat) → Res
  | some r, some (l, x, y, w, h) => enterWith s r l x y w h next (place l x y w h)
  | _, _ => .next s

section
variable {s : State} {die : Nat} {pl : Placement} {l : Launch} {x y w h r : Nat} {key : Option (BitVec 384 × BitVec 384)}

theorem execAdmission_eq : execAdmission die pl s =
    if (!s.running || decide (8 ≤ die)) = true then .next s
    else admitTo s (fun l x y w h => s.placeImage l x y w h pl) s.mem.nextGen (s.freeSlot? die) (s.admits? die) := by
  obtain ⟨place, hp⟩ : ∃ f, f = State.placeImage := ⟨_, rfl⟩
  obtain ⟨next, hn⟩ : ∃ f, f = MemSt.nextGen := ⟨_, rfl⟩
  obtain ⟨slot, ha⟩ : ∃ a, a = s.freeSlot? die := ⟨_, rfl⟩
  obtain ⟨rec, hb⟩ : ∃ b, b = s.admits? die := ⟨_, rfl⟩
  rw [execAdmission, ← hp, ← hn, ← ha, ← hb]
  rfl

theorem enterWith_ok {old : Region} (hold : s.region? r = some old) {pl' : Placement}
    (next : Nat → BitVec 12 → Option (BitVec 12)) :
    enterWith s r l x y w h next (key, some (.ok pl')) = enterUnder s r l x y w h key pl' (next r old.gen) := by
  rw [enterWith, hold]

variable (hb : s.plat.boot = .running) (hd : die < 8) (ha : s.admits? die = some (l, x, y, w, h)) (hf : s.freeSlot? die = some r)
include hb hd ha hf

theorem admission_enters : exec (.admission die pl) s = enterWith s r l x y w h s.mem.nextGen (s.placeImage l x y w h pl) := by
  have hi : exec (.admission die pl) s = execAdmission die pl s := rfl
  rw [hi, execAdmission_eq, if_neg (by simp [State.running, hb, hd]), hf, ha, admitTo]

theorem admission_loads {old : Region} (hold : s.region? r = some old) {pl' : Placement} {u : State} {gen : BitVec 12}
    (hp : s.placeImage l x y w h pl = (key, some (.ok pl'))) (hg : s.mem.nextGen r old.gen = some gen)
    (hu : u = s.cachePut (key.map fun k => cacheKey k x y w h) pl') :
    exec (.admission die pl) s = .next { u.setRegion r { Region.empty with
        state := .loading, gen := gen, launch := l.id, ctx := l.ctx, x := x, y := y, w := w, h := h
        pl := pl' } with
      sched := u.sched.modLaunch l.id fun z => { z with state := .loading, region := some r, key := key } } := by
  rw [admission_enters hb hd ha hf, hp, enterWith_ok hold, hg, hu, enterUnder]
  simp only [setRegion_sched, Launch.loading]

theorem admission_lacks {e : Nat} (hp : s.placeImage l x y w h pl = (key, some (.error e))) :
    exec (.admission die pl) s = .next (s.endLaunch l.id 2 0 (leBytes 4 e ++ [0xFF] ++ List.replicate 3 0) []) := by
  rw [admission_enters hb hd ha hf, hp, enterWith]

end

theorem admissionLoads : AdmissionLoads := fun _ _ _ _ _ _ _ _ _ _ _ hb hd ha hf hold =>
  ⟨fun _ _ _ => admission_loads hb hd ha hf hold, fun _ => admission_lacks hb hd ha hf⟩

/-- Settles O42, by the branches of the launch events and of ADMISSION. -/
theorem schedulerRuns : Obligations.SchedulerRuns := ⟨launchesAdvance, admissionLoads⟩

end Sys2Proof.Proofs.SchedulerEvents
end

section
/-! O43: the loads and the lives of regions (R57, R79, R81, R84, R323, R407 to R409). -/

namespace Sys2Proof.Proofs.RegionEvents

open Sys2Proof Sys2Proof.Machine

/-! ### What a read of an image leaves alone -/

/-- What neither an accessed bit nor the count of malformed entries touches, a translation leaves as it is. -/
theorem translate_keeps {α : Type} {f : State → α} (h : ∀ s pa bs, f (s.homeWrite pa bs) = f s)
    (k : ∀ s g pa n mt q, f (s.joinReqs g pa n mt q) = f s) (hm : ∀ s m, f { s with mem := m } = f s) (s : State)
    (die ctx va : Nat) (intent : Bool) : f (s.translate die ctx va intent).1 = f s := by
  unfold State.translate
  split
  · rfl
  · split
    · dsimp only
      split
      · exact hm _ _
      · rfl
    · exact (hm _ _).trans (ownAmend_keeps h k s _ _ _)

theorem touchVas_keeps {α : Type} {f : State → α} (h : ∀ s pa bs, f (s.homeWrite pa bs) = f s)
    (k : ∀ s g pa n mt q, f (s.joinReqs g pa n mt q) = f s) (hm : ∀ s m, f { s with mem := m } = f s) (die ctx : Nat)
    (l : List Nat) (s : State) : f (s.touchVas die ctx l) = f s := by
  induction l generalizing s with
  | nil => rfl
  | cons va l ih =>
    have ht := translate_keeps h k hm s die ctx va false
    unfold State.touchVas
    split
    · rename_i t _ _ e
      rw [ih, ← ht, e]
    · rename_i t _ _ e
      rw [← ht, e]

@[simp] theorem touchRead_sched (s : State) (die ctx va n : Nat) : (s.touchRead die ctx va n).sched = s.sched :=
  touchVas_keeps (f := State.sched) (fun _ _ _ => rfl) (fun _ _ _ _ _ _ => rfl) (fun _ _ => rfl) die ctx _ s
@[simp] theorem touchRead_cycle (s : State) (die ctx va n : Nat) : (s.touchRead die ctx va n).cycle = s.cycle :=
  touchVas_keeps (f := State.cycle) (fun _ _ _ => rfl) (fun _ _ _ _ _ _ => rfl) (fun _ _ => rfl) die ctx _ s

/-! ### REGION_ARM -/

section
variable {s : State} {r : Nat} {reg : Region} (hr : s.region? r = some reg) (hl : reg.state = .loading)
include hr hl

theorem regionArm_restored {g : GraphSt} (hres : reg.restoring = true) (hg : reg.g = some g) :
    exec (.regionArm r) s = .next (s.armRegion r reg g) := by
  have hi : exec (.regionArm r) s = execRegionArm r s := rfl
  rw [hi, execRegionArm, hr]
  dsimp only
  rw [if_neg (not_not.mpr hl), hres, hg]

theorem regionArm_nextPart {g : GraphSt} (hres : reg.restoring = false) (himg : reg.image = none) (hp : reg.loadPart ≠ 0)
    (hg : reg.g = some g) : exec (.regionArm r) s = .next (s.armRegion r reg (g.nextPart reg.loadPart s.cycle)) := by
  have hi : exec (.regionArm r) s = execRegionArm r s := rfl
  rw [hi, execRegionArm, hr]
  dsimp only
  rw [if_neg (not_not.mpr hl), hres, himg, hg]
  exact if_neg hp

theorem regionArm_fresh {l : Launch} (hres : reg.restoring = false) (himg : reg.image = none) (hp : reg.loadPart = 0)
    (hx : s.sched.launch? reg.launch = some l) : exec (.regionArm r) s = .next (s.loadImage r reg l) := by
  have hi : exec (.regionArm r) s = execRegionArm r s := rfl
  rw [hi, execRegionArm, hr]
  dsimp only
  rw [if_neg (not_not.mpr hl), hres, himg, hx]
  exact if_pos hp

theorem regionArm_walker {pa : Nat} {x : ImageRec} (hres : reg.restoring = false) (himg : reg.image = some pa)
    (hx : s.walkerImage? pa = some x) : exec (.regionArm r) s = .next (s.setRegion r { reg with
      state := .armed, g := some (x.fresh reg 0 s.cycle), quietAt := none, armedAt := s.cycle }) := by
  have hi : exec (.regionArm r) s = execRegionArm r s := rfl
  have hw : s.loadWalkerImage r reg pa = s.setRegion r { reg with
      state := .armed, g := some (x.fresh reg 0 s.cycle), quietAt := none, armedAt := s.cycle } := by
    rw [State.loadWalkerImage, hx]
  rw [hi, ← hw, execRegionArm, hr]
  dsimp only
  rw [if_neg (not_not.mpr hl), hres, himg]

end

section
variable {s u : State} {r : Nat} {reg : Region} {l : Launch} {head bs : List Byte}
  (hh : s.readVa l.ctx l.record.imageVa.toNat 64 = some head) (hb : firstBad (headerChecks head) = none)
  (hbs : s.readVa l.ctx l.record.imageVa.toNat (fieldOf head 8 4) = some bs) (hi : imageBad bs = none)
  (hu : u = (s.touchRead (dieOf r) l.ctx l.record.imageVa.toNat 64).touchRead (dieOf r) l.ctx l.record.imageVa.toNat
    (fieldOf head 8 4))
include hh hb hbs hi hu

/-- The load of an image whose fields are legal, once the reads have translated. -/
theorem loadImage_legal : s.loadImage r reg l =
    (s.loadErr? l.id (recDet l.record) (recFlag l.record) (readImage bs)).elim
      (({ u with sched := s.sched.modLaunch l.id fun y => { y with flagged := (readImage bs).conflicts } } : State).armRegion r reg
        ((readImage bs).fresh reg
          (State.spillOf { u with sched := s.sched.modLaunch l.id fun y => { y with flagged := (readImage bs).conflicts } } l.ctx)
          u.cycle))
      fun e => u.endLaunch l.id 2 e.step e.detail [] := by
  rw [State.loadImage.eq_def]
  -- names of their own keep the kernel from reading the image's pages
  obtain ⟨readVa, hread⟩ : ∃ f, f = s.readVa := ⟨_, rfl⟩
  obtain ⟨touchRead, htouch⟩ : ∃ f, f = State.touchRead := ⟨_, rfl⟩
  obtain ⟨bad, hbad⟩ : ∃ f, f = firstBad := ⟨_, rfl⟩
  obtain ⟨imgBad, himg⟩ : ∃ f, f = imageBad := ⟨_, rfl⟩
  obtain ⟨loadErr, herr⟩ : ∃ f, f = s.loadErr? := ⟨_, rfl⟩
  rw [← hread] at hh hbs
  rw [← htouch] at hu
  rw [← hbad] at hb
  rw [← himg] at hi
  rw [← hread, ← htouch, ← hbad, ← himg, ← herr, hu]
  dsimp only
  rw [hh]
  dsimp only
  rw [hb]
  dsimp only
  rw [hbs]
  dsimp only
  rw [hi]
  dsimp only
  cases loadErr l.id (recDet l.record) (recFlag l.record) (readImage bs) <;> rfl

theorem loadImage_arms (he : s.loadErr? l.id (recDet l.record) (recFlag l.record) (readImage bs) = none) :
    s.loadImage r reg l = { u.setRegion r { reg with
        state := .armed, g := some ((readImage bs).fresh reg (s.spillOf l.ctx) s.cycle), restoring := false, switching := false
        quietAt := none, armedAt := s.cycle } with
      sched := (u.sched.modLaunch l.id fun y => { y with flagged := (readImage bs).conflicts }).modLaunch reg.launch
        fun y => { y with state := .running } } := by
  have hs : u.sched = s.sched := by simp [hu]
  have hc : u.cycle = s.cycle := by simp [hu]
  have hspill : State.spillOf { u with
      sched := s.sched.modLaunch l.id fun y => { y with flagged := (readImage bs).conflicts } } l.ctx = s.spillOf l.ctx := rfl
  rw [loadImage_legal hh hb hbs hi hu, he, Option.elim_none, State.armRegion, hspill, hs, ← hc]
  simp only [setRegion_sched]
  rfl

theorem loadImage_refuses {e : LoadErr} (he : s.loadErr? l.id (recDet l.record) (recFlag l.record) (readImage bs) = some e) :
    s.loadImage r reg l = u.endLaunch l.id 2 e.step e.detail [] := by
  rw [loadImage_legal hh hb hbs hi hu, he, Option.elim_some]

end

theorem regionsArm : RegionsArm := by
  intro s r reg armed running hr hl harmed hrunning
  subst harmed hrunning
  refine ⟨fun g hres hg => ?_, fun g g' hres himg hp hg hg' => ?_,
    fun l head bs u hres himg hp hx hh hb hbs hi hu => ⟨fun he => ?_, fun e he => ?_⟩,
    fun pa x hres himg hx => regionArm_walker hr hl hres himg hx⟩
  · rw [regionArm_restored hr hl hres hg, State.armRegion]
    simp only [setRegion_sched]
  · rw [regionArm_nextPart hr hl hres himg hp hg, State.armRegion, hg', GraphSt.nextPart]
    simp only [setRegion_sched]
  · rw [regionArm_fresh hr hl hres himg hp hx, loadImage_arms hh hb hbs hi hu he]
  · rw [regionArm_fresh hr hl hres himg hp hx, loadImage_refuses hh hb hbs hi hu he]

/-! ### Retention, gating, release and scan-out -/

section
variable {s : State} {r : Nat} {reg : Region} (hr : s.region? r = some reg)
include hr

section
variable (hrest : reg.rests = true)
include hrest

theorem resumeFromRetention_arms {g : GraphSt} (hg : reg.g = some g) : exec (.resumeFromRetention r) s =
    .next { s.setRegion r { reg with state := .armed, quietAt := none } with
      sched := s.sched.modLaunch reg.launch fun l => { l with state := .running } } := by
  have hi : exec (.resumeFromRetention r) s = execResumeFromRetention r s := rfl
  rw [hi, execResumeFromRetention, hr]
  dsimp only
  rw [if_pos (by simp [hrest, hg])]
  simp only [setRegion_sched]

theorem scanOut_saves {g : GraphSt} (hg : reg.g = some g) : exec (.scanOut r) s =
    .next { s.setRegion r { reg with g := none } with
      sched := s.sched.modLaunch reg.launch fun l => { l with saved := some g.clearTlb, region := none } } := by
  have hi : exec (.scanOut r) s = execScanOut r s := rfl
  rw [hi, execScanOut, hr]
  dsimp only
  rw [hg]
  dsimp only
  rw [if_pos hrest]
  simp only [setRegion_sched]

theorem gateRegion_gates : exec (.gateRegion r) s =
    .next { (s.setRegion r { reg with state := .gated, g := none }).dropMasks reg.launch with
      volt := s.volt.settle (reg.clusters r) } := by
  have hi : exec (.gateRegion r) s = execGateRegion r s := rfl
  have hv : ((s.setRegion r { reg with state := .gated, g := none }).dropMasks reg.launch).volt = s.volt := rfl
  rw [hi, execGateRegion, hr]
  dsimp only
  rw [if_pos hrest, hv]

end

theorem releaseRegion_eq : s.releaseRegion r = { s with
    regions := s.regions.set r { Region.empty with gen := reg.gen }
    volt := s.volt.settle (reg.clusters r)
    mem := { s.mem with
      replaceDiscard := bumpBy s.mem.replaceDiscard (dieOf r) ((reg.g.map GraphSt.discardCount).getD 0) } } := by
  rw [State.releaseRegion, hr]
  dsimp only
  cases reg.g <;> rfl

theorem regionRelease_frees (hst : reg.state = .parked ∨ reg.state = .frozen ∨ reg.state = .gated)
    (hl : ∀ l, s.sched.launch? reg.launch = some l → l.region ≠ some r) : exec (.regionRelease r) s = .next { s with
      regions := s.regions.set r { Region.empty with gen := reg.gen }
      volt := s.volt.settle (reg.clusters r)
      mem := { s.mem with
        replaceDiscard := bumpBy s.mem.replaceDiscard (dieOf r) ((reg.g.map GraphSt.discardCount).getD 0) } } := by
  have hi : exec (.regionRelease r) s = execRegionRelease r s := rfl
  have helse : s.heldElsewhere r reg = true := by
    rw [State.heldElsewhere]
    cases hx : s.sched.launch? reg.launch with
    | none => rfl
    | some l => exact bne_iff_ne.mpr (hl l hx)
  have hst' : (decide (reg.state = .parked) || decide (reg.state = .frozen) || decide (reg.state = .gated)) = true := by
    simpa [or_assoc] using hst
  rw [hi, execRegionRelease, hr]
  dsimp only
  rw [hst', helse, releaseRegion_eq hr]
  rfl

end

theorem rests_of {reg : Region} (hp : reg.state = .parked) (hs : reg.switching = false) (hf : reg.freezing = false) :
    reg.rests = true := by
  simp [Region.rests, hp, hs, hf]

theorem regionsChangeState : RegionsChangeState := fun _ _ _ hr =>
  ⟨fun hp hs hf => ⟨fun _ hg => ⟨resumeFromRetention_arms hr (rests_of hp hs hf) hg, scanOut_saves hr (rests_of hp hs hf) hg⟩,
    gateRegion_gates hr (rests_of hp hs hf)⟩, regionRelease_frees hr⟩

/-! ### RESTORE -/

/-- The region of a launch that is restored (R81, R408, R410). -/
def restoredRegion (z : Launch) (gen : BitVec 12) (x y w h : Nat) (pl : Placement) (g : Option GraphSt) (old : Region) : Region :=
  { z.loading gen x y w h pl with
    g := g.map fun g => { g with sites := placeSites pl (g.elems.map (·.img)) x y w }
    restoring := g.isSome, preempt := old.preempt, ckpt := old.ckpt }

/-- The region that a launch leaves (R438): its own, which takes another rectangle, or another one, which is freed. -/
def leaveRegion (s : State) (z : Launch) (r : Nat) (old reg : Region) : State :=
  match z.region with
  | some q => if q = r then { s with volt := s.volt.leave old reg r } else s.freeRegion q old
  | none => s

/-- The region that a launch has, or an empty one. -/
def ownRegion (s : State) (z : Launch) : Region :=
  match z.region with
  | some q => (s.region? q).getD Region.empty
  | none => Region.empty

theorem ownRegion_eq (s : State) (z : Launch) : ownRegion s z = (z.region.bind s.region?).getD Region.empty := by
  rw [ownRegion]
  cases z.region <;> rfl

/-- A restore with what the mapper gives and a generation that is free. -/
def restoreWith (s : State) (l : Nat) (z : Launch) (r x y w h : Nat) (g : Option GraphSt) :
    Option (BitVec 384 × BitVec 384) × Option (Except Nat Placement) → Option (BitVec 12) → Res
  | (key, some (.ok pl)), some gen =>
    let old := ownRegion s z
    let reg := restoredRegion z gen x y w h pl g old
    let s := s.cachePut (key.map fun k => cacheKey k x y w h) pl
    let s := leaveRegion s z r old reg
    let s := s.setRegion r reg
    .next { s with
      sched := s.sched.modLaunch l fun y => { y with state := .loading, region := some r, saved := none, key := key } }
  | _, _ => .next s

/-- A restore on the slot and rectangle that the scheduler names. -/
def restoreTo (s : State) (l : Nat) (z : Launch)
    (place : Option GraphSt → Nat → Nat → Nat → Nat → Option (BitVec 384 × BitVec 384) × Option (Except Nat Placement))
    (next : Nat → BitVec 12 → Option (BitVec 12)) : Option (Nat × Nat × Nat × Nat × Nat) → Res
  | none => .next s
  | some (r, x, y, w, h) => restoreWith s l z r x y w h (s.imageOf z) (place (s.imageOf z) x y w h)
      (next r ((s.region? r).getD Region.empty).gen)

theorem execRestore_eq {s : State} {l die : Nat} {pl : Placement} {z : Launch} (hz : s.sched.launch? l = some z) :
    execRestore l die pl s =
      if (decide (z.state ≠ .parked) || !s.running || decide (8 ≤ die) || s.imageHeld z) = true then .next s
      else restoreTo s l z (fun g x y w h => s.placeAgain z g x y w h pl) s.mem.nextGen (s.restoreAt? z die) := by
  obtain ⟨place, hp⟩ : ∃ f, f = State.placeAgain := ⟨_, rfl⟩
  obtain ⟨next, hn⟩ : ∃ f, f = MemSt.nextGen := ⟨_, rfl⟩
  obtain ⟨slot, hs⟩ : ∃ f, f = State.restoreAt? := ⟨_, rfl⟩
  rw [execRestore, hz, ← hp, ← hn, ← hs]
  rfl

section
variable {s : State} {l die r x y w h : Nat} {pl pl' : Placement} {z : Launch} {q : Region} {gen : BitVec 12}
  {key : Option (BitVec 384 × BitVec 384)} (hz : s.sched.launch? l = some z) (hst : z.state = .parked)
  (hb : s.plat.boot = .running) (hd : die < 8) (hheld : s.imageHeld z = false)
  (hat : s.restoreAt? z die = some (r, x, y, w, h)) (hq : s.region? r = some q)
  (hp : s.placeAgain z (s.imageOf z) x y w h pl = (key, some (.ok pl'))) (hg : s.mem.nextGen r q.gen = some gen)
include hz hst hb hd hheld hat hq hp hg

theorem restore_next : exec (.restore l die pl) s =
    restoreWith s l z r x y w h (s.imageOf z) (key, some (.ok pl')) (some gen) := by
  have hi : exec (.restore l die pl) s = execRestore l die pl s := rfl
  rw [hi, execRestore_eq hz, if_neg (by simp [State.running, hst, hb, hd, hheld]), hat, restoreTo, hp, hq, Option.getD_some, hg]

omit hz hst hb hd hheld hat hq hp hg in
theorem leaveRegion_frame (old reg : Region) : ∃ regs v, leaveRegion s z r old reg = { s with regions := regs, volt := v } := by
  unfold leaveRegion
  split
  · split
    · exact ⟨s.regions, _, rfl⟩
    · exact ⟨_, _, rfl⟩
  · exact ⟨s.regions, s.volt, rfl⟩

omit hz hst hb hd hheld hat hq hp hg in
/-- The slot that is left for another one is FREE under its generation. -/
theorem leaveRegion_left {old reg o : Region} {k : Nat} (hk : z.region = some k) (hne : k ≠ r) (ho : s.region? k = some o) :
    (leaveRegion s z r old reg).region? k = some { Region.empty with gen := old.gen } := by
  rw [leaveRegion, hk]
  dsimp only
  rw [if_neg hne]
  exact freeRegion_region?_same ho

omit hz hst hb hd hheld hat hq hp hg in
theorem leaveRegion_other {old reg : Region} {k : Nat} (hk : z.region ≠ some k) :
    (leaveRegion s z r old reg).region? k = s.region? k := by
  unfold leaveRegion
  split
  · rename_i q hq
    split
    · rfl
    · exact freeRegion_region?_ne fun e => hk (e ▸ hq)
  · rfl

omit hz hst hb hd hheld hat hq hp hg in
/-- The slot that a launch takes still stands once it has left its own. -/
theorem leaveRegion_taken {old reg q : Region} (hq : s.region? r = some q) :
    (leaveRegion s z r old reg).region? r = some q := by
  unfold leaveRegion
  split
  · split
    · exact hq
    · rename_i hne
      rw [freeRegion_region?_ne (Ne.symm hne)]
      exact hq
  · exact hq

end

/-- A launch that is changed under its number. -/
theorem launch?_modLaunch {d : SchedSt} {l : Nat} {z : Launch} (h : d.launch? l = some z) (f : Launch → Launch)
    (hf : ∀ y, (f y).id = y.id) : (d.modLaunch l f).launch? l = some (f z) := by
  have hz : z.id = l := by simpa using List.find?_some h
  have hp : ((fun x : Launch => x.id == l) ∘ fun x => if x.id = l then f x else x) = fun x => x.id == l := by
    funext x
    dsimp only [Function.comp_apply]
    split <;> simp [hf]
  rw [SchedSt.launch?] at h
  rw [SchedSt.launch?, SchedSt.modLaunch, List.find?_map, hp, h, Option.map_some, if_pos hz]

theorem cachePut_frame (s : State) (k : Option CacheKey) (pl : Placement) :
    ∃ c, s.cachePut k pl = { s with sched := { s.sched with cache := c } } := by
  unfold State.cachePut
  split
  · split
    · exact ⟨s.sched.cache, rfl⟩
    · exact ⟨_, rfl⟩
  · exact ⟨s.sched.cache, rfl⟩

theorem restoreLoads : RestoreLoads := by
  intro s l die r x y w h pl pl' z q old g gen key hz hst hb hd hheld hat hq hgr hp hgen hold
  subst hgr
  obtain ⟨c, hc⟩ := cachePut_frame s (key.map fun k => cacheKey k x y w h) pl'
  obtain ⟨u, hu⟩ : ∃ u : State, u = { s with sched := { s.sched with cache := c } } := ⟨_, rfl⟩
  obtain ⟨reg, hreg⟩ : ∃ reg, reg = restoredRegion z gen x y w h pl' (s.imageOf z) old := ⟨_, rfl⟩
  obtain ⟨regs, v, hleave⟩ := leaveRegion_frame (s := u) (z := z) (r := r) old reg
  have hlaunch : u.sched.launch? l = some z := by rw [hu]; exact hz
  have hur : ∀ k, u.region? k = s.region? k := fun k => by rw [hu]; rfl
  refine ⟨{ (leaveRegion u z r old reg).setRegion r reg with sched := u.sched.modLaunch l fun y =>
    { y with state := .loading, region := some r, saved := none, key := key } }, ?_, ?_, ?_, ?_, ?_, ?_, ?_, ?_⟩
  · rw [restore_next hz hst hb hd hheld hat hq hp hgen, restoreWith, ownRegion_eq, ← hold, ← hreg, hc, ← hu]
    simp only [setRegion_sched, hleave]
  · rw [hreg]
    exact setRegion_region?_same (leaveRegion_taken ((hur r).trans hq))
  · exact launch?_modLaunch hlaunch _ fun _ => rfl
  · intro k hk hne hko
    exact (setRegion_region?_ne hne).trans (leaveRegion_left hk hne ((hur k).trans hko))
  · intro k hne hk
    exact ((setRegion_region?_ne hne).trans (leaveRegion_other hk)).trans (hur k)
  · rw [hleave, hu]
    rfl
  · rw [hleave, hu]
    rfl
  · rw [hleave, hu]
    rfl

/-- Settles O43, by the branches of the events and, for RESTORE, by the rules of the writes to a region. -/
theorem regionsRun : Obligations.RegionsRun := ⟨regionsArm, regionsChangeState, restoreLoads⟩

end Sys2Proof.Proofs.RegionEvents
end

section
/-! O44: pre-emption by markers, freezes and their service (R297, R400 to R403, R406, R407, R410). -/

namespace Sys2Proof.Proofs.FreezeEvents

open Sys2Proof Sys2Proof.Machine Sys2Proof.Proofs.EventRuns

/-! ### PREEMPTION_START and ELEMENT_SAVE -/

section
variable {s : State} {r : Nat} {reg : Region} (hr : s.region? r = some reg)
include hr

theorem preemptionStart_cancels (hp : reg.preempt ≠ .none) (hl : reg.state = .loading) (hpart : reg.loadPart = 0)
    (hres : reg.restoring = false) : exec (.preemptionStart r) s =
      .next { s.setRegion r { Region.empty with gen := reg.gen } with
        volt := s.volt.settle (reg.clusters r)
        sched := s.sched.modLaunch reg.launch fun l =>
          { l with state := .ready, region := none, readyAt := s.clock.toNat } } := by
  have hi : exec (.preemptionStart r) s = execPreemptionStart r s := rfl
  rw [hi, execPreemptionStart, hr]
  dsimp only
  rw [if_neg hp, if_pos (by simp [hl, hpart, hres])]
  rfl

theorem preemptionStart_marks {g : GraphSt} (hp : reg.preempt ≠ .none) (hg : reg.g = some g) (hrun : reg.runs = true) :
    exec (.preemptionStart r) s = .next (s.setRegion r { reg with
      g := some g.enterMarkers, preempt := .running, quietAt := none }) := by
  have hi : exec (.preemptionStart r) s = execPreemptionStart r s := rfl
  have hst : reg.state = .armed := by
    simp only [Region.runs, Bool.and_eq_true, beq_iff_eq] at hrun
    exact hrun.1
  rw [hi, execPreemptionStart, hr]
  dsimp only
  rw [if_neg hp, if_neg (by simp [hst]), hg]
  exact if_pos hrun

/-! ### FREEZE, FREEZE_SCAN and FAULT_SERVICE -/

theorem freeze_freezes (hf : s.regionFaults r ≠ []) : exec (.freeze r) s = .next (s.setRegion r { reg with
    freezing := true, faults := s.regionFaults r, quietAt := none }) := by
  have hi : exec (.freeze r) s = execFreeze r s := rfl
  rw [hi, execFreeze, if_neg hf, State.modRegion, hr]

theorem freezeScan_frozen (hf : reg.freezing = true) (hw : s.mem.awaitsReply r reg.gen = false) :
    exec (.freezeScan r) s = .next (s.setRegion r { reg with state := .frozen, freezing := false }) := by
  have hi : exec (.freezeScan r) s = execFreezeScan r s := rfl
  rw [hi, execFreezeScan, hr]
  exact if_pos (by simp [hf, hw])

theorem faultService_declined {g : GraphSt} {f : FaultRec} {rest : List FaultRec} (hst : reg.state = .frozen)
    (hg : reg.g = some g) (hf : reg.faults = f :: rest) : exec (.faultService r true) s =
      .next (s.endLaunch reg.launch 6 0 (leBytes 4 f.elem ++ leBytes 1 f.code ++ List.replicate 3 0) []) := by
  have hi : exec (.faultService r true) s = execFaultService r true s := rfl
  rw [hi, execFaultService, hr]
  dsimp only
  rw [hst, hg, hf]
  rfl

end

theorem elementSave_saves {s : State} {c : Ctx} (hl : s.live? c.r c.e = some c) (hs : s.maySave c = true) :
    exec (.elementSave c.r c.e) s = .next ((s.setGraph c.r (c.g.save c.e)).checkParked c.r) := by
  have hi : exec (.elementSave c.r c.e) s = execElementSave c.r c.e s := rfl
  rw [hi, execElementSave, hl]
  exact if_pos hs

/-! ### FLTH_REPLY -/

theorem flthReply_declined {s : State} {c : Ctx} {id : Nat} {o : OutF} (hc : s.at? c.r c.e 0 = some c)
    (hrun : c.reg.runs = true) (ho : (c.el.outs.find? fun y => y.id == id) = some o) (hop : o.opc = 0xFA)
    (hready : o.ready = false) : exec (.flthReply c.r c.e id true) s = .next (c.put s (c.el.setOut { o with
      ready := true
      data := if o.dst.isSome then [{ o.hd.getD ⟨0, .control, false, false, 0, 0⟩ with coord := 1 }] else [] })) := by
  have hi : exec (.flthReply c.r c.e id true) s = execFlthReply c.r c.e id true s := rfl
  -- a name of its own keeps the kernel from walking the page table
  obtain ⟨translate, htr⟩ : ∃ f, f = State.translate := ⟨_, rfl⟩
  rw [hi, execFlthReply, hc, ← htr]
  dsimp only
  rw [ho]
  dsimp only
  rw [if_neg (by simp [hop, hready, hrun])]
  rfl

/-! ### The obligation -/

theorem preemptionRuns : PreemptionRuns :=
  ⟨fun _ _ _ hr hp => ⟨preemptionStart_cancels hr hp, fun _ => preemptionStart_marks hr hp⟩, fun _ _ => elementSave_saves⟩

theorem freezesRun : FreezesRun :=
  ⟨fun _ _ _ hr => ⟨freeze_freezes hr, freezeScan_frozen hr, fun _ _ _ => faultService_declined hr⟩,
    fun _ _ _ _ => flthReply_declined⟩

/-- Settles O44, by the branches of the events. -/
theorem preemptionAndFreezesRun : Obligations.PreemptionAndFreezesRun := ⟨preemptionRuns, freezesRun⟩

end Sys2Proof.Proofs.FreezeEvents
end

section
/-! O45: memory management and the agents beside the fabric (R303, R308 to R314, R317, R397, R405, R412 to R414). -/

namespace Sys2Proof.Proofs.AgentEvents

open Sys2Proof Sys2Proof.Machine Sys2Proof.Proofs.AccessRuns

/-! ### BADGER_VISIT (R405) -/

/-- What a visit leaves: the A bit of a page-table entry clear and the frame's entry updated, whatever joins the cold frames. -/
theorem badgerVisit_next (s : State) (frame : Nat) : ∃ cold, exec (.badgerVisit frame) s = .next
    { s.clearA (s.framePte? frame) with mem := { (s.clearA (s.framePte? frame)).mem with
      frames := sset noFrame (s.clearA (s.framePte? frame)).mem.frames frame { sget noFrame s.mem.frames frame with
        accessed := false, swept := (sget noFrame s.mem.frames frame).owner.isSome }
      cold := cold } } := by
  have hi : exec (.badgerVisit frame) s = execBadgerVisit frame s := rfl
  -- names of their own keep the kernel from searching the page tables
  obtain ⟨pte, hp⟩ : ∃ f, f = State.framePte? := ⟨_, rfl⟩
  obtain ⟨device, hd⟩ : ∃ f, f = State.deviceFrame := ⟨_, rfl⟩
  rw [hi, execBadgerVisit, ← hp, ← hd]
  exact ⟨_, rfl⟩

theorem clearA_frames (s : State) (leaf : Option Nat) : (s.clearA leaf).mem.frames = s.mem.frames := by
  unfold State.clearA
  split
  · exact ownAmend_keeps (f := fun s => s.mem.frames) (fun _ _ _ => rfl) (fun _ _ _ _ _ _ => rfl) s _ _ _
  · rfl

/-- An amendment changes no byte but its own. -/
theorem ownAmend_other {s : State} {a b : Nat} {keep set : Byte} (hwf : Memory.wf s.mem.bytes = true) (hb : b ≠ a) :
    readByte (s.ownAmend a keep set).mem.bytes b = readByte s.mem.bytes b := by
  rcases ownAmend_cases s a keep set with e | e | e <;> rw [e]
  · rfl
  · exact readByte_writeBytes_outside hwf (by simp only [List.length_singleton]; omega)

/-- An amendment that nothing holds back leaves the byte amended. -/
theorem ownAmend_same {s : State} {a : Nat} {keep set : Byte} (hwf : Memory.wf s.mem.bytes = true)
    (hw : s.ownWaits a 1 0 = false) (hd : (s.mem.frame a).derived = false) :
    readByte (s.ownAmend a keep set).mem.bytes a = amendByte keep set (readByte s.mem.bytes a) := by
  rw [State.ownAmend]
  split
  · rename_i ha
    simp only [MemSt.amended, Bool.and_eq_true, beq_iff_eq] at ha
    exact ha.1.1.symm
  · rw [hw, if_neg Bool.false_ne_true, State.backWrite, hd, if_neg Bool.false_ne_true]
    exact sget_ssetMany_inside (vs := [amendByte keep set (readByte s.mem.bytes a)]) (n := 0) hwf Nat.zero_lt_one

/-- An amendment that is held back waits as a request. -/
theorem ownAmend_waits {s : State} {a : Nat} {keep set : Byte} (hw : s.ownWaits a 1 0 = true)
    (ha : s.mem.amended a keep set = false) : s.ownAmend a keep set = s.joinReqs ownAgent a 1 0 (.amend keep set) := by
  rw [State.ownAmend, ha, hw]
  rfl

theorem badgerVisit_clears (s : State) (frame : Nat) (hwf : swf noFrame s.mem.frames = true) :
    ∃ t, exec (.badgerVisit frame) s = .next t ∧ swf noFrame t.mem.frames = true ∧
      sget noFrame t.mem.frames frame = { sget noFrame s.mem.frames frame with
        accessed := false, swept := (sget noFrame s.mem.frames frame).owner.isSome } ∧
      (∀ a b, Memory.wf s.mem.bytes = true → s.framePte? frame = some a → b ≠ a + 2 →
        readByte t.mem.bytes b = readByte s.mem.bytes b) ∧
      (s.framePte? frame = none → t.mem.bytes = s.mem.bytes) ∧
      ∀ a, s.framePte? frame = some a → Memory.wf s.mem.bytes = true →
        (s.ownWaits (a + 2) 1 0 = false → (s.mem.frame (a + 2)).derived = false →
          readByte t.mem.bytes (a + 2) = readByte s.mem.bytes (a + 2) &&& 0x7F) ∧
        (s.ownWaits (a + 2) 1 0 = true → s.mem.amended (a + 2) 0x7F 0 = false →
          t.mem.bytes = s.mem.bytes ∧ ∃ x : Access, t.mem.reqs = s.mem.reqs ++ [x] ∧ x.pa = a + 2 ∧ x.size = 1 ∧
            x.kind = .port 9 (.amend 0x7F 0)) := by
  obtain ⟨cold, hnext⟩ := badgerVisit_next s frame
  refine ⟨_, hnext, ?_⟩
  generalize s.framePte? frame = leaf
  dsimp only
  rw [clearA_frames]
  refine ⟨swf_sset hwf, sget_sset_same hwf _ _, ?_, ?_, ?_⟩
  · rintro a b hm rfl hb
    exact ownAmend_other hm hb
  · rintro rfl
    rfl
  · rintro a rfl hm
    refine ⟨fun hw hd => ?_, fun hw ha => ?_⟩
    · rw [State.clearA, ownAmend_same hm hw hd]
      simp [amendByte]
    · rw [State.clearA, ownAmend_waits hw ha]
      exact ⟨rfl, _, rfl, rfl, rfl, rfl⟩

theorem bucketRefill_next (s : State) (die : Nat) : exec (.bucketRefill die) s = .next { s with mem := { s.mem with
    buckets := s.mem.buckets.map fun x =>
      if x.1 / 1024 = die then
        (x.1, x.2.map fun b => { b with level := min b.burst (b.level + b.rate), borrowed := 0 }) else x
    ports := s.mem.ports.map fun x => if x.1 = die then (x.1, { x.2 with inIn := 0, outIn := 0 }) else x } } := rfl

theorem managementRuns : ManagementRuns := fun s =>
  ⟨fun _ _ => ⟨_, rfl, rfl, rfl⟩, badgerVisit_clears s, bucketRefill_next s,
    fun die n hd => by
      have hi : exec (.configRegisterWrite (.ageLimit die n)) s = execConfigRegisterWrite (.ageLimit die n) s := rfl
      rw [hi, execConfigRegisterWrite, if_pos hd],
    fun _ => rfl⟩

/-! ### Requests of the host and the control cores -/

/-- A sparse map reads a value that is not its default once it is written, in whatever form it stands. -/
theorem sget_sset_of_ne {α : Type} [DecidableEq α] {d v : α} (hv : v ≠ d) (m : List (Nat × α)) (i : Nat) :
    sget d (sset d m i v) i = v := by
  induction m with
  | nil => simp [sset, sget, hv]
  | cons p r ih =>
    obtain ⟨k, x⟩ := p
    rw [sset]
    by_cases hik : i < k
    · simp [hik, hv, sget]
    · by_cases hk : i = k
      · subst hk
        simp [hv, sget]
      · rw [if_neg hik, if_neg hk, sget, if_neg (Ne.symm hk), if_neg hik, ih]

@[simp] theorem length_readBytes (m : List Host.Cell) (a n : Nat) : (readBytes m a n).length = n := by
  simp [readBytes, sgetMany]

theorem dirAt_setDir {m : MemSt} {line : Nat} {d : DirEnt} (h : d.holders ≠ []) : (m.setDir line d).dirAt line = d :=
  sget_sset_of_ne (fun e => h (by rw [e]; rfl)) m.dir line

/-- A request of an agent whose queue holds nothing performs at once. -/
theorem portAccess_performs {s : State} {agent pa size : Nat} {req : PortReq} (hpa : pa < 2 ^ 51)
    (hfree : ∀ b, b ∈ s.mem.reqs ++ s.mem.replays → b.r ≠ portSlot agent) {t : State}
    (hp : (s.joinReqs agent pa size 0 req).performPort (portReq s.nextId agent pa size 0 req) agent req = (t, .silent)) :
    s.portAccess agent pa size req = t.unqueued (portReq s.nextId agent pa size 0 req) := by
  have hout : (portReq s.nextId agent pa size 0 req).outside = false := by
    have hhost : isHost (portReq s.nextId agent pa size 0 req).pa = false := decide_eq_false (Nat.not_le.mpr hpa)
    rw [Access.outside, hhost, Bool.and_false, Bool.or_false]
    rfl
  have hqueue : ∀ b, b ∈ queueBefore (s.mem.reqs ++ [portReq s.nextId agent pa size 0 req]) s.nextId → b ∈ s.mem.reqs := by
    intro b hb
    rcases List.mem_append.mp ((List.takeWhile_sublist _).subset hb) with h | h
    · exact h
    · have hid := List.mem_takeWhile_imp (p := fun b : Access => b.id != s.nextId) hb
      rw [List.mem_singleton.mp h] at hid
      simp [portReq] at hid
  have hblocked : State.performBlocked (s.joinReqs agent pa size 0 req) (portReq s.nextId agent pa size 0 req) = false := by
    have hmine : ∀ b, b ∈ s.mem.reqs ++ s.mem.replays → b.isOf (portSlot agent) 0 0 = false := fun b hb => by
      simp [Access.isOf, hfree b hb]
    rw [State.performBlocked, Bool.or_eq_false_iff]
    exact ⟨List.any_eq_false.mpr fun b hb e => Bool.eq_false_iff.mp (hmine b (List.mem_append_left _ (hqueue b hb)))
        (Bool.and_eq_true_iff.mp e).1,
      List.any_eq_false.mpr fun b hb e => Bool.eq_false_iff.mp (hmine b (List.mem_append_right _ hb))
        (Bool.and_eq_true_iff.mp (Bool.and_eq_true_iff.mp e).1).1⟩
  have hat : (s.joinReqs agent pa size 0 req).performAt (portReq s.nextId agent pa size 0 req) [] = (t, .silent) := hp
  rw [State.portAccess, State.performReq, hout, hblocked, hat]
  rfl

section
variable {s : State} {pa : Nat} (hpa : pa < 2 ^ 51) (hfree : ∀ b, b ∈ s.mem.reqs ++ s.mem.replays → b.r ≠ 145)
include hpa hfree

/-- An exported write that may perform is a home-side store. -/
theorem hostWrite_stores {bytes : List Byte} (he : s.exported pa bytes.length = true) (hd : (s.mem.frame pa).derived = false)
    (hw : s.writable (s.mem.typeOf (pa / 64)) pa bytes.length none = true) :
    exec (.hostCxlAccess (.memWrite pa bytes)) s = .next (State.unqueued (State.homeStore
      (s.joinReqs hostAgent pa bytes.length 0 (.write bytes)) (s.mem.typeOf (pa / 64)) pa bytes none none)
      (portReq s.nextId hostAgent pa bytes.length 0 (.write bytes))) := by
  have hi : exec (.hostCxlAccess (.memWrite pa bytes)) s = execHostCxlAccess (.memWrite pa bytes) s := rfl
  rw [hi, execHostCxlAccess, he, if_pos rfl, portAccess_performs hpa hfree]
  rw [State.performPort]
  exact (if_neg (Bool.eq_false_iff.mp hd)).trans (if_pos hw)

/-- An exported read gives the host the bytes at the home. -/
theorem hostRead_reads {n : Nat} (he : s.exported pa n = true) (hd : (s.mem.frame pa).derived = false)
    (hh : ∀ h, h ∈ (s.mem.dirAt (pa / 64)).holders → isDirty h.st = false) :
    ∃ t, exec (.hostCxlAccess (.memRead pa n [])) s = .next t ∧ t.mem.bytes = s.mem.bytes ∧
      t.mem.hostReads = s.mem.hostReads ++ [(8, readBytes s.mem.bytes pa n, readsPoison s.mem.poison pa n)] := by
  have hi : exec (.hostCxlAccess (.memRead pa n [])) s = execHostCxlAccess (.memRead pa n []) s := rfl
  let u := s.joinReqs hostAgent pa n 0 (.read n [])
  have hu : ∀ h, h ∈ (u.mem.dirAt (pa / 64)).holders → isDirty h.st = false := hh
  have hself : (if u.mem.typeOf (pa / 64) = 0 then u.flushLine (pa / 64) else u) = u := by rw [flushLine_self hu, ite_self]
  have hp : u.portRead (portReq s.nextId hostAgent pa n 0 (.read n [])) hostAgent pa n [] =
      ((u.noteRead pa).hostRead hostAgent (readBytes s.mem.bytes pa n) (readsPoison s.mem.poison pa n), .silent) := by
    rw [State.portRead, if_neg (Bool.eq_false_iff.mp (show (u.mem.frame pa).derived = false from hd)), flushBlocked_false hu, Bool.and_false, if_neg Bool.false_ne_true]
    dsimp only
    rw [hself]
    rfl
  rw [hi, execHostCxlAccess, he, if_pos rfl, portAccess_performs (agent := hostAgent) (req := .read n []) hpa hfree hp]
  exact ⟨_, rfl, rfl, rfl⟩

end

section
variable {s : State} {core line : Nat} (hc : core < 8) (hl : 64 * line < 384 * 2 ^ 30)
  (hfree : ∀ b, b ∈ s.mem.reqs ++ s.mem.replays → b.r ≠ 137 + core)
include hc hl hfree

/-- A core's request for a line of the package's memory performs at once. -/
theorem controlCoreAccess_performs {req : LineReq} {t : State}
    (hp : (s.joinReqs core (64 * line) 64 0 (.line req)).performPort (portReq s.nextId core (64 * line) 64 0 (.line req)) core
      (.line req) = (t, .silent)) :
    exec (.controlCoreAccess core line req) s = .next (t.unqueued (portReq s.nextId core (64 * line) 64 0 (.line req))) := by
  have hi : exec (.controlCoreAccess core line req) s = execControlCoreAccess core line req s := rfl
  have hpa : 64 * line < 2 ^ 51 := Nat.lt_trans hl (by decide)
  have hslot : portSlot core = 137 + core := rfl
  have hin : (core < 8 && decide (64 * line < packageBytes)) = true := by
    rw [Bool.and_eq_true]
    exact ⟨decide_eq_true hc, decide_eq_true hl⟩
  rw [hi, execControlCoreAccess, if_pos hin, portAccess_performs hpa (hslot ▸ hfree) hp]

/-- A core that has the line, or one the line's other agents let it have. -/
theorem controlCoreAccess_line {req : LineReq} {t : State} (hread : ∀ off n bad, req ≠ .read off n bad)
    (hp : (s.joinReqs core (64 * line) 64 0 (.line req)).lineRequest core line req = (t, true)) :
    exec (.controlCoreAccess core line req) s = .next (t.unqueued (portReq s.nextId core (64 * line) 64 0 (.line req))) := by
  have hline : (portReq s.nextId core (64 * line) 64 0 (.line req)).pa / 64 = line := Nat.mul_div_cancel_left line (by decide)
  refine controlCoreAccess_performs hc hl hfree ?_
  rw [State.performPort.eq_def]
  cases req with
  | read off n bad => exact absurd rfl (hread off n bad)
  | _ =>
    dsimp only
    rw [hline, hp]

end

section
variable {s : State} {core line : Nat} (hh : (s.mem.dirAt line).holders = [])
include hh

theorem not_dirty_of_not_held : ∀ h, h ∈ (s.mem.dirAt line).holders → isDirty h.st = false := fun h hm => by
  rw [hh] at hm
  exact absurd hm List.not_mem_nil

/-- A line that nobody holds is taken as the home copy stands. -/
theorem takeLine_dirAt (st : Moesi) :
    (s.takeLine core line st []).mem.dirAt line = { s.mem.dirAt line with
      holders := [⟨core, st, false, readBytes s.mem.bytes (64 * line) 64, []⟩] } := by
  have hd : ((s.eccMark [] (wordsOf (64 * line) 64)).noteRead (64 * line)).mem.dirAt line = s.mem.dirAt line := rfl
  rw [State.takeLine]
  dsimp only
  rw [State.putHolder, hd, hh]
  exact dirAt_setDir (List.cons_ne_nil _ _)

theorem shareFor_takes : s.shareFor core line [] = some (s.takeLine core line .S []) := by
  have hn := not_dirty_of_not_held hh
  rw [State.shareFor, flushBlocked_false hn, if_neg Bool.false_ne_true, State.shareLine, flushLine_self hn, if_pos hh]

theorem exclusiveFor_takes (hw : (s.mem.dirAt line).windows = []) :
    s.exclusiveFor core line = (s.takeLine core line .E [], true) := by
  have hn := not_dirty_of_not_held hh
  have hblocked : s.recallBlocked line none = false := by rw [State.recallBlocked, hw]; rfl
  have hothers : s.otherWindows line none = [] := by rw [State.otherWindows, hw]; rfl
  have hrecall : s.recallWindows line none = s := by
    rw [State.recallWindows, State.recallTraps, hothers]
    rfl
  rw [State.exclusiveFor, hh, List.filter_nil, if_neg (not_not.mpr rfl), flushBlocked_false hn, hblocked, hrecall, flushLine_self hn]
  rfl

/-- A store to a line that nobody holds takes it and writes the copy. -/
theorem storeFor_stores (hw : (s.mem.dirAt line).windows = []) (hd : (s.mem.frame (64 * line)).derived = false) {off : Nat}
    {bytes : List Byte} (hoff : off + bytes.length ≤ 64) :
    s.storeFor core line off bytes = ((s.takeLine core line .E []).storeLine line off bytes
      ⟨core, .E, false, readBytes s.mem.bytes (64 * line) 64, []⟩, true) := by
  have hnone : s.mem.owned? core line = none := by rw [MemSt.owned?, MemSt.held?, hh]; rfl
  have hsome : (s.takeLine core line .E []).mem.owned? core line =
      some ⟨core, .E, false, readBytes s.mem.bytes (64 * line) 64, []⟩ := by
    rw [MemSt.owned?, MemSt.held?, takeLine_dirAt hh]
    simp
  rw [State.storeFor, hd, if_neg (by simp [hoff]), hnone]
  dsimp only
  rw [exclusiveFor_takes hh hw]
  dsimp only
  rw [hsome]

end

section
variable {s : State} {core line : Nat} (hc : core < 8) (hl : 64 * line < 384 * 2 ^ 30) (ht : s.mem.typeOf line = 0)
  (hfree : ∀ b, b ∈ s.mem.reqs ++ s.mem.replays → b.r ≠ 137 + core)
include hc hl ht hfree

/-- A core that shares a line nobody holds gets its bytes. -/
theorem coreShare_gets (hh : (s.mem.dirAt line).holders = []) :
    ∃ t, exec (.controlCoreAccess core line .share) s = .next t ∧ t.mem.bytes = s.mem.bytes ∧
      ⟨core, .S, false, readBytes s.mem.bytes (64 * line) 64, []⟩ ∈ (t.mem.dirAt line).holders := by
  let u := s.joinReqs core (64 * line) 64 0 (.line .share)
  have hu : (u.mem.dirAt line).holders = [] := hh
  have hp : u.lineRequest core line .share = (u.takeLine core line .S [], true) := by
    rw [State.lineRequest.eq_def, if_neg (not_not.mpr (show u.mem.typeOf line = 0 from ht))]
    dsimp only
    rw [shareFor_takes hu]
  refine ⟨_, controlCoreAccess_line hc hl hfree (fun _ _ _ h => nomatch h) hp, rfl, ?_⟩
  have hdir := takeLine_dirAt hu (core := core) .S
  change _ ∈ ((u.takeLine core line .S []).mem.dirAt line).holders
  rw [hdir]
  exact List.mem_singleton_self _

/-- A core that stores to a line nobody holds owns it with those bytes. -/
theorem coreStore_owns (hh : (s.mem.dirAt line).holders = []) (hw : (s.mem.dirAt line).windows = [])
    (hd : (s.mem.frame (64 * line)).derived = false) (off : Nat) (bytes : List Byte) (hoff : off + bytes.length ≤ 64) :
    ∃ t h, exec (.controlCoreAccess core line (.store off bytes)) s = .next t ∧ t.mem.bytes = s.mem.bytes ∧
      h ∈ (t.mem.dirAt line).holders ∧ h.agent = core ∧ h.st = .M ∧ (h.data.drop off).take bytes.length = bytes := by
  let u := s.joinReqs core (64 * line) 64 0 (.line (.store off bytes))
  have hu : (u.mem.dirAt line).holders = [] := hh
  have hp : u.lineRequest core line (.store off bytes) = ((u.takeLine core line .E []).storeLine line off bytes
      ⟨core, .E, false, readBytes s.mem.bytes (64 * line) 64, []⟩, true) := by
    rw [State.lineRequest.eq_def, if_neg (not_not.mpr (show u.mem.typeOf line = 0 from ht))]
    exact storeFor_stores hu hw hd hoff
  refine ⟨_, { (⟨core, .E, false, readBytes s.mem.bytes (64 * line) 64, []⟩ : Holder) with
      st := .M
      data := (readBytes s.mem.bytes (64 * line) 64).take off ++ bytes ++
        (readBytes s.mem.bytes (64 * line) 64).drop (off + bytes.length)
      stored := (List.range bytes.length).foldl (fun l i => setIns (off + i) l) [] },
    controlCoreAccess_line hc hl hfree (fun _ _ _ h => nomatch h) hp, rfl, ?_, rfl, rfl, ?_⟩
  · change _ ∈ (((u.takeLine core line .E []).storeLine line off bytes _).mem.dirAt line).holders
    rw [State.storeLine, State.putHolder]
    dsimp only
    rw [dirAt_setDir (by simp)]
    exact List.mem_append_right _ (List.mem_singleton_self _)
  · have hlen : ((readBytes s.mem.bytes (64 * line) 64).take off).length = off := by
      rw [List.length_take, length_readBytes, min_eq_left (by omega)]
    rw [List.append_assoc, List.drop_left' hlen, List.take_left]

/-- A core that holds a line reads its own copy. -/
theorem coreRead_reads {h : Holder} (hh : (s.mem.dirAt line).holders = [h]) (ha : h.agent = core) (hdrop : h.dropped = false)
    (hd : (s.mem.frame (64 * line)).derived = false) (off n : Nat) (hoff : off + n ≤ 64) :
    ∃ t p, exec (.controlCoreAccess core line (.read off n [])) s = .next t ∧ t.mem.bytes = s.mem.bytes ∧
      t.mem.hostReads = s.mem.hostReads ++ [(core, (h.data.drop off).take n, p)] := by
  let u := s.joinReqs core (64 * line) 64 0 (.line (.read off n []))
  have hline : (portReq s.nextId core (64 * line) 64 0 (.line (.read off n []))).pa / 64 = line :=
    Nat.mul_div_cancel_left line (by decide)
  have hheld : u.mem.held? core line = some h := by
    rw [MemSt.held?, show (u.mem.dirAt line).holders = [h] from hh]
    simp [ha, hdrop]
  have hno : ((u.mem.frame (64 * line)).derived || u.mem.typeOf line != 0) = false := by
    rw [show (u.mem.frame (64 * line)).derived = false from hd, show u.mem.typeOf line = 0 from ht]
    rfl
  have hp : u.lineRead (portReq s.nextId core (64 * line) 64 0 (.line (.read off n []))) core off n [] =
      (u.hostRead core ((h.data.drop off).take n) (u.copyRead line off n h).2, .silent) := by
    rw [State.lineRead]
    dsimp only
    rw [hline, if_neg (Nat.not_lt.mpr hoff)]
    refine (if_neg (Bool.eq_false_iff.mp hno)).trans ?_
    rw [hheld]
    rfl
  exact ⟨_, _, controlCoreAccess_performs hc hl hfree hp, rfl, rfl⟩

end

/-! ### INVALIDATION_ACKNOWLEDGE (R311, R312) -/

section
variable {s : State} {agent line : Nat} (ha : (s.mem.dirAt line).awaiting.contains agent = true)
include ha

theorem acknowledge_clean (hn : ∀ h, h ∈ (s.mem.dirAt line).holders → h.agent = agent → isDirty h.st = false) :
    s.acknowledge agent line = { s with mem := s.mem.setDir line { s.mem.dirAt line with
      holders := (s.mem.dirAt line).holders.filter fun x => x.agent != agent
      awaiting := (s.mem.dirAt line).awaiting.filter fun a => a != agent } } := by
  have hnone : (s.mem.dirAt line).holders.find? (fun h => h.agent == agent && isDirty h.st && !h.dropped) = none :=
    List.find?_eq_none.mpr fun h hm => by
      by_cases he : h.agent = agent
      · simp [hn h hm he]
      · simp [he]
  rw [State.acknowledge]
  dsimp only
  rw [hnone, ha]
  rfl

theorem acknowledge_dirty {h : Holder}
    (hh : (s.mem.dirAt line).holders.find? (fun h => h.agent == agent && isDirty h.st && !h.dropped) = some h)
    (hb : ∀ j, j ∈ h.stored → s.scanBlocks (64 * line + j) 1 = false) :
    s.acknowledge agent line = { s.writeHome line h with
      mem := (s.writeHome line h).mem.setDir line { (s.writeHome line h).mem.dirAt line with
        holders := (s.mem.dirAt line).holders.filter fun x => x.agent != agent
        awaiting := (s.mem.dirAt line).awaiting.filter fun a => a != agent } } := by
  have hblocked : s.backBlocked line h = false := List.any_eq_false.mpr fun j hj => by simp [hb j hj]
  rw [State.acknowledge]
  dsimp only
  rw [hh]
  exact if_neg (by simp only [ha, hblocked]; decide)

end

theorem controlCoreAccess_outside (s : State) (core line : Nat) (req : LineReq) (h : 8 ≤ core ∨ 384 * 2 ^ 30 ≤ 64 * line) :
    exec (.controlCoreAccess core line req) s = .next s := by
  have hi : exec (.controlCoreAccess core line req) s = execControlCoreAccess core line req s := rfl
  have hout : (core < 8 && decide (64 * line < packageBytes)) = false := by
    rw [Bool.and_eq_false_iff]
    exact h.imp (fun h => decide_eq_false (Nat.not_lt.mpr h)) fun h => decide_eq_false (Nat.not_lt.mpr h)
  rw [hi, execControlCoreAccess, hout]
  rfl

theorem agentsAccess : AgentsAccess := by
  intro s
  refine ⟨fun pa bytes he hpa hd hw hfree => ⟨_, rfl, rfl, rfl, rfl, hostWrite_stores hpa hfree he hd hw⟩,
    fun pa n he hpa hd hh hfree => hostRead_reads hpa hfree he hd hh, controlCoreAccess_outside s,
    fun core line hc hl ht hfree => ⟨coreShare_gets hc hl ht hfree, coreStore_owns hc hl ht hfree,
      fun h => coreRead_reads hc hl ht hfree⟩,
    fun agent line left ha hleft => ⟨fun hn => ?_, fun h hh hb => ?_⟩⟩
  · have hi : exec (.invalidationAcknowledge agent line) s = .next (s.acknowledge agent line) := rfl
    rw [hi, acknowledge_clean ha hn, hleft]
  · have hi : exec (.invalidationAcknowledge agent line) s = .next (s.acknowledge agent line) := rfl
    rw [hi, acknowledge_dirty ha hh hb, hleft]

/-- Settles O45, by what each request does at the home. -/
theorem managementAndAgentsRun : Obligations.ManagementAndAgentsRun := ⟨managementRuns, agentsAccess⟩

end Sys2Proof.Proofs.AgentEvents
end

section
/-! O46: resets, boot stages, readings, margins and the clock (R13, R427 to R440). -/

namespace Sys2Proof.Proofs.PlatformEvents

open Sys2Proof Sys2Proof.Machine Sys2Proof.Proofs.RegionEvents

/-! ### RESET and BOOT_STAGE -/

@[simp] theorem passStep_boot (p : PlatSt) (stage step : Nat) : (p.passStep stage step).boot = p.boot := rfl

theorem passSteps_boot (p : PlatSt) (stage : Nat) (steps : List Nat) :
    (steps.foldl (fun p k => p.passStep stage k) p).boot = p.boot := by
  induction steps generalizing p with
  | nil => rfl
  | cons k steps ih => rw [List.foldl_cons, ih, passStep_boot]

theorem pick?_boot (p : PlatSt) (stage : Nat) : (p.pick? stage).1.boot = p.boot := by
  -- a name of its own keeps the kernel from verifying signatures
  obtain ⟨tryCopy, ht⟩ : ∃ f, f = PlatSt.tryCopy := ⟨_, rfl⟩
  rw [PlatSt.pick?, ← ht]
  split <;> rfl

/-- A stage is loaded, or the device is in its safe state with reason 1. -/
theorem loadStage_ends (s : State) (stage : Nat) (hb : s.plat.boot ≠ .safe) : (s.loadStage stage).mem = s.mem ∧
    (s.loadStage stage).volt = s.volt ∧ ((s.loadStage stage).plat.boot = .stage stage ∨
      (s.loadStage stage).plat.boot = .safe ∧ (s.loadStage stage).plat.safeReason = 1) := by
  have hp := pick?_boot s.plat stage
  obtain ⟨pick, hpick⟩ : ∃ f, f = PlatSt.pick? := ⟨_, rfl⟩
  rw [← hpick] at hp
  rw [State.loadStage, ← hpick]
  split
  · exact ⟨rfl, rfl, .inl rfl⟩
  · rename_i p e
    rw [e] at hp
    have hsafe : p.boot ≠ .safe := fun h => hb (hp ▸ h)
    rw [State.safe, if_neg hsafe]
    exact ⟨rfl, rfl, .inr ⟨rfl, rfl⟩⟩

theorem reset_restarts (s : State) : ∃ t, exec .reset s = .next t ∧ t.plat.boot = .stage 0 ∧ t.sched.launches = [] ∧
    t.regions = List.replicate 136 Region.empty ∧ t.mem.bytes = s.mem.bytes ∧ t.plat.flash = s.plat.flash ∧
    t.plat.keyRsa = s.plat.keyRsa ∧ t.plat.keySlh = s.plat.keySlh ∧ t.plat.secret = s.plat.secret :=
  ⟨s.restarted, rfl, rfl, rfl, rfl, rfl, rfl, rfl, rfl, rfl⟩

/-- Stage 2 whose steps all pass. -/
theorem bootStage2_ends (s : State) (run : StageRun) (hb : s.plat.boot = .stage 2) :
    ∃ t, exec (.bootStage .done run) s = .next t ∧ t.mem.bytes = [] ∧ t.mem.poison = [] ∧ t.volt.planned = [] ∧
      (t.plat.boot = .stage 3 ∨ t.plat.boot = .safe ∧ t.plat.safeReason = 1) := by
  have hi : exec (.bootStage .done run) s = execBootStage .done run s := rfl
  obtain ⟨u, hu⟩ : ∃ u : State, u = { s with plat := run.steps.foldl (fun p k => p.passStep 2 k) s.plat } := ⟨_, rfl⟩
  have hboot : (u.stage2 run.margins).plat.boot ≠ .safe := by
    have : (u.stage2 run.margins).plat.boot = .stage 2 := by
      rw [hu]
      exact (passSteps_boot s.plat 2 run.steps).trans hb
    rw [this]
    exact fun h => nomatch h
  obtain ⟨hm, hv, hend⟩ := loadStage_ends (u.stage2 run.margins) 3 hboot
  refine ⟨(u.stage2 run.margins).loadStage 3, ?_, by rw [hm]; rfl, by rw [hm]; rfl, by rw [hv]; rfl, hend⟩
  rw [hi, execBootStage, hb, hu]
  rfl

/-! ### MARGIN_REPLAN (R438) -/

theorem marginReplan_slow (s : State) {n : Nat} (m : Nat) (hn : n < 512) :
    exec (.marginReplan ⟨n, m⟩ .slow) s = .next { s with
      volt := (s.planMargin n m).volt
      plat := { s.plat with clusters := sset 0 s.plat.clusters n (sget 0 s.plat.clusters n ||| 1), lastUpdate := s.clock } } := by
  have hi : exec (.marginReplan ⟨n, m⟩ .slow) s = execMarginReplan ⟨n, m⟩ .slow s := rfl
  rw [hi, execMarginReplan, if_neg (Nat.not_le.mpr hn)]
  rfl

theorem planMargin_busy {s : State} {n : Nat} (m : Nat) (hb : s.clusterBusy n = true) :
    (s.planMargin n m).volt.margins = s.volt.margins ∧ (n, m) ∈ (s.planMargin n m).volt.planned := by
  rw [State.planMargin]
  dsimp only
  rw [if_pos hb]
  exact ⟨rfl, List.mem_append_right _ (List.mem_singleton_self _)⟩

/-- A margin of a cluster that is FREE or GATED is in force at once. -/
theorem planMargin_free {s : State} {n : Nat} (m : Nat) (hb : s.clusterBusy n = false) (hwf : swf 0 s.volt.margins = true) :
    sget 0 (s.planMargin n m).volt.margins n = m ∧ ∀ x, x ∈ (s.planMargin n m).volt.planned → x.1 ≠ n := by
  have hdue : ((s.volt.planned.filter fun x => x.1 != n) ++ [(n, m)]).filter (fun x => [n].contains x.1) = [(n, m)] := by
    rw [List.filter_append, List.filter_filter, List.filter_eq_nil_iff.mpr fun x _ => by simp]
    simp
  rw [State.planMargin]
  dsimp only
  rw [if_neg (Bool.eq_false_iff.mp hb), VoltSt.settle]
  dsimp only
  rw [hdue]
  refine ⟨sget_sset_same hwf n m, fun x hx => ?_⟩
  have := (List.mem_filter.mp hx).2
  simpa using this

/-! ### THERMAL_THRESHOLD (R440) -/

/-- A launch has ended with end state 4. -/
def Aborted (s : State) (k : Nat) : Prop := ∃ y, s.sched.launch? k = some y ∧ y.state = .ended ∧ y.endState = 4

section
variable {s : State} {k l : Nat} {b : Nat} {d : List Byte} {es : List (List Byte)}

/-- The end of one launch leaves every other as it is. -/
theorem endLaunch_launch?_ne (h : k ≠ l) (e : Nat) : (s.endLaunch l e b d es).sched.launch? k = s.sched.launch? k := by
  cases hx : s.sched.launch? l with
  | none => rw [State.endLaunch, hx]
  | some x =>
    by_cases hs : x.state = .ended
    · rw [State.endLaunch, hx]
      dsimp only
      rw [if_pos hs]
    · have hid : x.id = l := by simpa using List.find?_some hx
      have hp : ((fun y : Launch => y.id == k) ∘ fun y => if y.id = l then
          { x with state := .ended, endState := e, endAt := s.clock.toNat, sigDue := true, saved := none, region := none } else y) =
          fun y => (y.id == k) := by
        funext y
        by_cases hy : y.id = l
        · simp [hy, hid]
        · simp [hy]
      rw [SchedSt.launch?, endLaunch_launches hx hs, List.find?_map, hp, SchedSt.launch?]
      cases hf : s.sched.launches.find? (fun y => y.id == k) with
      | none => rfl
      | some y =>
        have hy : y.id = k := by simpa using List.find?_some hf
        rw [Option.map_some, if_neg (hy ▸ h)]

/-- A launch that has not ended is ended. -/
theorem endLaunch_aborts {x : Launch} (hx : s.sched.launch? l = some x) (hs : x.state ≠ .ended) :
    Aborted (s.endLaunch l 4 b d es) l := by
  have hid : x.id = l := by simpa using List.find?_some hx
  have hp : ((fun y : Launch => y.id == l) ∘ fun y => if y.id = l then
      { x with state := .ended, endState := 4, endAt := s.clock.toNat, sigDue := true, saved := none, region := none } else y) =
      fun y => (y.id == l) := by
    funext y
    by_cases hy : y.id = l
    · simp [hy, hid]
    · simp [hy]
  refine ⟨{ x with
    state := .ended, endState := 4, endAt := s.clock.toNat, sigDue := true, saved := none, region := none }, ?_, rfl, rfl⟩
  rw [SchedSt.launch?] at hx
  rw [SchedSt.launch?, endLaunch_launches hx hs, List.find?_map, hp, hx, Option.map_some, if_pos hid]

theorem Aborted.endLaunch (h : Aborted s k) : Aborted (s.endLaunch l 4 b d es) k := by
  by_cases hk : k = l
  · subst hk
    obtain ⟨y, hy, hs, he⟩ := h
    refine ⟨y, ?_, hs, he⟩
    rw [State.endLaunch, hy]
    dsimp only
    rw [if_pos hs, hy]
  · obtain ⟨y, hy, h⟩ := h
    exact ⟨y, (endLaunch_launch?_ne hk 4).trans hy, h⟩

end

theorem endLaunches_plat (ls : List Nat) (s : State) (e b : Nat) (d : List Byte) (es : List (List Byte)) :
    (ls.foldl (fun s l => s.endLaunch l e b d es) s).plat = s.plat := by
  induction ls generalizing s with
  | nil => rfl
  | cons l ls ih => rw [List.foldl_cons, ih, endLaunch_plat]

theorem Aborted.endLaunches {s : State} {k : Nat} (h : Aborted s k) (ls : List Nat) (b : Nat) (d : List Byte)
    (es : List (List Byte)) : Aborted (ls.foldl (fun s l => s.endLaunch l 4 b d es) s) k := by
  induction ls generalizing s with
  | nil => exact h
  | cons l ls ih => exact ih h.endLaunch

/-- Every launch of a list that has not ended is aborted. -/
theorem endLaunches_aborts {s : State} {k : Nat} {x : Launch} {ls : List Nat} (hk : k ∈ ls) (hx : s.sched.launch? k = some x)
    (hs : x.state ≠ .ended) (b : Nat) (d : List Byte) (es : List (List Byte)) :
    Aborted (ls.foldl (fun s l => s.endLaunch l 4 b d es) s) k := by
  induction ls generalizing s with
  | nil => exact absurd hk List.not_mem_nil
  | cons l ls ih =>
    rw [List.foldl_cons]
    by_cases hl : k = l
    · subst hl
      exact (endLaunch_aborts hx hs).endLaunches ls b d es
    · exact ih ((List.mem_cons.mp hk).resolve_left hl) ((endLaunch_launch?_ne hl 4).trans hx)

/-- At 115 degrees the launch of every region ends and the device is in its safe state. -/
theorem thermalThreshold_aborts (s : State) (n : Nat) (hn : 1150 ≤ n) :
    ∃ t, exec (.thermalThreshold n) s = .next t ∧ t.plat.boot = .safe ∧ t.plat.hottest = n ∧
      (s.plat.boot ≠ .safe → t.plat.safeReason = 4) ∧
      ∀ r reg l, s.region? r = some reg → reg.state ≠ .free → s.sched.launch? reg.launch = some l → l.state ≠ .ended →
        ∃ y, t.sched.launch? reg.launch = some y ∧ y.state = .ended ∧ y.endState = 4 := by
  have hi : exec (.thermalThreshold n) s = execThermalThreshold n s := rfl
  obtain ⟨u, hu⟩ : ∃ u : State, u = ({ s with plat := { s.plat with hottest := n } } : State).mailed := ⟨_, rfl⟩
  have hplat : u.abortAll.plat = u.plat := endLaunches_plat _ u 4 0 _ _
  have hnext : exec (.thermalThreshold n) s = .next (u.abortAll.safe 4 0) := by
    rw [hi, execThermalThreshold, ← hu]
    exact if_pos hn
  have habort : ∀ r reg l, s.region? r = some reg → reg.state ≠ .free → s.sched.launch? reg.launch = some l → l.state ≠ .ended →
      Aborted u.abortAll reg.launch := by
    intro r reg l hr hf hl hs
    refine endLaunches_aborts (x := l) ?_ (by rw [hu]; exact hl) hs 0 _ _
    refine List.mem_map_of_mem (List.mem_filter.mpr ⟨?_, by simpa using hf⟩)
    rw [hu]
    exact List.mem_of_getElem? hr
  have hb : u.plat.boot = s.plat.boot := by rw [hu]; rfl
  have hh : u.plat.hottest = n := by rw [hu]; rfl
  refine ⟨_, hnext, ?_⟩
  by_cases hsafe : s.plat.boot = .safe
  · have : u.abortAll.safe 4 0 = u.abortAll := by rw [State.safe, if_pos (by rw [hplat, hb, hsafe])]
    rw [this, hplat]
    exact ⟨hb.trans hsafe, hh, fun h => absurd hsafe h, habort⟩
  · rw [State.safe, if_neg (by rw [hplat, hb]; exact hsafe)]
    refine ⟨rfl, ?_, fun _ => rfl, habort⟩
    dsimp only
    rw [hplat, hh]

/-! ### The obligation -/

theorem platformEventsRun : PlatformEventsRun := by
  intro s
  refine ⟨fun _ _ _ => rfl, fun nonce hb hl => ?attest, fun n m hn hwf => ?margin, fun n h1 h2 => ?hot, fun n hn => ?cool,
    fun n h1 h2 => ?between, thermalThreshold_aborts s, fun hb => ?supply, fun n hn => ?clock⟩
  case attest =>
    have hi : exec (.attestationRequest nonce) s = execAttestationRequest nonce s := rfl
    rw [hi, execAttestationRequest, if_pos (by simp [State.running, hb, hl])]
  case margin =>
    exact ⟨_, marginReplan_slow s m hn, planMargin_busy m, fun hb => planMargin_free m hb hwf⟩
  case hot =>
    have hi : exec (.thermalThreshold n) s = execThermalThreshold n s := rfl
    rw [hi, execThermalThreshold]
    dsimp only
    rw [if_neg (Nat.not_le.mpr h2), if_pos h1]
    rfl
  case cool =>
    have hi : exec (.thermalThreshold n) s = execThermalThreshold n s := rfl
    rw [hi, execThermalThreshold]
    dsimp only
    rw [if_neg (by omega), if_neg (by omega), if_pos hn]
    rfl
  case between =>
    have hi : exec (.thermalThreshold n) s = execThermalThreshold n s := rfl
    rw [hi, execThermalThreshold]
    dsimp only
    rw [if_neg (by omega), if_neg (by omega), if_neg (by omega)]
    rfl
  case supply =>
    have hi : exec .supplyFault s = .next (s.safe 5 0) := rfl
    rw [hi, State.safe, if_neg hb]
    cases s.plat.bootOpen <;> rfl
  case clock =>
    have hi : exec (.deviceClockDiscipline n) s =
      .next { s with clock := BitVec.ofNat 64 (max s.clock.toNat (min n (2 ^ 64 - 1))) } := rfl
    rw [hi, min_eq_left (by omega)]

/-- Settles O46; that every launch in a region is aborted at 115 degrees goes by induction on the list of them. -/
theorem platformRuns : Obligations.PlatformRuns := ⟨fun s => ⟨reset_restarts s, bootStage2_ends s⟩, platformEventsRun⟩

end Sys2Proof.Proofs.PlatformEvents
end

section
/-! R350, R383: the status record of a launch that traps, where a scan of a row without elements stands in its line. -/

namespace Sys2Proof.Proofs.Trapping

open Sys2Proof Sys2Proof.Machine

/-- A row without elements, whose address lies in the line of the record and whose first scan runs. -/
def hollowRow : DrvRow := { (default : DrvRow) with pa := 32769, scan := .initial }

/-- A declaration of that row: no columns. -/
def hollowDecl : Decl := { (default : Decl) with cols := 0, rows := [hollowRow] }

/-- A launch that runs in region slot 0. -/
def runningLaunch : Launch :=
  ⟨1, 0, 0, default, .running, 0, 0, 0, false, some 0, none, 0, none, 0, 0, 0, false, [], 0, 0, none⟩

/-- Its context, whose status ring has one slot and begins at address 0. -/
def ringContext : Context := { (default : Context) with cfg := { (default : ContextCfg) with ringSlots := 1 } }

/-- A machine that runs the launch. -/
def hollowState : State :=
  { State.reset with
    regions := [{ Region.empty with launch := 1 }]
    sched := { State.reset.sched with launches := [runningLaunch], contexts := [ringContext] }
    drv := [hollowDecl] }

/-- No byte touches a row without elements. -/
theorem hollowDecl_untouched (b : Nat) : hollowDecl.touches hollowRow b 1 = false := by
  have hbytes : rowBytes hollowDecl.baseFmt hollowDecl.cols = 0 := rfl
  have hpa : hollowRow.pa = 32769 := rfl
  rw [Decl.touches, hbytes, hpa, Bool.and_eq_false_iff, decide_eq_false_iff_not, decide_eq_false_iff_not]
  omega

theorem hollowState_free (b : Nat) : hollowState.ownWaits b 1 2 = false := by
  have hscan : hollowState.scanBlocks b 1 = false := by
    have hdrv : hollowState.scanBlocks b 1 = (((true && hollowDecl.touches hollowRow b 1) || false) || false) := rfl
    rw [hdrv, hollowDecl_untouched]
    rfl
  have hdir : hollowState.mem.dirAt (b / 64) = DirEnt.empty := rfl
  have hown : hollowState.mem.ownBefore b 1 2 = false := rfl
  rw [State.ownWaits, hscan, hdir, hown]
  simp [DirEnt.empty]

/-- The record of 64 bytes reaches over the row's address, so it waits for the scan. -/
theorem hollowState_unwritten : readByte (hollowState.raiseTrap 0 0 0 0 0).mem.bytes (32768 + 4) = 0 := by decide

end Sys2Proof.Proofs.Trapping

namespace Sys2Proof.Proofs

open Sys2Proof Sys2Proof.Machine Trapping

/-- Refutes O47: no byte of the record's line touches a row without elements, but the 64 bytes together reach over its
address, and while its scan runs (R350) the record waits and byte 4 of memory still reads as nothing has written it. -/
theorem not_trapsAreTaken : ¬ Obligations.TrapsAreTaken := by
  intro h
  obtain ⟨hends, -⟩ := h
  obtain ⟨t, ht, -, -, hrecord⟩ :=
    hends hollowState 0 0 0 0 0 32768 _ runningLaunch ringContext rfl rfl (by decide) rfl rfl (by decide) rfl rfl
  have hendState : readByte t.mem.bytes (32768 + 4) = 3 := by
    refine (hrecord fun b _ _ => ⟨rfl, hollowState_free b, fun d row hd hrow => ?_⟩).2.1
    obtain rfl : d = hollowDecl := List.mem_singleton.mp hd
    obtain rfl : row = hollowRow := List.mem_singleton.mp hrow
    exact hollowDecl_untouched b
  rw [← ht, hollowState_unwritten] at hendState
  exact absurd hendState (by decide)

end Sys2Proof.Proofs
end

section
/-! What the firings of the opcodes 0xD0 to 0xFF but STW leave alone: the memory system but for the A bit of an entry (R319),
the scheduler and the clocks, and in their own element what they do not name. -/

namespace Sys2Proof.Proofs.Storing

open Sys2Proof Sys2Proof.Machine Sys2Proof.Proofs.ControlRuns Sys2Proof.Proofs.Frames Sys2Proof.Proofs.EventRuns

/-! ### What is left alone -/

/-- `t` is `s` but for its regions, declarations, links and the number of the next access. -/
def Aside (s t : State) : Prop := t = { s with regions := t.regions, drv := t.drv, link := t.link, nextId := t.nextId }

theorem Aside.refl (s : State) : Aside s s := rfl

theorem Aside.trans {s t u : State} (h : Aside s t) (k : Aside t u) : Aside s u := by
  rw [Aside] at h k ⊢
  rw [k, h]

theorem Aside.mem {s t : State} (h : Aside s t) : t.mem = s.mem := by rw [h]

theorem Aside.sched {s t : State} (h : Aside s t) : t.sched = s.sched := by rw [h]

theorem aside_modRegion (s : State) (r : Nat) (f : Region → Region) : Aside s (s.modRegion r f) := by
  rw [State.modRegion]
  split <;> rfl

theorem aside_setGraph (s : State) (r : Nat) (g : GraphSt) : Aside s (s.setGraph r g) := aside_modRegion s r _

/-- What a firing of `i` in context `c` leaves of the machine outside its element. -/
structure Spares (s : State) (c : Ctx) (i : Instr) (t : State) : Prop where
  rest : t = { s with regions := t.regions, mem := t.mem, drv := t.drv, link := t.link, nextId := t.nextId }
  mem : t.mem = { s.mem with
    groups := t.mem.groups, barriers := t.mem.barriers, performs := t.mem.performs, bytes := t.mem.bytes
    frames := t.mem.frames, order := t.mem.order, reqs := t.mem.reqs }
  frames : i.info.opc ≠ 0xE8 → i.info.opc ≠ 0xFF → t.mem.frames = s.mem.frames ∧ t.mem.order = s.mem.order
  reqs : t.mem.reqs = s.mem.reqs ∨
    (i.info.opc = 0xD6 ∧ (t.mem.reqs.map fun x => { x with prog := .start }) =
      s.mem.reqs.map fun x => { x with prog := .start }) ∨
    ∃ (b : Nat) (x : Access), c.leafTouched i = some b ∧ t.mem.reqs = s.mem.reqs ++ [x] ∧
      x.pa = b + 2 ∧ x.size = 1 ∧ x.kind = .port 9 (.amend 0xFF 0x80)
  other : ∀ a, (∀ b, c.leafTouched i = some b → a ≠ b + 2) → readByte t.mem.bytes a = readByte s.mem.bytes a
  leaf : ∀ b, c.leafTouched i = some b → readByte t.mem.bytes (b + 2) = readByte s.mem.bytes (b + 2) ∨
    readByte t.mem.bytes (b + 2) = readByte s.mem.bytes (b + 2) ||| 0x80

section
variable {s t u : State} {c : Ctx} {i : Instr}

theorem Spares.aside (h : Spares s c i t) (k : Aside t u) : Spares s c i u := by
  refine ⟨?_, ?_, ?_, ?_, ?_, ?_⟩
  · rw [Aside] at k
    rw [k, h.rest]
  all_goals rw [k.mem]
  exacts [h.mem, h.frames, h.reqs, h.other, h.leaf]

/-- What writes no more of the memory system than groups, barriers and the count of performances. -/
theorem spares_of_still
    (rest : t = { s with regions := t.regions, mem := t.mem, drv := t.drv, link := t.link, nextId := t.nextId })
    (mem : t.mem = { s.mem with groups := t.mem.groups, barriers := t.mem.barriers, performs := t.mem.performs }) :
    Spares s c i t := by
  refine ⟨rest, ?_, fun _ _ => ?_, .inl ?_, fun a _ => ?_, fun b _ => .inl ?_⟩
  all_goals rw [mem]
  exact ⟨rfl, rfl⟩

theorem spares_of_aside (h : Aside s t) : Spares s c i t :=
  spares_of_still (by rw [Aside] at h; rw [h]) (by rw [h.mem])

theorem amend_sets (x : Byte) : amendByte 0xFF 0x80 x = x ||| 0x80 := by
  rw [amendByte, show (0xFF : Byte) = BitVec.allOnes 8 from rfl, BitVec.and_allOnes]

theorem clearPoison_byte (p : List Nat) (a : Nat) : clearPoison p a 1 = p := by
  have hwords : wordsOf a 1 = [a / 4] := by
    have hcount : (a + 1 - 1) / 4 - a / 4 + 1 = 1 := by omega
    rw [wordsOf, if_neg (by decide), hcount]
    exact congrArg (fun n => [n]) (Nat.zero_add _)
  have hpart : ¬ (decide (a ≤ 4 * (a / 4)) && decide (4 * (a / 4) + 4 ≤ a + 1)) = true := by
    rw [Bool.and_eq_true, decide_eq_true_eq, decide_eq_true_eq]
    omega
  rw [clearPoison, hwords]
  exact if_neg hpart

/-- The A bit of the entry that the firing uses, written (R319). -/
theorem spares_bit {b : Nat} (h : Aside s u) (hleaf : c.leafTouched i = some b) (hwf : Memory.wf s.mem.bytes = true)
    (hx : i.info.opc ≠ 0xE8 → i.info.opc = 0xFF) :
    Spares s c i (u.homeWrite (b + 2) [amendByte 0xFF 0x80 (readByte u.mem.bytes (b + 2))]) := by
  have hu := h.mem
  refine ⟨?_, ?_, fun h1 h2 => absurd (hx h1) h2, .inl ?_, fun a ha => ?_, fun d hd => .inr ?_⟩
  · rw [Aside] at h
    rw [h]
    rfl
  · rw [← hu]
    generalize amendByte 0xFF 0x80 (readByte u.mem.bytes (b + 2)) = v
    exact congrArg (fun p => { (u.homeWrite (b + 2) [v]).mem with poison := p }) (clearPoison_byte u.mem.poison (b + 2))
  · rw [← hu]
    rfl
  · rw [← hu]
    have hne := ha b hleaf
    exact readByte_writeBytes_outside (hu ▸ hwf) (by simp only [List.length_singleton]; omega)
  · obtain rfl : b = d := Option.some.inj (hleaf.symm.trans hd)
    rw [← hu, ← amend_sets]
    exact readByte_writeByte_same (hu ▸ hwf) _ _

/-- The A bit of that entry, as a request that waits. -/
theorem spares_bitWaits {b : Nat} (h : Aside s u) (hleaf : c.leafTouched i = some b) :
    Spares s c i (u.joinReqs ownAgent (b + 2) 1 0 (.amend 0xFF 0x80)) := by
  have hu := h.mem
  refine ⟨?_, ?_, fun _ _ => ?_, .inr (.inr ⟨b, portReq u.nextId ownAgent (b + 2) 1 0 (.amend 0xFF 0x80), hleaf, ?_, rfl, rfl,
    rfl⟩), fun a _ => ?_, fun d _ => .inl ?_⟩
  · rw [Aside] at h
    rw [h]
    rfl
  all_goals rw [← hu]
  exacts [rfl, ⟨rfl, rfl⟩, rfl, rfl, rfl]

/-- The frame table's entry of the page, which only XLAT and WALKL write. -/
theorem spares_frames (h : Spares s c i t) (hx : i.info.opc ≠ 0xE8 → i.info.opc = 0xFF) (l : List (Nat × FrameEnt)) :
    Spares s c i { t with mem := { t.mem with frames := l } } := by
  refine ⟨?_, ?_, fun h1 h2 => absurd (hx h1) h2, h.reqs, h.other, h.leaf⟩
  · rw [h.rest]
  · rw [h.mem]

/-- Setting the A bit of the entry that the firing uses (R319). -/
theorem spares_touched {b va : Nat} {x : BitVec 64} (h : Aside s u) (hleaf : c.leafTouched i = some b)
    (hwf : Memory.wf s.mem.bytes = true) (hx : i.info.opc ≠ 0xE8 → i.info.opc = 0xFF) :
    Spares s c i (u.setAccessed b va x) := by
  refine spares_frames ?_ hx _
  rcases ownAmend_cases u (b + 2) 0xFF 0x80 with e | e | e <;> rw [e]
  · exact spares_of_aside h
  · exact spares_bitWaits h hleaf
  · exact spares_bit h hleaf hwf hx

/-! ### What is kept in the element -/

/-- `b` is what a firing of `i` leaves of element `a`: its record, its registers but for DST, and its predicates but for PW,
SET and CLR. -/
structure Held (i : Instr) (a b : Elem) : Prop where
  img : b.img = a.img
  reg : ∀ n, formDst i.form ≠ .reg n → b.d.get n = a.d.get n
  pred : ∀ n, n < 8 → mayWritePred i n = false → b.p.getLsbD n = a.p.getLsbD n

theorem Held.trans {a b d : Elem} (h : Held i a b) (k : Held i b d) : Held i a d :=
  ⟨k.img.trans h.img, fun n hn => (k.reg n hn).trans (h.reg n hn), fun n h8 hn => (k.pred n h8 hn).trans (h.pred n h8 hn)⟩

theorem held_of_kept {a b : Elem} (h : Kept i a b) : Held i a b := ⟨h.img, h.reg, h.pred⟩

theorem held_of_eq {a b : Elem} (himg : b.img = a.img) (hd : b.d = a.d) (hp : b.p = a.p) : Held i a b :=
  ⟨himg, fun _ _ => by rw [hd], fun _ _ _ => by rw [hp]⟩

theorem Held.refl (a : Elem) : Held i a a := held_of_eq rfl rfl rfl

/-- The element of the firing stands and is what the firing leaves of it. -/
def Holds (c : Ctx) (i : Instr) (t : State) : Prop := ∃ d, t.at? c.r c.e c.slot = some d ∧ Held i c.el d.el

theorem holds_setGraph {reg : Region} {g : GraphSt} {el : Elem} (hr : u.region? c.r = some reg)
    (he : g.elems[c.e]? = some el) (h : Held i c.el el) : Holds c i (u.setGraph c.r g) := by
  refine ⟨⟨c.r, c.e, c.slot, { reg with g := some g }, g, el⟩, ?_, h⟩
  simp only [State.at?, setGraph_region?_same hr, he]

theorem holds_pushed {reg : Region} {g k : GraphSt} {outs : Fin 4 → Prop} {el : Elem} (hr : u.region? c.r = some reg)
    (he : g.elems[c.e]? = some el) (hk : Pushed c.e outs g k) (h : Held i c.el el) : Holds c i (u.setGraph c.r k) := by
  obtain ⟨x, hx, hpushed⟩ := hk.elems c.e el he
  refine holds_setGraph hr hx (h.trans ?_)
  rw [hpushed.rest]
  exact held_of_eq rfl rfl rfl

/-! ### Outcomes of the shared operations -/

/-- The trap of the firing, from a state whose memory system and scheduler are those before it. -/
def Trapped (s : State) (c : Ctx) (t : State) : Prop :=
  ∃ (u : State) (code : Nat), u.mem = s.mem ∧ u.sched = s.sched ∧ t = u.raiseTrap c.r c.e c.slot code 0

/-- An outcome that is a next state is the trap, or leaves alone what a firing that stores nothing leaves alone. -/
def Ends (s : State) (c : Ctx) (i : Instr) (o : Res) : Prop :=
  ∀ t, o = .next t → Trapped s c t ∨ (Spares s c i t ∧ Holds c i t)

theorem ends_refused {x : Refusal} : Ends s c i (.refused x) := fun _ h => nomatch h

theorem ends_next (h : Spares s c i t) (k : Holds c i t) : Ends s c i (.next t) :=
  fun _ ht => .inr (Host.Outcome.next.inj ht ▸ ⟨h, k⟩)

theorem ends_trapFrom (hm : u.mem = s.mem) (hd : u.sched = s.sched) {code : Nat} : Ends s c i (c.trap u code) :=
  fun _ ht => .inl ⟨u, code, hm, hd, (Host.Outcome.next.inj ht).symm⟩

theorem ends_trap {code : Nat} : Ends s c i (c.trap s code) := ends_trapFrom rfl rfl

theorem ends_ite {p : Prop} [Decidable p] {a b : Res} (ha : Ends s c i a) (hb : Ends s c i b) :
    Ends s c i (if p then a else b) := by
  split
  · exact ha
  · exact hb

theorem ends_withCtx (hs : s.ctx? = some c) {f : Ctx → Res} (h : Ends s c i (f c)) : Ends s c i (withCtx s f) := by
  rw [withCtx_of hs]
  exact h

theorem ends_withS {f : SSt → Res} (h : ∀ x, Ends s c i (f x)) : Ends s c i (c.withS f) := by
  unfold Ctx.withS
  split
  · exact h _
  · exact ends_refused

theorem ends_withE {f : ESt → Res} (h : ∀ x, c.el.ks = .e x → Ends s c i (f x)) : Ends s c i (c.withE f) := by
  unfold Ctx.withE
  split
  · exact h _ ‹_›
  · exact ends_refused

/-- Where the firing waits, nothing changes. -/
theorem ends_same (hs : s.ctx? = some c) : Ends s c i (.next s) := by
  obtain ⟨hr, hg, he⟩ := ctx?_some hs
  refine ends_next (spares_of_aside (.refl s)) ⟨⟨c.r, c.e, c.slot, c.reg, c.g, c.el⟩, ?_, .refl _⟩
  simp only [State.at?, hr, hg, he]

/-- The graph of the region, with the element changed and tokens pushed. -/
theorem parts_pushed (hs : s.ctx? = some c) (hu : Spares s c i u) (hregions : u.regions = s.regions) {g : GraphSt}
    {el : Elem} (hg : g.elems = c.g.elems) (h : Held i c.el el) (l : List (Fin 4 × Token)) :
    Spares s c i (u.setGraph c.r ((g.setElem c.e el).pushAll c.e l)) ∧
      Holds c i (u.setGraph c.r ((g.setElem c.e el).pushAll c.e l)) := by
  obtain ⟨hr, -, he⟩ := ctx?_some hs
  rw [State.region?, ← hregions] at hr
  rw [← hg] at he
  exact ⟨hu.aside (aside_setGraph u _ _), holds_pushed (outs := fun _ => True) hr (setElem_same he)
    (pushed_pushAll _ l fun _ _ => trivial) h⟩

theorem held_finished {a : Elem} (cy slot : Nat) (pop rd : BitVec 4) : Held i a ((a.popAll cy pop rd).completed slot) :=
  held_of_kept ((kept_popAll cy pop rd).trans (kept_completed slot))

theorem held_advanced (a : Elem) : Held i a { a.bumpSeq with firing := none } := held_of_eq rfl rfl rfl

theorem ends_put (hs : s.ctx? = some c) {el : Elem} (h : Held i c.el el) : Ends s c i (.next (c.put s el)) := by
  obtain ⟨hspares, hholds⟩ := parts_pushed hs (spares_of_aside (.refl s)) rfl rfl h []
  exact ends_next hspares hholds

theorem ends_hold (hs : s.ctx? = some c) {f : Firing} : Ends s c i (c.hold s c.el f) :=
  ends_put hs (held_of_eq rfl rfl rfl)

/-- What a firing that completes and whose tokens lie in their sets leaves alone. -/
theorem parts_finished (hs : s.ctx? = some c) (hu : Spares s c i u) (hregions : u.regions = s.regions) {g : GraphSt}
    {el : Elem} (hg : g.elems = c.g.elems) (h : Held i c.el el) (cy : Nat) (l : List (Fin 4 × Token)) (pop rd : BitVec 4) :
    Spares s c i (u.setGraph c.r (g.finish c.e c.slot cy { el.bumpSeq with firing := none } l pop rd)) ∧
      Holds c i (u.setGraph c.r (g.finish c.e c.slot cy { el.bumpSeq with firing := none } l pop rd)) :=
  parts_pushed hs hu hregions hg ((h.trans (held_advanced el)).trans (held_finished cy c.slot pop rd)) l

theorem ends_finished (hs : s.ctx? = some c) (hu : Spares s c i u) (hregions : u.regions = s.regions) {g : GraphSt}
    {el : Elem} (hg : g.elems = c.g.elems) (h : Held i c.el el) (cy : Nat) (l : List (Fin 4 × Token)) (pop rd : BitVec 4) :
    Ends s c i (.next (u.setGraph c.r (g.finish c.e c.slot cy { el.bumpSeq with firing := none } l pop rd))) := by
  obtain ⟨hspares, hholds⟩ := parts_finished hs hu hregions hg h cy l pop rd
  exact ends_next hspares hholds

/-- A firing that completes with an effect of its own on the rest of the machine. -/
theorem ends_memFinishFrom (hs : s.ctx? = some c) (hu : Spares s c i u) (hregions : u.regions = s.regions) {el : Elem}
    {l : List (Fin 4 × Token)} {pop rd : BitVec 4} (h : Held i c.el el) :
    Ends s c i (c.memFinishFrom s u el l pop rd) := by
  rw [Ctx.memFinishFrom]
  split
  · rename_i htags
    rw [Ctx.memFinish, finish_next htags]
    exact ends_finished hs hu hregions rfl h _ _ _ _
  · exact ends_trap

/-- A firing that completes and pushes nothing. -/
theorem ends_memFinish_nil (hs : s.ctx? = some c) (hu : Spares s c i u) (hregions : u.regions = s.regions) {el : Elem}
    {pop rd : BitVec 4} (h : Held i c.el el) : Ends s c i (c.memFinish u el [] pop rd) := by
  rw [Ctx.memFinish, finish_nil]
  exact ends_finished hs hu hregions rfl h _ _ _ _

/-- A firing that completes on its region alone; PARK and UNPARK have changed its graph. -/
theorem ends_memFinish (hs : s.ctx? = some c) {g : GraphSt} {el : Elem} {l : List (Fin 4 × Token)} {pop rd : BitVec 4}
    (hg : g.elems = c.g.elems) (h : Held i c.el el) : Ends s c i ({ c with g := g }.memFinish s el l pop rd) := by
  rw [Ctx.memFinish, Ctx.finish]
  split
  · exact ends_finished hs (spares_of_aside (.refl s)) rfl hg h _ _ _ _
  · exact ends_trap

/-- What an issue makes of its element. -/
def issuedElem (c : Ctx) (el : Elem) (cy : Nat) (pop rd : BitVec 4) (o : List OutF) (a : List Access) : Elem :=
  let x := ((el.popAll cy pop rd).completed c.slot).bumpSeq
  { x with outs := x.outs ++ o, issueQ := x.issueQ ++ a, firing := none }

theorem held_issued (c : Ctx) (el : Elem) (cy : Nat) (pop rd : BitVec 4) (o : List OutF) (a : List Access) :
    Held i el (issuedElem c el cy pop rd o a) := (held_finished cy c.slot pop rd).trans (held_of_eq rfl rfl rfl)

/-- A firing that issues accesses. -/
theorem ends_issue (hs : s.ctx? = some c) (hu : Spares s c i u) (hregions : u.regions = s.regions) {srcs : List Src} {el : Elem}
    {pop pw : BitVec 4} {o : List OutF} {a : List Access} (h : Held i c.el el)
    (hpw : Held i el (el.withPw pw false)) : Ends s c i (c.issue u srcs el pop pw o a) := by
  have hel := (h.trans hpw).trans (held_issued c _ u.cycle pop (readMask srcs) o a)
  obtain ⟨hspares, hholds⟩ := parts_pushed hs hu hregions rfl hel []
  exact ends_next (hspares.aside (by rfl)) hholds

end

end Sys2Proof.Proofs.Storing
end

section
/-! What each firing of the opcodes 0xD0 to 0xFF but STW leaves alone: one lemma per instruction. -/

namespace Sys2Proof.Proofs.Storing

open Sys2Proof Sys2Proof.Machine Sys2Proof.Proofs.ControlRuns Sys2Proof.Proofs.Frames Sys2Proof.Proofs.EventRuns

section
variable {s u : State} {c : Ctx} {i : Instr}

/-! ### Issues, by the form of the instruction -/

theorem held_noPw (a : Elem) : Held i a (a.withPw 0 false) := held_of_eq rfl rfl rfl

theorem held_pwR {f : RForm} (hf : i.form = .R f) (a : Elem) (k : Bool) : Held i a (a.withPw f.pw k) :=
  held_of_kept (kept_withPw_R hf k)

theorem held_pwI {f : IForm} (hf : i.form = .I f) (a : Elem) (k : Bool) : Held i a (a.withPw f.pw k) :=
  held_of_kept (kept_withPw_I hf k)

/-- An issue of an X form, which changes no predicate. -/
theorem ends_issueX (hs : s.ctx? = some c) {srcs : List Src} {el : Elem} {pop : BitVec 4} {o : List OutF} {a : List Access}
    (h : Held i c.el el) : Ends s c i (c.issue s srcs el pop 0 o a) :=
  ends_issue hs (spares_of_aside (.refl s)) rfl h (held_noPw el)

/-- An issue of an R form. -/
theorem ends_issueR (hs : s.ctx? = some c) {f : RForm} (hf : i.form = .R f) {srcs : List Src} {pop : BitVec 4} {o : List OutF}
    {a : List Access} : Ends s c i (c.issue s srcs c.el pop f.pw o a) :=
  ends_issue hs (spares_of_aside (.refl s)) rfl (.refl _) (held_pwR hf _ _)

/-- The result of an R form in its register, and its predicate. -/
theorem held_resultR {f : RForm} (hf : i.form = .R f) (a : Elem) (v : Payload) (k : Bool) :
    Held i a ((a.writeDst f.dst v).withPw f.pw k) :=
  held_of_kept ((kept_writeDst (by rw [hf]; rfl) v).trans (kept_withPw_R hf k))

/-- A firing that has a result and changes nothing but its region. -/
theorem ends_result (hs : s.ctx? = some c) {f : RForm} (hf : i.form = .R f) {v : Payload} {k : Bool}
    {l : List (Fin 4 × Token)} {pop rd : BitVec 4} :
    Ends s c i (c.memFinish s ((c.el.writeDst f.dst v).withPw f.pw k) l pop rd) :=
  ends_memFinish (g := c.g) hs rfl (held_resultR hf _ _ _)

end

variable {s : State} {c : Ctx} (hs : s.ctx? = some c)
include hs

/-! ### Loads, stores, atomics and groups -/

theorem ends_ld (f : XForm) : Ends s c (.ld f) (execLd f s) := by
  refine ends_withCtx hs ?_
  split
  · exact ends_refused
  · refine ends_ite ends_trap ?_
    split
    · exact ends_trap
    · exact ends_ite ends_trap (ends_issueX hs (.refl _))

theorem ends_st (f : XForm) : Ends s c (.st f) (execSt f s) := by
  refine ends_withCtx hs (ends_ite ends_trap ?_)
  split
  · exact ends_trap
  · exact ends_issueX hs (.refl _)

theorem ends_atomic {i : Instr} (f : XForm) (opc n : Nat) (k : Bool) : Ends s c i (c.atomic s f opc n k) := by
  refine ends_ite ends_trap ?_
  dsimp only
  split
  · refine ends_ite ends_trap ?_
    split
    · exact ends_trap
    · exact ends_issueX hs (held_of_eq rfl rfl rfl)
  · split
    · exact ends_trap
    · exact ends_ite ends_trap (ends_issueX hs (.refl _))

omit hs in
theorem openGroup_mem {ctx : Nat} {a : Payload} {m : MemSt} {q : Issuer} (h : s.openGroup ctx a = some (m, q)) :
    m = { s.mem with groups := m.groups } := by
  unfold State.openGroup at h
  dsimp only at h
  split at h
  · cases h
  · split at h
    · cases h
      rfl
    · split at h
      · cases h
      · cases h
        rfl

theorem ends_adet (f : RForm) : Ends s c (.adet f) (execAdet f s) := by
  refine ends_withCtx hs (ends_ite ends_trap (ends_ite ends_trap ?_))
  split
  · exact ends_trap
  · rename_i m q h
    have hspares : Spares s c (.adet f) { s with mem := m } := spares_of_still rfl (by rw [openGroup_mem h])
    exact ends_memFinish_nil hs hspares rfl (held_pwR (f := f) rfl { c.el with issuer := some q } false |>
      (held_of_eq rfl rfl rfl : Held _ c.el { c.el with issuer := some q }).trans)

theorem ends_aclose (f : XForm) : Ends s c (.aclose f) (execAclose f s) := by
  refine ends_withCtx hs ?_
  split
  · exact ends_trap
  · exact ends_issueX hs (held_of_eq rfl rfl rfl)

/-! ### Windows -/

omit hs in
/-- A performance draws its number and changes nothing else. -/
theorem spares_performNo (s : State) (c : Ctx) (i : Instr) : Spares s c i s.performNo.1 := spares_of_still rfl rfl

theorem ends_ldw (f : XForm) : Ends s c (.ldw f) (execLdw f s) := by
  refine ends_withCtx hs (ends_withS fun x => ?_)
  split
  · exact ends_refused
  · refine ends_ite ends_trap ?_
    dsimp only
    split
    · exact ends_trap
    · exact ends_ite ends_trap (ends_ite (ends_issueX hs (.refl _)) (ends_ite (ends_issueX hs (.refl _))
        (ends_issue hs (spares_performNo s c _) rfl (held_of_eq rfl rfl rfl) (held_noPw _))))

theorem ends_wmap (f : XForm) : Ends s c (.wmap f) (execWmap f s) := by
  refine ends_withCtx hs (ends_withS fun x => ?_)
  split
  · exact ends_refused
  · refine ends_ite ends_trap (ends_ite (ends_hold hs) ?_)
    split
    · exact ends_trap
    · exact ends_hold hs

theorem ends_wsync (f : XForm) : Ends s c (.wsync f) (execWsync f s) :=
  ends_withCtx hs (ends_withS fun _ => ends_ite ends_trap (ends_issueX hs (.refl _)))

omit hs in
/-- Where WINV's fills of derived words start anew, the requests stay the same but for how far they have read. -/
theorem spares_refill (f : XForm) (r e : Nat) (gen : BitVec 12) (w : Fin 8) :
    Spares s c (.winv f) (s.refill r e gen w).performNo.1 := by
  refine ⟨rfl, rfl, fun _ _ => ⟨rfl, rfl⟩, .inr (.inl ⟨rfl, ?_⟩), fun _ _ => rfl, fun _ _ => .inl rfl⟩
  have hreqs : (s.refill r e gen w).performNo.1.mem.reqs = (s.refill r e gen w).mem.reqs := rfl
  rw [hreqs, State.refill]
  simp only [List.map_map]
  refine List.map_congr_left fun a _ => ?_
  simp only [Function.comp_apply]
  split
  · split <;> rfl
  · rfl

theorem ends_winv (f : XForm) : Ends s c (.winv f) (execWinv f s) :=
  ends_withCtx hs (ends_withS fun _ => ends_ite ends_trap
    (ends_issue hs (spares_refill f _ _ _ _) rfl (held_of_eq rfl rfl rfl) (held_noPw _)))

theorem ends_wclose (f : XForm) : Ends s c (.wclose f) (execWclose f s) :=
  ends_withCtx hs (ends_withS fun _ => ends_ite ends_trap (ends_issueX hs (held_of_eq rfl rfl rfl)))

/-! ### Derived tensors, address streams, parking and translation -/

theorem ends_drv (f : RForm) : Ends s c (.drv f) (execDrv f s) := ends_withCtx hs (ends_ite ends_trap (ends_hold hs))

theorem ends_drvx (f : RForm) : Ends s c (.drvx f) (execDrvx f s) := by
  refine ends_withCtx hs (ends_ite ends_trap (ends_memFinishFrom hs (spares_of_aside ?_) ?_ (held_resultR (f := f) rfl _ _ _)))
  · split <;> rfl
  · split <;> rfl

theorem ends_drvq (f : RForm) : Ends s c (.drvq f) (execDrvq f s) :=
  ends_withCtx hs (ends_ite ends_trap (ends_result hs rfl))

theorem ends_agen (f : RForm) : Ends s c (.agen f) (execAgen f s) := by
  refine ends_withCtx hs (ends_withE fun x _ => ends_ite ends_trap (ends_ite ends_trap ?_))
  refine ends_memFinish (g := c.g) hs rfl (Held.trans (b := c.el.setE _) (held_of_eq rfl rfl rfl) (held_pwR rfl _ _))

theorem ends_agstr (f : XForm) : Ends s c (.agstr f) (execAgstr f s) := by
  refine ends_withCtx hs (ends_withE fun x _ => ?_)
  split
  · exact ends_refused
  · refine ends_ite (ends_hold hs) (ends_ite ends_trap ?_)
    refine ends_memFinish_nil hs ?_ (by rfl) ?_
    · exact spares_of_aside rfl
    · split <;> exact held_of_eq rfl rfl rfl

omit hs in
theorem park_elems {g h : GraphSt} {n : Nat} {t : Token} (hp : g.park n t = some h) : h.elems = g.elems := by
  unfold GraphSt.park at hp
  dsimp only at hp
  split at hp
  · cases hp
    rfl
  · split at hp
    · cases hp
      rfl
    · cases hp

omit hs in
theorem unpark_elems {g h : GraphSt} {n : Nat} {t : Token} (hp : g.unpark n = some (t, h)) : h.elems = g.elems := by
  unfold GraphSt.unpark at hp
  dsimp only at hp
  split at hp <;> cases hp <;> rfl

theorem ends_park (f : XForm) : Ends s c (.park f) (execPark f s) := by
  refine ends_withCtx hs ?_
  dsimp only
  split
  · exact ends_trap
  · rename_i h
    exact ends_memFinish hs (park_elems h) (.refl _)

theorem ends_unpark (f : XForm) : Ends s c (.unpark f) (execUnpark f s) := by
  refine ends_withCtx hs ?_
  split
  · exact ends_same hs
  · rename_i h
    exact ends_memFinish hs (unpark_elems h) (.refl _)

omit hs in
theorem setAccessed_regions (u : State) (b va : Nat) (x : BitVec 64) : (u.setAccessed b va x).regions = u.regions := by
  rw [State.setAccessed]
  rcases ownAmend_cases u (b + 2) 0xFF 0x80 with e | e | e <;> rw [e] <;> rfl

theorem ends_xlat (hwf : Memory.wf s.mem.bytes = true) (f : RForm) : Ends s c (.xlat f) (execXlat f s) := by
  refine ends_withCtx hs (ends_withE fun x hx => ?_)
  cases outOf? f.dst with
  | none => exact ends_refused
  | some o =>
    cases c.sideOf [f.sa] with
    | mk last coord =>
      cases c.xlatTrap? f with
      | some k => exact ends_trap
      | none =>
        have hleaf : c.leafTouched (.xlat f) =
            if 2 ^ 56 ≤ pair64 (c.src f.md f.sa) 0 then none
            else (x.tlbHit? c.reg.ctx (pair64 (c.src f.md f.sa) 0)).map (·.at_) := by
          rw [Ctx.leafTouched, hx]
          rfl
        refine ends_ite (ends_issue hs ?_ ?_ (.refl _) (held_pwR rfl _ _)) ends_trap
        · split
          · rename_i t ht
            split at ht
            · cases ht
            · rename_i hva
              refine spares_touched (.refl s) ?_ hwf fun h => absurd rfl h
              rw [hleaf, if_neg hva, ht]
              rfl
          · exact spares_of_aside (.refl s)
        · split
          · exact setAccessed_regions _ _ _ _
          · rfl

theorem ends_xinv (f : RForm) : Ends s c (.xinv f) (execXinv f s) :=
  ends_withCtx hs (ends_withE fun _ _ => ends_ite ends_trap (ends_issueR hs rfl))

/-! ### Synchronisation -/

theorem ends_fence (f : IForm) : Ends s c (.fence f) (execFence f s) :=
  ends_withCtx hs (ends_ite (ends_hold hs) (ends_memFinish (g := c.g) hs rfl (held_pwI rfl _ _)))

theorem ends_cwait (f : RForm) : Ends s c (.cwait f) (execCwait f s) :=
  ends_withCtx hs (ends_ite ends_trap (ends_ite ends_trap (ends_ite (ends_same hs) (ends_issueR hs rfl))))

theorem ends_csig (f : RForm) : Ends s c (.csig f) (execCsig f s) :=
  ends_withCtx hs (ends_ite ends_trap (ends_ite ends_trap (ends_issueR hs rfl)))

theorem ends_bara (f : RForm) : Ends s c (.bara f) (execBara f s) :=
  ends_withCtx hs (ends_ite ends_trap (ends_ite ends_trap (ends_issueR hs rfl)))

theorem ends_barw (f : RForm) : Ends s c (.barw f) (execBarw f s) :=
  ends_withCtx hs (ends_ite ends_trap (ends_ite ends_trap (ends_ite (ends_same hs) (ends_issueR hs rfl))))

theorem ends_bari (f : RForm) : Ends s c (.bari f) (execBari f s) := by
  refine ends_withCtx hs (ends_ite ends_trap (ends_ite ends_trap ?_))
  refine ends_memFinish_nil hs ?_ (by rfl) (held_pwR (i := .bari f) rfl _ _)
  exact spares_of_still rfl rfl

/-! ### Link operations -/

theorem ends_startSend {i : Instr} (f : XForm) (k : Instr) (opc : Nat) : Ends s c i (c.startSend s f k opc) := by
  refine ends_withE fun x _ => ?_
  split
  · exact ends_refused
  · exact ends_ite (ends_hold hs) (ends_issueX hs (held_of_eq rfl rfl rfl))

theorem ends_sendOp {i : Instr} (f : XForm) (k : Instr) (opc : Nat) : Ends s c i (c.sendOp s f k opc) :=
  ends_ite ends_trap (ends_ite ends_trap (ends_startSend hs _ _ _))

theorem ends_get (f : XForm) : Ends s c (.get f) (execGet f s) :=
  ends_withCtx hs (ends_ite ends_trap (ends_ite ends_trap (ends_ite ends_trap (ends_issueX hs (.refl _)))))

theorem ends_red (f : XForm) : Ends s c (.red f) (execRed f s) := by
  refine ends_withCtx hs (ends_ite ends_trap (ends_ite ends_trap ?_))
  split
  · exact ends_startSend hs _ _ _
  · exact ends_ite ends_trap (ends_ite (ends_same hs) (ends_startSend hs _ _ _))

theorem ends_redr (f : XForm) : Ends s c (.redr f) (execRedr f s) := by
  refine ends_withCtx hs (ends_withE fun x _ => ends_ite ends_trap (ends_ite ends_trap ?_))
  have hfail (n code : Nat) :
      Ends s c (.redr f) (c.trap (c.put (s.meetVoid n c.reg.launch c.e) (c.el.setE x.fail)) code) :=
    ends_trapFrom (s := s) (u := c.put (s.meetVoid n c.reg.launch c.e) (c.el.setE x.fail))
      (aside_setGraph (s.meetVoid n c.reg.launch c.e) _ _).mem (aside_setGraph (s.meetVoid n c.reg.launch c.e) _ _).sched
  split
  · exact hfail _ _
  · refine ends_ite (hfail _ _) (ends_ite ends_trap ?_)
    split
    · split
      · exact ends_trap
      · refine ends_ite ends_trap ?_
        refine ends_issue hs ?_ (by rfl) (.refl _) (held_noPw _)
        exact spares_of_aside rfl
    · exact ends_same hs

theorem ends_pushList {i : Instr} {el : Elem} {f : Firing} {l : List (Fin 4 × Token)} {pop rd : BitVec 4}
    (h : Held i c.el el.bumpSeq) : Ends s c i (c.pushList s el.bumpSeq f l pop rd) := by
  rw [Ctx.pushList.eq_def]
  have hdone (l : List (Fin 4 × Token)) : Ends s c i (c.complete s el.bumpSeq l pop rd) :=
    ends_memFinish (g := c.g) hs rfl (h.trans (held_of_eq (a := el.bumpSeq) (b := el) rfl rfl rfl))
  split
  · exact hdone _
  · exact hdone _
  · refine ends_ite ?_ ends_trap
    rename_i x r _
    obtain ⟨hspares, hholds⟩ := parts_pushed hs (spares_of_aside (.refl s)) rfl rfl
      (h.trans (held_of_eq rfl rfl rfl : Held i el.bumpSeq { el.bumpSeq with firing := some { f with stage := .push, q := r } }))
      [x]
    exact ends_next hspares hholds

theorem ends_lrecv (f : XForm) : Ends s c (.lrecv f) (execLrecv f s) := by
  refine ends_withCtx hs (ends_withE fun x _ => ends_ite ends_trap (ends_ite ends_trap ?_))
  dsimp only
  split
  · exact ends_pushList hs (held_of_eq rfl rfl rfl)
  · exact ends_same hs
  · exact ends_refused

theorem ends_lq (f : RForm) : Ends s c (.lq f) (execLq f s) :=
  ends_withCtx hs (ends_withE fun _ _ => ends_result hs rfl)

/-! ### System -/

theorem ends_lnch (f : RForm) : Ends s c (.lnch f) (execLnch f s) := ends_withCtx hs (ends_ite ends_trap (ends_issueR hs rfl))

theorem ends_sysc (f : IForm) : Ends s c (.sysc f) (execSysc f s) :=
  ends_withCtx hs (ends_ite ends_trap (ends_ite ends_trap
    (ends_issue hs (spares_of_aside (.refl s)) rfl (.refl _) (held_pwI rfl _ _))))

theorem ends_flth (f : RForm) : Ends s c (.flth f) (execFlth f s) := by
  refine ends_withCtx hs ?_
  split
  · exact ends_ite (ends_same hs) ends_refused
  · exact ends_ite ends_trap (ends_ite ends_trap (ends_ite ends_trap (ends_ite (ends_issueR hs rfl) (ends_issueR hs rfl))))

theorem ends_tbkt (f : RForm) : Ends s c (.tbkt f) (execTbkt f s) := ends_withCtx hs (ends_result hs rfl)

theorem ends_walk (f : RForm) : Ends s c (.walk f) (execWalk f s) :=
  ends_withCtx hs (ends_ite ends_trap (ends_ite ends_trap (ends_issueR hs rfl)))

omit hs in
/-- A change of regions that keeps the element's record, registers and predicates. -/
theorem holds_of_region {i : Instr} {t u : State} (h : Holds c i t)
    (hu : ∀ reg g el, t.region? c.r = some reg → reg.g = some g → g.elems[c.e]? = some el →
      ∃ d, u.at? c.r c.e c.slot = some d ∧ Held i el d.el) : Holds c i u := by
  obtain ⟨d, hat, hd⟩ := h
  obtain ⟨hr, he, hslot, hreg, hg, hel⟩ := at?_some hat
  rw [hr] at hreg
  rw [he] at hel
  obtain ⟨x, hx, hheld⟩ := hu _ _ _ hreg hg hel
  exact ⟨x, hx, hd.trans hheld⟩

omit hs in
theorem request_graph (x : Region) (k : Bool) : (x.request k).g = x.g := by
  rw [Region.request]
  split <;> rfl

/-- PREQ and CKPT (R298): the firing completes, then its region takes the request. -/
theorem ends_preReq {i : Instr} {f : PForm} (hf : i.form = .P f) (k : Bool) : Ends s c i (c.preReq s f k) := by
  obtain ⟨hspares, hholds⟩ := parts_finished (g := c.g) hs (spares_of_aside (.refl s)) rfl rfl
    (held_of_kept (kept_withSetClr hf)) s.cycle [] f.pop 0
  rw [Ctx.preReq, Ctx.memFinish, finish_nil]
  refine ends_next (hspares.aside (aside_modRegion _ _ _)) (holds_of_region hholds fun reg g el hreg hg hel => ?_)
  refine ⟨⟨c.r, c.e, c.slot, reg.request k, g, el⟩, ?_, .refl _⟩
  simp only [State.at?, modRegion_region?_same hreg, request_graph, hg, hel]

omit hs in
/-- What a walk's answer makes of an element leaves its record, registers and predicates alone. -/
theorem held_release {i : Instr} (el : Elem) (tag : Nat) (res : OutF → Except Nat Payload) (t : Option TlbEnt) :
    Held i el (el.release tag res t) := by
  rw [Elem.release]
  split
  · exact held_of_eq rfl rfl rfl
  · exact .refl _

omit hs in
theorem holds_releaseXlat {i : Instr} {t : State} (h : Holds c i t) (tag : Nat) (res : OutF → Except Nat Payload)
    (e : Nat → Option TlbEnt) : Holds c i (t.releaseXlat tag res e) := by
  refine holds_of_region h fun reg g el hreg hg hel => ?_
  refine ⟨⟨c.r, c.e, c.slot, { reg with g := some { g with elems := g.elems.map fun el => el.release tag res (e reg.ctx) } },
    { g with elems := g.elems.map fun el => el.release tag res (e reg.ctx) }, el.release tag res (e reg.ctx)⟩, ?_,
    held_release el tag res _⟩
  have hregion : (t.releaseXlat tag res e).region? c.r =
      some { reg with g := some { g with elems := g.elems.map fun el => el.release tag res (e reg.ctx) } } := by
    rw [State.region?] at hreg ⊢
    simp [State.releaseXlat, hreg, hg]
  simp only [State.at?, hregion, List.getElem?_map, hel, Option.map_some]

omit hs in
theorem aside_releaseXlat (t : State) (tag : Nat) (res : OutF → Except Nat Payload) (e : Nat → Option TlbEnt) :
    Aside t (t.releaseXlat tag res e) := rfl

omit hs in
theorem holds_setAccessed {i : Instr} {t : State} (h : Holds c i t) (b va : Nat) (x : BitVec 64) :
    Holds c i (t.setAccessed b va x) := by
  obtain ⟨d, hat, hd⟩ := h
  refine ⟨d, ?_, hd⟩
  rw [at?_of_region (t := t.setAccessed b va x) (s := t), hat]
  rw [State.region?, State.region?, setAccessed_regions]

/-- WALKL (R285, R319): the firing completes, the answer goes to the firing that its tag names, and the leaf's page is
accessed. -/
theorem ends_walkl (hwf : Memory.wf s.mem.bytes = true) (f : RForm) : Ends s c (.walkl f) (execWalkl f s) := by
  refine ends_withCtx hs (ends_ite ends_trap (ends_ite ends_trap ?_))
  have haside : Aside s (s.setGraph c.r (c.g.finish c.e c.slot s.cycle { (c.el.withPw f.pw false).bumpSeq with firing := none }
      [] f.pop (readMask [f.sa]))) := aside_setGraph s _ _
  obtain ⟨-, hholds⟩ := parts_finished (g := c.g) (i := .walkl f) hs (spares_of_aside (.refl s)) rfl rfl
    (held_pwR rfl c.el false) s.cycle [] f.pop (readMask [f.sa])
  rw [Ctx.memFinish, finish_nil]
  refine ends_ite (ends_next (spares_of_aside (haside.trans (aside_releaseXlat _ _ _ _))) (holds_releaseXlat hholds _ _ _)) ?_
  refine ends_next (spares_touched (haside.trans (aside_releaseXlat _ _ _ _)) rfl hwf fun _ => rfl) ?_
  exact holds_setAccessed (holds_releaseXlat hholds _ _ _) _ _ _

/-! ### Every firing but STW -/

theorem ends_memory (hwf : Memory.wf s.mem.bytes = true) {i : Instr} (hev : i.isEvent = false) (hopc : 0xD0 ≤ i.info.opc)
    (hstw : i.info.opc ≠ 0xD3) : Ends s c i (exec i s) := by
  have hlow (n : Nat) (h : n < 0xD0) : i.info.opc ≠ n := by omega
  cases i
  case ld f => exact ends_ld hs f
  case st f => exact ends_st hs f
  case ldw f => exact ends_ldw hs f
  case stw f => exact absurd rfl hstw
  case wmap f => exact ends_wmap hs f
  case wsync f => exact ends_wsync hs f
  case winv f => exact ends_winv hs f
  case wclose f => exact ends_wclose hs f
  case aadd f => exact ends_withCtx hs (ends_atomic hs f _ _ _)
  case amax f => exact ends_withCtx hs (ends_atomic hs f _ _ _)
  case amin f => exact ends_withCtx hs (ends_atomic hs f _ _ _)
  case axchg f => exact ends_withCtx hs (ends_atomic hs f _ _ _)
  case acas f => exact ends_withCtx hs (ends_atomic hs f _ _ _)
  case aor f => exact ends_withCtx hs (ends_atomic hs f _ _ _)
  case aand f => exact ends_withCtx hs (ends_atomic hs f _ _ _)
  case adet f => exact ends_adet hs f
  case aclose f => exact ends_aclose hs f
  case drv f => exact ends_drv hs f
  case drvx f => exact ends_drvx hs f
  case drvq f => exact ends_drvq hs f
  case agen f => exact ends_agen hs f
  case agstr f => exact ends_agstr hs f
  case park f => exact ends_park hs f
  case unpark f => exact ends_unpark hs f
  case xlat f => exact ends_xlat hs hwf f
  case xinv f => exact ends_xinv hs f
  case fence f => exact ends_fence hs f
  case cwait f => exact ends_cwait hs f
  case csig f => exact ends_csig hs f
  case bara f => exact ends_bara hs f
  case barw f => exact ends_barw hs f
  case bari f => exact ends_bari hs f
  case put f => exact ends_withCtx hs (ends_sendOp hs f _ _)
  case puts f => exact ends_withCtx hs (ends_sendOp hs f _ _)
  case get f => exact ends_get hs f
  case red f => exact ends_red hs f
  case redr f => exact ends_redr hs f
  case lsend f => exact ends_withCtx hs (ends_sendOp hs f _ _)
  case lrecv f => exact ends_lrecv hs f
  case lq f => exact ends_lq hs f
  case lnch f => exact ends_lnch hs f
  case sysc f => exact ends_sysc hs f
  case flth f => exact ends_flth hs f
  case preq f => exact ends_withCtx hs (ends_preReq hs rfl _)
  case ckpt f => exact ends_withCtx hs (ends_preReq hs rfl _)
  case tbkt f => exact ends_tbkt hs f
  case walk f => exact ends_walk hs f
  case walkl f => exact ends_walkl hs hwf f
  case add sh _ | sub sh _ | mul sh _ | mulh sh _ | and sh _ | or sh _ | xor sh _ | shl sh _ | shr sh _ |
      sra sh _ | min sh _ | max sh _ | ceq sh _ | clt sh _ | cltu sh _ | addi sh _ | mrow sh _ | mrows sh _ =>
    cases sh <;> exact absurd rfl (hlow _ (Nat.le_of_ble_eq_true rfl))
  case tokenArrive | pairStep | streamTokenTake | loadEngineToken | furtherTokenPush | incompleteFiringResume |
      streamEnginePush | send | perform | egress | deliver | push | memoryReply | fill | apply | updateReplay |
      joinfRelease | fenceComplete | counterRaise | barrierArrival | scanEnd | declarationAccept | declarationWithdraw
      | putsSignal | switchReduce | destinationUnreachable | drainMarkerPass | owlQuiescence | externalWaitExpiry |
      signalCounterAdvance | launchWindowWrite | timeTriggerStart | launchWaitMet | admission | agePromotion |
      regionArm | resumeFromRetention | gateRegion | regionRelease | preemptionStart | elementSave | freeze |
      freezeScan | scanOut | faultService | flthReply | restore | shootdown | badgerVisit | bucketRefill |
      configRegisterWrite | reset | bootStage | mailboxUpdate | attestationRequest | marginReplan | thermalThreshold |
      supplyFault | hostCxlAccess | controlCoreAccess | invalidationAcknowledge | linkPacketArrival |
      deviceClockDiscipline =>
    exact Bool.noConfusion hev
  all_goals exact absurd rfl (hlow _ (Nat.le_of_ble_eq_true rfl))

omit hs in
/-- A firing of the opcodes 0xD0 to 0xFF but STW stores nothing. -/
theorem otherMemoryFiringsStoreNothing : OtherMemoryFiringsStoreNothing := by
  intro s t c i hs hev hopc hstw hwf hexec hno
  rcases ends_memory hs hwf hev hopc hstw t hexec with ⟨u, code, hm, hd, rfl⟩ | ⟨hspares, hholds⟩
  · exact absurd rfl (hno u code hm hd)
  · obtain ⟨d, hat, hheld⟩ := hholds
    exact ⟨hspares.rest, hspares.mem, hspares.frames, hspares.reqs, hspares.other, hspares.leaf, d, hat, hheld.img, hheld.reg,
      hheld.pred⟩

end Sys2Proof.Proofs.Storing
end

section
/-! R305, R309, R310: what a recall of windows keeps. It takes words out of windows and writes them home; registers,
predicates, records and tokens of the elements stay, wherever their images stand. -/

namespace Sys2Proof.Proofs.Recalling

open Sys2Proof Sys2Proof.Machine Sys2Proof.Proofs.EventRuns Sys2Proof.Proofs.Storing

/-! ### Likeness of elements, graphs, regions and launches -/

/-- A window state that has at most lost dirty words. -/
def WinLike (x y : SSt) : Prop := y.windows = x.windows ∧ y.sram = x.sram ∧ ∀ k, k ∈ y.dirty → k ∈ x.dirty

inductive KindLike : KindSt → KindSt → Prop
  | same (k : KindSt) : KindLike k k
  | win {x y : SSt} (h : WinLike x y) : KindLike (.s x) (.s y)

/-- An element whose windows have at most lost dirty words. -/
structure ElemLike (a b : Elem) : Prop where
  d : b.d = a.d
  p : b.p = a.p
  img : b.img = a.img
  ins : b.ins = a.ins
  outs : b.outs = a.outs
  ks : KindLike a.ks b.ks

def GraphLike (a b : GraphSt) : Prop := ∀ e : Nat, Option.Rel ElemLike a.elems[e]? b.elems[e]?

def RegionLike (a b : Region) : Prop := Option.Rel GraphLike a.g b.g

def LaunchLike (a b : Launch) : Prop := b.ctx = a.ctx ∧ b.region = a.region ∧ Option.Rel GraphLike a.saved b.saved

section
variable {α : Type} {R : α → α → Prop}

theorem optRel_refl (h : ∀ x, R x x) (a : Option α) : Option.Rel R a a := by
  cases a
  · exact .none
  · exact .some (h _)

theorem optRel_trans (h : ∀ x y z, R x y → R y z → R x z) {a b c : Option α} (hab : Option.Rel R a b)
    (hbc : Option.Rel R b c) : Option.Rel R a c := by
  cases hab with
  | none => exact hbc
  | some hxy =>
    cases hbc with
    | some hyz => exact .some (h _ _ _ hxy hyz)

theorem optRel_some {a b : Option α} (h : Option.Rel R a b) {x : α} (ha : a = some x) : ∃ y, b = some y ∧ R x y := by
  subst ha
  cases h with
  | some hxy => exact ⟨_, rfl, hxy⟩

theorem optRel_of_some {a b : Option α} (h : Option.Rel R a b) {y : α} (hb : b = some y) : ∃ x, a = some x ∧ R x y := by
  subst hb
  cases h with
  | some hxy => exact ⟨_, rfl, hxy⟩

/-- A change at one place of a list. -/
theorem optRel_set (hR : ∀ x, R x x) {l : List α} {k : Nat} {x y : α} (hk : l[k]? = some x) (h : R x y) (j : Nat) :
    Option.Rel R l[j]? (l.set k y)[j]? := by
  by_cases hj : k = j
  · subst hj
    rw [hk, List.getElem?_set_self (List.getElem?_eq_some_iff.mp hk).1]
    exact .some h
  · rw [List.getElem?_set_ne hj]
    exact optRel_refl hR _

end

theorem WinLike.refl (x : SSt) : WinLike x x := ⟨rfl, rfl, fun _ h => h⟩

theorem WinLike.trans {x y z : SSt} (h : WinLike x y) (k : WinLike y z) : WinLike x z :=
  ⟨k.1.trans h.1, k.2.1.trans h.2.1, fun n hn => h.2.2 n (k.2.2 n hn)⟩

theorem KindLike.trans {x y z : KindSt} (h : KindLike x y) (k : KindLike y z) : KindLike x z := by
  cases h with
  | same => exact k
  | win hxy =>
    cases k with
    | same => exact .win hxy
    | win hyz => exact .win (hxy.trans hyz)

theorem KindLike.s_left {x : SSt} {k : KindSt} (h : KindLike (.s x) k) : ∃ y, k = .s y ∧ WinLike x y := by
  cases h with
  | same => exact ⟨x, rfl, .refl x⟩
  | win hxy => exact ⟨_, rfl, hxy⟩

theorem KindLike.s_right {y : SSt} {k : KindSt} (h : KindLike k (.s y)) : ∃ x, k = .s x ∧ WinLike x y := by
  cases h with
  | same => exact ⟨y, rfl, .refl y⟩
  | win hxy => exact ⟨_, rfl, hxy⟩

theorem ElemLike.refl (a : Elem) : ElemLike a a := ⟨rfl, rfl, rfl, rfl, rfl, .same _⟩

theorem ElemLike.trans {a b c : Elem} (h : ElemLike a b) (k : ElemLike b c) : ElemLike a c :=
  ⟨k.d.trans h.d, k.p.trans h.p, k.img.trans h.img, k.ins.trans h.ins, k.outs.trans h.outs, h.ks.trans k.ks⟩

theorem GraphLike.refl (g : GraphSt) : GraphLike g g := fun _ => optRel_refl .refl _

theorem GraphLike.trans {a b c : GraphSt} (h : GraphLike a b) (k : GraphLike b c) : GraphLike a c :=
  fun e => optRel_trans (fun _ _ _ => .trans) (h e) (k e)

theorem graphLike_setElem {g : GraphSt} {e : Nat} {a b : Elem} (he : g.elems[e]? = some a) (h : ElemLike a b) :
    GraphLike g (g.setElem e b) := optRel_set .refl he h

theorem RegionLike.refl (r : Region) : RegionLike r r := optRel_refl .refl _

theorem RegionLike.trans {a b c : Region} (h : RegionLike a b) (k : RegionLike b c) : RegionLike a c :=
  optRel_trans (fun _ _ _ => .trans) h k

theorem LaunchLike.refl (x : Launch) : LaunchLike x x := ⟨rfl, rfl, optRel_refl .refl _⟩

theorem LaunchLike.trans {a b c : Launch} (h : LaunchLike a b) (k : LaunchLike b c) : LaunchLike a c :=
  ⟨k.1.trans h.1, k.2.1.trans h.2.1, optRel_trans (fun _ _ _ => .trans) h.2.2 k.2.2⟩

/-! ### Likeness of states -/

/-- A launch without its race count and its saved image. -/
def bareLaunch (l : Launch) : Launch := { l with races := 0, saved := none }

/-- What recalls keep of the machine: of the memory system all but bytes, marks, the directory, requests, the home order, the
count of performances and the race counts, and of regions and launches all that is likeness. -/
structure Alike (s t : State) : Prop where
  rest : t = { s with regions := t.regions, mem := t.mem, drv := t.drv, sched := t.sched, nextId := t.nextId }
  mem : t.mem = { s.mem with
    bytes := t.mem.bytes, poison := t.mem.poison, dir := t.mem.dir, reqs := t.mem.reqs, order := t.mem.order
    performs := t.mem.performs, race := t.mem.race }
  sched : t.sched = { s.sched with launches := t.sched.launches }
  bare : t.sched.launches.map bareLaunch = s.sched.launches.map bareLaunch
  regions : ∀ r, Option.Rel RegionLike (s.region? r) (t.region? r)
  launch : ∀ l, Option.Rel LaunchLike (s.sched.launch? l) (t.sched.launch? l)
  wf : Memory.wf s.mem.bytes = true → Memory.wf t.mem.bytes = true

theorem Alike.trans {s t u : State} (h : Alike s t) (k : Alike t u) : Alike s u where
  rest := by rw [k.rest, h.rest]
  mem := by rw [k.mem, h.mem]
  sched := by rw [k.sched, h.sched]
  bare := k.bare.trans h.bare
  regions r := optRel_trans (fun _ _ _ => .trans) (h.regions r) (k.regions r)
  launch l := optRel_trans (fun _ _ _ => .trans) (h.launch l) (k.launch l)
  wf hw := k.wf (h.wf hw)

/-- A change of the memory system and of declarations alone. -/
theorem alike_of_mem {s t : State} (rest : t = { s with mem := t.mem, drv := t.drv })
    (mem : t.mem = { s.mem with
      bytes := t.mem.bytes, poison := t.mem.poison, dir := t.mem.dir, reqs := t.mem.reqs, order := t.mem.order
      performs := t.mem.performs, race := t.mem.race })
    (wf : Memory.wf s.mem.bytes = true → Memory.wf t.mem.bytes = true) : Alike s t := by
  refine ⟨?_, mem, ?_, ?_, fun r => ?_, fun l => ?_, wf⟩
  all_goals rw [rest]
  · exact optRel_refl .refl (s.region? r)
  · exact optRel_refl .refl _

theorem Alike.refl (s : State) : Alike s s := alike_of_mem rfl rfl id

/-- A fold of changes. -/
theorem alike_foldl {α : Type} {f : State → α → State} (h : ∀ s x, Alike s (f s x)) (l : List α) (s : State) :
    Alike s (l.foldl f s) := by
  induction l generalizing s with
  | nil => exact .refl s
  | cons x l ih => exact (h s x).trans (ih _)

theorem alike_dir (s : State) (line : Nat) (d : DirEnt) : Alike s { s with mem := s.mem.setDir line d } :=
  alike_of_mem rfl rfl id

theorem alike_reqs (s : State) (l : List Access) : Alike s { s with mem := { s.mem with reqs := l } } := alike_of_mem rfl rfl id

theorem alike_homeWrite (s : State) (pa : Nat) (bs : List Byte) : Alike s (s.homeWrite pa bs) :=
  alike_of_mem rfl rfl homeWrite_wf

/-- A change of a region's graph. -/
theorem alike_setGraph {s : State} {r : Nat} {reg : Region} {g h : GraphSt} (hr : s.region? r = some reg) (hg : reg.g = some g)
    (hlike : GraphLike g h) : Alike s (s.setGraph r h) := by
  have hset : s.setGraph r h = s.setRegion r { reg with g := some h } := by
    rw [State.setGraph, State.modRegion, hr]
  rw [hset]
  refine ⟨rfl, rfl, rfl, rfl, fun j => ?_, fun l => optRel_refl .refl _, id⟩
  refine optRel_set .refl hr ?_ j
  rw [RegionLike, hg]
  exact .some hlike

theorem launch?_modLaunch_map (d : SchedSt) (l k : Nat) (f : Launch → Launch) (hf : ∀ y, (f y).id = y.id) :
    (d.modLaunch l f).launch? k = (d.launch? k).map fun x => if x.id = l then f x else x := by
  have hp : ((fun x : Launch => x.id == k) ∘ fun x => if x.id = l then f x else x) = fun x => x.id == k := by
    funext x
    dsimp only [Function.comp_apply]
    split
    · rw [hf]
    · rfl
  rw [SchedSt.launch?, SchedSt.modLaunch, List.find?_map, hp]
  rfl

/-- A change of a launch's race count and saved image. -/
theorem alike_modLaunch {s : State} {l : Nat} {f : Launch → Launch} (hid : ∀ y, (f y).id = y.id)
    (hbare : ∀ y, bareLaunch (f y) = bareLaunch y) (hlike : ∀ x, s.sched.launch? l = some x → LaunchLike x (f x)) :
    Alike s { s with sched := s.sched.modLaunch l f } := by
  refine ⟨rfl, rfl, rfl, ?_, fun j => optRel_refl .refl _, fun k => ?_, id⟩
  · simp only [SchedSt.modLaunch, List.map_map]
    refine List.map_congr_left fun x _ => ?_
    dsimp only [Function.comp_apply]
    split
    · exact hbare x
    · rfl
  · rw [launch?_modLaunch_map _ _ _ _ hid]
    cases hk : s.sched.launch? k with
    | none => exact .none
    | some x =>
      refine .some ?_
      dsimp only
      split
      · rename_i hx
        have hxk : x.id = k := by simpa using List.find?_some hk
        exact hlike x (by rw [← hx, hxk, hk])
      · exact .refl x

/-! ### The graph of a launch and its windows -/

/-- Where the configured graph of a launch stands. -/
theorem graphOf_eq_some {s : State} {l : Nat} {r : Option Nat} {g : GraphSt} (h : s.graphOf l = some (r, g)) :
    ∃ x, s.sched.launch? l = some x ∧ x.region = r ∧
      ((r = none ∧ x.saved = some g) ∨ ∃ k reg, r = some k ∧ s.region? k = some reg ∧ reg.g = some g) := by
  rw [State.graphOf] at h
  split at h
  · cases h
  · rename_i x hx
    refine ⟨x, hx, ?_⟩
    split at h
    · rename_i k hk
      split at h
      · rename_i reg hreg
        obtain ⟨g', hg', he⟩ := Option.map_eq_some_iff.mp h
        cases he
        exact ⟨hk, .inr ⟨k, reg, rfl, hreg, hg'⟩⟩
      · cases h
    · rename_i hk
      obtain ⟨g', hg', he⟩ := Option.map_eq_some_iff.mp h
      cases he
      exact ⟨hk, .inl ⟨rfl, hg'⟩⟩

theorem alike_setGraphOf {s : State} {l : Nat} {r : Option Nat} {g h : GraphSt} (hg : s.graphOf l = some (r, g))
    (hlike : GraphLike g h) : Alike s (s.setGraphOf l r h) := by
  obtain ⟨x, hx, -, ⟨rfl, hsaved⟩ | ⟨k, reg, rfl, hreg, hgr⟩⟩ := graphOf_eq_some hg
  · refine alike_modLaunch (fun _ => rfl) (fun _ => rfl) fun y hy => ?_
    obtain rfl : x = y := Option.some.inj (hx.symm.trans hy)
    exact ⟨rfl, rfl, by rw [hsaved]; exact .some hlike⟩
  · exact alike_setGraph hreg hgr hlike

theorem setGraphOf_mem (s : State) (l : Nat) (r : Option Nat) (g : GraphSt) : (s.setGraphOf l r g).mem = s.mem := by
  cases r with
  | none => rfl
  | some k => exact (aside_setGraph s k g).mem

theorem Alike.graphOf {s t : State} (h : Alike s t) (l : Nat) :
    Option.Rel (fun a b : Option Nat × GraphSt => GraphLike a.2 b.2) (s.graphOf l) (t.graphOf l) := by
  have hl := h.launch l
  rw [State.graphOf, State.graphOf]
  cases hs : s.sched.launch? l with
  | none =>
    rw [hs] at hl
    cases ht : t.sched.launch? l with
    | none => exact .none
    | some y => rw [ht] at hl; cases hl
  | some x =>
    obtain ⟨y, hy, -, hregion, hsaved⟩ := optRel_some hl hs
    rw [hy]
    dsimp only
    rw [hregion]
    cases x.region with
    | some r =>
      dsimp only
      have hr := h.regions r
      generalize s.region? r = a at hr ⊢
      generalize t.region? r = b at hr ⊢
      cases hr with
      | none => exact .none
      | some hreg =>
        rename_i p q
        rw [RegionLike] at hreg
        dsimp only
        generalize p.g = a at hreg ⊢
        generalize q.g = b at hreg ⊢
        cases hreg with
        | none => exact .none
        | some hg => exact .some hg
    | none =>
      dsimp only
      generalize x.saved = a at hsaved ⊢
      generalize y.saved = b at hsaved ⊢
      cases hsaved with
      | none => exact .none
      | some hg => exact .some hg

/-- The window state of a registered window, where its element stands. -/
theorem windowSt?_eq_some {s : State} {l e : Nat} {x : SSt} :
    s.windowSt? l e = some x ↔ ∃ r g el, s.graphOf l = some (r, g) ∧ g.elems[e]? = some el ∧ el.ks = .s x := by
  rw [State.windowSt?]
  constructor
  · intro h
    split at h
    · rename_i r g hg
      split at h
      · rename_i st hst
        obtain ⟨el, hel, hks⟩ := Option.map_eq_some_iff.mp hst
        cases h
        exact ⟨r, g, el, hg, hel, hks⟩
      · cases h
    · cases h
  · rintro ⟨r, g, el, hg, hel, hks⟩
    simp only [hg, hel, Option.map_some, hks]

theorem Alike.windowSt? {s t : State} (h : Alike s t) {l e : Nat} {y : SSt} (hy : t.windowSt? l e = some y) :
    ∃ x, s.windowSt? l e = some x ∧ WinLike x y := by
  obtain ⟨r, g, el, hg, hel, hks⟩ := windowSt?_eq_some.mp hy
  obtain ⟨⟨r', g'⟩, hg', hlike⟩ := optRel_of_some (h.graphOf l) hg
  obtain ⟨el', hel', hell⟩ := optRel_of_some (hlike e) hel
  have hk := hell.ks
  rw [hks] at hk
  obtain ⟨x, hx, hxy⟩ := hk.s_right
  exact ⟨x, windowSt?_eq_some.mpr ⟨r', g', el', hg', hel', hx⟩, hxy⟩

/-- No recall makes a word dirty. -/
theorem Alike.recallWords {s t : State} (h : Alike s t) {line : Nat} {m : WinMask} {k : Nat × Nat}
    (hk : k ∈ t.recallWords line m) : k ∈ s.recallWords line m := by
  rw [State.recallWords] at hk
  split at hk
  · rename_i y hy
    obtain ⟨x, hx, hwin, -, hdirty⟩ := h.windowSt? hy
    rw [hwin] at hk
    rw [State.recallWords, hx]
    obtain ⟨hmem, hd⟩ := List.mem_filter.mp hk
    refine List.mem_filter.mpr ⟨hmem, ?_⟩
    exact List.contains_iff_mem.mpr (hdirty _ (List.contains_iff_mem.mp hd))
  · cases hk

theorem Alike.homeCheck {s t : State} (h : Alike s t) (ctx pa n : Nat) (st : Bool) :
    t.mem.homeCheck ctx pa n st = s.mem.homeCheck ctx pa n st := by
  rw [h.mem]
  rfl

/-! ### Recalls -/

/-- The write of one word home, where it passes the checks of the home (R256, R309). -/
def wordHome (line ctx : Nat) (val : Nat → List Byte) (s : State) (k : Nat × Nat) : State :=
  match s.mem.homeCheck ctx (64 * line + 4 * k.1) 4 true with
  | some _ => s
  | none => s.homeWrite (64 * line + 4 * k.1) (val k.2)

/-- The bytes of a word of a window. -/
def wordOf (sram : List (Nat × Word)) (off : Nat) : List Byte := leBytes 4 (sget 0 sram (off / 4)).toNat

theorem length_wordOf (sram : List (Nat × Word)) (off : Nat) : (wordOf sram off).length = 4 := rfl

/-- A recall takes the words out of the window, and then writes home those that were dirty. -/
theorem recallOne_eq (s : State) (line : Nat) (m : WinMask) :
    ∃ (base : State) (ctx : Nat) (sram : List (Nat × Word)) (l : List (Nat × Nat)), Alike s base ∧ base.mem.bytes = s.mem.bytes ∧
      (∀ k, k ∈ l → k ∈ s.recallWords line m) ∧ s.recallOne line m = l.foldl (wordHome line ctx (wordOf sram)) base := by
  obtain ⟨d, hd⟩ : ∃ d, d = { s.mem.dirAt line with
      windows := (s.mem.dirAt line).windows.filter fun y => !(y.l == m.l && y.e == m.e && y.w == m.w) } := ⟨_, rfl⟩
  obtain ⟨s0, h0⟩ : ∃ s0, s0 = { s with mem := s.mem.setDir line d } := ⟨_, rfl⟩
  have halike : Alike s s0 := h0 ▸ alike_dir s line d
  have hbytes : s0.mem.bytes = s.mem.bytes := by rw [h0]; rfl
  have hwords : s0.recallWords line m = s.recallWords line m := by rw [h0]; rfl
  rw [State.recallOne, ← hd]
  dsimp only
  rw [← h0]
  have hnone : ∃ (base : State) (ctx : Nat) (sram : List (Nat × Word)) (l : List (Nat × Nat)), Alike s base ∧ base.mem.bytes = s.mem.bytes ∧
      (∀ k, k ∈ l → k ∈ s.recallWords line m) ∧ s0 = l.foldl (wordHome line ctx (wordOf sram)) base :=
    ⟨s0, 0, [], [], halike, hbytes, fun _ hk => absurd hk List.not_mem_nil, rfl⟩
  split
  · rename_i r g x hg hx
    split
    · exact hnone
    · rename_i el hel
      split
      · rename_i st hst
        have hkeep (h : GraphSt) : (s0.setGraphOf m.l r h).mem.bytes = s0.mem.bytes :=
          congrArg MemSt.bytes (setGraphOf_mem s0 m.l r h)
        refine ⟨_, x.ctx, st.sram, s0.recallWords line m, ?_, ?_, fun k hk => hwords ▸ hk, rfl⟩
        · refine halike.trans (Alike.trans (alike_setGraphOf hg (graphLike_setElem hel ?_)) (alike_reqs _ _))
          refine ⟨rfl, rfl, rfl, rfl, rfl, ?_⟩
          rw [hst]
          exact .win ⟨rfl, rfl, fun k hk => (List.mem_filter.mp hk).1⟩
        · rw [← hbytes]
          exact hkeep _
      · exact hnone
  · exact hnone

theorem alike_wordHome (line ctx : Nat) (val : Nat → List Byte) (s : State) (k : Nat × Nat) :
    Alike s (wordHome line ctx val s k) := by
  rw [wordHome]
  split
  · exact .refl s
  · exact alike_homeWrite s _ _

theorem alike_recallOne (s : State) (line : Nat) (m : WinMask) : Alike s (s.recallOne line m) := by
  obtain ⟨base, ctx, sram, l, hbase, -, -, he⟩ := recallOne_eq s line m
  rw [he]
  exact hbase.trans (alike_foldl (alike_wordHome line ctx _) l base)

/-- The words that a recall writes home change no byte outside them. -/
theorem wordsHome_outside {line ctx : Nat} {sram : List (Nat × Word)} {b : Nat} (l : List (Nat × Nat)) (s : State)
    (hwf : Memory.wf s.mem.bytes = true) (hb : ∀ k, k ∈ l → b < 64 * line + 4 * k.1 ∨ 64 * line + 4 * k.1 + 4 ≤ b) :
    readByte (l.foldl (wordHome line ctx (wordOf sram)) s).mem.bytes b = readByte s.mem.bytes b := by
  induction l generalizing s with
  | nil => rfl
  | cons k l ih =>
    have hstep : readByte (wordHome line ctx (wordOf sram) s k).mem.bytes b = readByte s.mem.bytes b := by
      rw [wordHome]
      split
      · rfl
      · exact readByte_writeBytes_outside hwf (by
          rw [length_wordOf]
          exact hb k List.mem_cons_self)
    rw [List.foldl_cons, ih _ ((alike_wordHome line ctx _ s k).wf hwf) fun j hj => hb j (List.mem_cons_of_mem _ hj), hstep]

theorem recallOne_outside {s : State} {line b : Nat} {m : WinMask} (hwf : Memory.wf s.mem.bytes = true)
    (hb : ∀ k, k ∈ s.recallWords line m → b < 64 * line + 4 * k.1 ∨ 64 * line + 4 * k.1 + 4 ≤ b) :
    readByte (s.recallOne line m).mem.bytes b = readByte s.mem.bytes b := by
  obtain ⟨base, ctx, sram, l, hbase, hbytes, hl, he⟩ := recallOne_eq s line m
  rw [he, wordsHome_outside l base (hbase.wf hwf) fun k hk => hb k (hl k hk), hbytes]

/-- The recalls of several windows change no byte outside the words that are dirty in them. -/
theorem recalls_outside {line b : Nat} (l : List WinMask) (s : State) (hwf : Memory.wf s.mem.bytes = true)
    (hb : ∀ m k, m ∈ l → k ∈ s.recallWords line m → b < 64 * line + 4 * k.1 ∨ 64 * line + 4 * k.1 + 4 ≤ b) :
    readByte (l.foldl (fun s m => s.recallOne line m) s).mem.bytes b = readByte s.mem.bytes b := by
  induction l generalizing s with
  | nil => rfl
  | cons m l ih =>
    have halike := alike_recallOne s line m
    rw [List.foldl_cons, ih _ (halike.wf hwf) fun j k hj hk => hb j k (List.mem_cons_of_mem _ hj) (halike.recallWords hk),
      recallOne_outside hwf fun k hk => hb m k List.mem_cons_self hk]

theorem mem_insertBy {α : Type} {key : α → Nat} {x y : α} {l : List α} : y ∈ insertBy key x l ↔ y = x ∨ y ∈ l := by
  induction l with
  | nil => simp [insertBy]
  | cons z l ih =>
    rw [insertBy]
    split
    · simp
    · simp only [List.mem_cons, ih]
      tauto

theorem mem_sortBy {α : Type} {key : α → Nat} {y : α} {l : List α} : y ∈ sortBy key l ↔ y ∈ l := by
  induction l with
  | nil => simp [sortBy]
  | cons z l ih =>
    have hcons : sortBy key (z :: l) = insertBy key z (sortBy key l) := rfl
    rw [hcons, mem_insertBy, ih, List.mem_cons]

theorem mem_otherWindows {s : State} {line : Nat} {but : Option (Nat × Nat × Nat)} {m : WinMask} :
    m ∈ s.otherWindows line but ↔ m ∈ (s.mem.dirAt line).windows ∧ some (m.l, m.e, m.w) ≠ but := by
  rw [State.otherWindows, mem_sortBy, List.mem_filter, bne_iff_ne]

/-- No window traps at the recall of a line exactly where each one's words pass. -/
theorem recallTraps_eq_nil {s : State} {line : Nat} {but : Option (Nat × Nat × Nat)} :
    s.recallTraps line but = [] ↔ ∀ m, m ∈ s.otherWindows line but → s.recallTrap? line m = none := by
  rw [List.eq_nil_iff_forall_not_mem, State.recallTraps]
  simp only [mem_sortBy, List.mem_filterMap, Option.map_eq_some_iff, not_exists, not_and]
  constructor
  · intro h m hm
    cases ht : s.recallTrap? line m with
    | none => rfl
    | some k => exact absurd rfl (h _ m hm k ht)
  · intro h x m hm k hk
    rw [h m hm] at hk
    cases hk

/-- Where words pass the checks in one state, they pass in one that is alike. -/
theorem Alike.recallTrap? {s t : State} (h : Alike s t) {line : Nat} {m : WinMask} (hs : s.recallTrap? line m = none) :
    t.recallTrap? line m = none := by
  rw [State.recallTrap?, Option.bind_eq_none_iff] at hs ⊢
  intro y hy
  obtain ⟨x, hx, hctx, -, -⟩ := optRel_of_some (h.launch m.l) hy
  have hpass := hs x hx
  rw [List.findSome?_eq_none_iff] at hpass ⊢
  intro k hk
  have hk' := hpass k (h.recallWords hk)
  rw [hctx]
  exact (h.homeCheck _ _ _ _).trans hk'

/-- A recall of windows none of which traps. -/
theorem recallWindows_quiet {s : State} {line : Nat} {but : Option (Nat × Nat × Nat)} (h : s.recallTraps line but = []) :
    s.recallWindows line but = (s.otherWindows line but).foldl (fun s m => s.recallOne line m) s := by
  rw [State.recallWindows, h]
  rfl

theorem alike_countRace (s : State) (line : Nat) (l : Option Nat) : Alike s (s.countRace line l) := by
  cases l with
  | none => exact alike_of_mem rfl rfl id
  | some l =>
    refine Alike.trans (t := s.countRace line none) (alike_of_mem rfl rfl id) ?_
    exact alike_modLaunch (s := s.countRace line none) (fun _ => rfl) (fun _ => rfl) fun x _ =>
      ⟨rfl, rfl, optRel_refl .refl _⟩

end Sys2Proof.Proofs.Recalling
end

section
/-! What STW leaves alone (R269, R305, R309): it writes its window, and the words of its line that other windows have stored
come home. -/

namespace Sys2Proof.Proofs.Recalling

open Sys2Proof Sys2Proof.Machine Sys2Proof.Proofs.ControlRuns Sys2Proof.Proofs.EventRuns Sys2Proof.Proofs.MemoryRuns
  Sys2Proof.Proofs.Storing

/-! ### The home's part of a window store -/

section
variable {s : State} {mt pa n launch e w : Nat} {mask : BitVec 16}

theorem alike_recallWindows {line : Nat} {but : Option (Nat × Nat × Nat)} (h : s.recallTraps line but = []) :
    Alike s (s.recallWindows line but) := by
  rw [recallWindows_quiet h]
  exact alike_foldl (fun s m => alike_recallOne s line m) _ s

/-- A recall that the words need, where it is quiet. -/
theorem alike_overlapRecall {but : Option (Nat × Nat × Nat)} {l : Option Nat} (h : mt ≠ 1 → s.recallTraps (pa / 64) but = []) :
    Alike s (s.overlapRecall mt pa n but l) := by
  rw [State.overlapRecall]
  split
  · exact .refl s
  · rename_i hmt
    have hne : mt ≠ 1 := fun h1 => hmt (by rw [decide_eq_true h1, Bool.true_or])
    split
    · exact (alike_recallWindows (h hne)).trans (alike_countRace _ _ _)
    · exact .refl s

theorem alike_claim (h : mt ≠ 1 → s.recallTraps (pa / 64) (some (launch, e, w)) = []) :
    Alike s (s.claim mt pa n launch e w mask) := (alike_overlapRecall h).trans (alike_dir _ _ _)

theorem countRace_bytes (s : State) (line : Nat) (l : Option Nat) : (s.countRace line l).mem.bytes = s.mem.bytes := by
  cases l <;> rfl

/-- A claim changes no byte outside the words that it recalls. -/
theorem claim_outside {b : Nat} (hwf : Memory.wf s.mem.bytes = true)
    (h : s.recallTraps (pa / 64) (some (launch, e, w)) = [])
    (hb : ∀ m k, m ∈ s.otherWindows (pa / 64) (some (launch, e, w)) → k ∈ s.recallWords (pa / 64) m →
      b < 64 * (pa / 64) + 4 * k.1 ∨ 64 * (pa / 64) + 4 * k.1 + 4 ≤ b) :
    readByte (s.claim mt pa n launch e w mask).mem.bytes b = readByte s.mem.bytes b := by
  have hregister : (s.claim mt pa n launch e w mask).mem.bytes =
      (s.overlapRecall mt pa n (some (launch, e, w)) (some launch)).mem.bytes := rfl
  rw [hregister, State.overlapRecall]
  split
  · rfl
  · split
    · rw [countRace_bytes, recallWindows_quiet h]
      exact recalls_outside _ s hwf hb
    · rfl

/-- A claim of words that no other window has stored recalls nothing. -/
theorem claim_apart (h : s.mem.overlaps (pa / 64) (wordMask pa n) (some (launch, e, w)) = false) :
    s.claim mt pa n launch e w mask = s.register (pa / 64) launch e w mask mask := by
  rw [State.claim, State.overlapRecall, h, if_neg Bool.false_ne_true, ite_self]

end

/-! ### What a window store sends home -/

section
variable {s : State} {c : Ctx} {id fid off n : Nat} {win : Window} {w : Fin 8}

/-- The recall of the line of a window's word traps no window, where the word is of a registered page. -/
def QuietRecall (s : State) (win : Window) (off : Nat) (but : Option (Nat × Nat × Nat)) : Prop :=
  ∀ a, win.page? (win.vaAt off) = some a → a.mt ≠ 1 → s.recallTraps (a.pa / 64) but = []

/-- A window store sends nothing home, claims its words at once, or leaves a request. -/
theorem storeMasks_cases (s : State) (c : Ctx) (id fid : Nat) (win : Window) (w : Fin 8) (off n : Nat) :
    s.storeMasks c id fid win w off n = s ∨
      ∃ a, win.page? (win.vaAt off) = some a ∧ a.mt ≠ 1 ∧
        (s.storeMasks c id fid win w off n = s.claim a.mt a.pa n c.reg.launch c.e w.val (wordMask a.pa n) ∨
          ∃ (d : List (Nat × DirEnt)) (q : List Access),
            s.storeMasks c id fid win w off n = { s with mem := { s.mem with dir := d, reqs := q } }) := by
  rw [State.storeMasks]
  split
  · exact .inl rfl
  · rename_i a ha
    dsimp only
    split
    · exact .inl rfl
    · rename_i hmt
      refine .inr ⟨a, ha, hmt, ?_⟩
      split
      · exact .inl rfl
      · refine .inr ?_
        split
        · exact ⟨_, _, rfl⟩
        · exact ⟨_, _, rfl⟩

theorem alike_storeMasks (h : QuietRecall s win off (some (c.reg.launch, c.e, w.val))) :
    Alike s (s.storeMasks c id fid win w off n) := by
  rcases storeMasks_cases s c id fid win w off n with he | ⟨a, ha, hmt, he | ⟨d, q, he⟩⟩ <;> rw [he]
  · exact .refl s
  · exact alike_claim (h a ha)
  · exact alike_of_mem rfl rfl fun hwf => hwf

theorem storeMasks_outside {b : Nat} (hwf : Memory.wf s.mem.bytes = true)
    (h : QuietRecall s win off (some (c.reg.launch, c.e, w.val)))
    (hb : ∀ a m k, win.page? (win.vaAt off) = some a → a.mt ≠ 1 →
      m ∈ s.otherWindows (a.pa / 64) (some (c.reg.launch, c.e, w.val)) → k ∈ s.recallWords (a.pa / 64) m →
      b < 64 * (a.pa / 64) + 4 * k.1 ∨ 64 * (a.pa / 64) + 4 * k.1 + 4 ≤ b) :
    readByte (s.storeMasks c id fid win w off n).mem.bytes b = readByte s.mem.bytes b := by
  rcases storeMasks_cases s c id fid win w off n with he | ⟨a, ha, hmt, he | ⟨d, q, he⟩⟩ <;> rw [he]
  exact claim_outside hwf (h a ha hmt) fun m k hm hk => hb a m k ha hmt hm hk

/-- Where no other window has stored a word of the store, only the directory and the requests change. -/
theorem storeMasks_apart (h : ∀ a, win.page? (win.vaAt off) = some a →
      a.mt = 1 ∨ s.mem.overlaps (a.pa / 64) (wordMask a.pa n) (some (c.reg.launch, c.e, w.val)) = false) :
    ∃ (d : List (Nat × DirEnt)) (q : List Access),
      s.storeMasks c id fid win w off n = { s with mem := { s.mem with dir := d, reqs := q } } := by
  rcases storeMasks_cases s c id fid win w off n with he | ⟨a, ha, hmt, he | he⟩
  · exact ⟨s.mem.dir, s.mem.reqs, he⟩
  · rw [claim_apart ((h a ha).resolve_left hmt)] at he
    exact ⟨_, s.mem.reqs, he⟩
  · exact he

end

/-! ### What the firing leaves of the machine -/

/-- What STW leaves alone in every element: registers, predicates and record, and, but in its own, the tokens. -/
def Kindred (r e : Nat) (s t : State) : Prop :=
  ∀ q p d, s.at? q p 0 = some d → ∃ z, t.at? q p 0 = some z ∧ z.el.d = d.el.d ∧ z.el.p = d.el.p ∧ z.el.img = d.el.img ∧
    (¬ (q = r ∧ p = e) → z.el.ins = d.el.ins ∧ z.el.outs = d.el.outs)

/-- What STW leaves of the machine. -/
structure Stays (r e : Nat) (s t : State) : Prop where
  rest : t = { s with regions := t.regions, mem := t.mem, drv := t.drv, sched := t.sched, nextId := t.nextId }
  mem : t.mem = { s.mem with
    bytes := t.mem.bytes, poison := t.mem.poison, dir := t.mem.dir, reqs := t.mem.reqs, order := t.mem.order
    performs := t.mem.performs, race := t.mem.race }
  sched : t.sched = { s.sched with launches := t.sched.launches }
  bare : t.sched.launches.map bareLaunch = s.sched.launches.map bareLaunch
  elems : Kindred r e s t

section
variable {r e : Nat} {s t u : State}

theorem Stays.trans (h : Stays r e s t) (k : Stays r e t u) : Stays r e s u where
  rest := by rw [k.rest, h.rest]
  mem := by rw [k.mem, h.mem]
  sched := by rw [k.sched, h.sched]
  bare := k.bare.trans h.bare
  elems q p d hd := by
    obtain ⟨z, hz, hd1, hp1, hi1, hins1⟩ := h.elems q p d hd
    obtain ⟨x, hx, hd2, hp2, hi2, hins2⟩ := k.elems q p z hz
    exact ⟨x, hx, hd2.trans hd1, hp2.trans hp1, hi2.trans hi1, fun hne =>
      ⟨(hins2 hne).1.trans (hins1 hne).1, (hins2 hne).2.trans (hins1 hne).2⟩⟩

/-- Where an element of a machine stands in one that is alike. -/
theorem Alike.at? (h : Alike s t) {q p k : Nat} {d : Ctx} (hd : s.at? q p k = some d) :
    ∃ z, t.at? q p k = some z ∧ ElemLike d.el z.el := by
  obtain ⟨hq, hp, -, hr, hg, he⟩ := at?_some hd
  subst hq hp
  obtain ⟨reg, hreg, hlike⟩ := optRel_some (h.regions d.r) hr
  obtain ⟨g, hg', hgl⟩ := optRel_some hlike hg
  obtain ⟨el, hel, hell⟩ := optRel_some (hgl d.e) he
  exact ⟨⟨d.r, d.e, k, reg, g, el⟩, by simp only [State.at?, hreg, hg', hel], hell⟩

theorem Alike.stays (h : Alike s t) : Stays r e s t := by
  refine ⟨h.rest, h.mem, h.sched, h.bare, fun q p d hd => ?_⟩
  · obtain ⟨z, hz, hlike⟩ := h.at? hd
    exact ⟨z, hz, hlike.d, hlike.p, hlike.img, fun _ => ⟨hlike.ins, hlike.outs⟩⟩

theorem put_frame (c : Ctx) (s : State) (el : Elem) : c.put s el = { s with regions := (c.put s el).regions } := by
  rw [Ctx.put, State.setGraph, State.modRegion]
  split <;> rfl

/-- Where the elements of a region stand once one of them is written. -/
theorem at?_put_other {c : Ctx} {k : Nat} (hc : s.at? c.r c.e k = some c) (el : Elem) {q p : Nat} {d : Ctx}
    (hd : s.at? q p 0 = some d) (hne : ¬ (q = c.r ∧ p = c.e)) : ∃ z, (c.put s el).at? q p 0 = some z ∧ z.el = d.el := by
  obtain ⟨-, -, -, hr, hg, -⟩ := at?_some hc
  by_cases hq : q = c.r
  · subst hq
    have hp : p ≠ c.e := fun hp => hne ⟨rfl, hp⟩
    obtain ⟨hdr, rfl, -, hreg, hdg, hde⟩ := at?_some hd
    rw [hdr, hr] at hreg
    rw [← Option.some.inj hreg, hg] at hdg
    rw [← Option.some.inj hdg] at hde
    refine ⟨⟨c.r, d.e, 0, { c.reg with g := some (c.g.setElem c.e el) }, c.g.setElem c.e el, d.el⟩, ?_, rfl⟩
    simp only [State.at?, put_region? hr, setElem_ne hp, hde]
  · exact ⟨d, by rw [at?_of_region (put_region?_ne hq el), hd], rfl⟩

/-- The element written, with its registers, predicates and record kept. -/
theorem stays_put {c : Ctx} {k : Nat} (hc : s.at? c.r c.e k = some c) {el : Elem} (hd : el.d = c.el.d) (hp : el.p = c.el.p)
    (hi : el.img = c.el.img) (n : Nat) : Stays c.r c.e s { c.put s el with nextId := n } := by
  have hput := put_frame c s el
  refine ⟨?_, ?_, ?_, ?_, fun q p d hat => ?_⟩
  · rw [hput]
  · rw [hput]
  · rw [hput]
  · rw [hput]
  · by_cases hown : q = c.r ∧ p = c.e
    · obtain ⟨rfl, rfl⟩ := hown
      have hel : d.el = c.el := by
        rw [at?_slot hc 0] at hat
        rw [← Option.some.inj hat]
      refine ⟨_, at?_put hc el 0, ?_, ?_, ?_, fun hne => absurd ⟨rfl, rfl⟩ hne⟩
      · rw [hel]; exact hd
      · rw [hel]; exact hp
      · rw [hel]; exact hi
    · obtain ⟨z, hz, hel⟩ := at?_put_other hc el hat hown
      exact ⟨z, hz, by rw [hel], by rw [hel], by rw [hel], fun _ => ⟨by rw [hel], by rw [hel]⟩⟩

/-- What the issue of an X form's firing makes of its element. -/
theorem issued_put (c : Ctx) (s : State) (srcs : List Src) (pop : BitVec 4) (o : List OutF) (a : List Access) :
    ∃ (x : Elem) (n : Nat), c.issued s srcs c.el pop 0 o a = { c.put s x with nextId := n } ∧ x.d = c.el.d ∧ x.p = c.el.p ∧
      x.img = c.el.img ∧ x.ks = c.el.ks := by
  refine ⟨_, _, rfl, ?_⟩
  obtain ⟨ins, perf, ep, pd, hpop⟩ := popAll_frame (c.el.withPw 0 false) s.cycle pop (readMask srcs)
  rw [hpop]
  exact ⟨rfl, rfl, rfl, rfl⟩

theorem stays_issued {c : Ctx} {k : Nat} (hc : s.at? c.r c.e k = some c) (srcs : List Src) (pop : BitVec 4) (o : List OutF)
    (a : List Access) : Stays c.r c.e s (c.issued s srcs c.el pop 0 o a) := by
  obtain ⟨x, n, he, hd, hp, hi, -⟩ := issued_put c s srcs pop o a
  rw [he]
  exact stays_put hc hd hp hi n

/-- The kind-specific state of the element after its issue. -/
theorem issued_ks {c : Ctx} {k : Nat} (hc : s.at? c.r c.e k = some c) (srcs : List Src) (pop : BitVec 4) (o : List OutF)
    (a : List Access) (j : Nat) : ∃ d, (c.issued s srcs c.el pop 0 o a).at? c.r c.e j = some d ∧ d.el.ks = c.el.ks := by
  obtain ⟨x, n, he, -, -, -, hks⟩ := issued_put c s srcs pop o a
  rw [he]
  exact ⟨_, at?_put hc x j, hks⟩

theorem issued_rest (c : Ctx) (s : State) (srcs : List Src) (pop : BitVec 4) (o : List OutF) (a : List Access) :
    (c.issued s srcs c.el pop 0 o a).mem = s.mem ∧ (c.issued s srcs c.el pop 0 o a).drv = s.drv ∧
      (c.issued s srcs c.el pop 0 o a).sched = s.sched := by
  obtain ⟨x, n, he, -⟩ := issued_put c s srcs pop o a
  rw [he, put_frame]
  exact ⟨rfl, rfl, rfl⟩

theorem storeWords_windows (x : SSt) (fid off : Nat) (bs : List Byte) : (x.storeWords fid off bs).windows = x.windows := by
  have hwrite : (x.write off bs).windows = x.windows := by
    rw [SSt.write]
    generalize bs.zipIdx = l
    induction l generalizing x with
    | nil => rfl
    | cons k l ih => rw [List.foldl_cons, ih]
  exact hwrite

/-! ### STW -/

/-- What STW leaves alone, without the bytes of memory: `y` is the window state with the words stored. -/
structure Stored (s : State) (c : Ctx) (x y : SSt) (t : State) : Prop where
  stays : Stays c.r c.e s t
  window : ∃ d v, t.at? c.r c.e c.slot = some d ∧ d.el.ks = .s v ∧ v.windows = x.windows ∧ (v.sram = x.sram ∨ v.sram = y.sram)

/-- A firing's context is that of its element. -/
theorem at?_of_ctx {c : Ctx} (hs : s.ctx? = some c) : s.at? c.r c.e c.slot = some c := by
  obtain ⟨hr, hg, he⟩ := ctx?_some hs
  simp only [State.at?, hr, hg, he]

/-- STW that only issues: a fill, or a wait behind earlier accesses. -/
theorem stored_issued {c : Ctx} (hs : s.ctx? = some c) {x y : SSt} (hks : c.el.ks = .s x) (srcs : List Src) (pop : BitVec 4)
    (o : List OutF) (a : List Access) : Stored s c x y (c.issued s srcs c.el pop 0 o a) := by
  have hc := at?_of_ctx hs
  refine ⟨stays_issued hc srcs pop o a, ?_⟩
  obtain ⟨d, hd, hdks⟩ := issued_ks hc srcs pop o a c.slot
  exact ⟨d, x, hd, hdks.trans hks, rfl, .inl rfl⟩

/-- A state that has drawn numbers and changed how its requests stand. -/
def Drawn (s t : State) : Prop :=
  t = { s with mem := t.mem, nextId := t.nextId } ∧ t.mem = { s.mem with performs := t.mem.performs, reqs := t.mem.reqs }

theorem Drawn.at? (h : Drawn s t) (q p k : Nat) : t.at? q p k = s.at? q p k := by
  rw [h.1]
  rfl

theorem Drawn.region? (h : Drawn s t) (q : Nat) : t.region? q = s.region? q := by
  rw [h.1]
  rfl

theorem stays_drawn (h : Drawn s t) : Stays r e s t := by
  obtain ⟨hrest, hmem⟩ := h
  refine ⟨?_, ?_, ?_, ?_, fun q p d hd => ⟨d, (Drawn.at? ⟨hrest, hmem⟩ q p 0).trans hd, rfl, rfl, rfl, fun _ => ⟨rfl, rfl⟩⟩⟩
  · rw [hrest]
  · rw [hmem]
  · rw [hrest]
  · rw [hrest]

/-- Two ways to write an element that are alike lead to states that are. -/
theorem alike_puts {c : Ctx} {k : Nat} (hc : s.at? c.r c.e k = some c) (h : Drawn s t) {a b : Elem} (hab : ElemLike a b) :
    Alike (c.put s a) (c.put t b) := by
  obtain ⟨-, -, -, hr, -, he⟩ := at?_some hc
  have hput := put_frame c s a
  have hput' := put_frame c t b
  refine ⟨?_, ?_, ?_, ?_, fun q => ?_, fun l => ?_, fun hwf => ?_⟩
  · rw [hput', hput]
    dsimp only
    rw [h.1]
  · rw [hput', hput]
    dsimp only
    rw [h.2]
  · rw [hput', hput]
    dsimp only
    rw [h.1]
  · rw [hput', hput]
    dsimp only
    rw [h.1]
  · by_cases hq : q = c.r
    · subst hq
      rw [put_region? hr, put_region? ((h.region? _).trans hr)]
      refine .some (.some fun p => ?_)
      by_cases hp : p = c.e
      · subst hp
        rw [setElem_same he, setElem_same he]
        exact .some hab
      · rw [setElem_ne hp, setElem_ne hp]
        exact optRel_refl .refl _
    · rw [put_region?_ne hq, put_region?_ne hq, h.region?]
      exact optRel_refl .refl _
  · rw [hput', hput]
    dsimp only
    rw [h.1]
    exact optRel_refl .refl _
  · rw [hput']
    rw [hput] at hwf
    dsimp only at hwf ⊢
    rw [h.2]
    exact hwf

theorem Alike.quietRecall {win : Window} {off : Nat} {but : Option (Nat × Nat × Nat)} (h : Alike s t)
    (hdir : t.mem.dir = s.mem.dir) (hq : QuietRecall s win off but) : QuietRecall t win off but := by
  intro a ha hmt
  have hs := recallTraps_eq_nil.mp (hq a ha hmt)
  refine recallTraps_eq_nil.mpr fun m hm => h.recallTrap? (hs m ?_)
  rw [mem_otherWindows, MemSt.dirAt, hdir] at hm
  exact mem_otherWindows.mpr hm

end

/-- What STW leaves of the bytes of memory, its marks, its home order, the declarations and the scheduler. -/
structure Undisturbed (s t : State) : Prop where
  bytes : t.mem.bytes = s.mem.bytes
  poison : t.mem.poison = s.mem.poison
  order : t.mem.order = s.mem.order
  drv : t.drv = s.drv
  sched : t.sched = s.sched

theorem Undisturbed.trans {s t u : State} (h : Undisturbed s t) (k : Undisturbed t u) : Undisturbed s u :=
  ⟨k.bytes.trans h.bytes, k.poison.trans h.poison, k.order.trans h.order, k.drv.trans h.drv, k.sched.trans h.sched⟩

theorem undisturbed_issued (c : Ctx) (s : State) (srcs : List Src) (pop : BitVec 4) (o : List OutF) (a : List Access) :
    Undisturbed s (c.issued s srcs c.el pop 0 o a) := by
  obtain ⟨hmem, hdrv, hsched⟩ := issued_rest c s srcs pop o a
  exact ⟨by rw [hmem], by rw [hmem], by rw [hmem], hdrv, hsched⟩

theorem undisturbed_put {s v : State} (h : Drawn s v) (c : Ctx) (el : Elem) : Undisturbed s (c.put v el) := by
  rw [put_frame]
  obtain ⟨hrest, hmem⟩ := h
  refine ⟨?_, ?_, ?_, ?_, ?_⟩
  · dsimp only
    rw [hmem]
  · dsimp only
    rw [hmem]
  · dsimp only
    rw [hmem]
  · dsimp only
    rw [hrest]
  · dsimp only
    rw [hrest]

/-- What STW leaves alone, with `u` the machine once its window is written, at a home address of its window. -/
structure StoredAt (s u : State) (c : Ctx) (x y : SSt) (win : Window) (off n : Nat) (but : Option (Nat × Nat × Nat)) (t : State) :
    Prop where
  stored : Stored s c x y t
  bytes : ∀ b, (∀ a m k, win.page? (win.vaAt off) = some a → a.mt ≠ 1 → m ∈ u.otherWindows (a.pa / 64) but →
      k ∈ u.recallWords (a.pa / 64) m → b < 64 * (a.pa / 64) + 4 * k.1 ∨ 64 * (a.pa / 64) + 4 * k.1 + 4 ≤ b) →
    readByte t.mem.bytes b = readByte s.mem.bytes b
  apart : (∀ a, win.page? (win.vaAt off) = some a →
      a.mt = 1 ∨ s.mem.overlaps (a.pa / 64) (wordMask a.pa n) but = false) → Undisturbed s t

/-- STW that only issues leaves all of memory alone. -/
theorem storedAt_issued {s u : State} {c : Ctx} (hs : s.ctx? = some c) {x y : SSt} (hks : c.el.ks = .s x) {win : Window}
    {off n : Nat} {but : Option (Nat × Nat × Nat)} (srcs : List Src) (pop : BitVec 4) (o : List OutF) (a : List Access) :
    StoredAt s u c x y win off n but (c.issued s srcs c.el pop 0 o a) := by
  have hkeep := undisturbed_issued c s srcs pop o a
  exact ⟨stored_issued hs hks srcs pop o a, fun b _ => by rw [hkeep.bytes], fun _ => hkeep⟩

section
variable {s v u : State} {c : Ctx} (hs : s.ctx? = some c) {x y : SSt} {el : Elem} (hv : Drawn s v)
  (hel : ElemLike { c.el with ks := .s y } el) (hu : u = c.put s { c.el with ks := .s y })
include hs hv hel hu

theorem alike_written : Alike u (c.put v el) ∧ (c.put v el).mem.dir = u.mem.dir := by
  refine ⟨hu ▸ alike_puts (at?_of_ctx hs) hv hel, ?_⟩
  rw [hu, put_frame c v, put_frame c s]
  dsimp only
  rw [hv.2]

/-- STW that writes its window (R269, R305, R309). -/
theorem storedAt_written {t : State} (hwf : Memory.wf s.mem.bytes = true) (hwin : y.windows = x.windows) {id fid off n : Nat}
    {win : Window} {w : Fin 8} {but : Option (Nat × Nat × Nat)} (hbut : but = some (c.reg.launch, c.e, w.val))
    (hquiet : QuietRecall u win off but) {srcs : List Src} {pop : BitVec 4} {o : List OutF} {a : List Access}
    (ht : t = ((((c.put v el).storeMasks c id fid win w off n).at? c.r c.e c.slot).map fun d =>
      d.issued ((c.put v el).storeMasks c id fid win w off n) srcs d.el pop 0 o a).getD
        ((c.put v el).storeMasks c id fid win w off n)) : StoredAt s u c x y win off n but t := by
  subst hbut
  have hcv : v.at? c.r c.e c.slot = some c := (hv.at? _ _ _).trans (at?_of_ctx hs)
  obtain ⟨halike, hdir⟩ := alike_written hs hv hel hu
  have hq := halike.quietRecall hdir hquiet
  have hmasks := alike_storeMasks (id := id) (fid := fid) (n := n) hq
  have hbefore := undisturbed_put hv c el
  obtain ⟨z, hz, hlike⟩ := hmasks.at? (at?_put hcv el c.slot)
  obtain ⟨hzr, hze, hzslot, -, -, -⟩ := at?_some hz
  have hzz : ((c.put v el).storeMasks c id fid win w off n).at? z.r z.e z.slot = some z := by rw [hzr, hze, hzslot, hz]
  rw [hz, Option.map_some, Option.getD_some] at ht
  have hafter := undisturbed_issued z ((c.put v el).storeMasks c id fid win w off n) srcs pop o a
  rw [← ht] at hafter
  refine ⟨⟨?_, ?_⟩, fun b hb => ?_, fun hapart => ?_⟩
  · refine ((stays_drawn hv).trans (stays_put hcv hel.d hel.p hel.img (c.put v el).nextId)).trans (hmasks.stays.trans ?_)
    have h := stays_issued hzz srcs pop o a
    rw [hzr, hze] at h
    rw [ht]
    exact h
  · obtain ⟨d, hd, hdks⟩ := issued_ks hzz srcs pop o a c.slot
    obtain ⟨q, hq, hqw, hqs, -⟩ := (hel.ks.trans hlike.ks).s_left
    rw [hzr, hze, ← ht] at hd
    exact ⟨d, q, hd, hdks.trans hq, hqw.trans hwin, .inr hqs⟩
  · rw [hafter.bytes, storeMasks_outside (hbefore.bytes ▸ hwf) hq fun p m k hp hmt hm hk => hb p m k hp hmt ?_
      (halike.recallWords hk), hbefore.bytes]
    rw [mem_otherWindows, MemSt.dirAt, hdir] at hm
    exact mem_otherWindows.mpr hm
  · have hdir' : (c.put v el).mem.dir = s.mem.dir := by
      rw [hdir, hu, put_frame]
    have hover (p : AddrWord) : (c.put v el).mem.overlaps (p.pa / 64) (wordMask p.pa n) (some (c.reg.launch, c.e, w.val)) =
        s.mem.overlaps (p.pa / 64) (wordMask p.pa n) (some (c.reg.launch, c.e, w.val)) := by
      rw [MemSt.overlaps, MemSt.overlaps, MemSt.dirAt, MemSt.dirAt, hdir']
    obtain ⟨d, q, he⟩ := storeMasks_apart (id := id) (fid := fid) (s := c.put v el) (c := c) (w := w)
      fun p hp => (hapart p hp).imp_right (hover p).trans
    have hmid : Undisturbed (c.put v el) ((c.put v el).storeMasks c id fid win w off n) := by
      rw [he]
      exact ⟨rfl, rfl, rfl, rfl, rfl⟩
    exact (hbefore.trans hmid).trans hafter

end

/-- What STW leaves alone. -/
theorem windowStoresStayInTheWindow : WindowStoresStayInTheWindow := by
  intro s t u c f x y w off n win but hs hwf hks hclean hw hwin hbut hy hu hquiet hexec
  obtain ⟨out, hout⟩ : ∃ out, out = { c.out s 0xD3 with
    va := BitVec.ofNat 64 ((x.windows.get w).vaAt off), cmp := cmpOf f.cnt, arg := c.src 0 f.sa, arg2 := c.src 0 f.sb } :=
    ⟨_, rfl⟩
  have hstored : StoredAt s u c x y win off n but t := by
    by_cases hfill : x.needsFill true off n = true
    · rw [stw_fills hs hks hclean hw hout hfill] at hexec
      cases Host.Outcome.next.inj hexec
      exact storedAt_issued hs hks _ _ _ _
    · cases hbusy : c.el.wordsBusy (wordsOf off n) with
      | true =>
        rw [stw_waits hs hks hclean hw hout hfill hbusy] at hexec
        cases Host.Outcome.next.inj hexec
        exact storedAt_issued hs hks _ _ _ _
      | false =>
        rw [stw_writes hs hks hclean hw hout hfill hbusy rfl rfl rfl rfl, ← hwin, ← hy] at hexec
        refine storedAt_written hs ⟨?_, ?_⟩ ?_ hu hwf (hy ▸ storeWords_windows _ _ _ _) hbut hquiet
          (Host.Outcome.next.inj hexec).symm
        · rfl
        · rfl
        · exact ⟨rfl, rfl, rfl, rfl, rfl, .same _⟩
  obtain ⟨⟨hstays, hwindow⟩, hbytes, hapart⟩ := hstored
  exact ⟨hstays.rest, hstays.mem, hstays.sched, hstays.bare, hbytes, fun h => ⟨(hapart h).bytes, (hapart h).poison,
    (hapart h).order, (hapart h).drv, (hapart h).sched⟩, hstays.elems, hwindow⟩

end Sys2Proof.Proofs.Recalling

namespace Sys2Proof.Proofs

/-- Settles O57: STW stays in its window but for the words that it recalls, and every other firing of the opcodes from 0xD0 on
stores nothing but an A bit. -/
theorem memoryFiringsStoreNothing : Obligations.MemoryFiringsStoreNothing :=
  ⟨Storing.otherMemoryFiringsStoreNothing, Recalling.windowStoresStayInTheWindow⟩

end Sys2Proof.Proofs
end

section
/-! R119, R122, R139, R140: what the assembler writes, what it reports, and what a graph without a bad line passes. -/

namespace Sys2Proof.Proofs.Assembling

open Sys2Proof Sys2Proof.Machine Sys2Proof.Laws

/-! ### The graphs of a source, in order -/

/-- What foras writes for a graph. -/
def written (g : AsmGraph) : AsmOut := ⟨g.name, g.image, g.template⟩

theorem checkGraphs_ok {gs : List AsmGraph} {outs : List AsmOut} :
    checkGraphs gs = .ok outs ↔ (∀ g ∈ gs, g.badLine? = none) ∧ outs = gs.map written := by
  induction gs generalizing outs with
  | nil => simp [checkGraphs, eq_comm]
  | cons g gs ih =>
    cases hg : g.badLine? with
    | some n => simp [checkGraphs_cons_some g gs n hg, hg]
    | none =>
      rw [checkGraphs_cons_none g gs hg]
      cases hgs : checkGraphs gs with
      | error n =>
        have hbad : ¬ ∀ x ∈ gs, x.badLine? = none := fun h =>
          nomatch (hgs.symm.trans (ih.mpr ⟨h, rfl⟩) : Except.error n = Except.ok (gs.map written))
        simp [Except.map, hg, hbad]
      | ok l =>
        obtain ⟨hall, rfl⟩ := ih.mp hgs
        simp only [Except.map, Except.ok.injEq, List.forall_mem_cons, hg, true_and, List.map_cons]
        exact ⟨fun h => ⟨hall, h.symm⟩, fun h => h.2.symm⟩

theorem checkGraphs_error {gs : List AsmGraph} {n : Nat} :
    checkGraphs gs = .error n ↔
      ∃ before g after, gs = before ++ g :: after ∧ (∀ x ∈ before, x.badLine? = none) ∧ g.badLine? = some n := by
  induction gs with
  | nil => simp [checkGraphs]
  | cons g gs ih =>
    cases hg : g.badLine? with
    | some k =>
      rw [checkGraphs_cons_some g gs k hg, Except.error.injEq]
      constructor
      · rintro rfl
        exact ⟨[], g, gs, rfl, fun _ h => absurd h List.not_mem_nil, hg⟩
      · rintro ⟨before, x, after, hsplit, hbefore, hx⟩
        cases before with
        | nil =>
          obtain ⟨rfl, -⟩ := List.cons.inj hsplit
          exact Option.some.inj (hg.symm.trans hx)
        | cons y before =>
          obtain ⟨rfl, -⟩ := List.cons.inj hsplit
          rw [hbefore _ List.mem_cons_self] at hg
          cases hg
    | none =>
      have htail : checkGraphs (g :: gs) = .error n ↔ checkGraphs gs = .error n := by
        rw [checkGraphs_cons_none g gs hg]
        cases checkGraphs gs <;> simp [Except.map]
      rw [htail, ih]
      constructor
      · rintro ⟨before, x, after, rfl, hbefore, hx⟩
        exact ⟨g :: before, x, after, rfl, List.forall_mem_cons.mpr ⟨hg, hbefore⟩, hx⟩
      · rintro ⟨before, x, after, hsplit, hbefore, hx⟩
        cases before with
        | nil =>
          obtain ⟨rfl, -⟩ := List.cons.inj hsplit
          rw [hx] at hg
          cases hg
        | cons y before =>
          obtain ⟨rfl, rfl⟩ := List.cons.inj hsplit
          exact ⟨before, x, after, rfl, (List.forall_mem_cons.mp hbefore).2, hx⟩

theorem assemblesWhole : AssemblesWhole := by
  intro src outs
  rw [assemble]
  cases parseLines (sourceLines src) with
  | error n => simp
  | ok gs =>
    simp only [checkGraphs_ok, Except.ok.injEq, exists_eq_left']
    rfl

theorem firstErrorIsReported : FirstErrorIsReported := by
  intro src n
  rw [assemble]
  cases parseLines (sourceLines src) with
  | error k => simp
  | ok gs => simp only [checkGraphs_error, Except.ok.injEq, reduceCtorEq, false_or]

/-- The pieces of a source are those of its lines without their comments. -/
theorem sourceLines_eq (src : List Char) : sourceLines src = ((linesOf src).map uncomment).map (lexFrom []) := by
  rw [sourceLines, List.map_map]
  rfl

theorem commentsDoNotCount : CommentsDoNotCount := by
  intro a b h
  rw [assemble, assemble, sourceLines_eq, sourceLines_eq, h]

/-! ### What a graph without a bad line passes -/

/-- Step 2 of an element without a report passes each of its slots (R109). -/
theorem slotOk_of_step2 {x : ImageRec} {walker : Bool} {e : Nat} {el : ElemRec} (h : x.step2 walker e el = none) (k : Fin 32) :
    (x.slotCtx walker e el).slotOk (el.slots.get k) = true := by
  rw [ImageRec.step2] at h
  split at h
  · cases h
  · rw [Option.map_eq_none_iff, List.find?_eq_none] at h
    simpa using h k (List.mem_finRange k)

/-- A valid slot that passes holds an instruction of the element's kind with operands that fit (R109). -/
theorem instr_of_slotOk {x : SlotCtx} {s : Slot} {i : Instr} (h : x.slotOk s = true) (hv : validOf s.trig = true)
    (hi : decode s.act = .ok i) : kindOk i.info.kinds x.el.kind x.walker = true ∧ instrOk i = true := by
  rw [SlotCtx.slotOk, hv, hi] at h
  simp only [Bool.not_true, Bool.false_or, Bool.and_eq_true] at h
  obtain ⟨⟨⟨⟨⟨⟨⟨hkind, -⟩, hinstr⟩, -⟩, -⟩, -⟩, -⟩, -⟩ := h
  exact ⟨hkind, hinstr⟩

/-- Outside the page-walk graph no instruction of it passes (R108). -/
theorem not_walker {u : KindSet} {kind : ElemKind} (h : kindOk u kind false = true) : u ≠ .walker := by
  rintro rfl
  cases h

/-- The initial tokens of an edge without a report fit it (R31, R72). -/
theorem edge_of_edgeLine4 {g : AsmGraph} (h : g.edgeLine4? = none) {d : AsmEdge} (hd : d ∈ g.edges) :
    (g.edgeOf d).init.length ≤ (g.edgeOf d).cap ∧
      ∀ t ∈ (g.edgeOf d).init, t.kind = .data → usedTag g.table t.tag = true ∧ (g.edgeOf d).tags.getLsbD t.tag.toNat = true := by
  have hline := (firstLine_eq_none _).mp h
  have hof (x : Nat × Bool) (hx : x ∈ ((g.inits.filter fun t => t.num == d.num).drop (g.edgeOf d).cap).map (fun t => (t.line, false))
      ++ (g.inits.filter fun t => t.num == d.num).map fun t => (t.line, t.tok.kind != .data ||
        (usedTag g.table t.tok.tag && (g.edgeOf d).tags.getLsbD t.tok.tag.toNat))) : x.2 = true :=
    hline x (List.mem_flatMap.mpr ⟨d, hd, hx⟩)
  constructor
  · have hempty : (g.inits.filter fun t => t.num == d.num).drop (g.edgeOf d).cap = [] := by
      rw [List.eq_nil_iff_forall_not_mem]
      intro t ht
      exact absurd (hof (t.line, false) (List.mem_append_left _ (List.mem_map.mpr ⟨t, ht, rfl⟩))) Bool.false_ne_true
    have hlength : (g.edgeOf d).init.length = (g.inits.filter fun t => t.num == d.num).length := List.length_map _
    rw [hlength]
    exact List.drop_eq_nil_iff.mp hempty
  · intro t ht hkind
    obtain ⟨y, hy, rfl⟩ := List.mem_map.mp ht
    have hok := hof _ (List.mem_append_right _ (List.mem_map.mpr ⟨y, hy, rfl⟩))
    simpa [hkind] using hok

theorem acceptedGraphsPass : AcceptedGraphsPass := by
  intro g h
  obtain ⟨-, hslot, hedge, -⟩ := (badLine_eq_none g).mp h
  obtain ⟨hformat, hstep2, hstep3⟩ := (slotErr_eq_none g).mp hslot
  refine ⟨hformat, hstep3, fun e el he => ?_, fun d hd => ?_⟩
  · have hel : g.graph.step2 false e el = none :=
      List.findSome?_eq_none_iff.mp hstep2 (el, e) (List.mem_zipIdx_iff_getElem?.mpr he)
    refine ⟨hel, fun k i hv hi => ?_⟩
    obtain ⟨hkind, hinstr⟩ := instr_of_slotOk (slotOk_of_step2 hel k) hv hi
    exact ⟨not_walker hkind, hinstr⟩
  · obtain ⟨x, hx, rfl⟩ := List.mem_map.mp hd
    exact edge_of_edgeLine4 hedge hx

end Sys2Proof.Proofs.Assembling

namespace Sys2Proof.Proofs

open Assembling

/-- Settles O60, by induction on the graphs of the source. -/
theorem forasAssembles : Obligations.ForasAssembles :=
  ⟨assemblesWhole, firstErrorIsReported, commentsDoNotCount, acceptedGraphsPass⟩

end Sys2Proof.Proofs
end
